-- ==== Sys2Proof/Word.lean ====
section
/-! DEFINITION. The word types of the UZ32 and their plainest arithmetic: bit fields (R5), saturating
counters (R412), byte order (R5) and element updates of banks. -/

namespace Sys2Proof

abbrev Byte := BitVec 8
abbrev Word := BitVec 32
abbrev Dword := BitVec 64
/-- One aligned 64-byte beat; byte i is bits 8i+7..8i. -/
abbrev BeatBits := BitVec 512
/-- One 4,096-byte sector; byte i is bits 8i+7..8i. -/
abbrev SectorBits := BitVec 32768

/-- Bits `lo + n - 1 .. lo` of a word, as a word of `n` bits (R5). -/
abbrev fld {w : Nat} (x : BitVec w) (lo n : Nat) : BitVec n := x.extractLsb' lo n

/-- Bit `i` of a word. -/
abbrev bit {w : Nat} (x : BitVec w) (i : Nat) : Bool := x.getLsbD i

/-- A truth value as one bit. -/
abbrev b1 (b : Bool) : BitVec 1 := BitVec.ofBool b

/-- `v` placed at bit `lo` of a 32-bit register image. -/
def at32 {n : Nat} (v : BitVec n) (lo : Nat) : Word := (v.zeroExtend 32) <<< lo

/-- A counter of `w` bits that saturates at all ones (R412). -/
def satAdd {w : Nat} (x : BitVec w) (n : Nat) : BitVec w :=
  if x.toNat + n ≥ 2 ^ w then BitVec.allOnes w else BitVec.ofNat w (x.toNat + n)

/-- A natural number saturated into `w` bits. -/
def satNat (w n : Nat) : BitVec w := if n ≥ 2 ^ w then BitVec.allOnes w else BitVec.ofNat w n

/-- `n` divided by `d`, rounded up. -/
def ceilDiv (n d : Nat) : Nat := (n + d - 1) / d

/-- Set or clear bit `i`. -/
def setBit {w : Nat} (x : BitVec w) (i : Nat) (b : Bool) : BitVec w :=
  if b then x ||| BitVec.ofNat w (2 ^ i) else x &&& ~~~ BitVec.ofNat w (2 ^ i)

/-- The number of ones. -/
def popCount {w : Nat} (x : BitVec w) : Nat := ((List.range w).filter (fun i => x.getLsbD i)).length

/-- One element of a bank rewritten. -/
def modAt {α : Type} {n : Nat} (v : Vector α n) (i : Fin n) (f : α → α) : Vector α n := v.set i (f v[i])

/-- Every element of a bank rewritten, with its index. -/
def mapBank {α : Type} {n : Nat} (f : Nat → α → α) (v : Vector α n) : Vector α n :=
  ⟨⟨v.toList.mapIdx f⟩, by simp⟩

/-- An index into a bank of `n + 1` elements from a number; numbers past the end name the last one. -/
def ix (n k : Nat) : Fin (n + 1) := if h : k < n + 1 then ⟨k, h⟩ else ⟨n, Nat.lt_succ_self n⟩

/-- The bytes of a word, lowest first (little-endian, R5). -/
def bytesLE {w : Nat} (n : Nat) (x : BitVec w) : List Byte := (List.range n).map (fun i => fld x (8 * i) 8)

/-- The bytes of a word, highest first (big-endian, R5). -/
def bytesBE {w : Nat} (n : Nat) (x : BitVec w) : List Byte := (bytesLE n x).reverse

/-- A number from bytes, lowest first. -/
def natLE : List Byte → Nat
  | [] => 0
  | b :: bs => b.toNat + 256 * natLE bs

end Sys2Proof
end

