-- ==== Sys2Proof/Syntax.lean ====
section
/-! DEFINITION. The commands of the block: one constructor of `Instr` per row of the opcode table, and
the types of their operands. What reaches the part from outside (bytes a read returns, a packet, a
measurement, the Keep's verdict) is an operand of the command that brings it. -/

namespace Sys2Proof

abbrev Ring := Fin 16
abbrev Cairn := Fin 128
abbrev Wheel := Fin 64
abbrev Crag := Fin 32
abbrev Eng := Fin 4
abbrev Lane := Fin 16
abbrev Ctx := Fin 16
abbrev KSlot := Fin 32
abbrev Peer := Fin 4
abbrev Tenant := Fin 8
abbrev PPort := Fin 2
abbrev Req := Fin 64
abbrev Res := Fin 7
abbrev Win := Fin 64
abbrev Vec := Fin 18
abbrev MapId := Fin 16

/-- Causes of a failed access (R99, Table 5-9). -/
inductive Cause where
  | noAccess | notPresent | atsFail | window | noPasid | link | timeout
  deriving DecidableEq, Repr

/-- One 64-byte beat as a read of host or peer memory returns it: data, or the cause of its failure. -/
inductive Got where
  | ok (b : BeatBits)
  | bad (c : Cause)
  deriving DecidableEq, Repr

/-- A 4,096-byte sector with one poison mark per 64-byte beat (R173, R307). -/
structure Sec where
  data : SectorBits := 0
  psn : BitVec 64 := 0
  deriving DecidableEq, Repr

/-- Wait modes of a unit (R157). -/
inductive WaitMode where
  | sleep | headStall
  deriving DecidableEq, Repr

/-- The units that signal and wait on their own (R152, R157). -/
inductive SigUnit where
  | crag (n : Crag)
  | rowan (e : Eng)
  | lane (l : Lane)
  deriving DecidableEq, Repr

/-- The units the Keep can claim (R351). -/
inductive KeepUnit where
  | crag (n : Crag)
  | lane (l : Lane)
  | slot (k : KSlot)
  deriving DecidableEq, Repr

/-- Completion-ring set-up registers (Table 6-8). -/
inductive CplReg where
  | baseLo | baseHi | depth
  deriving DecidableEq, Repr

/-- The fields whose writes R64 and R74 decide: the bit-stream may leave them open. -/
inductive FieldId where
  | depth (w : Wheel) | pfTags (w : Wheel)
  | stepCeil | placeEn
  | wmode (r : Ring) | amode (r : Ring) | tagCap (r : Ring) | stallMs (r : Ring)
  | suspend (n : Crag) | scanOp (n : Crag)
  | amount (q : Req) (k : Res) | weight (q : Req) (k : Res)
  | descBase (i : Nat) | descRot (i : Nat)
  | srCtl (l : Lane)
  deriving DecidableEq, Repr

/-! ### The parsed contents of a .gsb container (Table 4-2) -/

/-- Taps a snoop may attach to (Table 12-2). -/
inductive Tap where
  | wheel (w : Wheel) | rowan (e : Eng) | packed | hostLink (r : Ring) | pairTx | pairRx | vaultRead
  deriving DecidableEq, Repr

/-- Keyed modes (Table 20-2, H). -/
inductive Keyed where
  | unkeyed | composed | cached (k : KSlot)
  deriving DecidableEq, Repr

/-- Digest algorithms, encoded as ALG of Table 6-5. -/
inductive Alg where
  | sha256 | sha384 | sha512
  deriving DecidableEq, Repr

/-- Where a snoop's declared length comes from (R227). -/
inductive Declared where
  | none
  | fixed (n : Nat)
  | command
  deriving DecidableEq, Repr

/-- A snoop (R227). `seg` is SEG_LEN, none for WHOLE. -/
structure Snoop where
  tap : Tap
  alg : Alg := .sha256
  compare : Bool := false
  keyed : Keyed := .unkeyed
  seg : Option Nat := none
  declared : Declared := .none
  fixedAlg : Bool := true
  expect : Option (BitVec 512) := none
  leaf : Bool := false
  resumable : Bool := false
  deriving DecidableEq, Repr

/-- A lane's role (R226). -/
inductive LaneRole where
  | idle | snoop | command
  deriving DecidableEq, Repr

structure LaneSec where
  lane : Lane
  role : LaneRole := .idle
  snoops : List Snoop := []
  deriving DecidableEq, Repr

structure TenantSec where
  tenant : Tenant
  rings : BitVec 16 := 0
  cairns : BitVec 128 := 0
  crags : BitVec 32 := 0
  wheels : BitVec 64 := 0
  lanes : BitVec 16 := 0
  kslots : BitVec 32 := 0
  extBase : Nat := 0
  extLen : Nat := 0
  unlock : BitVec 16 := 0
  deriving DecidableEq, Repr

/-- A Rowan descriptor (Table 11-3); extents and strides list NDIM entries. -/
structure Desc where
  base : Nat := 0
  space : Fin 4 := 1
  esize : Fin 4 := 2
  ext : List Nat := [1]
  stride : List Int := [4]
  rev : Bool := false
  rot : Nat := 0
  xdim : Option Nat := none
  gdim : Option Nat := none
  isize : Fin 4 := 2
  isrc : Fin 3 := 0
  bound : Nat := 0
  ibase : Nat := 0
  deriving DecidableEq, Repr

/-- A side of a PE, and the crag port there: 0 north, 1 east, 2 south, 3 west (R185). -/
abbrev Dir := Fin 4

abbrev Pe := Fin 64

/-- An operand of a PE instruction: a register, or the head of an input queue (R187). -/
inductive PeSrc where
  | reg (i : Fin 16)
  | queue (d : Dir)
  deriving DecidableEq, Repr

/-- What a PE computes from up to three operands (R189): FMAs, integer, bit-field and compare operations, casts. -/
inductive PeAlu where
  | fma | fmaBf16
  | add | sub | mul | and_ | or_ | xor_ | shl | shr | sar
  | extract (lo n : Nat) | insert (lo n : Nat)
  | eq | ltS | ltU | feq | flt | fle
  | select | mov | const (v : Word)
  | toBf16 | toFp32
  deriving DecidableEq, Repr

/-- A PE operation. Loads and stores address crag store by a word operand; an accumulator entry is named by the
instruction (R190, R191). `accStore` runs the crag's store path into a port (R221). `branch` steers by the token it pops
(R194): to `onEnd` for END and ABORT, to `onCont` for CONT of value 1, else on. -/
inductive PeOp where
  | alu (f : PeAlu)
  | load (off : Nat)
  | store (off : Nat)
  | accumulate (e : Fin 4096)
  | accRead (e : Fin 4096)
  | accStore (d : Desc) (port : Dir)
  | setCounter (k : Fin 4)
  | loop (k : Fin 4) (back : Nat)
  | token (iter : Bool)
  | branch (onEnd onCont : Nat)
  deriving DecidableEq, Repr

/-- A PE instruction: operation, operands, destination register and outgoing links, and the register that predicates
it. -/
structure PeInstr where
  op : PeOp
  args : List PeSrc := []
  reg : Option (Fin 16) := none
  links : List Dir := []
  pred : Option (Fin 16) := none
  deriving DecidableEq, Repr

/-- The program of one PE: its loop form (R193, R194), body, the counter values and bounds the bit-stream gives, and for
a PREDICATED PE the queues whose END ends its layer and the links it sends END on. -/
structure PeProg where
  pe : Pe
  token : Bool := false
  body : List PeInstr := []
  counters : List Nat := []
  bounds : List Nat := []
  endFrom : List Dir := []
  endTo : List Dir := []
  deriving DecidableEq, Repr

/-- A route's passage through a PE (ROUTES, R188): what arrives on its link from side `src` leaves on side `out`. -/
structure RouteSec where
  prog : Nat
  pe : Pe
  src : Dir
  out : Dir
  deriving DecidableEq, Repr

/-- One program (PROGRAMS). `kind` names what commands need it: packing, unpacking, casting, or other. -/
inductive ProgKind where
  | pack | unpack | cast | other
  deriving DecidableEq, Repr

structure ProgSec where
  crag : Crag
  kind : ProgKind := .other
  optimiser : Bool := false
  /-- The requester SERVICE lists for it, where no command drives its streams (R339). -/
  req : Option Req := none
  size : Nat := 0
  initial : List Host.Cell := []
  /-- The PE programs of the image, in gensar's internal encoding (DESIGN CHOICE, LOG 11). -/
  pes : List PeProg := []
  deriving DecidableEq, Repr

structure WheelSec where
  wheel : Wheel
  output : Bool := false
  crag : Crag := 0
  port : Fin 4 := 0
  depth : Nat := 3
  pfTags : Nat := 8
  orc : Bool := false
  deriving DecidableEq, Repr

/-- What generates a stream's addresses (9.2): the bit-stream itself, the range a command names, or a Rowan
descriptor, whose engine fills or drains the wheel. -/
inductive StreamGen where
  | fixed | command | rowan
  deriving DecidableEq, Repr

/-- One stream of a wheel (STREAMS): its address generator and end mode (R182, R183). -/
structure StreamSec where
  wheel : Wheel
  gen : StreamGen := .fixed
  ring : Ring := 0
  staging : Bool := false
  addr : Nat := 0
  beats : Nat := 1
  drain : Bool := false
  consumed : Bool := true
  deriving DecidableEq, Repr

/-- Element types of a tensor (Table 13-2). -/
inductive DType where
  | fp32 | bf16 | int32
  deriving DecidableEq, Repr

structure TensorSec where
  id : Dword := 0
  dtype : DType := .fp32
  ext : List Nat := [1]
  segFirst : Nat := 0
  segCount : Nat := 1
  deriving DecidableEq, Repr

/-- A canonical box of a tensor's segment and its layout in one slot. -/
structure PieceSec where
  tensor : Nat := 0
  lo : List Nat := [0]
  bext : List Nat := [1]
  slot : Nat := 0
  offset : Nat := 0
  strides : List Nat := [4]
  deriving DecidableEq, Repr

structure RangeSec where
  slot : Nat := 0
  offset : Nat := 0
  len : Nat := 4096
  deriving DecidableEq, Repr

/-- A shard map (R252). `stagingBases` is none for ACCEL placement. -/
structure MapSec where
  id : MapId := 0
  tenant : Tenant := 0
  slots : Nat := 1
  slotBytes : Nat := 4096
  stagingBases : Option (List Nat) := none
  tensors : List TensorSec := []
  pieces : List PieceSec := []
  ranges : List RangeSec := []
  deriving DecidableEq, Repr

/-- Service classes (R340). -/
inductive Cls where
  | guaranteed | elastic | background
  deriving DecidableEq, Repr

structure SvcSec where
  req : Req
  res : Res
  cls : Cls := .elastic
  amount : Nat := 0
  weight : Nat := 1
  deriving DecidableEq, Repr

structure OpenSec where
  field : FieldId
  lo : Nat := 0
  hi : Nat := 0
  deriving DecidableEq, Repr

/-- One value of SETTINGS; `fixed` says the OPEN section marks it fixed (R64). -/
structure SettingSec where
  field : FieldId
  value : Nat := 0
  fixed : Bool := false
  deriving DecidableEq, Repr

/-- A transfer the bit-stream defines (R210). -/
structure XferSec where
  ring : Ring := 0
  rd : Desc := {}
  wd : Desc := {}
  wait : Option (Cairn × Word × WaitMode) := none
  signal : Option (Cairn × Word) := none
  deriving DecidableEq, Repr

structure LimitsSec where
  minStep : Nat := 2
  level : Nat := 1
  resident : Bool := false
  imgAlg : Alg := .sha384
  cairnInit : List (Cairn × Word) := []
  tables : List (List Nat) := []
  deriving DecidableEq, Repr

/-- The meaning of the sections of one container. Table 4-2 gives what each section holds and no
encoding of the bodies, so the contents are an operand of LOAD_BITSTREAM. -/
structure Sections where
  limits : LimitsSec := {}
  tenants : List TenantSec := []
  keepCrags : BitVec 32 := 0
  keepLanes : BitVec 16 := 0
  keepSlots : BitVec 32 := 0
  lanes : List LaneSec := []
  programs : List ProgSec := []
  routes : List RouteSec := []
  wheels : List WheelSec := []
  maps : List MapSec := []
  service : List SvcSec := []
  buddyReq : Option Req := none
  streams : List StreamSec := []
  opens : List OpenSec := []
  settings : List SettingSec := []
  xfers : List XferSec := []
  indexTables : List (List Nat) := []
  binding : BitVec 384 := 0
  totals : List Nat := []
  external : List (Nat × Nat) := []
  deriving DecidableEq, Repr

/-- What the bytes of a container say where the spec gives their encoding elsewhere: the contents its sections spell, the
Keep's verdicts on certificate and signature, and the crags whose program load fails after its retry (LOG 10). -/
structure Gsb where
  contents : Sections := {}
  certOk : Bool := true
  sigOk : Bool := true
  loadFails : List Crag := []
  deriving DecidableEq, Repr

/-! ### Operands of the other rows -/

/-- A reply of the translation agent (R94, R95): the size of the translated region that holds the page asked for, the
translated address of its start, and the access kinds granted. -/
inductive AtsReply where
  | grant (log2 xaddr : Nat) (read write : Bool)
  | notPresent
  | fail
  deriving DecidableEq, Repr

/-- What a drain takes a program unit from (R299). -/
inductive Source where
  | ring (r : Ring)
  | image (t : Tenant) (img : Word)
  | copy (e : Peer) (step : Dword)
  deriving DecidableEq, Repr

/-- How the program of one sector ended (R306). -/
inductive ProgRes where
  | ok | okAfterRetry | failed
  deriving DecidableEq, Repr

/-- How a sector read of the NAND ended (R305). -/
inductive ReadRes where
  | clean | retried | unreadable
  deriving DecidableEq, Repr

/-- What the patrol scrub finds in a beat (R297). -/
inductive ScrubRes where
  | clean | corrected | uncorrectable
  deriving DecidableEq, Repr

/-- Where the patrol scrub reads: a staging offset ÷ 64, or a pool beat by physical address ÷ 64. -/
inductive ScrubAt where
  | offset (beat : Nat)
  | pool (beat : Nat)
  deriving DecidableEq, Repr

/-- What failed inside a unit (R381, R382): the unit's logic, or stored data at an address. -/
inductive FaultAt where
  | logic
  | stagingBeat (beat : Nat)
  | cragWord (word : Nat)
  | channel (n : Fin 8)
  | onfi (n : Fin 16)
  | steward
  deriving DecidableEq, Repr

/-- Outcome of a placement move (R205). -/
inductive MoveRes where
  | ok | destinationFails | sourceFails
  deriving DecidableEq, Repr

/-- Reasons of a placement move (R41, R206, R368); heat with what the sensors of source and destination read, and how long
the source has been above 100 °C, in ms. -/
inductive MoveWhy where
  | errors
  | heat (srcC dstC : Byte) (ms : Nat)
  | offline
  deriving DecidableEq, Repr

/-- Measurements behind CAP_EFF (no power model is given): which settings meet the cap. -/
structure PowerMeas where
  meets16 : Bool := true
  meets08 : Bool := true
  meets04 : Bool := true
  meetsHalf : Bool := true
  deriving DecidableEq, Repr

/-- The header fields of a received Pair Protocol packet (Table 16-5), with the port and the source IP address it
arrived from. TYPE, PLEN and the payload are those of the row that brings the packet. -/
structure PairRx where
  port : PPort := 0
  srcAddr : BitVec 128 := 0
  magic : BitVec 16 := 0x5A50
  ver : Byte := 1
  srcId : Dword := 0
  session : Word := 0
  psn : Word := 0
  doze : Bool := false
  cumAck : Word := 0
  crc : Word := 0
  deriving DecidableEq, Repr

/-- One record of HELLO: a copy its sender holds for the receiver (Table 16-6). -/
structure HoldRec where
  step : Dword := 0
  img : Word := 0
  drained : Bool := false
  tainted : Bool := false
  total : Nat := 0
  deriving DecidableEq, Repr

/-- Neighbour messages (R315). -/
inductive Neighbour where
  | arpRequest (ip : Word) (askerIp : Word) (mac : BitVec 48)
  | arpReply (ip : Word) (mac : BitVec 48)
  | ndSolicit (ip : BitVec 128) (askerIp : BitVec 128) (mac : BitVec 48)
  | ndAdvert (ip : BitVec 128) (mac : BitVec 48)
  deriving DecidableEq, Repr

/-- Supplies of Table 2-6. -/
inductive Supply where
  | main | aux
  deriving DecidableEq, Repr

/-- 12V-2x6 indications (Table 2-2). -/
inductive AuxInd where
  | w600 | w450 | w300 | w150 | absent
  deriving DecidableEq, Repr

/-- The reset pins of R43. -/
inductive PerstPin where
  | edge | sideband
  deriving DecidableEq, Repr

/-- Options of Table 5-2 that capability structures show a host. -/
inductive PcieOption where
  | maxPayload | tagWidth | pasidWidth | executePerm | privilegedMode | atsQueueDepth | atsUnit | pri | srIov | aer
  | timeoutRanges | timeoutDisable | aspmL0s | aspmL1 | l1Substates | l0p | dllReporting | surpriseDown | msi | interruptPin
  | msixVectors | bar2Sizes | unlisted
  deriving DecidableEq, Repr

/-- What a configuration request changes or reads (R79, R82, R89). `other` is a request to an unsupported
function or option, answered as an Unsupported Request (0.1.1). -/
inductive CfgReq where
  | read (reg : Nat)
  | option (o : PcieOption)
  | bar2Resize (log2GiB : Nat)
  | msixEnable (on mask : Bool)
  | msixVector (v : Vec) (addr : Dword) (data : Word) (mask : Bool)
  | atsEnable (on : Bool)
  | pasidEnable (on : Bool)
  | maxReadRequest (bytes : Nat)
  | timeoutRange (r : Nat)
  | other
  deriving DecidableEq, Repr

/-- Readings a PLDM sensor request names (R362). -/
inductive Sensor where
  | inletTemp | supplyMain | supplyAux | powerState | auxPower | unitState (u : Nat) | viewState | other
  deriving DecidableEq, Repr

/-- Facts of bring-up that the environment decides. -/
structure BootIn where
  frstLow : Bool := false
  slotAOk : Bool := true
  slotBOk : Bool := true
  chFail : BitVec 8 := 0
  /-- Record slots of the retained store whose CRC-32C fails (R52). -/
  badRecords : BitVec 12 := 0
  journalLost : Bool := false
  bankmJ : Nat := 1725
  deriving DecidableEq, Repr

/-- The commands. One constructor per row of the opcode table, in its order. -/
inductive Instr where
  | trbGo (r : Ring) (v : Word)
  | writeSectors (r : Ring)
  | readSectors (r : Ring)
  | flush (r : Ring)
  | fence (r : Ring)
  | signal (r : Ring)
  | wait (r : Ring)
  | snapBegin (r : Ring)
  | snapRange (r : Ring)
  | snapSeal (r : Ring)
  | imageDurable (t : Tenant) (img : Word)
  | restore (r : Ring)
  | reshard (r : Ring)
  | digestVerify (r : Ring)
  | pairSync (r : Ring)
  | pairTakeover (r : Ring)
  | abortTag (r : Ring)
  | loadBitstream (r : Ring) (g : Gsb)
  | sanitise (r : Ring)
  | format (r : Ring)
  | adminQuery (r : Ring)
  | completionEntryWrite (r : Ring)
  | cplHeadWrite (r : Ring) (v : Word)
  | cplRingSetup (r : Ring) (reg : CplReg) (v : Word)
  | cplRingSetupTakesEffect (r : Ring)
  | ringReset (r : Ring)
  | ringResetEnd (r : Ring)
  | deferHeadWrite (r : Ring) (v : Word)
  | evtHeadWrite (v : Word)
  | readToClear (off size : Nat)
  | registerWrite (off size : Nat) (v : BitVec 512)
  | expertWriteTakesEffect (f : FieldId)
  | bar0Badacc (write : Bool) (off size : Nat)
  | expertArm (t : Tenant) (v : BitVec 16)
  | expertUnlock (t : Tenant) (v : BitVec 16)
  | expertLock (t : Tenant) (v : BitVec 16)
  | expertArmExpire
  | stateReqNap
  | stateReqActive
  | stateReqAuto
  | napEntry
  | idleEntry
  | factoryResetCommand (v : Word)
  | retainedCommit
  | stagingWindowWrite (w : Win) (k : Fin 4) (v : Word)
  | bar2Read (rid : BitVec 16) (host : Bool) (addr len : Nat) (ue : List Nat)
  | bar2Write (rid : BitVec 16) (host : Bool) (addr : Nat) (data : List Byte) (ep : Bool)
  | pageCopy (page : Nat) (fail : Bool)
  | signalPageAdd (t : Tenant) (off size : Nat) (v : Word)
  | unitSignal (u : SigUnit) (c : Cairn) (add : Word)
  | unitWait (u : SigUnit) (c : Cairn) (target : Word) (m : WaitMode)
  | cairnPublication (c : Cairn)
  | orcInv (mask : BitVec 8)
  | orcInvDone (t : Tenant)
  | readCompletion (tag : Nat) (got : List Got)
  | completionTimeout (tag : Nat)
  | atsTranslationCompletion (req : Nat) (a : AtsReply)
  | atsInvalidation (pasid : Option (BitVec 20)) (addr len : Nat)
  | linkRetrain (rate width : BitVec 4) (flit : Bool) (tagw : BitVec 2)
  | capacityChange (onfi : BitVec 16) (derated : Bool)
  | breachEnd (k : Res)
  | svcEntWrite (q : Req) (k : Res) (v : Word)
  | drainRelease (w : Wheel)
  | rowanTransfer (e : Eng)
  | sloeDigestComplete (l : Lane) (c : Ctx) (glitch : Option (Bool × Bool)) (selfTestOk : Bool)
  | sectorProgrammed (u : Nat) (res : List ProgRes)
  | programUnitStart (src : Source)
  | vaultOpUnitDone (retired : Nat)
  | vaultOpDone
  | backgroundErase (blocks : Nat)
  | patrolScrub (a : ScrubAt) (res : ScrubRes)
  | internalFault (u : BitVec 8) (at_ : FaultAt) (retryOk : Bool)
  | placementMove (src dst : Crag) (why : MoveWhy) (res : MoveRes)
  | clkStepChange
  | dvfsEval (m : PowerMeas)
  | avsAdjust (mv : Nat)
  | suspend (n : Crag) (on : Bool)
  | scanOut (n : Crag)
  | scanIn (n : Crag)
  | scanComplete (n : Crag) (fault raced progBad : Bool)
  | clkGate (n : Crag) (on : Bool)
  | pwrGate (n : Crag) (on : Bool)
  | laneGate (v : Word)
  | slotGate (v : Word)
  | keepClaimRelease (u : KeepUnit) (readBackFails : Nat)
  | keepHoldRefused (u : KeepUnit)
  | srSave (l : Lane) (c : Ctx)
  | srRestore (l : Lane) (c : Ctx)
  | wdtToken (v : Word)
  | wdtWarn
  | watchdogExpiry
  | stall (r : Ring)
  | trialConfirm
  | auxPowerUp (maddr : BitVec 3)
  | resetRelease (b : BootIn)
  | rdy
  | perstAssert (p : PerstPin)
  | hotReset
  | flr
  | mainPowerFail
  | surpriseRemoval
  | holdUpSequence (zeroVerified journalKept : Bool)
  | pmeTurnOff
  | pwrbrkNAssert
  | pwrbrkNDeassert
  | thermalThreshold (degC : Nat)
  | supplyRange (which : Supply) (mv : Int)
  | clkFail
  | holdupBankCheck (mJ : Nat)
  | rbNAttentionPulse
  | rbNPulseRepeat
  | rbNBusyEnd
  | msixRepeat (v : Vec)
  | msixUnmask (v : Vec)
  | pairPortUp (p : PPort)
  | pairPortDown (p : PPort)
  | peerEntryWrite (e : Peer) (word : Nat) (v : Word)
  | hello (x : PairRx) (nonce epoch : Word) (holds : List HoldRec)
  | helloAck (x : PairRx) (nonce epoch : Word) (holds : List HoldRec)
  | heartbeat (x : PairRx)
  | bye (x : PairRx) (drained : List Dword)
  | ack (x : PairRx) (base : Word) (got : BitVec 512)
  | offer (x : PairRx) (xfer img : Word) (step : Dword) (total : Nat) (alg : Alg) (kind : Bool) (root : BitVec 512)
  | accept (x : PairRx) (xfer : Word)
  | refuse (x : PairRx) (xfer : Word) (reason : Byte)
  | data (x : PairRx) (xfer : Word) (sector : Nat) (secs : List Sec)
  | held (x : PairRx) (xfer : Word) (tainted : Bool) (step : Dword)
  | resend (x : PairRx) (xfer : Word) (sector count : Nat)
  | pairSignalReceive (x : PairRx) (cairn : Byte) (add : Word) (seq : Dword)
  | sigAck (x : PairRx) (seq : Dword) (status : Byte)
  | fetch (x : PairRx) (xfer : Word) (owner step : Dword)
  | frameDropped (e : Option Peer)
  | neighbourMessage (p : PPort) (m : Neighbour)
  | icmpEcho (p : PPort) (v6 : Bool) (src dst : BitVec 128) (payload : List Byte)
  | pairTransmit (e : Peer)
  | pairSignalForward (e : Peer)
  | ackTimer (e : Peer)
  | retransmitTimer (e : Peer) (psn : Word)
  | heartbeatTimer (e : Peer)
  | helloTimer (e : Peer)
  | pairLost (e : Peer)
  | pairSessionTimeout (e : Peer)
  | setEndpointId (eid : Byte)
  | i3cDynamicAddress (a : BitVec 7)
  | rstdaa
  | pldmBaseRequest (cmd : Byte)
  | fruDataRequest (cmd : Byte)
  | getPdr (handle : Word)
  | sensorReading (k : Sensor)
  | setPowerCap (watts : Nat)
  | unitOffline (u : Nat)
  | unitOnline (u : Nat)
  | setEventReceiver (on : Bool)
  | pollForPlatformEventMessage
  | requestUpdate
  | firmwareUpdateData (off : Nat) (bytes : List Byte)
  | verifyComplete (sigOk : Bool) (svn : BitVec 16) (ver : Word)
  | activateFirmware
  | spdmSecuredSession (mutualOk certOk usageOk : Bool)
  | keyLoad (slot alg tenant : Nat) (label : BitVec 16) (key : List Byte)
  | keyZero (slot : Nat) (readBackFails : Nat)
  | keyList
  | viewAck (gen : BitVec 16)
  | viewSkew
  | tapIdcode
  | tapSamplePreload
  | tapExtest (boundary : Word)
  | tapBypass (code : Byte)
  | dbgRead (space : Fin 3) (addr : Nat)
  | dbgWrite (space : Fin 3) (addr : Nat) (v : Word)
  | dbgNop
  | dbgAuth
  | dbgAuthComplete (certOk sigOk : Bool)
  | dbgEnd
  | liveRead (on : Bool)
  | halt
  | stewardHalted
  | haltForced (held : BitVec 6) (r : Ring)
  | resume
  | configurationRequest (q : CfgReq)
  | linkMargin (which : Fin 3)
  | mainPowerReturn
  | auxConnectorSense (a : AuxInd)
  | vaultReadDone (lba : Nat) (res : ReadRes)
  deriving DecidableEq, Repr

end Sys2Proof
end

