-- ==== Sys2Proof/Decode.lean ====
section
/-! DEFINITION. The command a word spells by the opcode table's bits. The table gives no row any bits
(every "fields" list is empty), so no word spells a command. -/

namespace Sys2Proof

/-- The command of a table word: none, since no row of the table has bits. -/
def decodeTableWord (_nbits _w : Nat) : Option Instr := none

end Sys2Proof
end

