-- ==== Sys2Proof/Config.lean ====
section
/-! DEFINITION. What the spec leaves free: values no rule fixes, as constants without a body, and the
module's own values that the log names (DESIGN CHOICE: LOG 4, 6, 12, 13). -/

namespace Sys2Proof.Config

/-- The n-th random draw of the machine (NONCE R76, WDT_CHALLENGE R370, WDT_SALT R371, DBG_NONCE R399,
session nonces R319). -/
opaque freeWord : Nat → Word

/-- The data bytes of the n-th poisoned beat, which R173 calls undefined. -/
opaque freeBeat : Nat → BeatBits

/-- The data of an unreadable or poisoned Vault sector at a read, which R173 and R305 leave undefined: the draw, and the
LBA. -/
opaque freeSector : Nat → Nat → SectorBits

/-- Byte `k` of crag store and accumulators left undefined by the n-th exit from NAP (R29). -/
opaque freeByte : Nat → Nat → Byte

/-- Whether word `k` of a fenced crag cannot be read at its capture, in the n-th draw (R206). -/
opaque freeLost : Nat → Nat → Bool

/-- The ONFI channel a program unit's programs use, which no rule gives (R299, Table 19-3). -/
opaque freeOnfi : Nat → Nat

/-- The array rail's target for a CLK_ARRAY step, in 5 mV units, which no rule gives (R38, Table 2-13). -/
opaque stepRail : BitVec 2 → Nat

/-- Replies of the management endpoint whose contents the referenced standards, not this spec, give
(R360, R362). -/
opaque freeReply : Nat → Word

/-- Where the Vault looks first for the n-th image's run of LBAs, which R303 leaves open. -/
opaque freePlace : Nat → Nat

/-- The order in which the beats of a packed sector arrive at a LEVEL 0 packer: draw, chunk, packed sector
(R285, which depends on timing). -/
opaque freeArrival : Nat → Nat → Nat → List Nat

/-- Where in its tolerance the completion timeout of a range lies (R81). -/
opaque freeTimeout : Nat → Nat

/-- ENGINE_ID, non-zero, fixed at manufacture (R417). DESIGN CHOICE, LOG 4 names the value. -/
def engineId : Dword := 1

/-- Firmware version of slot A (R417). DESIGN CHOICE, LOG 4. -/
def fwVer : Word := 0x01000000#32

/-- MAC addresses of the two Pair ports (R417). DESIGN CHOICE, LOG 4. -/
def mac (p : Nat) : BitVec 48 := BitVec.ofNat 48 (0x0C5A32000000 + p)

/-- STEPPING, the first production stepping (R417). -/
def stepping : Byte := 0x10#8

/-- The serial number of ADMIN_QUERY page 0 (R417). DESIGN CHOICE, LOG 4. -/
def serial : List Byte := [0x55, 0x5A, 0x33, 0x32]

end Sys2Proof.Config
end

