-- ==== Sys2Proof/Machine/State.lean ====
section
/-! DEFINITION. The state of the block as plain data: every register, queue, buffer, counter, mode and
pin the spec gives the UZ32, the queue of waiting commands, and the state after reset. -/

namespace Sys2Proof.Machine

/-! ### Power, pins and boot (02, 03) -/

/-- Where the part is between power-off and readiness (R28, R43, R44, R57, R61, Table 2-7). -/
inductive Phase where
  | off | vaux | inReset | bringUp | ready | recovery | holdUp | thermalHold | waitRelease | deep
  deriving DecidableEq, Repr

/-- Power states below DEEP (Table 2-10, STATE). -/
inductive PState where
  | active | idle | nap
  deriving DecidableEq, Repr

/-- What a request carries beside its address and data: its PASID, whether its address is translated (5.3), Relaxed
Ordering and ID-Based Ordering (R87). -/
structure Tlp where
  pasid : Option (BitVec 20) := none
  xlat : Bool := false
  ro : Bool := false
  ido : Bool := false
  deriving DecidableEq, Repr

/-- A link-level or pin-level record of what left the part. DESIGN CHOICE, LOG 8. -/
inductive BusOut where
  | hostWrite (ring : Nat) (addr : Nat) (bytes : List Byte) (ep : Bool) (t : Tlp)
  | entry (ring : Nat) (addr : Nat) (bytes : BitVec 256) (t : Tlp)
  | readReq (tag : Nat) (ring : Nat) (addr : Nat) (bytes : Nat) (t : Tlp)
  | atsReq (id : Nat) (ring : Nat) (addr : Nat) (pasid : Option (BitVec 20)) (write : Bool)
  | publication (cairn : Nat) (addr : Nat) (v vn : Word) (t : Tlp)
  | msix (v : Nat) (addr : Dword) (data : Word) (t : Tlp)
  | rbPulse
  | rbBusy (low : Bool)
  | pin (name : String) (asserted : Bool)
  | bar0Data (off : Nat) (v : BitVec 512)
  | bar2Data (addr : Nat) (bytes : List Byte) (badBeats : List Nat)
  | completerAbort (addr : Nat)
  | unsupported (addr : Nat)
  | aer (addr : Nat)
  | atsInvDone
  | cfgData (reg : Nat) (v : Word)
  | cfgOption (o : PcieOption) (v : Nat)
  | cfgRetry
  | pair (peer : Nat) (packet : List Byte)
  | eth (port : Nat) (kind : String) (bytes : List Byte)
  | mgmt (kind : String) (bytes : List Byte)
  | tdo (v : BitVec 72)
  | linkDown
  deriving DecidableEq, Repr

structure Power where
  phase : Phase := .bringUp
  rdy : Bool := false
  /-- RB_N is driven busy. -/
  busy : Bool := true
  /-- Causes of busy now held, by BUSY_CAUSE code (bit c for code c). -/
  causes : BitVec 8 := 2
  lastCause : BitVec 4 := 1
  busySince : Nat := 0
  /-- The attention now pending has been announced by a pulse. -/
  pulsed : Bool := false
  perstEdge : Bool := false
  perstN : Bool := false
  frstLow : Bool := false
  maddr : BitVec 3 := 0
  mainOn : Bool := true
  vauxOn : Bool := true
  aux : AuxInd := .w600
  wakeN : Bool := false
  smbAlert : Bool := false
  thermN : Bool := false
  brake : Bool := false
  capW : Byte := 240
  mgmtCap : Byte := 240
  placeEn : Bool := true
  stepCeil : BitVec 2 := 0
  stateReq : BitVec 2 := 1
  pstate : PState := .active
  reqPend : Bool := false
  writeRej : Bool := false
  holdupOk : Bool := false
  arrayV : Byte := 170
  step : BitVec 2 := 0
  stepWant : Option (BitVec 2) := none
  capStep : BitVec 2 := 0
  avsStep : BitVec 2 := 0
  memStep : BitVec 2 := 0
  /-- The memory rate step PWRBRK_N's deassertion returns to (R34). -/
  memBase : BitVec 2 := 0
  hotspot : Nat := 40
  therm95 : Bool := false
  therm105 : Bool := false
  therm115 : Bool := false
  derated : Bool := false
  clkFailed : Bool := false
  deriving DecidableEq, Repr

/-- A firmware slot (Table 3-7): state code, version and security version. -/
structure FwSlot where
  st : BitVec 3 := 0
  ver : Word := 0
  svn : BitVec 16 := 0
  deriving DecidableEq, Repr

structure TenantEnt where
  valid : Bool := false
  rings : BitVec 16 := 0
  extLen : BitVec 16 := 0
  extBase : BitVec 16 := 0
  deriving DecidableEq, Repr

/-- A pair peer table entry (Table 16-3). -/
structure PeerCfg where
  valid : Bool := false
  tenant : Tenant := 0
  buddy : Bool := false
  ward : Bool := false
  take : Bool := false
  drain : Bool := false
  v6 : Bool := false
  vlanEn : Bool := false
  dscp : BitVec 6 := 0
  liveMs : BitVec 16 := 0
  fwdLo : BitVec 7 := 0
  fwdN : Byte := 0
  remBase : BitVec 7 := 0
  vid : BitVec 12 := 0
  engineId : Dword := 0
  addr : BitVec 128 := 0
  deriving DecidableEq, Repr

/-- The per-ring retained settings (Table 3-4). -/
structure RingSet where
  durable : Bool := true
  resetOnly : Bool := false
  tagCap : BitVec 10 := 256
  stallMs : BitVec 16 := 10000
  deriving DecidableEq, Repr

/-- The settings record (R52, Table 3-4). Defaults are the factory values. -/
structure Record where
  rings : Vector RingSet 16 := Vector.replicate 16 {}
  windowS : BitVec 6 := 8
  tenants : Vector TenantEnt 8 := (Vector.replicate 8 {}).set 0 { valid := true, rings := 0xFFFF }
  cairnOwner : Vector Tenant 128 := Vector.replicate 128 0
  capW : Byte := 240
  mgmtCap : Byte := 240
  peers : Vector PeerCfg 4 := Vector.replicate 4 {}
  digest : BitVec 384 := 0
  deriving DecidableEq, Repr

/-- A firmware update under way (R364). -/
inductive UpdSt where
  | idle | receiving | verified
  deriving DecidableEq, Repr

structure Boot where
  cause : BitVec 4 := 0
  bootB : Bool := false
  trial : Bool := false
  fallback : Bool := false
  slotA : FwSlot := { st := 2, ver := Config.fwVer }
  slotB : FwSlot := {}
  svnFloor : BitVec 16 := 0
  retSrc : BitVec 2 := 0
  powerLoss : Bool := false
  journalRebuild : Bool := false
  recovery : Bool := false
  /-- The steps of Table 3-2 before RDY have run in this bring-up. -/
  up : Bool := false
  fails : BitVec 5 := 0
  chLost : Byte := 0
  epoch : Word := 0
  /-- RET_STATUS and the retained store. -/
  commits : BitVec 20 := 0
  retRej : Bool := false
  /-- The record holds factory values a factory-reset command wrote; RET_SRC will say so (R55). -/
  factoryCmd : Bool := false
  factoryDone : Bool := false
  record : Record := {}
  /-- The digest of the last accepted bit-stream, live (Table 3-4). -/
  lastDigest : BitVec 384 := 0
  /-- The record slots of the retained store: sequence number and record, newest first, at most 12 (R52, 3.3). -/
  stored : List (Nat × Record) := [(0, {})]
  lastRecord : Option Nat := none
  /-- RESET_CAUSE waiting for the next bring-up, with ARG1 of its RESET event (R51). -/
  nextCause : Option (BitVec 4 × Word) := none
  rechoose : Bool := false
  /-- Facts a reset leaves for the next bring-up. -/
  lossCause : BitVec 8 := 0
  clkFailSeen : Bool := false
  zeroOk : Bool := false
  zeroUnv : Bool := false
  holdUpRan : Bool := false
  /-- The hold-up sequence under way began with a loss of 12 V main, which cuts a pending record (R54). -/
  mainLost : Bool := false
  update : UpdSt := .idle
  updImage : List Host.Cell := []
  journalLost : Bool := false
  deriving DecidableEq, Repr

/-! ### Configuration (04, 18, 20) -/

structure Cfg where
  loaded : Bool := false
  loading : Bool := false
  loadErr : BitVec 4 := 0
  expResult : BitVec 3 := 0
  loadCount : BitVec 16 := 0
  digest : BitVec 384 := 0
  loadId : Dword := 0
  lastLoadId : Dword := 0
  nonce : BitVec 16 := 0
  arm : Option Tenant := none
  armAt : Nat := 0
  unlocked : Byte := 0
  lockout : Byte := 0
  fails : Vector Nat 8 := Vector.replicate 8 0
  scratch : Byte := 0
  warnKind : Byte := 0
  warnItems : List (Nat × Nat) := []
  bs : Sections := {}
  /-- Expert writes accepted and waiting for their resource's idle point (R75): field and value. -/
  pend : List (FieldId × Nat) := []
  badacc : Word := 0
  placeMap : Vector Byte 32 := Vector.replicate 32 0xFF
  laneGate : Word := 0
  slotGate : Word := 0
  laneSt : Vector (BitVec 2) 16 := Vector.replicate 16 0
  slotSt : Vector (BitVec 2) 32 := Vector.replicate 32 0
  /-- Open holds: unit and start (R355). -/
  holds : List (KeepUnit × Nat) := []
  claimFenced : Bool := false
  spdm : Bool := false
  spdmKey : Bool := false
  unitView : Vector Byte 78 := Vector.replicate 78 0
  dpGen : BitVec 16 := 0
  mgGen : BitVec 16 := 0
  skew : Bool := false
  stale : Bool := false
  mgmtOff : List Nat := []
  deriving DecidableEq, Repr

/-! ### Rings (06, 07) -/

/-- A completion entry before it is written (Table 7-2). -/
structure Entry where
  tag : BitVec 16 := 0
  opcode : Byte := 0
  status : Byte := 0
  stage : Byte := 0
  ctx : Dword := 0
  d0 : Dword := 0
  d1 : Word := 0
  service : BitVec 2 := 0
  delay : BitVec 16 := 0
  tainted : Bool := false
  rst : Bool := false
  corrected : Bool := false
  more : Bool := false
  /-- The command the entry belongs to, and SVC_LAST's resource and cause. -/
  cid : Nat := 0
  latchNo : Nat := 0
  last : Bool := true
  res : BitVec 3 := 7
  cause : BitVec 4 := 0
  /-- FENCE: the commands that leave the uncovered sets once the entry is written (R122). -/
  covers : List Nat := []
  /-- How many entries the command writes (R127), and what it had completed (Table 7-5, DISCARDED). -/
  owed : Nat := 1
  done : Nat := 0
  deriving DecidableEq, Repr

/-- A latched command. -/
structure Cmd where
  cid : Nat := 0
  latchNo : Nat := 0
  trb : BitVec 512 := 0
  durable : Bool := true
  /-- The command holds its ring's head. -/
  atHead : Bool := false
  /-- Its checks at the head have passed. -/
  started : Bool := false
  /-- It has made a side effect (R138). -/
  effect : Bool := false
  corrected : Bool := false
  tainted : Bool := false
  /-- A snooped message exceeded its declared length: that length and the overflow (R234). -/
  trunc : Option (Nat × Nat) := none
  waitFrom : Option Nat := none
  delayed : Bool := false
  delay : Nat := 0
  res : BitVec 3 := 7
  cause : BitVec 4 := 0
  /-- FENCE: commands of the scope not completed at the latch, the whole scope, and whether one of
  them completed other than OK (R120, R121). -/
  scopeWait : List Nat := []
  scope : List Nat := []
  scopeBad : Bool := false
  /-- The PASID the command carries: RNG_PASID as it stood when the command reached the head, none for PASID_V = 0
  (R110). -/
  pasid : Option (BitVec 20) := none
  /-- The beats the command reads of host or peer memory, and those that have come, by position (5.5). -/
  plan : List Nat := []
  got : List (Nat × Got) := []
  /-- WAIT: distance still to come, once pending (R148). -/
  remaining : Option Nat := none
  /-- Programs that failed, by LBA, and bad beats with the first failing address. -/
  failedLba : List Nat := []
  badBeats : Nat := 0
  badFirst : Option Nat := none
  badCause : Option Cause := none
  /-- SNAP_SEAL: stages reported (bit 1 STAGED, bit 2 PAIRED, bit 3 DURABLE). -/
  stages : BitVec 4 := 0
  units : Nat := 0
  deriving DecidableEq, Repr

structure DeferRec where
  lba : Dword := 0
  count : Word := 0
  tag : BitVec 16 := 0
  cause : Byte := 0
  ctx : Dword := 0
  rseq : Word := 0
  deriving DecidableEq, Repr

/-- An ABORT_TAG latched and not yet answered: its TRB, the target found and whether it was caught. -/
structure AbortRec where
  cmd : Cmd := {}
  found : Bool := false
  targetNo : Nat := 0
  caught : Option Cmd := none
  reject : Bool := false
  resetOnly : Bool := false
  deriving DecidableEq, Repr

/-- A command a ring reset has stopped, until its DISCARDED entries are written: the entry, and the stages it
reports (0 for FINAL). -/
structure Dying where
  entry : Entry := {}
  stages : List Nat := [0]
  deriving DecidableEq, Repr

structure RingSt where
  trb : BitVec 512 := 0
  /-- Commands holding queue entries, head first. -/
  queue : List Cmd := []
  /-- Commands running past the head (R114). -/
  past : List Cmd := []
  aborts : List AbortRec := []
  lost : Bool := false
  lostCnt : Word := 0
  durable : Bool := true
  resetOnly : Bool := false
  inReset : Bool := false
  resetCause : BitVec 4 := 0
  /-- Stopped commands whose DISCARDED entries wait for a started program (R140). -/
  dying : List Dying := []
  tagCap : BitVec 10 := 256
  stallCap : Word := 0
  stallPool : Word := 0
  pasidV : Bool := false
  pasid : BitVec 20 := 0
  baseLo : BitVec 20 := 0
  baseHi : Word := 0
  depth : BitVec 13 := 0
  head : BitVec 12 := 0
  tail : BitVec 12 := 0
  setup : Option (BitVec 20 × Word × BitVec 13) := none
  phase : Bool := true
  seq : BitVec 16 := 0
  unconsumed : Nat := 0
  faulted : Bool := false
  waiting : List Entry := []
  latches : Nat := 0
  /-- The uncovered set (R122): cid and TAG. -/
  uncovered : List (Nat × BitVec 16) := []
  served : Word := 0
  delayedCnt : Word := 0
  refusedCnt : Word := 0
  log : Vector DeferRec 64 := Vector.replicate 64 {}
  dHead : BitVec 7 := 0
  dTail : BitVec 7 := 0
  ovf : BitVec 16 := 0
  rseq : Word := 0
  deferOwed : Bool := false
  rstCause : BitVec 4 := 0
  unreported : BitVec 9 := 0
  discarded : BitVec 9 := 0
  lastRes : BitVec 3 := 7
  lastCause : BitVec 4 := 0
  stallMs : BitVec 16 := 10000
  stallWin : BitVec 16 := 10000
  stallFrom : Option Nat := none
  fires : BitVec 16 := 0
  /-- SLOE_LAST: lane and context of the ring's last DIGEST_VERIFY. -/
  sloeLast : Option (Lane × Ctx) := none
  deriving DecidableEq, Repr

/-! ### Cairns (08) -/

structure CairnSt where
  value : Word := 0
  pubEn : Bool := false
  pubFlt : Bool := false
  monMode : BitVec 2 := 0
  pubRing : Ring := 0
  owner : Tenant := 0
  monTarget : Word := 0
  monLeft : Nat := 0
  pubLo : BitVec 29 := 0
  pubHi : Word := 0
  xblock : Word := 0
  sigRej : Word := 0
  lastKind : BitVec 4 := 0
  lastId : Byte := 0
  lastAdd : Word := 0
  sigCount : Word := 0
  blkKind : BitVec 4 := 0
  blkId : Byte := 0
  monPend : Bool := false
  pubOwed : Bool := false
  deriving DecidableEq, Repr

/-- A unit's pending wait (R157). `left` is none for a wait out of range. -/
structure UnitWait where
  unit : SigUnit
  cairn : Cairn
  target : Word
  mode : WaitMode
  left : Option Nat
  /-- The ADDs applied since it was presented (8.3.1). -/
  sum : Word := 0
  deriving DecidableEq, Repr

/-! ### Wheels, Orchard, crags, Rowan, Sloe (09 to 12) -/

/-- A beat in a wheel slot (R173). -/
structure Beat where
  data : BeatBits := 0
  psn : Bool := false
  deriving DecidableEq, Repr

/-- A stream at a wheel (9.5). On an input wheel: where its beats come from, and how many; a range a command names is
bound to its command (ring and number). On an output wheel: where its beats go. -/
structure Strm where
  gen : StreamGen := .fixed
  cid : Option Nat := none
  ring : Ring := 0
  staging : Bool := false
  addr : Nat := 0
  beats : Nat := 1
  drain : Bool := false
  consumed : Bool := true
  deriving DecidableEq, Repr

structure WheelSt where
  en : Bool := false
  output : Bool := false
  tenant : Tenant := 0
  depth : BitVec 5 := 0
  pfTags : Byte := 0
  orc : Bool := false
  port : BitVec 2 := 0
  crag : Crag := 0
  /-- Slot index of the first beat not yet consumed, at the current stream's start (R165). -/
  head : BitVec 4 := 0
  stallTag : Bool := false
  stallSlot : Bool := false
  fenced : Bool := false
  beats : Word := 0
  poison : Word := 0
  cTag : Word := 0
  cSlot : Word := 0
  cEmpty : Word := 0
  /-- The streams still to run, the one at the head first. -/
  streams : List Strm := []
  /-- Positions are counted from the first beat of the stream at the head, on through the streams behind it (R182).
  Beats asked for, or produced on an output wheel; beats delivered, or drained; and the beats present. -/
  asked : Nat := 0
  taken : Nat := 0
  held : List (Nat × Beat) := []
  /-- Output wheel: the positions of the end marks not yet passed (R195). -/
  marks : List Nat := []
  /-- End marks passed since the load (R183). -/
  layers : Nat := 0
  /-- Output wheel: the beats of a removed command are dropped up to its end mark (R195). -/
  dropTo : Bool := false
  /-- A DRAIN end holds the next stream (R183). -/
  drainHold : Bool := false
  deriving DecidableEq, Repr

/-- An Orchard line (R177): tenant, staging or host (with PASID), line number of the address as issued (`xlat`: a
translated one), that of the address before translation, data. -/
structure OrcLine where
  tenant : Tenant
  staging : Bool
  pasid : Option (BitVec 20)
  xlat : Bool := false
  line : Nat
  va : Nat := 0
  data : List Beat
  deriving DecidableEq, Repr

structure CragSt where
  tenant : Tenant := 0
  used : Bool := false
  prog : Byte := 0xFF
  suspended : Bool := false
  moving : Bool := false
  fenced : Bool := false
  keep : Bool := false
  gate : BitVec 2 := 0
  clkGate : Bool := false
  pwrGate : Bool := false
  rest : Bool := false
  scanAddr : Word := 0
  scanBusy : Bool := false
  scanOp : BitVec 2 := 0
  scanDebug : Bool := false
  scanRes : BitVec 4 := 0
  ce : Word := 0
  ue : Word := 0
  fire : Word := 0
  stall : Word := 0
  pad : Word := 0
  temp : Byte := 40
  /-- Everything a scan holds (R199), as the bytes of a scan image from 0x40 up (Tables 10-4, 10-5). -/
  body : List Host.Cell := []
  /-- Crag store and accumulators are undefined since this exit from NAP (R29). -/
  undefinedSince : Option Nat := none
  /-- Words of store and accumulators written since then, by their offset ÷ 4 in the scan image. -/
  written : List Nat := []
  lastMove : Option Nat := none
  /-- The SNAP_BEGIN, by number, whose step boundary is the crag's next rest point, or the one it is at (R203); and since
  when it rests. -/
  step : Option Nat := none
  restSince : Nat := 0
  /-- When ECC errors were corrected in it within the last second (R41). -/
  ceAt : List Nat := []
  deriving DecidableEq, Repr

/-- Where the Steward keeps the debug buffer and the four fault captures (R206, R404). -/
structure Capture where
  valid : Bool := false
  num : Nat := 0
  image : List Host.Cell := []
  deriving DecidableEq, Repr

/-- A transfer at a standalone engine: of the bit-stream, or of a command (ring and number) with the descriptors the
Steward built; `presented` says its cairn wait has been presented (R209 to R211). -/
structure RowanXfer where
  x : XferSec
  presented : Bool := false
  own : Option (Ring × Nat) := none
  deriving DecidableEq, Repr

structure RowanSt where
  st : BitVec 3 := 0
  crossed : Bool := false
  queue : List RowanXfer := []
  elems : Word := 0
  elemFlt : Word := 0
  idxRej : Word := 0
  idxPos : Word := 0
  stall : Word := 0
  corr : Word := 0
  fenced : Bool := false
  index : List Nat := []
  /-- The transfer at the head: the beats it reads of host or peer memory, those that have come, its elements moved and
  the beats taken from the wheel it reads and still to enter the wheel it writes. -/
  plan : List Nat := []
  got : List (Nat × Got) := []
  moved : Bool := false
  inp : List Beat := []
  out : List Beat := []
  deriving DecidableEq, Repr

/-- Message a context digests (R229). Bytes are kept until finalised. -/
structure SloeMsg where
  alg : Alg := .sha256
  compare : Bool := false
  inner : Option (List Byte × List Byte) := none
  cached : Bool := false
  keyFail : Bool := false
  keySlot : BitVec 5 := 0
  declared : Nat := 0
  bytes : List Byte := []
  tainted : Bool := false
  ended : Bool := false
  cid : Option Nat := none
  ring : Ring := 0
  resAddr : Nat := 0
  expect : List Byte := []
  expectBad : Bool := false
  resumable : Bool := false
  parked : Bool := false
  /-- The snoop of the lane the message belongs to; none for a DIGEST_VERIFY. -/
  snoop : Option Nat := none
  /-- The result was written at the declared length; what still arrives overflows (R232). -/
  finalised : Bool := false
  excess : Nat := 0
  /-- A restored chaining value and the bytes already digested (R250). -/
  chain : Option (List Byte) := none
  done : Nat := 0
  deriving DecidableEq, Repr

structure CtxSt where
  digest : BitVec 512 := 0
  state : BitVec 2 := 0
  alg : BitVec 2 := 0
  compare : Bool := false
  cached : Bool := false
  tainted : Bool := false
  trunc : Bool := false
  short : Bool := false
  keyFail : Bool := false
  keySlot : BitVec 5 := 0
  cmpEq : Bool := false
  cmpNeN : Bool := false
  len : Dword := 0
  ovf : Word := 0
  msg : Option SloeMsg := none
  deriving DecidableEq, Repr

/-- What a tap has copied for a snoop and no context has taken yet (R227, R228): a beat, with whether it belongs to a
packed sector whose header has POISON = 1; the stream's end; or a stream of no bytes. -/
inductive TapEv where
  | beat (b : Beat) (flag : Bool)
  | endMark
  | empty
  deriving DecidableEq, Repr

/-- One entry of a lane's tap buffer: the snoop, the command that drives the stream, and the length it states. -/
structure TapItem where
  snoop : Nat
  own : Option (Ring × Nat) := none
  len : Nat := 0
  ev : TapEv
  deriving DecidableEq, Repr

structure LaneSt where
  owner : Tenant := 0
  owned : Bool := false
  keep : Bool := false
  role : LaneRole := .idle
  fenced : Bool := false
  bytes : Word := 0
  truncCnt : Word := 0
  taintCnt : Word := 0
  glitchCnt : Word := 0
  tapStall : Word := 0
  expect : BitVec 512 := 0
  snoops : List Snoop := []
  selfTest : Bool := false
  clkOff : Bool := false
  pwrOff : Bool := false
  ctx : Vector CtxSt 16 := Vector.replicate 16 {}
  tapBuf : List TapItem := []
  deriving DecidableEq, Repr

structure KeySt where
  loaded : Bool := false
  alg : Alg := .sha256
  keep : Bool := false
  owner : Tenant := 0
  /-- The tenant the loaded bit-stream gives the slot to. -/
  given : Option Tenant := none
  label : BitVec 16 := 0
  inner : List Byte := []
  outer : List Byte := []
  off : Bool := false
  deriving DecidableEq, Repr

structure Massif where
  wheels : Vector WheelSt 64 := Vector.replicate 64 {}
  orcInv : Byte := 0
  orcHit : Word := 0
  orcMiss : Word := 0
  orcMerge : Word := 0
  orcPoison : Word := 0
  /-- Orchard lines, least recently used first. -/
  lines : List OrcLine := []
  crags : Vector CragSt 32 := Vector.replicate 32 {}
  captures : Vector Capture 4 := Vector.replicate 4 {}
  capCount : Nat := 0
  debugBuf : List Host.Cell := []
  rowan : Vector RowanSt 4 := Vector.replicate 4 {}
  /-- Transfers of the bit-stream that wait for an engine (R209). -/
  xferWait : List RowanXfer := []
  lanes : Vector LaneSt 16 := Vector.replicate 16 {}
  keys : Vector KeySt 32 := Vector.replicate 32 {}
  srLane : Lane := 0
  srCtx : Ctx := 0
  srResult : BitVec 4 := 0
  srLen : Dword := 0
  srState : BitVec 512 := 0
  waits : List UnitWait := []
  /-- SNAP_BEGINs latched, and the moves made at each step boundary (R41, R203). -/
  steps : Nat := 0
  moves : List (Nat × Nat) := []
  deriving DecidableEq, Repr

/-! ### Host link and ATPU (05) -/

structure WinEnt where
  valid : Bool := false
  tenant : Tenant := 0
  inR : Bool := false
  inW : Bool := false
  hostOk : Bool := false
  base : BitVec 17 := 0
  size : BitVec 18 := 0
  ridMask : BitVec 16 := 0
  rid : BitVec 16 := 0
  deriving DecidableEq, Repr

/-- What a read in flight serves. A merged one waits for the Orchard fill of its line under another read's tag
and holds none (R178). -/
inductive ReadFor where
  | cmd (cid : Nat) (firstBeat : Nat)
  | xfer (e : Eng) (firstBeat : Nat)
  | wheel (w : Wheel) (firstBeat : Nat)
  | merged (w : Wheel) (firstBeat : Nat)
  | dropped
  deriving DecidableEq, Repr

/-- Whose access it is (R94): the ring that issued the command, its tenant, and the PASID the access carries. -/
structure Key where
  ring : Ring := 0
  tenant : Tenant := 0
  pasid : Option (BitVec 20) := none
  deriving DecidableEq, Repr

/-- A read in flight; each holds one tag (R91). `addr` is the address before translation, `xaddr` the one issued;
`since` is when it was issued (R81), `xlat` that it went out translated, `stale` that an invalidation covers it (R96).
`orc` says its line may be installed in the Orchard, with the beats of the line that have come (R178, R180, R181). -/
structure ReadReq where
  tag : Nat
  key : Key
  what : ReadFor
  addr : Nat
  beats : Nat
  xaddr : Nat := 0
  xlat : Bool := false
  stale : Bool := false
  since : Nat := 0
  orc : Bool := false
  line : List Got := []
  deriving DecidableEq, Repr

/-- A translation held (R94): `2 ^ log2` bytes from `addr`, at `xaddr` translated. -/
structure AtcEnt where
  tenant : Tenant
  pasid : Option (BitVec 20)
  addr : Nat
  log2 : Nat
  xaddr : Nat
  read : Bool
  write : Bool
  deriving DecidableEq, Repr

/-- A translation asked for. `stale` says an invalidation that covers it has arrived since (R96). -/
structure AtsReq where
  id : Nat
  key : Key
  addr : Nat
  write : Bool
  stale : Bool := false
  deriving DecidableEq, Repr

structure MsixVec where
  addr : Dword := 0
  data : Word := 0
  mask : Bool := true
  pend : Bool := false
  /-- When its last message was sent (R89). -/
  sent : Nat := 0
  deriving DecidableEq, Repr

structure Link where
  rate : BitVec 4 := 6
  width : BitVec 4 := 4
  flit : Bool := true
  tagw : BitVec 2 := 2
  atsEn : Bool := false
  pasidEn : Bool := false
  bar2Index : Byte := 0
  bar2Log2 : Nat := 4
  maxRead : Nat := 512
  cto : Nat := 0
  wins : Vector WinEnt 64 := Vector.replicate 64 {}
  fltCnt : Word := 0
  fltLast : BitVec 128 := 0
  reads : List ReadReq := []
  nextTag : Nat := 0
  atc : List AtcEnt := []
  atsWait : List AtsReq := []
  msixEn : Bool := false
  msixMask : Bool := false
  msix : Vector MsixVec 18 := Vector.replicate 18 {}
  /-- Pages whose translation failed, by key and kind (write), until the waiting access has taken it (R95). -/
  atsBad : List (Key × Nat × Bool × Cause) := []
  /-- Invalidations not yet completed: PASID, address, length (R96). -/
  atsInv : List (Option (BitVec 20) × Nat × Nat) := []
  /-- BAR2 writes waiting on a frozen page, in order (R265). -/
  bar2Wait : List (Nat × List Byte) := []
  deriving DecidableEq, Repr

/-! ### Images, Vault and staging (13 to 15) -/

structure Chunk where
  tensor : Nat := 0
  lo : List Nat := []
  bext : List Nat := []
  canon : Nat := 0
  psect : Nat := 0
  pois : Bool := false
  secs : List Sec := []
  leaf : List Byte := []
  deriving DecidableEq, Repr

structure ImgRange where
  isIn : Bool := false
  pois : Bool := false
  chunks : List Chunk := []
  deriving DecidableEq, Repr

structure Image where
  tenant : Tenant
  img : Word
  map : Option MapId := none
  sealed_ : Bool := false
  inStage : Bool := false
  durable : Bool := false
  paired : Bool := false
  tainted : Bool := false
  copyOnly : Bool := false
  step : Dword := 0
  ranges : List ImgRange := []
  cairnBase : Option Nat := none
  ring : Ring := 0
  /-- Pool blocks and image-area sectors reserved (R259, R303). -/
  blocks : Nat := 0
  area : Nat := 0
  /-- The whole image, once sealed, while a staging copy is held. -/
  secs : List Sec := []
  total : Nat := 0
  root : List Byte := []
  alg : Alg := .sha384
  lba : Nat := 0
  sealOrder : Nat := 0
  /-- The SNAP_SEAL that sealed it. -/
  sealCid : Nat := 0
  durOrder : Nat := 0
  failed : List Nat := []
  badFirst : Nat := 0
  badCount : Nat := 0
  deriving DecidableEq, Repr

/-- A staged sector waiting for the drain (R298, R299), in staging order. -/
structure Staged where
  src : Source
  cid : Nat
  lba : Nat
  sec : Sec
  acked : Bool := false
  inUnit : Option Nat := none
  /-- Commands whose sector this one supersedes (R298). -/
  stands : List Nat := []
  tag : BitVec 16 := 0
  ctx : Dword := 0
  deriving DecidableEq, Repr

/-- A frozen page and where its original is kept (R265). -/
structure Frozen where
  page : Nat
  map : MapId
  copied : Bool := false
  /-- The original's bytes and poisoned beats, once the page was copied. -/
  bytes : List Host.Cell := []
  bad : List Nat := []
  deriving DecidableEq, Repr

/-- A SANITISE or FORMAT (R310 to R314). -/
structure VltOp where
  st : BitVec 2 := 0
  kind : BitVec 2 := 0
  action : Bool := false
  bg : Bool := false
  scope : Bool := false
  resumed : Bool := false
  done : Nat := 0
  total : Nat := 0
  bad : Nat := 0
  badLba : Nat := 0
  tenant : Tenant := 0
  owner : Option (Ring × Nat) := none
  /-- FORMAT: writes that must be programmed or failed first. -/
  waitFor : List Nat := []
  unmapped : Bool := false
  deriving DecidableEq, Repr

/-- A buddy copy held for a ward (R327, R331). -/
structure Copy where
  peer : Peer
  owner : Dword
  step : Dword
  img : Word := 0
  total : Nat := 0
  root : BitVec 512 := 0
  alg : Alg := .sha384
  secs : List Sec := []
  tainted : Bool := false
  drained : Bool := false
  left : Nat := 0
  deriving DecidableEq, Repr

structure Store where
  mem : List Host.Cell := []
  memBad : List Nat := []
  sys : List Host.Cell := []
  chInUse : Byte := 0xFF
  chFailed : Byte := 0
  onfi : BitVec 16 := 0xFFFF
  ce : Word := 0
  ue : Word := 0
  scrubAt : Nat := 0
  staged : List Staged := []
  nextUnit : Nat := 0
  vault : List (Nat × Sec) := []
  unread : List Nat := []
  journal : Nat := 0
  /-- The Vault, its unreadable sectors and the DURABLE images as the last commit of the journal left them, and
  the ring sectors whose mapping the tail holds: what a lost tail falls back to (R309). -/
  baseVault : List (Nat × Sec) := []
  baseUnread : List Nat := []
  baseImages : List Image := []
  tailSecs : List (Ring × Staged) := []
  spare : Nat := 293601
  retired : Word := 0
  roMode : Bool := false
  spareLow : Bool := false
  unreadable : Word := 0
  readRetry : Word := 0
  op : VltOp := {}
  erase : Nat := 0
  images : List Image := []
  nextSeal : Nat := 0
  frozen : List Frozen := []
  copies : List Copy := []
  secOk : Word := 0
  missing : Word := 0
  falseMark : Word := 0
  recovered : Word := 0
  poisonSec : Word := 0
  stale : Word := 0
  lostSectors : List (Ring × Staged) := []
  deriving DecidableEq, Repr

/-! ### Pair link (16) -/

/-- Session states (Table 16-4). -/
inductive Sess where
  | down | opening | up | lost | gone
  deriving DecidableEq, Repr

/-- A packet queued or sent and not acknowledged. -/
structure PairPkt where
  ty : Nat
  psn : Word := 0
  sent : Bool := false
  tries : Nat := 0
  /-- When it was first sent, and last. -/
  since : Nat := 0
  sentAt : Nat := 0
  payload : List Byte := []
  deriving DecidableEq, Repr

/-- An image transfer open with a peer (R325 to R328, R334 to R336). -/
structure Transfer where
  xfer : Word
  /-- This engine sends the image. -/
  sending : Bool
  step : Dword
  img : Word
  tenant : Tenant
  total : Nat := 0
  root : BitVec 512 := 0
  alg : Alg := .sha384
  fetchReply : Bool := false
  /-- OFFER or FETCH has been sent; ACCEPT has been sent or received. -/
  opened : Bool := false
  accepted : Bool := false
  /-- The command the transfer serves (ring, cid). -/
  owner : Option (Ring × Nat) := none
  ownerId : Dword := 0
  secs : List (Nat × Sec) := []
  /-- Chunks asked for again, and chunks compared equal or held with their poison. -/
  resent : List Nat := []
  verified : List Nat := []
  tainted : Bool := false
  retx : Nat := 0
  since : Nat := 0
  deriving DecidableEq, Repr

structure PeerSt where
  cfg : PeerCfg := {}
  sess : Sess := .down
  nonce : Word := 0
  peerNonce : Option Word := none
  doze : Bool := false
  nextPsn : Word := 0
  rxPsn : Word := 0
  /-- Reliable packets received ahead of their turn. -/
  rxAhead : List (Word × Instr) := []
  unacked : Nat := 0
  out : List PairPkt := []
  fwd : List (Nat × Word) := []
  sigSeq : Dword := 0
  sigWait : List Dword := []
  fencedOut : Bool := false
  list : List HoldRec := []
  rxDrop : Word := 0
  lastHeld : Dword := 0
  retx : Word := 0
  sigOvf : Word := 0
  sigRej : Word := 0
  hidden : Word := 0
  lastRx : Nat := 0
  lastTx : Nat := 0
  nextXfer : Word := 1
  xfers : List Transfer := []
  deriving DecidableEq, Repr

structure PortSt where
  up : Bool := false
  ip4 : Word := 0
  gw4 : Word := 0
  prefix_ : Word := 0
  ip6 : BitVec 128 := 0
  gw6 : BitVec 128 := 0
  neigh4 : List (Word × BitVec 48) := []
  neigh6 : List (BitVec 128 × BitVec 48) := []
  mgmtOff : Bool := false
  deriving DecidableEq, Repr

structure Pair where
  ports : Vector PortSt 2 := Vector.replicate 2 {}
  peers : Vector PeerSt 4 := Vector.replicate 4 {}
  rxOther : Word := 0
  deriving DecidableEq, Repr

/-! ### Admission (17) -/

structure SvcEnt where
  cls : Cls := .elastic
  weight : Byte := 1
  amount : BitVec 16 := 0
  deriving DecidableEq, Repr

structure Arb where
  ent : Vector SvcEnt 64 := Vector.replicate 64 {}
  live : BitVec 16 := 0
  breach : Bool := false
  frac : BitVec 11 := 1024
  okSince : Option Nat := none
  age : Vector Nat 64 := Vector.replicate 64 0
  tokens : Vector Nat 64 := Vector.replicate 64 64
  tokAt : Nat := 0
  last : Nat := 0
  share : Nat := 0
  /-- Requesters that hold a grant they asked for and have not used yet (R343). -/
  granted : BitVec 64 := 0
  deriving DecidableEq, Repr

/-! ### Watchdog, events, debug, management (18, 19, 21) -/

structure EvRec where
  code : BitVec 16 := 0
  sev : Byte := 0
  unit : Byte := 0xFF
  a0 : Word := 0
  a1 : Word := 0
  stamp : Word := 0
  deriving DecidableEq, Repr

structure Watch where
  windowS : BitVec 6 := 8
  window : Nat := 60000
  since : Nat := 0
  badTok : Bool := false
  bringUp : Bool := true
  warn : Bool := false
  challenge : Word := 0
  salt : Word := 0
  seq : Word := 0
  log : Vector EvRec 256 := Vector.replicate 256 {}
  eHead : BitVec 9 := 0
  eTail : BitVec 9 := 0
  eOvf : Word := 0
  eSupp : Word := 0
  /-- When each CODE and UNIT was last recorded (R389). -/
  recent : List (BitVec 16 × Byte × Nat) := []
  rdyAt : Nat := 0
  /-- Transient faults per unit number (FLT_CORR), and logic retries of the last second, by unit and time (R384). -/
  corr : List (Nat × Word) := []
  storm : List (Nat × Nat) := []
  powerFenced : List Nat := []
  stewardDead : Bool := false
  confirmFrom : Option Nat := none
  deriving DecidableEq, Repr

structure DbgRec where
  kind : Byte := 0
  level : Byte := 0
  stamp : Word := 0
  deriving DecidableEq, Repr

structure Debug where
  ir : Byte := 0xFF
  boundary : Word := 0
  op : BitVec 2 := 0
  status : BitVec 4 := 0
  addr : Word := 0
  data : Word := 0
  level : BitVec 2 := 0
  live : Bool := false
  halted : Bool := false
  forced : Bool := false
  haltPend : Bool := false
  authBusy : Bool := false
  authFails : BitVec 2 := 0
  locked : Bool := false
  heldRing : BitVec 4 := 0
  held : BitVec 6 := 0
  nonce : BitVec 128 := 0
  token : List Host.Cell := []
  /-- The 16 records, and how many were ever written: record k stands at slot k mod 16 (R401). -/
  log : Vector DbgRec 16 := Vector.replicate 16 {}
  logN : Nat := 0
  /-- Writes of the staging window table that wait for PAGEMAP (Table 21-5). -/
  winWait : List (Win × Fin 4 × Word) := []
  deriving DecidableEq, Repr

structure Mgmt where
  i3c : Option (BitVec 7) := none
  eid : Byte := 0
  receiver : Bool := false
  waiting : List EvRec := []
  /-- The endpoint's copy of the unit view, and the tables sent to it and not yet acknowledged (R365). -/
  view : Vector Byte 78 := Vector.replicate 78 0
  sent : List (BitVec 16 × Vector Byte 78) := []
  deriving DecidableEq, Repr

/-- The whole block. -/
structure State where
  pending : List Instr := []
  bus : List BusOut := []
  now : Nat := 0
  freeIx : Nat := 0
  nextCid : Nat := 0
  pw : Power := {}
  boot : Boot := {}
  cfg : Cfg := {}
  tenants : Vector TenantEnt 8 := (Vector.replicate 8 {}).set 0 { valid := true, rings := 0xFFFF }
  rings : Vector RingSt 16 := Vector.replicate 16 {}
  cairns : Vector CairnSt 128 := Vector.replicate 128 {}
  ma : Massif := {}
  link : Link := {}
  st : Store := {}
  pair : Pair := {}
  adm : Vector Arb 7 := Vector.replicate 7 {}
  wd : Watch := {}
  dbg : Debug := {}
  mg : Mgmt := {}
  deriving DecidableEq, Repr

/-- The ways the block stops. -/
inductive Fault where
  /-- Raised by SUPPLY_RANGE when a supply is beyond its absolute maximum rating (R26): the spec says
  the module may be damaged and gives no effect. Safe: the model stops where the hardware may go on. -/
  | beyondRatings
  deriving DecidableEq, Repr

/-- The refusals. -/
inductive Refusal where
  /-- Raised by exec's arm of a command that has no meaning yet. Safe: nothing follows from it. -/
  | notModelled (mnemonic : String)
  deriving DecidableEq, Repr

/-- The block right after reset release at its first power-on: bring-up has begun (DEV_STATUS BUSY 1,
BUSY_CAUSE 1, RDY 0; WDT_STATUS BRINGUP 1), every register at its reset value. DEDUCED, LOG 3. -/
def State.reset : State := {}

end Sys2Proof.Machine
end

