-- ==== Sys2Proof/Machine/Operands.lean ====
section
/-! DEFINITION. The operands of the ring commands: the fields of a latched TRB (Table 6-3, Table 6-4),
the reserved bytes it must leave zero (R105), and the values its fields may take (R107, Table 6-5). -/

namespace Sys2Proof.Machine

/-- The field of `n` bytes at offset `off` of a TRB. -/
def trbN (t : BitVec 512) (off n : Nat) : Nat := (t.toNat / 2 ^ (8 * off)) % 2 ^ (8 * n)

/-- The TRB fields every command has (Table 6-3). -/
def Cmd.op (c : Cmd) : Nat := trbN c.trb 0 1
def Cmd.flags (c : Cmd) : Nat := trbN c.trb 1 1
def Cmd.tag (c : Cmd) : BitVec 16 := fld c.trb 16 16
def Cmd.ctx (c : Cmd) : Dword := fld c.trb 64 64
def Cmd.dur (c : Cmd) : Bool := bit c.trb 8
def Cmd.ordered (c : Cmd) : Bool := bit c.trb 9
/-- A body field (Table 6-4). -/
def Cmd.f (c : Cmd) (off n : Nat) : Nat := trbN c.trb off n

/-- The body fields of Table 6-4, as offset and size; none for an opcode the table lacks. -/
def opBody : Nat → Option (List (Nat × Nat))
  | 0x01 => some [(0x10, 8), (0x18, 8), (0x20, 4), (0x24, 1)]
  | 0x02 => some [(0x10, 8), (0x18, 8), (0x20, 4), (0x24, 1)]
  | 0x03 => some [(0x10, 1)]
  | 0x04 => some [(0x10, 1), (0x11, 1), (0x12, 2), (0x14, 2), (0x16, 2)]
  | 0x05 => some [(0x10, 1), (0x14, 4)]
  | 0x06 => some [(0x10, 1), (0x14, 4)]
  | 0x10 => some [(0x10, 8), (0x18, 4), (0x1C, 1), (0x1D, 1), (0x1E, 2)]
  | 0x11 => some [(0x10, 4), (0x14, 2), (0x18, 8), (0x20, 8)]
  | 0x12 => some [(0x10, 4), (0x14, 1)]
  | 0x13 => some [(0x10, 8), (0x18, 4), (0x1C, 1), (0x1D, 1), (0x1E, 2), (0x20, 8)]
  | 0x14 => some [(0x10, 1), (0x11, 1), (0x12, 2), (0x14, 2), (0x18, 8), (0x20, 8)]
  | 0x18 => some [(0x10, 1), (0x11, 1), (0x12, 1), (0x13, 1), (0x14, 4), (0x18, 8), (0x20, 8), (0x28, 8), (0x30, 8)]
  | 0x20 => some [(0x10, 8), (0x18, 4), (0x1C, 1)]
  | 0x21 => some [(0x10, 8), (0x18, 4), (0x1C, 1), (0x20, 8)]
  | 0x30 => some [(0x10, 2)]
  | 0x40 => some [(0x10, 8), (0x18, 8)]
  | 0x41 => some [(0x10, 1), (0x11, 1)]
  | 0x42 => some [(0x10, 1)]
  | 0x4F => some [(0x10, 1), (0x18, 8)]
  | _ => none

/-- A byte of the TRB that R105 requires to be zero. -/
def reservedByte (body : List (Nat × Nat)) (i : Nat) : Bool :=
  (4 ≤ i && i < 8) || (0x10 ≤ i && !(body.any (fun p => p.1 ≤ i && i < p.1 + p.2)))

/-- Check 1 of Table 6-6: the opcode is in Table 6-4 and every reserved bit and byte is zero (R105). -/
def wellFormedTrb (t : BitVec 512) : Bool :=
  match opBody (trbN t 0 1) with
  | none => false
  | some body =>
    trbN t 1 1 < 4 && (List.range 64).all (fun i => !(reservedByte body i) || trbN t i 1 == 0)

/-- The commands R46 admits before a load. -/
def preLoadOp (op : Nat) : Bool := [0x4F, 0x40, 0x03, 0x04, 0x41, 0x42, 0x30].contains op

/-- Opcodes that join the uncovered set (R122). -/
def coveredOp (op : Nat) : Bool := [0x01, 0x02, 0x11, 0x12, 0x13, 0x14, 0x21, 0x18].contains op

/-- The owner of a ring: the tenant whose table entry lists it; tenant 0 else (R349). -/
def State.ringTenant (s : State) (r : Ring) : Tenant :=
  ((List.finRange 8).find? (fun t => s.tenants[t].valid && bit s.tenants[t].rings r.val)).getD 0

/-- The fields of `c` that Table 6-5 bounds one by one: offset, and whether the value is in range.
Listed by TRB offset, so that the first false one is the field R107 names. -/
def fieldRanges (c : Cmd) : List (Nat × Bool) :=
  match c.op with
  | 0x01 | 0x02 =>
    [(0x10, c.f 0x10 8 % 64 == 0), (0x20, 1 ≤ c.f 0x20 4 && c.f 0x20 4 ≤ 65536), (0x24, c.f 0x24 1 ≤ 1)]
  | 0x03 => [(0x10, c.f 0x10 1 ≤ 1)]
  | 0x04 => [(0x10, c.f 0x10 1 ≤ 2), (0x11, c.f 0x11 1 ≤ 1)]
  | 0x05 => [(0x10, c.f 0x10 1 ≤ 127), (0x14, 1 ≤ c.f 0x14 4 && c.f 0x14 4 ≤ 0x7FFFFFFF)]
  | 0x06 => [(0x10, c.f 0x10 1 ≤ 127)]
  | 0x10 =>
    [(0x18, 1 ≤ c.f 0x18 4), (0x1C, c.f 0x1C 1 ≤ 15),
     (0x1D, c.f 0x1D 1 ≤ 127 || c.f 0x1D 1 == 0xFF), (0x1E, 1 ≤ c.f 0x1E 2)]
  | 0x11 => [(0x10, 1 ≤ c.f 0x10 4), (0x20, 1 ≤ c.f 0x20 8 && c.f 0x20 8 < 2 ^ 48)]
  | 0x12 => [(0x10, 1 ≤ c.f 0x10 4), (0x14, c.f 0x14 1 ≤ 1)]
  | 0x13 =>
    [(0x18, 1 ≤ c.f 0x18 4), (0x1C, c.f 0x1C 1 ≤ 15), (0x1D, c.f 0x1D 1 ≤ 2), (0x1E, 1 ≤ c.f 0x1E 2)]
  | 0x14 => [(0x10, c.f 0x10 1 ≤ 15), (0x11, c.f 0x11 1 ≤ 15), (0x12, 1 ≤ c.f 0x12 2), (0x14, 1 ≤ c.f 0x14 2)]
  | 0x18 =>
    [(0x10, c.f 0x10 1 ≤ 3), (0x11, c.f 0x11 1 ≤ 2), (0x12, c.f 0x12 1 ≤ 1),
     (0x13, c.f 0x13 1 ≤ 31 || c.f 0x13 1 == 0xFF),
     (0x14, c.f 0x10 1 != 3 || 1 ≤ c.f 0x14 4), (0x20, 1 ≤ c.f 0x20 8 && c.f 0x20 8 < 2 ^ 48)]
  | 0x20 | 0x21 => [(0x18, 1 ≤ c.f 0x18 4), (0x1C, c.f 0x1C 1 ≤ 3)]
  | 0x40 => [(0x18, 64 ≤ c.f 0x18 8 && c.f 0x18 8 ≤ 64 * 1048576)]
  | 0x41 => [(0x10, c.f 0x10 1 ≤ 1), (0x11, c.f 0x11 1 ≤ 1)]
  | 0x42 => [(0x10, c.f 0x10 1 ≤ 1)]
  | 0x4F => [(0x10, c.f 0x10 1 ≤ 3), (0x18, true)]
  | _ => []

/-- The first field out of range on its own, else the later field of a failed joint limit (R107). -/
def rangeFault (c : Cmd) : Option Nat :=
  match (fieldRanges c).find? (fun p => !p.2) with
  | some p => some p.1
  | none =>
    if c.op == 0x10 && c.f 0x1D 1 != 0xFF && 128 < c.f 0x1D 1 + c.f 0x1E 2 then some 0x1E
    else if c.op == 0x04 && c.f 0x10 1 == 1 && c.f 0x16 2 < c.f 0x14 2 then some 0x16
    else none

/-- The tenant's Vault extent in sectors: base and length, in units of 1 GiB (R349, R350). -/
def State.extent (s : State) (t : Tenant) : Nat × Nat :=
  (s.tenants[t].extBase.toNat * 262144, s.tenants[t].extLen.toNat * 262144)

/-- R107's rule for a sector run against the tenant's extent: `oLba` when the tenant has no extent or the
first sector lies outside it, `oCount` when the run passes its end. -/
def extentFault (s : State) (t : Tenant) (lba count oLba oCount : Nat) : Option Nat :=
  let (b, n) := s.extent t
  if s.tenants[t].valid = false ∨ n = 0 ∨ lba < b ∨ b + n ≤ lba then some oLba
  else if b + n < lba + count then some oCount
  else none

end Sys2Proof.Machine
end

