-- ==== Sys2Proof/Machine/Ops.lean ====
section
/-! DEFINITION. The named operations every command is written over: sparse memory in canonical form,
banks, the outgoing bus, free values, events, interrupts, busy, faults of the ATPU, staging memory,
live capacity, and the completion queue. -/

namespace Sys2Proof.Machine

/-! ### Sparse memory: strictly rising keys, no entry equal to what an unlisted key reads as -/

/-- The value at a key; an unlisted key reads as `d`. -/
def kvGet {α : Type} (d : α) : List (Nat × α) → Nat → α
  | [], _ => d
  | (k, v) :: m, a => if a = k then v else if a < k then d else kvGet d m a

/-- The memory with `v` at key `a`, in canonical form. -/
def kvSet {α : Type} [DecidableEq α] (d : α) (a : Nat) (v : α) : List (Nat × α) → List (Nat × α)
  | [] => if v = d then [] else [(a, v)]
  | (k, w) :: m =>
    if a < k then (if v = d then (k, w) :: m else (a, v) :: (k, w) :: m)
    else if a = k then (if v = d then m else (k, v) :: m)
    else (k, w) :: kvSet d a v m

/-- Every key of the memory is above `lo` and the entries are canonical. -/
def kvOk {α : Type} [DecidableEq α] (d : α) : Option Nat → List (Nat × α) → Bool
  | _, [] => true
  | lo, (k, v) :: m => (match lo with | none => true | some l => decide (l < k)) && decide (v ≠ d) && kvOk d (some k) m

/-- The canonical form of a byte memory (MEMORY). -/
abbrev Memory.wf (m : List Host.Cell) : Bool := kvOk (0 : Byte) none m

/-- One byte; an unlisted address reads as zero (R293: newly backed offsets read as zero). -/
abbrev readByte (m : List Host.Cell) (a : Nat) : Byte := kvGet 0 m a

/-- One byte written. -/
abbrev writeByte (a : Nat) (b : Byte) (m : List Host.Cell) : List Host.Cell := kvSet 0 a b m

/-- `n` bytes from address `a`. -/
def readBytes (m : List Host.Cell) (a n : Nat) : List Byte := (List.range n).map (fun i => readByte m (a + i))

/-- Consecutive bytes written from address `a`. -/
def writeBytes (a : Nat) : List Byte → List Host.Cell → List Host.Cell
  | [], m => m
  | b :: bs, m => writeBytes (a + 1) bs (writeByte a b m)

/-- A number into a set kept as a strictly rising list. -/
def nIns (a : Nat) : List Nat → List Nat
  | [] => [a]
  | b :: l => if a < b then a :: b :: l else if a = b then b :: l else b :: nIns a l

/-- A number out of a set. -/
def nDel (a : Nat) (l : List Nat) : List Nat := l.filter (fun b => b != a)

/-- A bit vector from bytes, lowest first. -/
def ofBytes (w : Nat) (bs : List Byte) : BitVec w := BitVec.ofNat w (natLE bs)

/-- The 64-byte beats of a byte string, the last padded with zero. -/
def toBeats (bs : List Byte) : List BeatBits :=
  (List.range (ceilDiv bs.length 64)).map (fun i => ofBytes 512 ((bs.drop (64 * i)).take 64))

/-! ### Banks -/

def State.onRing (s : State) (r : Ring) (f : RingSt → RingSt) : State := { s with rings := modAt s.rings r f }
def State.onCairn (s : State) (c : Cairn) (f : CairnSt → CairnSt) : State := { s with cairns := modAt s.cairns c f }
def State.onWheel (s : State) (w : Wheel) (f : WheelSt → WheelSt) : State :=
  { s with ma := { s.ma with wheels := modAt s.ma.wheels w f } }
def State.onCrag (s : State) (n : Crag) (f : CragSt → CragSt) : State :=
  { s with ma := { s.ma with crags := modAt s.ma.crags n f } }
def State.onRowan (s : State) (e : Eng) (f : RowanSt → RowanSt) : State :=
  { s with ma := { s.ma with rowan := modAt s.ma.rowan e f } }
def State.onLane (s : State) (l : Lane) (f : LaneSt → LaneSt) : State :=
  { s with ma := { s.ma with lanes := modAt s.ma.lanes l f } }
def State.onCtx (s : State) (l : Lane) (c : Ctx) (f : CtxSt → CtxSt) : State :=
  s.onLane l (fun x => { x with ctx := modAt x.ctx c f })
def State.onKey (s : State) (k : KSlot) (f : KeySt → KeySt) : State :=
  { s with ma := { s.ma with keys := modAt s.ma.keys k f } }
def State.onPeer (s : State) (e : Peer) (f : PeerSt → PeerSt) : State :=
  { s with pair := { s.pair with peers := modAt s.pair.peers e f } }
def State.onPort (s : State) (p : PPort) (f : PortSt → PortSt) : State :=
  { s with pair := { s.pair with ports := modAt s.pair.ports p f } }
def State.onArb (s : State) (k : Res) (f : Arb → Arb) : State := { s with adm := modAt s.adm k f }

/-! ### What leaves the part, and free values -/

/-- One more record on the outgoing bus (DESIGN CHOICE, LOG 8). -/
def emit (b : BusOut) (s : State) : State := { s with bus := s.bus ++ [b] }

/-- A random draw: a free value, and the counter moved on (DESIGN CHOICE, LOG 6). -/
def draw (s : State) : Word × State := (Config.freeWord s.freeIx, { s with freeIx := s.freeIx + 1 })

/-- The data of a beat that R173 calls undefined: a free value (DESIGN CHOICE, LOG 13). -/
def drawBeat (s : State) : BeatBits × State := (Config.freeBeat s.freeIx, { s with freeIx := s.freeIx + 1 })

/-- The clock moved on to `t` where it has not passed it (DESIGN CHOICE, LOG 2). -/
def advanceTo (t : Nat) (s : State) : State := { s with now := max s.now t }

/-! ### Attention, MSI-X and RB_N -/

/-- The EVT source of the attention summary (R420). -/
def State.evtPending (s : State) : Bool := s.wd.eTail != s.wd.eHead || s.wd.eOvf != 0

/-- The MON source of the attention summary (R420). -/
def State.monPending (s : State) : Bool := s.cairns.toList.any (·.monPend)

/-- The source of a vector is pending (R89, R420). -/
def State.vecPending (s : State) (v : Vec) : Bool :=
  if h : v.val < 16 then s.rings[(⟨v.val, h⟩ : Ring)].unconsumed != 0
  else if v.val = 16 then s.evtPending else s.monPending

/-- ATTN_SUM (Table 22-9). -/
def State.attnSum (s : State) : Word :=
  (List.finRange 18).foldl (fun w v => if s.vecPending v then setBit w v.val true else w) 0

/-- A vector's message: sent when enabled and unmasked, else its Pending Bit is set (R89). -/
def msixFire (v : Vec) (s : State) : State :=
  if s.link.msixEn = false then s
  else if s.link.msixMask || s.link.msix[v].mask then
    { s with link := { s.link with msix := modAt s.link.msix v (fun x => { x with pend := true }) } }
  else emit (.msix v.val s.link.msix[v].addr s.link.msix[v].data {})
    { s with link := { s.link with msix := modAt s.link.msix v (fun x => { x with sent := s.now }) } }

/-- Run `f`; where the source of vector `v` rises from empty to pending, send its message (R89, R90). -/
def announcing (v : Vec) (f : State → State) (s : State) : State :=
  let t := f s
  if s.vecPending v = false && t.vecPending v then msixFire v t else t

/-- A cause of busy begins (R22, R418). -/
def busyOn (cause : BitVec 4) (s : State) : State :=
  let s1 := { s with pw := { s.pw with causes := setBit s.pw.causes cause.toNat true } }
  if s.pw.busy then s1
  else emit (.rbBusy true) { s1 with pw := { s1.pw with busy := true, busySince := s.now, pulsed := false } }

/-- A cause of busy ends; RB_N is released by RB_N_BUSY_END once 100 µs have passed (R22, R418). -/
def busyOff (cause : BitVec 4) (s : State) : State :=
  if bit s.pw.causes cause.toNat then
    { s with pw := { s.pw with causes := setBit s.pw.causes cause.toNat false, lastCause := cause } }
  else s

/-! ### Events (19.5) -/

/-- STAMP: ms since RDY, 0 for records written at bring-up (Table 19-4). -/
def State.stamp (s : State) : Word := if s.pw.rdy then BitVec.ofNat 32 ((s.now - s.wd.rdyAt) / 1000) else 0

/-- SEV of Table 19-5: 0 INFO, 1 WARN, 2 ERROR. -/
def eventSev (code : Nat) : Byte :=
  if [0x0201, 0x0501, 0x0704, 0x0802, 0x0902].contains code then 0
  else if [0x0103, 0x0202, 0x0203, 0x0303, 0x0305, 0x0403, 0x0502, 0x0503, 0x0601, 0x0602, 0x0701, 0x0703,
           0x0901, 0x0A02].contains code then 2
  else 1

/-- The 16 bytes of an event record (Table 19-4). -/
def EvRec.bytes (e : EvRec) : List Byte :=
  bytesLE 2 e.code ++ [e.sev, e.unit] ++ bytesLE 4 e.a0 ++ bytesLE 4 e.a1 ++ bytesLE 4 e.stamp

/-- SMB_ALERT_N follows the events that wait while the path runs on SMBus (Table 2-3, Table 18-7). -/
def alertPin (s : State) : State :=
  let on := s.mg.i3c.isNone && !s.mg.waiting.isEmpty
  if on = s.pw.smbAlert then s else emit (.pin "SMB_ALERT_N" on) { s with pw := { s.pw with smbAlert := on } }

/-- An event is offered to the management path: sent to a registered receiver, else it waits to be
polled (R363). -/
def offerEvent (e : EvRec) (s : State) : State :=
  if s.mg.receiver then emit (.mgmt "PlatformEventMessage" e.bytes) s
  else alertPin { s with mg := { s.mg with waiting := s.mg.waiting ++ [e] } }

/-- The part of an event that lies in the log: suppressed within 1 ms of the same CODE and UNIT (R389),
lost to a full log (R388), or recorded at EVT_TAIL (R387). -/
def logEvent (code : Nat) (unit : Byte) (a0 a1 : Word) (s : State) : State :=
  let w := s.wd
  let c := BitVec.ofNat 16 code
  if w.recent.any (fun x => x.1 == c && x.2.1 == unit && decide (s.now < x.2.2 + 1000)) then
    { s with wd := { w with eSupp := satAdd w.eSupp 1 } }
  else if w.eTail - w.eHead = 256 then
    { s with wd := { w with eOvf := satAdd w.eOvf 1 } }
  else
    let rec_ : EvRec := { code := c, sev := eventSev code, unit := unit, a0 := a0, a1 := a1, stamp := s.stamp }
    offerEvent rec_ { s with
      wd := { w with
        log := modAt w.log (ix 255 (w.eTail.toNat % 256)) (fun _ => rec_)
        eTail := w.eTail + 1
        recent := (c, unit, s.now) :: w.recent.filter (fun x => decide (s.now < x.2.2 + 1000)) } }

/-- Raise an event (R387): recorded, and announced by vector 16 when its source rises. -/
def raiseEvent (code : Nat) (unit : Byte) (a0 a1 : Word) (s : State) : State :=
  announcing 16 (logEvent code unit a0 a1) s

/-- The unit byte of R385 for a ring. -/
def ringUnit (r : Ring) : Byte := BitVec.ofNat 8 (0xC0 + r.val)

/-! ### EXP_RESULT (Table 4-12) -/

/-- Results of a configuration write (Table 4-12). -/
inductive ExpRes where
  | applied | locked | closed | range | guarantee | busy | admission
  deriving DecidableEq, Repr

def ExpRes.code : ExpRes → BitVec 3
  | .applied => 0 | .locked => 1 | .closed => 2 | .range => 3 | .guarantee => 4 | .busy => 5 | .admission => 6

def setExp (x : ExpRes) (s : State) : State := { s with cfg := { s.cfg with expResult := x.code } }

/-- CFG_WARN: one more ignored item of a kind, counted once (R395, R397). -/
def flagWarn (kind item : Nat) (s : State) : State :=
  if s.cfg.warnItems.contains (kind, item) then s
  else { s with cfg := { s.cfg with
    warnKind := setBit s.cfg.warnKind kind true, warnItems := s.cfg.warnItems ++ [(kind, item)] } }

/-! ### ATPU faults (R99) -/

def causeCode : Cause → Nat
  | .noAccess => 1 | .notPresent => 2 | .atsFail => 3 | .window => 4 | .noPasid => 5 | .link => 6 | .timeout => 7

/-- The ATPU fault record: ATPU_FLT_CNT rises and ATPU_FLT_LAST takes the details (R99). -/
def fltRecord (addr : Nat) (cause : Cause) (t : Tenant) (inbound : Bool) (ring : Nat) (write : Bool)
    (who : Nat) (s : State) : State :=
  let w2 := causeCode cause * 2 ^ 28 + t.val * 2 ^ 25 + (if inbound then 2 ^ 24 else 0) + ring * 2 ^ 20
            + (if write then 2 ^ 19 else 0)
  { s with link := { s.link with
      fltCnt := satAdd s.link.fltCnt 1
      fltLast := BitVec.ofNat 128 (addr % 2 ^ 64 + w2 * 2 ^ 64 + who * 2 ^ 96) } }

/-- The PASID RNG_PASID gives a ring's accesses now; none with PASID disabled or PASID_V = 0 (R97, R110). -/
def State.pasidOf (s : State) (r : Ring) : Option (BitVec 20) :=
  if s.link.pasidEn && s.rings[r].pasidV then some s.rings[r].pasid else none

/-- The key of an access no command makes: a completion entry's, a publication's, a stream's of the bit-stream. -/
def State.ringKey (s : State) (r : Ring) : Key := { ring := r, tenant := s.ringTenant r, pasid := s.pasidOf r }

/-- The key of a command's accesses: its ring's, with the PASID it took at the head (R94, R110). -/
def State.cmdKey (s : State) (r : Ring) (c : Cmd) : Key :=
  { ring := r, tenant := s.ringTenant r, pasid := if s.link.pasidEn then c.pasid else none }

/-- The record of a failure the engine's own access under a key met. -/
def keyFlt (k : Key) (addr : Nat) (cause : Cause) (write : Bool) (s : State) : State :=
  fltRecord addr cause k.tenant false k.ring.val write ((k.pasid.map (·.toNat)).getD 0) s

/-- The check of R97 and R110 that needs no translation: host access of tenants 1 to 7 with PASID
disabled fails with NOPASID. -/
def Key.denied (k : Key) : Bool := k.tenant != 0 && k.pasid.isNone

def State.hostDenied (s : State) (r : Ring) : Bool := (s.ringKey r).denied

/-! ### Translation (R94 to R97) -/

/-- A translation of the key that covers the address and grants the kind (R94). -/
def State.translated (s : State) (k : Key) (addr : Nat) (write : Bool) : Option AtcEnt :=
  s.link.atc.find? (fun e => e.tenant == k.tenant && e.pasid == k.pasid &&
    decide (e.addr ≤ addr ∧ addr < e.addr + 2 ^ e.log2) && (if write then e.write else e.read))

/-- The 4 KiB page of an address, the Smallest Translation Unit (Table 5-2). -/
def pageOf (addr : Nat) : Nat := addr / 4096 * 4096

/-- Ask the translation agent for the page of an address, once (R94). A request an invalidation has overtaken answers
no access any more (R96). -/
def askTranslation (k : Key) (addr : Nat) (write : Bool) (s : State) : State :=
  if s.link.atsWait.any (fun q => q.key == k && q.addr == pageOf addr && q.write == write && !q.stale) then s
  else
    let q : AtsReq := { id := s.link.nextTag, key := k, addr := pageOf addr, write := write }
    emit (.atsReq q.id k.ring.val q.addr k.pasid write)
      { s with link := { s.link with atsWait := s.link.atsWait ++ [q], nextTag := s.link.nextTag + 1 } }

/-- Why the translation of a page failed for a key whose access waits for it (R95). -/
def State.deniedPage (s : State) (k : Key) (a : Nat) (write : Bool) : Option Cause :=
  (s.link.atsBad.find? (fun x => x.1 == k && x.2.1 == pageOf a && x.2.2.1 == write)).map (·.2.2.2)

/-- The failures of a key have served the access that waited for them: a later one asks anew. -/
def takeDenials (k : Key) (write : Bool) (s : State) : State :=
  { s with link := { s.link with atsBad := s.link.atsBad.filter (fun x => !(x.1 == k && x.2.2.1 == write)) } }

/-- What the ATPU makes of an access (R94 to R97): issued with this request and address, failed, or waiting for a
translation. -/
inductive Fate where
  | go (xaddr : Nat) (t : Tlp)
  | fail (c : Cause)
  | wait
  deriving DecidableEq, Repr

/-- The check of one access to host or peer memory. With ATS disabled it goes untranslated under its PASID (R97). A
translated request carries no PASID (PRESUMED, LOG 86). `data` says Relaxed Ordering and ID-Based Ordering are set
(R87). -/
def State.fate (s : State) (k : Key) (a : Nat) (write data : Bool) : Fate :=
  if k.denied then .fail .noPasid
  else if s.link.atsEn = false then .go a { pasid := k.pasid, ro := data, ido := data }
  else match s.translated k a write with
    | some e => .go (e.xaddr + (a - e.addr)) { xlat := true, ro := data, ido := data }
    | none => match s.deniedPage k a write with
      | some c => .fail c
      | none => .wait

/-- The addresses whose page has no answer yet. -/
def unanswered (s : State) (k : Key) (write : Bool) (addrs : List Nat) : List Nat :=
  addrs.filter (fun a => s.fate k a write true == .wait)

/-- Every write of a run may be judged: the pages without an answer are asked for first (R94, R95). -/
def writesJudged (k : Key) (addrs : List Nat) (s : State) : Bool × State :=
  match unanswered s k true addrs with
  | [] => (true, s)
  | l => (false, l.foldl (fun s a => askTranslation k a true s) s)

/-- A resource of Table 21-5 that a forced halt holds. -/
def State.heldRes (s : State) (i : Nat) : Bool := s.dbg.halted && bit s.dbg.held i

/-! ### Staging memory (05, 15) -/

/-- 2 MiB, the unit of the staging window table. -/
def winUnit : Nat := 2097152

/-- Every byte of `addr .. addr + n - 1` lies in valid windows of tenant `t` (R84). Windows of one tenant
may overlap; the bytes are walked window by window. -/
def inWindows (s : State) (t : Tenant) (addr n : Nat) : Bool :=
  let ws := (s.link.wins.toList.filter (fun w => w.valid && w.tenant == t)).map
    (fun w => (w.base.toNat * winUnit, (w.base.toNat + w.size.toNat) * winUnit))
  let rec walk : Nat → Nat → Bool
    | 0, a => decide (addr + n ≤ a)
    | fuel + 1, a =>
      if addr + n ≤ a then true
      else match ws.find? (fun w => decide (w.1 ≤ a ∧ a < w.2)) with
        | some w => walk fuel w.2
        | none => false
  walk 65 addr

/-- The beat at staging beat number `b`. -/
def State.beat (s : State) (b : Nat) : Beat :=
  { data := ofBytes 512 (readBytes s.st.mem (64 * b) 64), psn := s.st.memBad.contains b }

/-- Mark or clear the poison of staging beats. -/
def markBad (bad : Bool) (b : Nat) (s : State) : State :=
  { s with st := { s.st with memBad := if bad then nIns b s.st.memBad else nDel b s.st.memBad } }

/-- Orchard lines that hold one of `n` staging bytes from `a` are invalidated before the write is visible (R179). -/
def dropLines (a n : Nat) (s : State) : State :=
  { s with ma := { s.ma with lines := s.ma.lines.filter (fun l =>
      !(l.staging && decide (a / 512 ≤ l.line ∧ l.line ≤ (a + n - 1) / 512))) } }

/-- A whole beat stored with its mark (R86, R175, R297). -/
def storeBeat (b : Nat) (x : Beat) (s : State) : State :=
  let s1 := dropLines (64 * b) 64 s
  markBad x.psn b { s1 with st := { s1.st with mem := writeBytes (64 * b) (bytesLE 64 x.data) s1.st.mem } }

/-- Bytes of a store, beat by beat: a partial write into a poisoned beat leaves it poisoned (R297). -/
def storeBytes (a : Nat) (bs : List Byte) (psn : Bool) (s : State) : State :=
  let s0 := dropLines a bs.length s
  let s1 := { s0 with st := { s0.st with mem := writeBytes a bs s0.st.mem } }
  let first := a / 64
  let last := (a + bs.length - 1) / 64
  if bs = [] then s
  else (List.range (last - first + 1)).foldl (fun s i =>
    let b := first + i
    if psn then markBad true b s
    else if a ≤ 64 * b && 64 * b + 64 ≤ a + bs.length then markBad false b s
    else s) s1

/-- The beats of a sector (R307). -/
def Sec.beats (x : Sec) : List Beat :=
  (List.range 64).map (fun i => { data := fld x.data (512 * i) 512, psn := bit x.psn i })

/-- A sector from its beats. -/
def secOf (bs : List Beat) : Sec :=
  { data := BitVec.ofNat 32768 (bs.reverse.foldl (fun n b => n * 2 ^ 512 + b.data.toNat) 0)
    psn := BitVec.ofNat 64 ((bs.take 64).reverse.foldl (fun n b => n * 2 + (if b.psn then 1 else 0)) 0) }

/-- A sector from its bytes, without poison. -/
def secOfBytes (bs : List Byte) : Sec := { data := ofBytes 32768 bs, psn := 0 }

/-! ### Live capacity, admission totals and breach (17) -/

/-- Trained staging channels. -/
def State.channels (s : State) : Nat := popCount s.st.chInUse

/-- The fraction of 110 GB/s the link carries, in 1/16 GB/s (R80). -/
def State.linkLive (s : State) : Nat :=
  let full := 1760 * 2 ^ s.link.width.toNat / 16
  full / 2 ^ (6 - s.link.rate.toNat)

/-- Live capacity of a resource in 1/16 GB/s (Table 17-2, R338, R429). -/
def State.liveOf (s : State) (k : Res) : Nat :=
  let step := fun (full live : Nat) => match s.pw.memStep.toNat with
    | 0 => live
    | 1 => min live (full / 2)
    | _ => min live (full / 4)
  match k.val with
  | 0 => step 5280 (if s.pw.derated then 660 * s.channels * 300 / 330 else 660 * s.channels)
  | 1 | 2 => s.linkLive
  | 3 | 4 => 800 * (s.pair.ports.toList.filter (·.up)).length
  | 5 => step 384 (24 * popCount s.st.onfi)
  | _ => 40 * popCount s.st.onfi

/-- The admission total: AMOUNT over GUARANTEED and ELASTIC entries (R341). -/
def Arb.total (a : Arb) : Nat :=
  a.ent.toList.foldl (fun n e => if e.cls = .background then n else n + e.amount.toNat) 0

/-- FRAC of R347. -/
def fracOf (l t : Nat) : Nat := if t = 0 then 1024 else min 1024 (1024 * l / t)

/-- Recompute one resource: live capacity, entry to breach, FRAC and the start of the millisecond of
R348 (R338, R347). -/
def recapOne (k : Res) (s : State) : State :=
  let a := s.adm[k]
  let l := s.liveOf k
  let t := a.total
  let fr := BitVec.ofNat 11 (fracOf l t)
  let a1 := { a with live := satNat 16 l }
  if l < t then
    let s1 := s.onArb k (fun _ => { a1 with breach := true, frac := fr, okSince := none })
    if a.breach && a.frac == fr then s1
    else raiseEvent 0x0901 0xFF (BitVec.ofNat 32 k.val) (BitVec.ofNat 32 fr.toNat) s1
  else if a.breach then
    let s1 := s.onArb k (fun _ => { a1 with frac := 1024, okSince := some (a.okSince.getD s.now) })
    if a.frac == 1024 then s1
    else raiseEvent 0x0901 0xFF (BitVec.ofNat 32 k.val) 1024 s1
  else s.onArb k (fun _ => a1)

/-- Recompute every resource (R338). -/
def recap (s : State) : State := (List.finRange 7).foldl (fun s k => recapOne k s) s

/-- A breach ends: BREACH clears, FRAC reads 1024 and BREACH_END is raised (R348). -/
def endBreach (k : Res) (s : State) : State :=
  if s.adm[k].breach then
    raiseEvent 0x0902 0xFF (BitVec.ofNat 32 k.val) 0
      (s.onArb k (fun a => { a with breach := false, frac := 1024, okSince := none }))
  else s

/-- HL_STATUS.DEGRADED (R80). -/
def Link.degraded (x : Link) : Bool := x.rate != 6 || x.width != 4

/-- LINK_DEGRADED is raised while the link runs below 64 GT/s x16 (R80). -/
def reportLink (s : State) : State :=
  if s.link.degraded then
    raiseEvent 0x0301 0xFF (BitVec.ofNat 32 s.link.rate.toNat) (BitVec.ofNat 32 s.link.width.toNat) s else s

/-! ### Tags (5.5) -/

/-- Tags of the device-wide pool (5.5). -/
def State.poolSize (s : State) : Nat :=
  match s.link.tagw.toNat with | 0 => 256 | 1 => 768 | _ => 2048

def ReadReq.live (q : ReadReq) : Bool := match q.what with | .dropped | .merged .. => false | _ => true

/-- The read holds a tag of the pool. -/
def ReadReq.tagged (q : ReadReq) : Bool := match q.what with | .merged .. => false | _ => true

/-- Tags a ring holds against its cap; reads a ring reset left behind do not count (R91, R140). -/
def State.inUse (s : State) (r : Ring) : Nat := (s.link.reads.filter (fun q => q.key.ring == r && q.live)).length

def State.poolFree (s : State) : Nat := s.poolSize - (s.link.reads.filter (·.tagged)).length

/-! ### Completions (07) -/

def stOK : Byte := 0x00
def stDISCARDED : Byte := 0x01
def stCAUGHT : Byte := 0x02
def stMISSED : Byte := 0x03
def stFOREIGN : Byte := 0x04
def stRANGE : Byte := 0x05
def stUNFENCED : Byte := 0x06
def stPOISONED : Byte := 0x07
def stTRUNC : Byte := 0x08
def stREFUSED : Byte := 0x09
def stREFUSED_SECURE : Byte := 0x0A
def stNOT_ADMITTED : Byte := 0x0C
def stMEDIUM : Byte := 0x0D
def stTIMEOUT : Byte := 0x0E

/-- The outcome of a command or of one of its stages, as its entry will report it. -/
structure Outc where
  status : Byte := 0
  d0 : Nat := 0
  d1 : Nat := 0
  stage : Byte := 0
  more : Bool := false
  rst : Bool := false
  tainted : Bool := false
  refusedFor : Option Res := none
  /-- CAUSE of SVC_LAST for a refusal: 8 ZERO, or 0 where Table 17-5 names none. -/
  refusedCause : BitVec 4 := 8
  deriving DecidableEq, Repr

/-- Time the command spent DELAYED so far is added up when it goes on (R131). -/
def stopWaiting (now : Nat) (c : Cmd) : Cmd :=
  match c.waitFrom with
  | some t => { c with waitFrom := none, delay := c.delay + (now - t) }
  | none => c

/-- TRUNC of a snooped message stands where no earlier status of R129 applies (R234). -/
def withTrunc (c : Cmd) (o : Outc) : Outc :=
  match c.trunc with
  | some (l, n) => if o.status = stOK ∧ !o.more then { o with status := stTRUNC, d0 := l, d1 := min n 0xFFFFFFFF } else o
  | none => o

/-- Failed beats of a Rowan transfer that serves a packing, unpacking or re-sharding command stand in its status (R129,
R176, R224). -/
def withBad (c : Cmd) (o : Outc) : Outc :=
  if c.badBeats = 0 ∨ o.more ∨ !([0x11, 0x13, 0x14].contains c.op) then o
  else if o.status = stOK then
    { o with status := if c.badCause = some .timeout then stTIMEOUT else stPOISONED, d0 := c.badFirst.getD 0
             d1 := min c.badBeats 0xFFFFFFFF }
  else if o.status = stPOISONED then { o with d1 := min (o.d1 + c.badBeats) 0xFFFFFFFF }
  else o

/-- The sectors that DATA packets of a transfer still queued or unacknowledged carry. -/
def dataLeft (p : PeerSt) (xfer : Word) : Nat :=
  (p.out.filter (fun k => k.ty == 0x13 && k.payload.take 4 == bytesBE 4 xfer)).foldl
    (fun n k => n + 256 * (k.payload.getD 12 0).toNat + (k.payload.getD 13 0).toNat) 0

/-- Sectors of a transfer that are across. -/
def xferDone (p : PeerSt) (t : Transfer) : Nat :=
  if t.sending then (if t.accepted then t.total - dataLeft p t.xfer else 0) else t.secs.length

/-- Sectors a command has completed, which a DISCARDED entry reports in DETAIL1 (Table 7-5): sectors programmed of a
WRITE_SECTORS or of the image of a SNAP_SEAL, progress of a Vault operation, sectors across the Pair link. -/
def doneUnits (s : State) (r : Ring) (c : Cmd) : Nat :=
  match c.op with
  | 0x01 => c.units
  | 0x12 => match s.st.images.find? (fun i => i.tenant == s.ringTenant r && i.img == BitVec.ofNat 32 (c.f 0x10 4)) with
    | some i => if i.sealed_ then i.total - (s.st.staged.filter (fun g => g.src == .image i.tenant i.img)).length else 0
    | none => 0
  | 0x41 | 0x42 => if s.st.op.owner = some (r, c.cid) then s.st.op.done * 16384 else 0
  | 0x13 | 0x20 | 0x21 => s.pair.peers.toList.foldl (fun n p =>
      (p.xfers.filter (fun t => t.owner == some (r, c.cid))).foldl (fun n t => n + xferDone p t) n) 0
  | _ => 0

/-- The DISCARDED outcome with reason FAULT and the unit's number (R143, Table 7-5). -/
def faultOutc (unit : Nat) : Outc := { status := stDISCARDED, d0 := 1 + unit * 256 }

/-- A status of a command that was not performed, for a reason other than capacity (R131). -/
def notPerformed (o : Outc) : Bool :=
  [stCAUGHT, stMISSED, stFOREIGN, stRANGE, stUNFENCED, stREFUSED, stREFUSED_SECURE, stNOT_ADMITTED].contains o.status

/-- SERVICE of an entry: REFUSED, DELAYED or SERVED (R131). -/
def serviceOf (c : Cmd) (o : Outc) : BitVec 2 :=
  if o.refusedFor.isSome then 2 else if c.delayed && !notPerformed o then 1 else 0

/-- The entry a command's outcome makes (R124, R131, R346). -/
def entryOf (c : Cmd) (o : Outc) : Entry :=
  { tag := c.tag, opcode := BitVec.ofNat 8 c.op, status := o.status, stage := o.stage, ctx := c.ctx
    d0 := BitVec.ofNat 64 o.d0, d1 := BitVec.ofNat 32 o.d1
    service := serviceOf c o
    delay := if serviceOf c o = 1 then satNat 16 c.delay else 0
    tainted := o.tainted || c.tainted, rst := o.rst, corrected := c.corrected, more := o.more
    cid := c.cid, latchNo := c.latchNo, last := !o.more
    res := match o.refusedFor with | some k => BitVec.ofNat 3 k.val | none => c.res
    cause := match o.refusedFor with | some _ => o.refusedCause | none => c.cause
    covers := if c.op = 0x04 ∧ o.status = stOK then c.scope else []
    owed := if c.op = 0x12 then (if c.f 0x14 1 = 1 then 3 else 2) else 1 }

/-- The command of a ring with number `cid`, wherever it runs. -/
def RingSt.find (x : RingSt) (cid : Nat) : Option Cmd :=
  match x.queue.find? (·.cid == cid) with
  | some c => some c
  | none => x.past.find? (·.cid == cid)

/-- Rewrite the command with number `cid` in place. -/
def RingSt.mod (x : RingSt) (cid : Nat) (f : Cmd → Cmd) : RingSt :=
  { x with queue := x.queue.map (fun c => if c.cid = cid then f c else c)
           past := x.past.map (fun c => if c.cid = cid then f c else c) }

def RingSt.drop (x : RingSt) (cid : Nat) : RingSt :=
  { x with queue := x.queue.filter (·.cid != cid), past := x.past.filter (·.cid != cid) }

/-- The command leaves the head and runs past it (R114). -/
def RingSt.leaveHead (x : RingSt) (cid : Nat) : RingSt :=
  match x.queue.find? (·.cid == cid) with
  | some c => { x with queue := x.queue.filter (·.cid != cid), past := x.past ++ [{ c with atHead := false }] }
  | none => x

def leaveHead (r : Ring) (cid : Nat) (s : State) : State := s.onRing r (·.leaveHead cid)
def modCmd (r : Ring) (cid : Nat) (f : Cmd → Cmd) (s : State) : State := s.onRing r (·.mod cid f)

/-- A load ends, whatever its result: LOADING reads 0 and its cause of busy ends (R73). -/
def endLoad (s : State) : State := busyOff 2 { s with cfg := { s.cfg with loading := false } }

/-- The entry of an outcome, with what the command had completed. -/
def entryFor (s : State) (r : Ring) (c : Cmd) (o : Outc) : Entry :=
  let n := min (doneUnits s r c) 0xFFFFFFFF
  let o1 := withTrunc c (withBad c o)
  { entryOf c (if o1.status = stDISCARDED then { o1 with d1 := n } else o1) with done := n }

/-- One entry joins the ring's entries that wait to be written (R113, R115). A last entry takes its
command out of the queue and of the commands past the head. -/
def pushEntry (r : Ring) (c0 : Cmd) (o : Outc) (s : State) : State :=
  let c := stopWaiting s.now ((s.rings[r].find c0.cid).getD c0)
  let s1 := s.onRing r (fun x =>
    let y := { x with waiting := x.waiting ++ [entryFor s r c o] }
    if o.more then y.mod c.cid (fun c => { c with
      corrected := false, delayed := false, delay := 0, res := 7, cause := 0 }) else y.drop c.cid)
  if c.op = 0x40 then endLoad s1 else s1

/-- The command completes with a last FINAL entry. -/
abbrev complete (r : Ring) (c : Cmd) (status : Byte) (d0 d1 : Nat) (s : State) : State :=
  pushEntry r c { status := status, d0 := d0, d1 := d1 } s

/-- The ring holds a latched command without its last completion entry (R378). -/
def RingSt.busy (x : RingSt) : Bool :=
  !x.queue.isEmpty || !x.past.isEmpty || !x.aborts.isEmpty || x.waiting.any (·.last)

/-- Numbers of the commands of a ring that have not written their last entry. -/
def RingSt.open_ (x : RingSt) : List (Nat × BitVec 16) :=
  x.queue.map (fun c => (c.cid, c.tag)) ++ x.past.map (fun c => (c.cid, c.tag))
    ++ (x.waiting.filter (·.last)).map (fun e => (e.cid, e.tag)) ++ x.aborts.flatMap (fun a =>
      (a.cmd.cid, a.cmd.tag) :: (match a.caught with | some c => [(c.cid, c.tag)] | none => []))
    ++ x.dying.map (fun d => (d.entry.cid, d.entry.tag))

/-- The ring that issued command `cid`, if it is still held. -/
def State.ringOf (s : State) (cid : Nat) : Option Ring :=
  (List.finRange 16).find? (fun r => (s.rings[r].find cid).isSome)

/-- A command has completed (R127): it leaves every FENCE's scope, spoiling it when it was not OK. -/
def leaveScopes (cid : Nat) (ok : Bool) (s : State) : State :=
  { s with rings := mapBank (fun _ x =>
      { x with queue := x.queue.map (fun c =>
          if c.scope.contains cid then
            { c with scopeWait := c.scopeWait.filter (· != cid), scopeBad := c.scopeBad || !ok }
          else c) }) s.rings }

/-- A stage that is not OK spoils a FENCE over its command. -/
def spoilScopes (cid : Nat) (s : State) : State :=
  { s with rings := mapBank (fun _ x =>
      { x with queue := x.queue.map (fun c => if c.scope.contains cid then { c with scopeBad := true }
          else c) }) s.rings }

/-! ### FLUSH (R119) -/

/-- The rings of a FLUSH's scope. -/
def flushRings (s : State) (r : Ring) (c : Cmd) : List Ring :=
  if c.f 0x10 1 = 0 then [r] else (List.finRange 16).filter (fun q => s.ringTenant q == s.ringTenant r)

/-- Every WRITE_SECTORS latched before the FLUSH on its scope rings was programmed or failed (R119). -/
def flushReached (s : State) (r : Ring) (c : Cmd) : Bool :=
  (flushRings s r c).all (fun q =>
    let x := s.rings[q]
    !(x.queue ++ x.past).any (fun d => d.op == 1 && decide (d.cid < c.cid)) &&
    !s.st.staged.any (fun g => g.src == .ring q && (decide (g.cid < c.cid) || g.stands.any (fun i => decide (i < c.cid)))))

/-- Every FLUSH whose scope is reached completes OK (R119, R136). -/
def settleFlushes (s : State) : State :=
  (List.finRange 16).foldl (fun s r =>
    (s.rings[r].past.filter (fun c => c.op == 3)).foldl
      (fun s c => if flushReached s r c then complete r c stOK 0 0 s else s) s) s

/-! ### Deferred errors (7.4) -/

/-- One deferred-error record (R133 to R135): it takes the next RSEQ, is written unless the log is full,
flags the next entry and raises DEFER. -/
def deferRecord (r : Ring) (lba count : Nat) (tag : BitVec 16) (cause : Nat) (ctx : Dword) (s : State) : State :=
  let x := s.rings[r]
  let n := if x.rseq = 0xFFFFFFFF then 1 else x.rseq + 1
  let rec_ : DeferRec := {
    lba := BitVec.ofNat 64 lba, count := BitVec.ofNat 32 count, tag := tag
    cause := BitVec.ofNat 8 cause, ctx := ctx, rseq := n }
  let y := if x.dTail - x.dHead = 64 then { x with ovf := satAdd x.ovf 1 }
           else { x with log := modAt x.log (ix 63 (x.dTail.toNat % 64)) (fun _ => rec_), dTail := x.dTail + 1 }
  raiseEvent 0x0304 (ringUnit r) n 0 (s.onRing r (fun _ => { y with rseq := n, deferOwed := true }))

/-- Runs of contiguous sectors of one command. -/
def runs : List (Nat × BitVec 16 × Dword × Nat) → List (Nat × Nat × BitVec 16 × Dword × Nat)
  | [] => []
  | (l, t, x, c) :: rest =>
    match runs rest with
    | (l2, n, t2, x2, c2) :: more => if l2 = l + 1 && c2 = c then (l, n + 1, t, x, c) :: more
                                     else (l, 1, t, x, c) :: (l2, n, t2, x2, c2) :: more
    | [] => [(l, 1, t, x, c)]

/-- Insertion by LBA within a command. -/
def insLost (g : Nat × BitVec 16 × Dword × Nat) :
    List (Nat × BitVec 16 × Dword × Nat) → List (Nat × BitVec 16 × Dword × Nat)
  | [] => [g]
  | h :: t => if g.2.2.2 < h.2.2.2 || (g.2.2.2 == h.2.2.2 && g.1 ≤ h.1) then g :: h :: t else h :: insLost g t

/-- Records for lost or failed acknowledged sectors of ring `r`: one per contiguous run of one command. -/
def deferSectors (r : Ring) (cause : Nat) (gs : List Staged) (s : State) : State :=
  let sorted := (gs.map (fun g => (g.lba, g.tag, g.ctx, g.cid))).foldr insLost []
  (runs sorted).foldl (fun s x => deferRecord r x.1 x.2.1 x.2.2.1 cause x.2.2.2.1 s) s

/-! ### Retained record (3.3) -/

/-- The live value of every setting of Table 3-4 (R53). -/
def State.liveRecord (s : State) : Record :=
  { rings := Vector.ofFn (fun r : Fin 16 =>
      { durable := s.rings[r].durable, resetOnly := s.rings[r].resetOnly
        tagCap := s.rings[r].tagCap, stallMs := s.rings[r].stallMs })
    windowS := s.wd.windowS, tenants := s.tenants
    cairnOwner := Vector.ofFn (fun c : Fin 128 => s.cairns[c].owner)
    capW := s.pw.capW, mgmtCap := s.pw.mgmtCap
    peers := Vector.ofFn (fun e : Fin 4 => s.pair.peers[e].cfg)
    digest := s.boot.lastDigest }

/-- RET_STATUS.PENDING: a changed setting is not yet committed (Table 3-6). Before a bring-up has applied the settings
no live value has changed. -/
def State.retPending (s : State) : Bool := s.boot.up && decide (s.liveRecord ≠ s.boot.record)

end Sys2Proof.Machine
end

