-- ==== Sys2Proof/Machine/Sha.lean ====
section
/-! DEFINITION. The digests of the Sloe lanes and of the container: SHA-256, SHA-384, SHA-512 (FIPS 180-4,
R231), HMAC from cached chaining values (FIPS 198-1, R241), and CRC-32C (R279). -/

namespace Sys2Proof.Machine

/-! ### SHA-2 over natural-number words -/

/-- Parameters of one compression function: word width, round constants and rotation amounts. -/
structure ShaPar where
  w : Nat
  block : Nat
  k : List Nat
  bs0 : Nat × Nat × Nat
  bs1 : Nat × Nat × Nat
  ss0 : Nat × Nat × Nat
  ss1 : Nat × Nat × Nat

def shaK256 : List Nat :=
  [0x428A2F98, 0x71374491, 0xB5C0FBCF, 0xE9B5DBA5, 0x3956C25B, 0x59F111F1, 0x923F82A4, 0xAB1C5ED5,
   0xD807AA98, 0x12835B01, 0x243185BE, 0x550C7DC3, 0x72BE5D74, 0x80DEB1FE, 0x9BDC06A7, 0xC19BF174,
   0xE49B69C1, 0xEFBE4786, 0x0FC19DC6, 0x240CA1CC, 0x2DE92C6F, 0x4A7484AA, 0x5CB0A9DC, 0x76F988DA,
   0x983E5152, 0xA831C66D, 0xB00327C8, 0xBF597FC7, 0xC6E00BF3, 0xD5A79147, 0x06CA6351, 0x14292967] ++
  [0x27B70A85, 0x2E1B2138, 0x4D2C6DFC, 0x53380D13, 0x650A7354, 0x766A0ABB, 0x81C2C92E, 0x92722C85,
   0xA2BFE8A1, 0xA81A664B, 0xC24B8B70, 0xC76C51A3, 0xD192E819, 0xD6990624, 0xF40E3585, 0x106AA070,
   0x19A4C116, 0x1E376C08, 0x2748774C, 0x34B0BCB5, 0x391C0CB3, 0x4ED8AA4A, 0x5B9CCA4F, 0x682E6FF3,
   0x748F82EE, 0x78A5636F, 0x84C87814, 0x8CC70208, 0x90BEFFFA, 0xA4506CEB, 0xBEF9A3F7, 0xC67178F2]

def shaK512 : List Nat :=
  [0x428A2F98D728AE22, 0x7137449123EF65CD, 0xB5C0FBCFEC4D3B2F, 0xE9B5DBA58189DBBC,
   0x3956C25BF348B538, 0x59F111F1B605D019, 0x923F82A4AF194F9B, 0xAB1C5ED5DA6D8118,
   0xD807AA98A3030242, 0x12835B0145706FBE, 0x243185BE4EE4B28C, 0x550C7DC3D5FFB4E2,
   0x72BE5D74F27B896F, 0x80DEB1FE3B1696B1, 0x9BDC06A725C71235, 0xC19BF174CF692694,
   0xE49B69C19EF14AD2, 0xEFBE4786384F25E3, 0x0FC19DC68B8CD5B5, 0x240CA1CC77AC9C65] ++
  [0x2DE92C6F592B0275, 0x4A7484AA6EA6E483, 0x5CB0A9DCBD41FBD4, 0x76F988DA831153B5,
   0x983E5152EE66DFAB, 0xA831C66D2DB43210, 0xB00327C898FB213F, 0xBF597FC7BEEF0EE4,
   0xC6E00BF33DA88FC2, 0xD5A79147930AA725, 0x06CA6351E003826F, 0x142929670A0E6E70,
   0x27B70A8546D22FFC, 0x2E1B21385C26C926, 0x4D2C6DFC5AC42AED, 0x53380D139D95B3DF,
   0x650A73548BAF63DE, 0x766A0ABB3C77B2A8, 0x81C2C92E47EDAEE6, 0x92722C851482353B] ++
  [0xA2BFE8A14CF10364, 0xA81A664BBC423001, 0xC24B8B70D0F89791, 0xC76C51A30654BE30,
   0xD192E819D6EF5218, 0xD69906245565A910, 0xF40E35855771202A, 0x106AA07032BBD1B8,
   0x19A4C116B8D2D0C8, 0x1E376C085141AB53, 0x2748774CDF8EEB99, 0x34B0BCB5E19B48A8,
   0x391C0CB3C5C95A63, 0x4ED8AA4AE3418ACB, 0x5B9CCA4F7763E373, 0x682E6FF3D6B2B8A3,
   0x748F82EE5DEFB2FC, 0x78A5636F43172F60, 0x84C87814A1F0AB72, 0x8CC702081A6439EC] ++
  [0x90BEFFFA23631E28, 0xA4506CEBDE82BDE9, 0xBEF9A3F7B2C67915, 0xC67178F2E372532B,
   0xCA273ECEEA26619C, 0xD186B8C721C0C207, 0xEADA7DD6CDE0EB1E, 0xF57D4F7FEE6ED178,
   0x06F067AA72176FBA, 0x0A637DC5A2C898A6, 0x113F9804BEF90DAE, 0x1B710B35131C471B,
   0x28DB77F523047D84, 0x32CAAB7B40C72493, 0x3C9EBE0A15C9BEBC, 0x431D67C49C100D4C,
   0x4CC5D4BECB3E42B6, 0x597F299CFC657E2A, 0x5FCB6FAB3AD6FAEC, 0x6C44198C4A475817]

def sha256Par : ShaPar :=
  { w := 32, block := 64, k := shaK256, bs0 := (2, 13, 22), bs1 := (6, 11, 25), ss0 := (7, 18, 3), ss1 := (17, 19, 10) }

def sha512Par : ShaPar :=
  { w := 64, block := 128, k := shaK512, bs0 := (28, 34, 39), bs1 := (14, 18, 41), ss0 := (1, 8, 7), ss1 := (19, 61, 6) }

def shaPar : Alg → ShaPar
  | .sha256 => sha256Par
  | _ => sha512Par

/-- Initial hash values (FIPS 180-4, 5.3). -/
def shaInit : Alg → List Nat
  | .sha256 =>
    [0x6A09E667, 0xBB67AE85, 0x3C6EF372, 0xA54FF53A, 0x510E527F, 0x9B05688C, 0x1F83D9AB, 0x5BE0CD19]
  | .sha384 =>
    [0xCBBB9D5DC1059ED8, 0x629A292A367CD507, 0x9159015A3070DD17, 0x152FECD8F70E5939,
     0x67332667FFC00B31, 0x8EB44A8768581511, 0xDB0C2E0D64F98FA7, 0x47B5481DBEFA4FA4]
  | .sha512 =>
    [0x6A09E667F3BCC908, 0xBB67AE8584CAA73B, 0x3C6EF372FE94F82B, 0xA54FF53A5F1D36F1,
     0x510E527FADE682D1, 0x9B05688C2B3E6C1F, 0x1F83D9ABFB41BD6B, 0x5BE0CD19137E2179]

/-- Octets of the digest (R231). -/
def digestLen : Alg → Nat
  | .sha256 => 32 | .sha384 => 48 | .sha512 => 64

/-- Rotation right of a `w`-bit word. -/
def rotr (w x n : Nat) : Nat := (x >>> n) ||| ((x <<< (w - n)) % 2 ^ w)

def shaBig (w : Nat) (r : Nat × Nat × Nat) (x : Nat) : Nat := rotr w x r.1 ^^^ rotr w x r.2.1 ^^^ rotr w x r.2.2
def shaSmall (w : Nat) (r : Nat × Nat × Nat) (x : Nat) : Nat := rotr w x r.1 ^^^ rotr w x r.2.1 ^^^ (x >>> r.2.2)

/-- The message schedule, newest word first, extended by `n` words. -/
def shaExpand (p : ShaPar) : Nat → List Nat → List Nat
  | 0, ws => ws
  | n + 1, ws =>
    shaExpand p n (((shaSmall p.w p.ss1 (ws.getD 1 0) + ws.getD 6 0 + shaSmall p.w p.ss0 (ws.getD 14 0)
      + ws.getD 15 0) % 2 ^ p.w) :: ws)

/-- One round over the eight working variables. -/
def shaRound (p : ShaPar) (v : List Nat) (k w : Nat) : List Nat :=
  match v with
  | [a, b, c, d, e, f, g, h] =>
    let m := 2 ^ p.w
    let ch := (e &&& f) ^^^ ((m - 1 - e) &&& g)
    let t1 := h + shaBig p.w p.bs1 e + ch + k + w
    let maj := (a &&& b) ^^^ (a &&& c) ^^^ (b &&& c)
    let t2 := shaBig p.w p.bs0 a + maj
    [(t1 + t2) % m, a, b, c, (d + t1) % m, e, f, g]
  | _ => v

def shaRounds (p : ShaPar) : List Nat → List Nat → List Nat → List Nat
  | k :: ks, w :: ws, v => shaRounds p ks ws (shaRound p v k w)
  | _, _, v => v

/-- A big-endian number. -/
def natBE (bs : List Byte) : Nat := bs.foldl (fun n b => n * 256 + b.toNat) 0

/-- `n` big-endian bytes of a number. -/
def toBE (n x : Nat) : List Byte := (List.range n).reverse.map (fun i => BitVec.ofNat 8 (x / 256 ^ i))

/-- `n` little-endian bytes of a number. -/
def toLE (n x : Nat) : List Byte := (List.range n).map (fun i => BitVec.ofNat 8 (x / 256 ^ i))

/-- Words of a block. -/
def shaWords (p : ShaPar) (blk : List Byte) : List Nat :=
  (List.range 16).map (fun i => natBE ((blk.drop (i * (p.w / 8))).take (p.w / 8)))

/-- The compression of one block. -/
def shaCompress (p : ShaPar) (h : List Nat) (blk : List Byte) : List Nat :=
  let ws := (shaExpand p (p.k.length - 16) (shaWords p blk).reverse).reverse
  List.zipWith (fun a b => (a + b) % 2 ^ p.w) h (shaRounds p p.k ws h)

/-- Whole blocks of a byte string compressed in order; `fuel` bounds the number of blocks. -/
def shaBlocks (p : ShaPar) : Nat → List Nat → List Byte → List Nat
  | 0, h, _ => h
  | fuel + 1, h, bs => if bs.length < p.block then h else shaBlocks p fuel (shaCompress p h (bs.take p.block)) (bs.drop p.block)

/-- The padding of a message whose last piece is `bs`, with `total` bytes in all (FIPS 180-4, 5.1). -/
def shaPad (p : ShaPar) (bs : List Byte) (total : Nat) : List Byte :=
  let lenBytes := p.w / 4
  let z := (p.block - (bs.length + 1 + lenBytes) % p.block) % p.block
  bs ++ [0x80] ++ List.replicate z 0 ++ toBE lenBytes (8 * total)

/-- A digest finished from a chaining value after `done` bytes, over the bytes that remain. -/
def shaFinish (a : Alg) (h : List Nat) (done : Nat) (bs : List Byte) : List Byte :=
  let p := shaPar a
  let m := shaPad p bs (done + bs.length)
  ((shaBlocks p (m.length / p.block) h m).flatMap (toBE (p.w / 8))).take (digestLen a)

/-- The digest of a message (R231). -/
def sha (a : Alg) (bs : List Byte) : List Byte := shaFinish a (shaInit a) 0 bs

/-- Whole blocks absorbed into a chaining value. -/
def shaAbsorb (a : Alg) (h : List Nat) (bs : List Byte) : List Nat := shaBlocks (shaPar a) (bs.length / (shaPar a).block) h bs

/-- Chaining values as words of eight bytes each, big-endian, for storage. -/
def packChain (h : List Nat) : List Byte := h.flatMap (toBE 8)
def unpackChain (bs : List Byte) : List Nat := (List.range 8).map (fun i => natBE ((bs.drop (8 * i)).take 8))

/-- K0 of FIPS 198-1: a longer key is hashed first, then padded with zero to the block size (Table 18-3). -/
def hmacK0 (a : Alg) (key : List Byte) : List Byte :=
  let b := (shaPar a).block
  let k := if b < key.length then sha a key else key
  k ++ List.replicate (b - k.length) 0

/-- The chaining value after the block K0 XOR pad (R241). -/
def hmacPad (a : Alg) (pad : Byte) (key : List Byte) : List Byte :=
  packChain (shaCompress (shaPar a) (shaInit a) ((hmacK0 a key).map (fun b => b ^^^ pad)))

/-- HMAC(K, m) from the slot's two chaining values (R241). -/
def hmacFrom (a : Alg) (inner outer : List Byte) (m : List Byte) : List Byte :=
  let b := (shaPar a).block
  shaFinish a (unpackChain outer) b (shaFinish a (unpackChain inner) b m)

/-! ### CRC-32C (R279) -/

/-- One bit of the reflected Castagnoli polynomial. -/
def crcBit (c : Nat) : Nat := if c % 2 = 1 then (c / 2) ^^^ 0x82F63B78 else c / 2

/-- One byte. -/
def crcByte (c : Nat) (b : Byte) : Nat :=
  crcBit (crcBit (crcBit (crcBit (crcBit (crcBit (crcBit (crcBit (c ^^^ b.toNat))))))))

/-- CRC-32C of a byte string. -/
def crc32c (bs : List Byte) : Nat := (bs.foldl crcByte 0xFFFFFFFF) ^^^ 0xFFFFFFFF

end Sys2Proof.Machine
end

