-- ==== Sys2Proof/Machine/Bramble.lean ====
section
/-! DEFINITION. The Bramble image (14): the writer of packed sectors, manifest, digest tree and header,
and the reader with its checks, its hunt for sync and its counters. -/

namespace Sys2Proof.Machine

/-! ### Bits (R278: most significant bit first) -/

/-- The `n` low bits of a number, most significant first. -/
def bitsBE (n x : Nat) : List Bool := (List.range n).reverse.map (fun i => x.testBit i)

/-- A number from its bits, most significant first. -/
def natBits (bs : List Bool) : Nat := bs.foldl (fun n b => 2 * n + b.toNat) 0

/-- Bytes from bits, eight at a time, the last padded with zero bits (R279). -/
def bitsBytes : List Bool → List Byte
  | a :: b :: c :: d :: e :: f :: g :: h :: rest => BitVec.ofNat 8 (natBits [a, b, c, d, e, f, g, h]) :: bitsBytes rest
  | [] => []
  | l => [BitVec.ofNat 8 (natBits (l ++ List.replicate (8 - l.length) false))]

def bytesBits (bs : List Byte) : List Bool := bs.flatMap (fun b => bitsBE 8 b.toNat)

/-- The sync mark (Table 14-1) and its bits 31:10 (R280). -/
def markWord : Nat := 0x9E3B41D7
def markTop : Nat := 0x278ED0

/-- Bytes of an element (Table 13-2). -/
def dsize : DType → Nat
  | .fp32 => 4 | .bf16 => 2 | .int32 => 4

/-- Mantissa width (R283). -/
def mant : DType → Nat
  | .fp32 => 23 | .bf16 => 7 | .int32 => 0

/-- Packing off (Table 14-3). -/
def levelOff : Nat := 0x80

/-! ### Code tables (R282) -/

/-- Table `t`: 0 is built in, 1 to 15 come from the bit-stream or the header. -/
def codeTable (tables : List (List Nat)) (t : Nat) : List Nat :=
  if t = 0 then List.replicate 256 8 else (tables.getD (t - 1) [])

/-- Symbols of length `n`. -/
def codeCount (lens : List Nat) (n : Nat) : Nat := if n = 0 then 0 else (lens.filter (· == n)).length

/-- The first codeword of length `n`. -/
def codeFirst (lens : List Nat) : Nat → Nat
  | 0 => 0
  | n + 1 => 2 * (codeFirst lens n + codeCount lens n)

/-- The codeword of symbol `s`, as bits; empty for a symbol without a code. -/
def codeword (lens : List Nat) (s : Nat) : List Bool :=
  let n := lens.getD s 0
  bitsBE n (codeFirst lens n + codeCount (lens.take s) n)

/-- The symbol whose canonical code starts the bits, and the bits after it. -/
def readSym (lens : List Nat) (bs : List Bool) : Option (Nat × List Bool) :=
  let rec go : Nat → Nat → Nat → List Bool → Option (Nat × List Bool)
    | 0, _, _, _ => none
    | _, _, _, [] => none
    | fuel + 1, n, code, b :: rest =>
      let c := 2 * code + b.toNat
      let first := codeFirst lens n
      if first ≤ c ∧ c < first + codeCount lens n then
        (((List.range 256).filter (fun s => lens.getD s 0 == n))[c - first]?).map (fun s => (s, rest))
      else go fuel (n + 1) c rest
  go 15 1 0 bs

/-- The Kraft sum of a table in units of 2^-15 (R274). -/
def kraft (lens : List Nat) : Nat := lens.foldl (fun n l => if l = 0 then n else n + 2 ^ (15 - l)) 0

/-- A table as the header stores it (R282). -/
def tableBytes (lens : List Nat) : List Byte :=
  (List.range 128).map (fun j => BitVec.ofNat 8 (lens.getD (2 * j) 0 % 16 + 16 * (lens.getD (2 * j + 1) 0 % 16)))

def tableLens (bs : List Byte) : List Nat := bs.flatMap (fun b => [b.toNat % 16, b.toNat / 16])

/-! ### Packing modes (R283, R284) -/

/-- The elements of a byte string, little-endian. -/
def elemsOf (size : Nat) (bs : List Byte) : List Nat :=
  (List.range (bs.length / size)).map (fun i => natLE ((bs.drop (size * i)).take size))

/-- Sign, exponent and mantissa. -/
def floatParts (m x : Nat) : Nat × Nat × Nat := (x / 2 ^ (m + 8) % 2, x / 2 ^ m % 256, x % 2 ^ m)

/-- Trailing zeros of a mantissa; all of it for zero. -/
def trailing (m x : Nat) : Nat := ((List.range m).find? (fun i => x.testBit i)).getD m

def trimOf (m : Nat) (xs : List Nat) : Nat := xs.foldl (fun t x => min t (trailing m (x % 2 ^ m))) m

/-- Differences from the previous element, the first from `p`, modulo `q`. -/
def diffs (q : Nat) : Nat → List Nat → List Nat
  | _, [] => []
  | p, x :: xs => (x + q - p) % q :: diffs q x xs

/-- The inverse of `diffs`. -/
def undiffs (q : Nat) : Nat → List Nat → List Nat
  | _, [] => []
  | p, d :: ds => (p + d) % q :: undiffs q ((p + d) % q) ds

/-- The folded difference of INT: (d << 1) XOR (d >> 31, arithmetic). -/
def zigzag (d : Nat) : Nat := ((2 * d) % 2 ^ 32) ^^^ (if d < 2 ^ 31 then 0 else 2 ^ 32 - 1)

/-- Its inverse. -/
def unzigzag (u : Nat) : Nat := if u % 2 = 0 then u / 2 else 2 ^ 32 - 1 - u / 2

/-- Bit length of a number below 2^32. -/
def bitLen (u : Nat) : Nat := ((List.range 33).find? (fun n => decide (u < 2 ^ n))).getD 33

/-- One way of coding a packed sector: mode, table and, per element, its symbol and its further bits. -/
structure Coding where
  mode : Nat
  table : Nat
  trim : Nat
  syms : List Nat
  extra : List (List Bool)
  deriving DecidableEq, Repr

/-- Further bits of a float element: s, then m bits M-1 down to TRIM. -/
def floatExtra (m trim x : Nat) : List Bool :=
  let p := floatParts m x
  (p.1 == 1) :: bitsBE (m - trim) (p.2.2 / 2 ^ trim)

/-- Symbols and further bits of a coded mode; RAW has none. -/
def codingOf (t : DType) (mode : Nat) (xs : List Nat) : Coding :=
  if mode = 3 then
    let us := (diffs (2 ^ 32) 0 xs).map zigzag
    { mode := 3, table := 0, trim := 0, syms := us.map bitLen, extra := us.map (fun u => bitsBE (bitLen u - 1) u) }
  else
    let m := mant t
    let trim := trimOf m xs
    let es := xs.map (fun x => (floatParts m x).2.1)
    { mode := mode, table := 0, trim := trim, syms := if mode = 2 then diffs 256 127 es else es
      extra := xs.map (floatExtra m trim) }

/-- A table is usable when every symbol the sector needs has a code (R282). -/
def tableUsable (lens : List Nat) (syms : List Nat) : Bool := syms.all (fun s => lens.getD s 0 != 0)

def symCost (lens : List Nat) (syms : List Nat) : Nat := syms.foldl (fun n s => n + lens.getD s 0) 0

/-- LEN_BITS of a coding under a table. -/
def codingLen (lens : List Nat) (c : Coding) : Nat := symCost lens c.syms + c.extra.foldl (fun n e => n + e.length) 0

/-- The payload bits. -/
def codingBits (lens : List Nat) (c : Coding) : List Bool :=
  (List.zipWith (fun s e => codeword lens s ++ e) c.syms c.extra).flatten

/-- Modes of Table 14-8 beside RAW. -/
def levelModes (level : Nat) (t : DType) : List Nat :=
  if level = levelOff then []
  else match t with
    | .int32 => [3]
    | _ => if level = 2 then [1, 2] else [1]

/-- LEVEL 0: the table of least cost over the first eight beats to arrive, among those the sector can
use; ties to the lower table (R285). -/
def arrivalTable (tables : List (List Nat)) (per : Nat) (arrival : List Nat) (c : Coding) : List Nat :=
  let nb := ceilDiv c.syms.length per
  let order := ((arrival.filter (· < nb)) ++ List.range nb).foldl (fun l b => if l.contains b then l else l ++ [b]) []
  let seen := (order.take 8).flatMap (fun b => (c.syms.drop (per * b)).take per)
  let ok := (List.range (tables.length + 1)).filter (fun t => tableUsable (codeTable tables t) c.syms)
  match ok.foldl (fun best t => match best with
      | none => some t
      | some b => if symCost (codeTable tables t) seen < symCost (codeTable tables b) seen then some t else some b) none with
  | some t => [t]
  | none => []

/-- The coding the packer emits: fewest LEN_BITS, ties to the lower MODE, then the lower TABLE (R285).
Answers mode, table, trim and payload bits. -/
def packSector (level : Nat) (tables : List (List Nat)) (arrival : List Nat) (t : DType) (bs : List Byte) :
    Nat × Nat × Nat × List Bool :=
  let xs := elemsOf (dsize t) bs
  let cands : List (Nat × Coding) := (levelModes level t).flatMap (fun mode =>
    let c := codingOf t mode xs
    let ts := if level = 0 then arrivalTable tables (64 / dsize t) arrival c
      else (List.range (tables.length + 1)).filter (fun k => tableUsable (codeTable tables k) c.syms)
    ts.map (fun k => (codingLen (codeTable tables k) c, { c with table := k })))
  let best := cands.foldl (fun (b : Option (Nat × Coding)) x => match b with
    | none => if x.1 < 8 * bs.length then some x else none
    | some y => if x.1 < y.1 then some x else some y) none
  match best with
  | none => (0, 0, 0, bytesBits bs)
  | some (_, c) => (c.mode, c.table, c.trim, codingBits (codeTable tables c.table) c)

/-! ### The packed sector stream (R278 to R281) -/

/-- The 160 header bits (Table 14-6). -/
def sectorHeader (chunk seq nelem mode table trim : Nat) (pois : Bool) (payload : List Bool) : List Bool :=
  let h := bitsBE 24 chunk ++ bitsBE 16 seq ++ bitsBE 12 nelem ++ bitsBE 2 mode ++ bitsBE 4 table ++ bitsBE 5 trim
    ++ [pois] ++ bitsBE 16 payload.length ++ bitsBE 16 0 ++ bitsBE 32 (crc32c (bitsBytes payload))
  h ++ bitsBE 32 (crc32c (bitsBytes h))

/-- The writer: bits so far, newest first, and the last 22 of them as a number. -/
structure BitWr where
  out : List Bool := []
  win : Nat := 0

def BitWr.put (w : BitWr) (b : Bool) : BitWr := { out := b :: w.out, win := (2 * w.win + b.toNat) % 2 ^ 22 }

/-- One bit subject to emulation prevention (R280). -/
def BitWr.putStuffed (w : BitWr) (b : Bool) : BitWr :=
  if w.win = markTop then (w.put true).put b else w.put b

/-- One packed sector: mark, header and payload. -/
def BitWr.sector (w : BitWr) (bits : List Bool) : BitWr :=
  bits.foldl BitWr.putStuffed ((bitsBE 32 markWord).foldl BitWr.put w)

/-- Fill up to `n` further bits. -/
def BitWr.fill (w : BitWr) : Nat → BitWr
  | 0 => w
  | n + 1 => (w.put (w.win == markTop)).fill n

/-- Canonical bytes with every poisoned 64-byte beat zero (R284). -/
def zeroBad (bs : List Byte) (bad : List Nat) : List Byte := bs.mapIdx (fun i b => if bad.contains (i / 64) then 0 else b)

/-- The bit sequence of a chunk and whether a packed sector has POISON (R278). -/
def chunkBits (level : Nat) (tables : List (List Nat)) (arrival : Nat → List Nat) (t : DType) (chunk : Nat)
    (bs : List Byte) (bad : List Nat) : List Bool × Bool :=
  let n := ceilDiv bs.length 4096
  let clean := zeroBad bs bad
  let r := (List.range n).foldl (fun (acc : BitWr × Bool) k =>
    let part := (clean.drop (4096 * k)).take 4096
    let p := bad.any (fun b => b / 64 == k)
    let (mode, table, trim, payload) := packSector level tables (arrival k) t part
    (acc.1.sector (sectorHeader chunk k (part.length / dsize t) mode table trim p payload ++ payload), acc.2 || p))
    ({}, false)
  let len := r.1.out.length
  ((r.1.fill (ceilDiv len 32768 * 32768 - len)).out.reverse, r.2)

/-- Whole image sectors from bytes, the last padded with zero. -/
def toSecs (bs : List Byte) : List Sec :=
  (List.range (ceilDiv bs.length 4096)).map (fun i => secOfBytes ((bs.drop (4096 * i)).take 4096))

/-- The bytes of a sector. -/
def Sec.bytes (x : Sec) : List Byte := bytesLE 4096 x.data

/-- One chunk packed: its sectors, flags and leaf digest (R277). -/
def packChunk (level : Nat) (tables : List (List Nat)) (arrival : Nat → List Nat) (alg : Alg) (t : DType)
    (tensor chunk : Nat) (lo bext : List Nat) (bs : List Byte) (bad : List Nat) : Chunk :=
  let (bits, pois) := chunkBits level tables arrival t chunk bs bad
  let raw := bitsBytes bits
  { tensor := tensor, lo := lo, bext := bext, canon := bs.length, psect := ceilDiv bs.length 4096
    pois := pois, secs := toSecs raw, leaf := sha alg raw }

/-! ### Manifest, tree and header (R273 to R277) -/

/-- Eight 32-bit numbers, zero from the end of the list up. -/
def eight (xs : List Nat) : List Byte := (List.range 8).flatMap (fun i => toLE 4 (xs.getD i 0))

/-- Tensors in ascending TENSOR_ID. -/
def insTensor (x : TensorSec) : List TensorSec → List TensorSec
  | [] => [x]
  | y :: l => if x.id ≤ y.id then x :: y :: l else y :: insTensor x l

def sortTensors (ts : List TensorSec) : List TensorSec := ts.foldr insTensor []

def dtypeCode : DType → Nat
  | .fp32 => 0 | .bf16 => 1 | .int32 => 2

/-- A tensor record (Table 14-4). -/
def tensorRecord (x : TensorSec) : List Byte :=
  toLE 8 x.id.toNat ++ toLE 1 (dtypeCode x.dtype) ++ toLE 1 x.ext.length ++ toLE 2 0 ++ toLE 4 x.segFirst
    ++ toLE 4 x.segCount ++ toLE 12 0 ++ eight x.ext

/-- Chunk records in chunk order, from image sector `off` (Table 14-5). -/
def chunkRecords : Nat → List Chunk → List Byte
  | _, [] => []
  | off, c :: cs =>
    toLE 4 c.tensor ++ toLE 4 c.psect ++ toLE 8 off ++ toLE 4 c.secs.length ++ toLE 4 c.pois.toNat ++ toLE 8 c.canon
      ++ eight c.lo ++ eight c.bext ++ chunkRecords (off + c.secs.length) cs

def manifest (ts : List TensorSec) (cs : List Chunk) : List Byte :=
  toLE 4 0x31464E4D ++ toLE 4 ts.length ++ toLE 4 cs.length ++ toLE 4 0 ++ toLE 8 32
    ++ toLE 8 (32 + 64 * ts.length) ++ ts.flatMap tensorRecord ++ chunkRecords 1 cs

/-- The next level of the digest tree. -/
def treeUp (alg : Alg) : List (List Byte) → List (List Byte)
  | a :: b :: rest => sha alg (0x01#8 :: (a ++ b)) :: treeUp alg rest
  | l => l

/-- Every level, level 0 first; `fuel` bounds the number of levels. -/
def treeLevels (alg : Alg) : Nat → List (List Byte) → List (List (List Byte))
  | 0, l => [l]
  | fuel + 1, l => if l.length ≤ 1 then [l] else l :: treeLevels alg fuel (treeUp alg l)

/-- Nodes of a tree of `n` leaves. -/
def treeNodes : Nat → Nat → Nat
  | 0, n => n
  | fuel + 1, n => if n ≤ 1 then n else n + treeNodes fuel ((n + 1) / 2)

def algCode : Alg → Nat
  | .sha256 => 0 | .sha384 => 1 | .sha512 => 2

def algOf : Nat → Option Alg
  | 0 => some .sha256 | 1 => some .sha384 | 2 => some .sha512 | _ => none

/-- Image sectors of an image with `n` chunks, `ts` tensors and `area` chunk-area sectors. -/
def imageTotal (alg : Alg) (ts n area : Nat) : Nat :=
  1 + area + ceilDiv (32 + 64 * ts + 96 * n) 4096 + ceilDiv (digestLen alg * treeNodes 40 (n + 1)) 4096

/-- The root digest over the header and the top node (R277). -/
def rootOf (alg : Alg) (hdr top : List Byte) : List Byte :=
  sha alg (0x02#8 :: ((hdr.take 0x90) ++ ((hdr.drop 0x100).take 0x780) ++ top))

/-- A sealed image: its sectors and its root. -/
def buildImage (level : Nat) (tables : List (List Nat)) (alg : Alg) (step : Nat) (bsDigest : BitVec 384)
    (ts : List TensorSec) (cs : List Chunk) : List Sec × List Byte :=
  let tabs := if level = levelOff then [] else tables.take 15
  let area := cs.foldl (fun n c => n + c.secs.length) 0
  let man := manifest ts cs
  let levels := treeLevels alg 40 (cs.map (·.leaf) ++ [sha alg man])
  let tree := (levels.flatten).flatten
  let manOff := 1 + area
  let treeOff := manOff + ceilDiv man.length 4096
  let fixed := toLE 4 0x314D5242 ++ toLE 2 1 ++ toLE 2 0 ++ toLE 1 level ++ toLE 1 (algCode alg)
    ++ toLE 1 tabs.length ++ toLE 1 0 ++ toLE 4 cs.length ++ toLE 8 step ++ toLE 4 ts.length ++ toLE 4 0
    ++ toLE 8 (treeOff + ceilDiv tree.length 4096) ++ toLE 8 manOff ++ toLE 8 man.length ++ toLE 8 treeOff
    ++ toLE 8 tree.length ++ toLE 8 (cs.foldl (fun n c => n + c.canon) 0) ++ bytesLE 48 bsDigest ++ List.replicate 16 0
  let tbytes := tabs.flatMap tableBytes
  let tpart := tbytes ++ List.replicate (1920 - tbytes.length) 0
  let top := ((levels.getLast?).getD []).headD []
  let root := rootOf alg (fixed ++ List.replicate 0x70 0 ++ tpart) top
  let hdr := fixed ++ root ++ List.replicate (64 - root.length) 0 ++ List.replicate 48 0 ++ tpart ++ List.replicate 1916 0
  let sec0 := secOfBytes (hdr ++ toLE 4 (crc32c hdr))
  (sec0 :: (cs.flatMap (·.secs) ++ toSecs man ++ toSecs tree), root)

/-! ### The reader: header and manifest (R274, R287) -/

/-- What a valid header says. -/
structure Hdr where
  level : Nat := 1
  alg : Alg := .sha384
  tables : List (List Nat) := []
  chunks : Nat := 1
  step : Nat := 0
  tensors : Nat := 1
  total : Nat := 0
  manOff : Nat := 0
  manLen : Nat := 0
  treeOff : Nat := 0
  treeLen : Nat := 0
  canon : Nat := 0
  root : List Byte := []
  deriving DecidableEq, Repr

def leAt (bs : List Byte) (off n : Nat) : Nat := natLE ((bs.drop off).take n)

def zeroAt (bs : List Byte) (off n : Nat) : Bool := ((bs.drop off).take n).all (· == 0)

/-- The header of sector 0, when every check of R274 passes. -/
def readHeader (s0 : Sec) : Option Hdr :=
  let bs := (Sec.bytes s0)
  let level := leAt bs 0x008 1
  let tabN := leAt bs 0x00A 1
  let tabs := (List.range 15).map (fun i => tableLens ((bs.drop (0x100 + 128 * i)).take 128))
  let chunks := leAt bs 0x00C 4
  let tensors := leAt bs 0x018 4
  let manOff := leAt bs 0x028 8
  let manLen := leAt bs 0x030 8
  let treeOff := leAt bs 0x038 8
  let treeLen := leAt bs 0x040 8
  let total := leAt bs 0x020 8
  match algOf (leAt bs 0x009 1) with
  | none => none
  | some alg =>
    let dl := digestLen alg
    if s0.psn = 0 && leAt bs 0 4 == 0x314D5242 && leAt bs 4 2 == 1
        && [0, 1, 2, levelOff].contains level && zeroAt bs 0x00B 1 && zeroAt bs 0x01C 4 && zeroAt bs 0x080 16
        && zeroAt bs 0x0D0 48 && zeroAt bs 0x880 1916 && zeroAt bs (0x090 + dl) (64 - dl)
        && leAt bs 0xFFC 4 == crc32c (bs.take 0xFFC)
        && decide (tabN ≤ 15) && (tabs.take tabN).all (fun t => decide (kraft t ≤ 2 ^ 15))
        && (tabs.drop tabN).all (fun t => t.all (· == 0))
        && decide (1 ≤ tensors ∧ tensors ≤ 65536 ∧ 1 ≤ chunks ∧ chunks < 2 ^ 24)
        && manLen == 32 + 64 * tensors + 96 * chunks && decide (1 + chunks ≤ manOff)
        && treeOff == manOff + ceilDiv manLen 4096 && treeLen == dl * treeNodes 40 (chunks + 1)
        && total == treeOff + ceilDiv treeLen 4096
    then some { level := level, alg := alg, tables := tabs.take tabN, chunks := chunks, step := leAt bs 0x010 8
                tensors := tensors, total := total, manOff := manOff, manLen := manLen, treeOff := treeOff
                treeLen := treeLen, canon := leAt bs 0x048 8, root := (bs.drop 0x090).take dl }
    else none

/-- A chunk record as read. -/
structure ChunkRec where
  tensor : Nat := 0
  psect : Nat := 0
  off : Nat := 0
  nsec : Nat := 0
  canon : Nat := 0
  pois : Bool := false
  lo : List Nat := []
  bext : List Nat := []
  deriving DecidableEq, Repr

/-- DTYPE of Table 14-4; a manifest with a reserved one does not open (R6; DEDUCED, LOG 107). -/
def dtypeOf : Nat → DType
  | 0 => .fp32 | 1 => .bf16 | _ => .int32

/-- The tensor records of a manifest. -/
def readTensors (n : Nat) (man : List Byte) : List TensorSec :=
  (List.range n).map (fun i =>
    let bs := (man.drop (32 + 64 * i)).take 64
    { id := BitVec.ofNat 64 (leAt bs 0 8), dtype := dtypeOf (leAt bs 8 1)
      ext := (List.range (leAt bs 9 1)).map (fun k => leAt bs (0x20 + 4 * k) 4)
      segFirst := leAt bs 0x0C 4, segCount := leAt bs 0x10 4 })

/-- The chunk records of a manifest. -/
def readChunks (ts : List TensorSec) (n : Nat) (man : List Byte) : List ChunkRec :=
  (List.range n).map (fun i =>
    let bs := (man.drop (32 + 64 * ts.length + 96 * i)).take 96
    let tensor := leAt bs 0 4
    let nd := ((ts[tensor]?).map (fun t => t.ext.length)).getD 8
    { tensor := tensor, psect := leAt bs 4 4, off := leAt bs 8 8, nsec := leAt bs 0x10 4, canon := leAt bs 0x18 8
      pois := leAt bs 0x14 4 % 2 == 1
      lo := (List.range nd).map (fun k => leAt bs (0x20 + 4 * k) 4)
      bext := (List.range nd).map (fun k => leAt bs (0x40 + 4 * k) 4) })

/-- Chunks follow each other from sector `off` and end at `fin` (R287). -/
def chunksAbut (fin : Nat) : Nat → List ChunkRec → Bool
  | off, [] => off == fin
  | off, c :: cs => c.off == off && decide (1 ≤ c.nsec) && c.psect == ceilDiv c.canon 4096 && chunksAbut fin (off + c.nsec) cs

/-- An image a reader may use: header, tensors, chunk records and stored leaves. -/
structure Opened where
  hdr : Hdr := {}
  tensors : List TensorSec := []
  chunks : List ChunkRec := []
  leaves : List (List Byte) := []
  deriving DecidableEq, Repr

/-- The bytes of image sectors `lo .. lo + n - 1`, when all of them can be read. -/
def secRange (secs : List Sec) (lo n : Nat) : Option (List Byte) :=
  let xs := (secs.drop lo).take n
  if xs.length = n ∧ xs.all (fun x => x.psn == 0) then some (xs.flatMap Sec.bytes) else none

/-- The checks before any chunk is used: header, ROOT, manifest (R287). -/
def openImage (secs : List Sec) : Option Opened :=
  match secs with
  | [] => none
  | s0 :: _ =>
  match readHeader s0 with
  | none => none
  | some h =>
  match secRange secs h.manOff (ceilDiv h.manLen 4096), secRange secs h.treeOff (ceilDiv h.treeLen 4096) with
  | some mb, some tb =>
    let man := mb.take h.manLen
    let dl := digestLen h.alg
    let leaves := (List.range h.chunks).map (fun i => (tb.drop (dl * i)).take dl)
    let levels := treeLevels h.alg 40 (leaves ++ [sha h.alg man])
    let top := ((levels.getLast?).getD []).headD []
    let ts := readTensors h.tensors man
    let cs := readChunks ts h.chunks man
    if rootOf h.alg (Sec.bytes s0) top == h.root
        && leAt man 0 4 == 0x31464E4D && leAt man 4 4 == h.tensors && leAt man 8 4 == h.chunks
        && leAt man 0x10 8 == 32 && leAt man 0x18 8 == 32 + 64 * h.tensors
        && (List.range h.tensors).all (fun i => decide (leAt man (40 + 64 * i) 1 ≤ 2))
        && cs.all (fun c => decide (c.tensor < h.tensors)) && chunksAbut h.manOff 1 cs
        && h.canon == cs.foldl (fun n c => n + c.canon) 0
    then some { hdr := h, tensors := ts, chunks := cs, leaves := leaves } else none
  | _, _ => none

/-! ### The reader: packed sectors (R281, R288 to R292, R428) -/

/-- Bit `p` of a chunk's sectors; none in a sector that cannot be read, and past the end. -/
def chunkBit (secs : List Sec) (p : Nat) : Option Bool :=
  match secs[p / 32768]? with
  | some x => if x.psn = 0 then
      let q := p % 32768
      some (x.data.getLsbD (q / 8 * 8 + (7 - q % 8)))
    else none
  | none => none

/-- `n` bits from `p` as they stand, without removing stuff bits. -/
def rawBits (secs : List Sec) (p n : Nat) : Option Nat :=
  (List.range n).foldl (fun acc i => match acc, chunkBit secs (p + i) with
    | some v, some b => some (2 * v + b.toNat)
    | _, _ => none) (some 0)

/-- The last 22 bits before `p`, or a number that never equals the mark's top. -/
def winAt (secs : List Sec) (p : Nat) : Nat := if p < 22 then 0 else (rawBits secs (p - 22) 22).getD 0

/-- How a run of bits ended: all read, a stuff bit of value 0, or bits that cannot be read. -/
inductive BitEnd where
  | ok (bits : List Bool) (next : Nat)
  | stuffZero (at_ : Nat)
  | gone (at_ : Nat)
  deriving DecidableEq, Repr

/-- `n` bits from position `p`, stuff bits removed (R281). -/
def takeBits (secs : List Sec) : Nat → Nat → Nat → List Bool → BitEnd
  | 0, p, _, acc => .ok acc.reverse p
  | n + 1, p, win, acc =>
    if win = markTop then
      match chunkBit secs p with
      | none => .gone p
      | some false => .stuffZero p
      | some true =>
        match chunkBit secs (p + 1) with
        | none => .gone (p + 1)
        | some b => takeBits secs n (p + 2) ((2 * (2 * win + 1) + b.toNat) % 2 ^ 22) (b :: acc)
    else
      match chunkBit secs p with
      | none => .gone p
      | some b => takeBits secs n (p + 1) ((2 * win + b.toNat) % 2 ^ 22) (b :: acc)

/-- A packed sector header as read. -/
structure PsHdr where
  seq : Nat
  nelem : Nat
  mode : Nat
  table : Nat
  trim : Nat
  pois : Bool
  len : Nat
  pcrc : Nat
  deriving DecidableEq, Repr

/-- Elements of packed sector `seq` (R428). -/
def nelemOf (c : ChunkRec) (size seq : Nat) : Nat :=
  if seq + 1 < c.psect then 4096 / size else (c.canon - 4096 * (c.psect - 1)) / size

/-- The header of R428 from its 160 bits, for chunk `ci`. -/
def psHeader (h : Hdr) (c : ChunkRec) (t : DType) (ci : Nat) (bits : List Bool) : Option PsHdr :=
  let f := fun (lo n : Nat) => natBits ((bits.drop lo).take n)
  let size := dsize t
  let x : PsHdr := { seq := f 24 16, nelem := f 40 12, mode := f 52 2, table := f 54 4, trim := f 58 5
                     pois := f 63 1 == 1, len := f 64 16, pcrc := f 96 32 }
  let raw := x.mode == 0
  if f 128 32 == crc32c (bitsBytes (bits.take 128)) && f 0 24 == ci && decide (ci < h.chunks)
      && decide (x.seq < c.psect) && x.nelem == nelemOf c size x.seq
      && (match t with | .int32 => raw || x.mode == 3 | _ => x.mode != 3)
      && (if raw then x.table == 0 else decide (x.table ≤ h.tables.length))
      && (if raw || x.mode == 3 then x.trim == 0 else decide (x.trim ≤ mant t))
      && decide (x.len ≤ 32768) && (!raw || x.len == 8 * size * x.nelem) && f 80 16 == 0
  then some x else none

/-- What lies at a position: no mark, a mark whose header fails, or a header and the bit after it. -/
inductive AtPos where
  | none
  | bad
  | hdr (x : PsHdr) (next : Nat)
  deriving DecidableEq, Repr

def readAt (h : Hdr) (c : ChunkRec) (t : DType) (ci : Nat) (secs : List Sec) (p : Nat) : AtPos :=
  if rawBits secs p 32 = some markWord then
    match takeBits secs 160 (p + 32) (markWord % 2 ^ 22) [] with
    | .ok bits next => match psHeader h c t ci bits with
      | some x => .hdr x next
      | none => .bad
    | _ => .bad
  else .none

/-- A sector holds a packed sector whose header checks and has POISON = 1 (R245, R428). -/
def packedFlag (x : Sec) : Bool :=
  (List.range 32768).any (fun p => rawBits [x] p 32 == some markWord &&
    match takeBits [x] 160 (p + 32) (markWord % 2 ^ 22) [] with
    | .ok bits _ => natBits (bits.drop 128) == (crc32c (bitsBytes (bits.take 128))) && bits.getD 63 false
    | _ => false)

/-- `n` floats of FLOAT or FLOATD: symbol, sign and mantissa bits in turn. -/
def readFloats (lens : List Nat) (m trim : Nat) : Nat → List Bool → Option (List (Nat × Nat) × List Bool)
  | 0, bs => some ([], bs)
  | n + 1, bs =>
    match readSym lens bs with
    | none => none
    | some (e, r) =>
      if r.length < 1 + (m - trim) then none
      else
        let v := natBits (r.take 1) * 2 ^ (m + 8) + natBits ((r.drop 1).take (m - trim)) * 2 ^ trim
        match readFloats lens m trim n (r.drop (1 + (m - trim))) with
        | some (xs, rest) => some ((e, v) :: xs, rest)
        | none => none

/-- `n` folded differences of INT. -/
def readInts (lens : List Nat) : Nat → List Bool → Option (List Nat × List Bool)
  | 0, bs => some ([], bs)
  | n + 1, bs =>
    match readSym lens bs with
    | none => none
    | some (l, r) =>
      if 32 < l ∨ r.length < l - 1 then none
      else
        let u := if l = 0 then 0 else 2 ^ (l - 1) + natBits (r.take (l - 1))
        match readInts lens n (r.drop (l - 1)) with
        | some (xs, rest) => some (u :: xs, rest)
        | none => none

/-- The canonical bytes of a payload, when it decodes and ends exactly at LEN_BITS (14.4.1). -/
def decodePayload (tables : List (List Nat)) (t : DType) (x : PsHdr) (bits : List Bool) : Option (List Byte) :=
  let lens := codeTable tables x.table
  match x.mode with
  | 0 => some (bitsBytes bits)
  | 3 => match readInts lens x.nelem bits with
    | some (us, []) => some ((undiffs (2 ^ 32) 0 (us.map unzigzag)).flatMap (toLE 4))
    | _ => none
  | mode => match readFloats lens (mant t) x.trim x.nelem bits with
    | some (ps, []) =>
      let es := if mode = 2 then undiffs 256 127 (ps.map (·.1)) else ps.map (·.1)
      some ((List.zipWith (fun e (p : Nat × Nat) => p.2 + e * 2 ^ mant t) es ps).flatMap (toLE (dsize t)))
    | _ => none

/-- The reader's outcomes: accepted sectors and the counts of Table 14-9. -/
structure ReadOut where
  got : List (Nat × List Byte × Bool) := []
  ok : Nat := 0
  missing : Nat := 0
  falseMark : Nat := 0
  recovered : Nat := 0
  poison : Nat := 0
  stale : Nat := 0
  deriving DecidableEq, Repr

/-- In sync at a position, or hunting: next position, the end of the open windows, and the end of those a
false mark opened. -/
inductive ReadPos where
  | sync (p : Nat)
  | hunt (p winEnd falseEnd : Nat)
  | done
  deriving DecidableEq, Repr

/-- An accepted header: payload, PCRC and decoding (R288, R290). -/
def acceptSector (h : Hdr) (t : DType) (secs : List Sec) (x : PsHdr) (next : Nat) (rec_ : Bool) (o : ReadOut) :
    ReadPos × ReadOut :=
  match takeBits secs x.len next (winAt secs next) [] with
  | .stuffZero q => (.hunt (q - 22) 0 0, { o with missing := o.missing + 1 })
  | .gone q => (.hunt q 0 0, { o with missing := o.missing + 1 })
  | .ok bits fin =>
    match (if crc32c (bitsBytes bits) = x.pcrc then decodePayload h.tables t x bits else none) with
    | none => (.sync fin, { o with missing := o.missing + 1 })
    | some bs => (.sync fin, { o with
        got := o.got ++ [(x.seq, bs, x.pois)], ok := o.ok + 1
        poison := o.poison + (if x.pois then 1 else 0), recovered := o.recovered + (if rec_ then 1 else 0) })

/-- One look of the reader at a position, with expected SEQ `e` (R288, R289). -/
def readStep (h : Hdr) (c : ChunkRec) (t : DType) (ci : Nat) (secs : List Sec) (e : Nat) (pos : ReadPos)
    (o : ReadOut) : Nat × ReadPos × ReadOut :=
  match pos with
  | .done => (e, .done, o)
  | .sync p =>
    match readAt h c t ci secs p with
    | .hdr x next =>
      if x.seq = e then
        let (q, o1) := acceptSector h t secs x next false o
        (e + 1, q, o1)
      else (e, .hunt (p + 1) (p + 65) 0, { o with stale := o.stale + (if x.seq < e then 1 else 0) })
    | .bad => (e, .hunt (p + 1) (p + 65) (p + 65), { o with falseMark := o.falseMark + 1 })
    | .none => (e, .hunt (p + 1) (p + 65) 0, o)
  | .hunt p winEnd falseEnd =>
    if winEnd ≠ 0 ∧ winEnd ≤ p then (e + 1, .hunt p 0 0, { o with missing := o.missing + 1 })
    else if secs.length * 32768 ≤ p then (e, .done, o)
    else if (chunkBit secs p).isNone then
      -- bits of a sector that cannot be read are skipped (R289)
      (e, .hunt ((p / 32768 + 1) * 32768) (if winEnd = 0 then 0 else winEnd + ((p / 32768 + 1) * 32768 - p))
        (if falseEnd = 0 then 0 else falseEnd + ((p / 32768 + 1) * 32768 - p)), o)
    else
      match readAt h c t ci secs p with
      | .none => (e, .hunt (p + 1) winEnd falseEnd, o)
      | .bad => (e, .hunt (p + 1) (p + 65) (p + 65), { o with falseMark := o.falseMark + 1 })
      | .hdr x next =>
        if x.seq < e then (e, .hunt (p + 1) (p + 65) falseEnd, { o with stale := o.stale + 1 })
        else
          let (q, o1) := acceptSector h t secs x next (decide (p < falseEnd)) { o with missing := o.missing + (x.seq - e) }
          (x.seq + 1, q, o1)

/-- The reader over a chunk; `fuel` bounds its looks. -/
def readLoop (h : Hdr) (c : ChunkRec) (t : DType) (ci : Nat) (secs : List Sec) :
    Nat → Nat → ReadPos → ReadOut → ReadOut
  | 0, e, _, o => { o with missing := o.missing + (c.psect - e) }
  | fuel + 1, e, pos, o =>
    if c.psect ≤ e ∨ pos = .done then { o with missing := o.missing + (c.psect - e) }
    else
      let (e1, p1, o1) := readStep h c t ci secs e pos o
      readLoop h c t ci secs fuel e1 p1 o1

/-- One chunk read: canonical bytes, poisoned 64-byte beats, whether a sector was MISSING or poisoned,
whether the leaf digest matches (R269, R291), and the counts. -/
structure ChunkOut where
  bytes : List Byte := []
  bad : List Nat := []
  dirty : Bool := false
  leafOk : Bool := true
  out : ReadOut := {}
  deriving DecidableEq, Repr

def readChunk (o : Opened) (ci : Nat) (secs : List Sec) : ChunkOut :=
  match o.chunks[ci]? with
  | none => {}
  | some c =>
    let t := ((o.tensors[c.tensor]?).map (·.dtype)).getD .fp32
    let mine := (secs.drop c.off).take c.nsec
    let r := readLoop o.hdr c t ci mine (c.nsec * 32768 + 32 * c.psect + 8) 0 (.sync 0) {}
    let part := fun (k : Nat) => (r.got.find? (fun g => g.1 == k)).map (·.2)
    let size := fun (k : Nat) => dsize t * nelemOf c (dsize t) k
    let bytes := (List.range c.psect).flatMap (fun k => match part k with
      | some (bs, _) => bs
      | none => List.replicate (size k) 0)
    let bad := (List.range c.psect).flatMap (fun k =>
      let beats := (List.range (ceilDiv (size k) 64)).map (fun i => 64 * k + i)
      match part k with
      | some (_, true) => beats
      | some (_, false) => []
      | none => beats)
    let clean := mine.all (fun x => x.psn == 0)
    { bytes := bytes, bad := bad, dirty := bad != [], out := r
      leafOk := clean && sha o.hdr.alg (mine.flatMap Sec.bytes) == (o.leaves[ci]?).getD [] }

end Sys2Proof.Machine
end

