-- ==== Sys2Proof/Machine/Fp.lean ====
section
/-! DEFINITION. The arithmetic of the PEs (R189): binary32 with round to nearest, ties to even, subnormals kept, every NaN
the canonical one; bf16 pairs; casts. -/

namespace Sys2Proof.Machine

/-- The canonical quiet NaN. -/
def fpNan : Word := 0x7FC00000

def fpExp (x : Word) : Nat := x.toNat / 2 ^ 23 % 256
def fpFrac (x : Word) : Nat := x.toNat % 2 ^ 23
def fpNeg (x : Word) : Bool := bit x 31
def fpIsNan (x : Word) : Bool := fpExp x == 255 && fpFrac x != 0
def fpIsInf (x : Word) : Bool := fpExp x == 255 && fpFrac x == 0
def fpInf (neg : Bool) : Word := if neg then 0xFF800000 else 0x7F800000

/-- A finite word as a signed multiple of 2^-149. -/
def fpScaled (x : Word) : Int :=
  let m : Nat := if fpExp x = 0 then fpFrac x else (fpFrac x + 2 ^ 23) * 2 ^ (fpExp x - 1)
  if fpNeg x then -(m : Int) else m

/-- `n / 2 ^ k` to the nearest, ties to even. -/
def shiftRne (n k : Nat) : Nat :=
  let q := n / 2 ^ k
  let rem := 2 * (n % 2 ^ k)
  if 2 ^ k < rem || (rem == 2 ^ k && q % 2 == 1) then q + 1 else q

/-- `n * 2 ^ -298` rounded to binary32, the sign aside; infinity where it is too large. -/
def fpRoundMag (n : Nat) : Nat :=
  let k := if n < 2 ^ 173 then 149 else Nat.log2 n - 23
  let m := shiftRne n k
  let bits := if k = 149 then m else (k - 149) * 2 ^ 23 + m
  min bits 0x7F800000

/-- The exact value `v * 2 ^ -298` rounded once; `negZero` is the sign of an exact zero. -/
def fpRound (v : Int) (negZero : Bool) : Word :=
  if v = 0 then (if negZero then 0x80000000 else 0)
  else BitVec.ofNat 32 (fpRoundMag v.natAbs + if v < 0 then 2 ^ 31 else 0)

/-- a × b + c, rounded once. -/
def fpFma (a b c : Word) : Word :=
  let neg := fpNeg a != fpNeg b
  let zero := fun (x : Word) => x.toNat % 2 ^ 31 == 0
  if fpIsNan a || fpIsNan b || fpIsNan c then fpNan
  else if fpIsInf a || fpIsInf b then
    if zero a || zero b || (fpIsInf c && fpNeg c != neg) then fpNan else fpInf neg
  else if fpIsInf c then c
  else fpRound (fpScaled a * fpScaled b + fpScaled c * 2 ^ 149) (neg && fpNeg c)

/-- a + c. -/
def fpAdd (a c : Word) : Word := fpFma a 0x3F800000 c

/-- Ordered compares; a NaN makes each false. -/
def fpLt (a b : Word) : Bool :=
  !fpIsNan a && !fpIsNan b &&
  (if fpIsInf a then fpNeg a && !(fpIsInf b && fpNeg b)
   else if fpIsInf b then !fpNeg b
   else decide (fpScaled a < fpScaled b))

def fpEq (a b : Word) : Bool :=
  !fpIsNan a && !fpIsNan b && (a == b || (fpExp a != 255 && fpExp b != 255 && fpScaled a == fpScaled b))

/-- fp32 to bf16: round to nearest, ties to even; 0x7FC0 for every NaN. -/
def castDown (x : Nat) : Nat :=
  if x / 2 ^ 23 % 256 = 255 ∧ x % 2 ^ 23 ≠ 0 then 0x7FC0
  else
    let q := x / 2 ^ 16
    let rem := x % 2 ^ 16
    let up := decide (0x8000 < rem) || (rem == 0x8000 && q % 2 == 1)
    (q + if up then 1 else 0) % 2 ^ 16

/-- bf16 to fp32: exact; a NaN becomes the canonical one. -/
def castUp (x : Nat) : Nat := if x / 2 ^ 7 % 256 = 255 ∧ x % 2 ^ 7 ≠ 0 then 0x7FC00000 else x % 2 ^ 16 * 2 ^ 16

/-- The FMA of one half of three words: in binary32, then rounded to bf16. -/
def bf16Fma (a b c : Nat) : Nat :=
  let up := fun (x : Nat) => BitVec.ofNat 32 (x % 2 ^ 16 * 2 ^ 16)
  castDown (fpFma (up a) (up b) (up c)).toNat

/-- The paired bf16 FMA, each half on its own. -/
def fpFmaPair (a b c : Word) : Word :=
  let hi := fun (x : Word) => x.toNat / 2 ^ 16
  BitVec.ofNat 32 (bf16Fma a.toNat b.toNat c.toNat + 2 ^ 16 * bf16Fma (hi a) (hi b) (hi c))

/-- A compare's result. -/
def boolWord (b : Bool) : Word := if b then 1 else 0

/-- A bit field of a word. -/
def fieldOf (x : Word) (lo n : Nat) : Nat := x.toNat / 2 ^ lo % 2 ^ n

/-- What a PE computes (R189). Shift distances count modulo 32 (DESIGN CHOICE, LOG 11). -/
def aluWord (f : PeAlu) (a b c : Word) : Word :=
  match f with
  | .fma => fpFma a b c
  | .fmaBf16 => fpFmaPair a b c
  | .add => a + b
  | .sub => a - b
  | .mul => a * b
  | .and_ => a &&& b
  | .or_ => a ||| b
  | .xor_ => a ^^^ b
  | .shl => a <<< (b.toNat % 32)
  | .shr => a >>> (b.toNat % 32)
  | .sar => a.sshiftRight (b.toNat % 32)
  | .extract lo n => BitVec.ofNat 32 (fieldOf a lo n)
  | .insert lo n =>
    let m := BitVec.ofNat 32 ((2 ^ n - 1) * 2 ^ lo)
    (a &&& ~~~ m) ||| ((b <<< lo) &&& m)
  | .eq => boolWord (a == b)
  | .ltS => boolWord (a.slt b)
  | .ltU => boolWord (a.ult b)
  | .feq => boolWord (fpEq a b)
  | .flt => boolWord (fpLt a b)
  | .fle => boolWord (fpLt a b || fpEq a b)
  | .select => if a = 0 then c else b
  | .mov => a
  | .const v => v
  | .toBf16 => BitVec.ofNat 32 (castDown a.toNat)
  | .toFp32 => BitVec.ofNat 32 (castUp (a.toNat % 2 ^ 16))

/-- Whether a result is poisoned by its operands' marks: for a select, the predicate and the chosen operand (R196). -/
def aluPsn (f : PeAlu) (a : Word) (pa pb pc : Bool) : Bool :=
  match f with
  | .select => pa || (if a = 0 then pc else pb)
  | .const _ => false
  | _ => pa || pb || pc

end Sys2Proof.Machine
end

