-- ==== Sys2Proof/Machine/PeOps.lean ====
section
/-! DEFINITION. What runs on a crag (10): ports, links, queues, pass-through registers, the PEs' instructions, loop
forms, tokens, poison, crag store, accumulators and the store path. All of it lives in the words a scan of the crag
holds (Tables 10-4, 10-5); the layout of port and program-state words within their records is a DESIGN CHOICE, LOG 102. -/

namespace Sys2Proof.Machine

/-! ### The words of a scan (Tables 10-4, 10-5) -/

/-- Offsets of crag store and accumulators in a scan image. -/
def scanStore (k : Nat) : Bool := decide ((0x10000 ≤ k ∧ k < 0x110000) ∨ (0x118000 ≤ k ∧ k < 0x11C000))

/-- Byte `k` of what a scan of the crag holds; words of store and accumulators not written since NAP are free values
(R29, DESIGN CHOICE, LOG 12). -/
def CragSt.byte (x : CragSt) (k : Nat) : Byte :=
  match x.undefinedSince with
  | some n => if scanStore k && !x.written.contains (k / 4) then Config.freeByte n k else readByte x.body k
  | none => readByte x.body k

/-- A field of a scan's words. -/
def CragSt.get (x : CragSt) (off n : Nat) : Nat := natLE ((List.range n).map (fun i => x.byte (off + i)))

/-- A field written; a word of store or accumulators is defined from then on. -/
def CragSt.put (x : CragSt) (off n v : Nat) : CragSt :=
  { x with
    body := writeBytes off (bytesLE n (BitVec.ofNat (8 * n) v)) x.body
    written := if x.undefinedSince.isSome && scanStore off then nIns (off / 4) x.written else x.written }

/-- Bit `i` of the field at `off`. -/
def CragSt.flag (x : CragSt) (off i : Nat) : Bool := (x.get (off + i / 8) 1).testBit (i % 8)

def CragSt.setFlag (x : CragSt) (off i : Nat) (b : Bool) : CragSt :=
  x.put (off + i / 8) 1 (setBit (BitVec.ofNat 8 (x.get (off + i / 8) 1)) (i % 8) b).toNat

/-- A PE's record. -/
def peBase (p : Pe) : Nat := 0x1000 + 512 * p.val

/-- A word with its side bits: TOK marks a control token, PSN poison (10.2). -/
structure PeItem where
  v : Word := 0
  tok : Bool := false
  psn : Bool := false
  deriving DecidableEq, Repr

/-- Word `i` of a PE record's table: registers 0 to 15, the queues from 16, the pass-through registers from 48. -/
def CragSt.item (x : CragSt) (p : Pe) (i : Nat) : PeItem :=
  { v := BitVec.ofNat 32 (x.get (peBase p + 4 * i) 4), psn := x.flag (peBase p + 0x100) (2 * i)
    tok := x.flag (peBase p + 0x100) (2 * i + 1) }

def CragSt.setItem (x : CragSt) (p : Pe) (i : Nat) (t : PeItem) : CragSt :=
  ((x.put (peBase p + 4 * i) 4 t.v.toNat).setFlag (peBase p + 0x100) (2 * i) t.psn).setFlag (peBase p + 0x100) (2 * i + 1) t.tok

/-- Items in a queue. -/
def CragSt.count (x : CragSt) (p : Pe) (d : Dir) : Nat := x.get (peBase p + 0xF0) 4 / 16 ^ d.val % 16

def CragSt.setCount (x : CragSt) (p : Pe) (d : Dir) (n : Nat) : CragSt :=
  let w := x.get (peBase p + 0xF0) 4
  x.put (peBase p + 0xF0) 4 (w - w / 16 ^ d.val % 16 * 16 ^ d.val + n * 16 ^ d.val)

/-- The pass-through register of a link holds an item. -/
def CragSt.passing (x : CragSt) (p : Pe) (d : Dir) : Bool := x.flag (peBase p + 0xF0) (16 + d.val)

/-- The item at the head of a queue. -/
def CragSt.queueHead (x : CragSt) (p : Pe) (d : Dir) : Option PeItem :=
  if x.count p d = 0 then none else some (x.item p (16 + 8 * d.val))

/-- A queue without its head. -/
def CragSt.pop (x : CragSt) (p : Pe) (d : Dir) : CragSt :=
  let n := x.count p d
  let y := (List.range (n - 1)).foldl (fun y i => y.setItem p (16 + 8 * d.val + i) (y.item p (17 + 8 * d.val + i))) x
  (y.setItem p (16 + 8 * d.val + (n - 1)) {}).setCount p d (n - 1)

/-- An item at the end of a queue. -/
def CragSt.push (x : CragSt) (p : Pe) (d : Dir) (t : PeItem) : CragSt :=
  (x.setItem p (16 + 8 * d.val + x.count p d) t).setCount p d (x.count p d + 1)

/-! ### Crag store and accumulators (R190, R191, R196, R197) -/

def storeOff (a : Nat) : Nat := 0x10000 + a % 0x100000 / 4 * 4
def accOff (e : Nat) : Nat := 0x118000 + 4 * (e % 4096)

/-- A word of store by byte address, with its poison. -/
def CragSt.loadWord (x : CragSt) (a : Nat) : PeItem :=
  { v := BitVec.ofNat 32 (x.get (storeOff a) 4), psn := x.flag 0x110000 (a % 0x100000 / 4) }

/-- A store sets or clears the word's mark (R196, 10.4.1). -/
def CragSt.storeWord (x : CragSt) (a : Nat) (t : PeItem) : CragSt :=
  (x.put (storeOff a) 4 t.v.toNat).setFlag 0x110000 (a % 0x100000 / 4) t.psn

def CragSt.acc (x : CragSt) (e : Nat) : PeItem :=
  { v := BitVec.ofNat 32 (x.get (accOff e) 4), psn := x.flag 0x11C000 (e % 4096) }

/-- An accumulation: rounded once; the entry stays poisoned once it is (R189, R191, R196, 10.4.1). -/
def CragSt.accumulate (x : CragSt) (e : Nat) (t : PeItem) : CragSt :=
  (x.put (accOff e) 4 (fpAdd t.v (x.acc e).v).toNat).setFlag 0x11C000 (e % 4096) ((x.acc e).psn || t.psn)

/-! ### Ports (R185, R186, R195) -/

/-- A port's record: 16 words, then their count, the END flags, what the flags stand for, whether the beat was padded,
and the poison bits (LOG 102). -/
def portBase (q : Dir) : Nat := 0x40 + 128 * q.val

def CragSt.portCount (x : CragSt) (q : Dir) : Nat := x.get (portBase q + 64) 1
def CragSt.portEnd (x : CragSt) (q : Dir) : Nat := x.get (portBase q + 65) 1
def CragSt.portWord (x : CragSt) (q : Dir) (i : Nat) : PeItem :=
  { v := BitVec.ofNat 32 (x.get (portBase q + 4 * i) 4), psn := x.flag (portBase q + 68) i }

def CragSt.setPortWord (x : CragSt) (q : Dir) (i : Nat) (t : PeItem) : CragSt :=
  (x.put (portBase q + 4 * i) 4 t.v.toNat).setFlag (portBase q + 68) i t.psn

/-- The `k`-th edge PE of a port, counted from PE 0's side (R185, R186). -/
def edgePe (q : Dir) (k : Nat) : Pe :=
  match q.val with
  | 0 => ix 63 (k % 8)
  | 1 => ix 63 (8 * (k % 8) + 7)
  | 2 => ix 63 (56 + k % 8)
  | _ => ix 63 (8 * (k % 8))

/-- A PE's place among the edge PEs of a port. -/
def edgeIx (q : Dir) (p : Pe) : Nat := if q.val % 2 = 0 then p.val % 8 else p.val / 8

/-- The neighbour on a side; none at the edge, where the port is. -/
def neighbour (p : Pe) (d : Dir) : Option Pe :=
  match d.val with
  | 0 => if p.val < 8 then none else some (ix 63 (p.val - 8))
  | 1 => if p.val % 8 = 7 then none else some (ix 63 (p.val + 1))
  | 2 => if 56 ≤ p.val then none else some (ix 63 (p.val + 8))
  | _ => if p.val % 8 = 0 then none else some (ix 63 (p.val - 1))

/-- The side a link enters by. -/
def opposite (d : Dir) : Dir := d + 2

/-- A token's kind (Table 10-3). -/
def tokKind (t : PeItem) : Nat := t.v.toNat / 2 ^ 28

/-- END, or ABORT, which programs treat as END (R195). -/
def PeItem.ends (t : PeItem) : Bool := t.tok && (tokKind t == 1 || tokKind t == 2)

/-- What a crag runs: its program's PEs and routes, and the ports bound to output wheels. -/
structure CragProg where
  pes : List PeProg := []
  routes : List RouteSec := []
  outs : List Dir := []
  deriving DecidableEq, Repr

/-- Where an item that arrives from a side goes on; none where it enters the PE's queue. ROUTES gives one way to each
incoming link (R188; DEDUCED, LOG 114). -/
def CragProg.route (g : CragProg) (p : Pe) (src : Dir) : Option Dir :=
  (g.routes.find? (fun r => r.pe == p && r.src == src)).map (·.out)

/-- An item may enter a PE by a side: its pass-through register there is empty, or its queue has a free entry
(R187, R188). -/
def CragProg.mayEnter (g : CragProg) (x : CragSt) (p : Pe) (side : Dir) : Bool :=
  match g.route p side with
  | some _ => !x.passing p side
  | none => decide (x.count p side < 8)

def CragProg.enter (g : CragProg) (x : CragSt) (p : Pe) (side : Dir) (t : PeItem) : CragSt :=
  match g.route p side with
  | some _ => (x.setItem p (48 + side.val) t).setFlag (peBase p + 0xF0) (16 + side.val) true
  | none => x.push p side t

/-- A PE's outgoing link on side `d` has credit: the neighbour has room; at the edge the port is bound to an output wheel
and the word is the next of its beat, or ends the PE's stream (R185 to R187, R195). -/
def CragProg.credit (g : CragProg) (x : CragSt) (p : Pe) (d : Dir) (t : PeItem) : Bool :=
  match neighbour p d with
  | some q => g.mayEnter x q (opposite d)
  | none => g.outs.contains d && !(x.portEnd d).testBit (edgeIx d p) &&
      (t.ends || (!t.tok && decide (x.portCount d < 16 ∧ x.portCount d % 8 = edgeIx d p)))

/-- An item leaves on a link. -/
def CragProg.send (g : CragProg) (p : Pe) (d : Dir) (t : PeItem) (x : CragSt) : CragSt :=
  match neighbour p d with
  | some q => g.enter x q (opposite d) t
  | none =>
    if t.ends then x.put (portBase d + 65) 1 (x.portEnd d ||| 2 ^ edgeIx d p)
    else (x.setPortWord d (x.portCount d) t).put (portBase d + 64) 1 (x.portCount d + 1)

/-- An input port splits the beat it holds into words, word k for its (k mod 8)-th edge PE, as far as the queues take
them; then END, or ABORT, to each edge PE (R186, R195). Its count is the words still to come. -/
def CragProg.feedPort (g : CragProg) (q : Dir) : Nat → CragSt → CragSt
  | 0, x => x
  | fuel + 1, x =>
    let n := x.portCount q
    if n = 0 then
      match (List.range 8).find? (fun k => (x.portEnd q).testBit k && g.mayEnter x (edgePe q k) q) with
      | none => x
      | some k =>
        let t : PeItem := { v := if x.get (portBase q + 66) 1 = 0 then 0x10000000 else 0x20000000, tok := true }
        g.feedPort q fuel ((g.enter x (edgePe q k) q t).put (portBase q + 65) 1 (x.portEnd q - 2 ^ k))
    else if g.mayEnter x (edgePe q (16 - n)) q then
      g.feedPort q fuel ((g.enter x (edgePe q (16 - n)) q (x.portWord q (16 - n))).put (portBase q + 64) 1 (n - 1))
    else x

/-- A beat enters an input port that is empty. -/
def CragSt.loadPort (x : CragSt) (q : Dir) (b : Beat) : CragSt :=
  ((List.range 16).foldl (fun x i => x.setPortWord q i { v := fld b.data (32 * i) 32, psn := b.psn }) x).put (portBase q + 64) 1 16

/-- The port delivers an end token to each edge PE; `abort` in place of what the port still holds (R195). -/
def CragSt.endPort (x : CragSt) (q : Dir) (abort : Bool) : CragSt :=
  ((if abort then x.put (portBase q + 64) 1 0 else x).put (portBase q + 65) 1 255).put (portBase q + 66) 1 (if abort then 1 else 0)

/-- The rest of a beat whose edge PE has ended is filled with zero words, and the beat counted once in CRG_PAD
(10.1.1). -/
def CragSt.padPort (q : Dir) : Nat → CragSt → CragSt
  | 0, x => x
  | fuel + 1, x =>
    let n := x.portCount q
    if 16 ≤ n ∨ (x.portEnd q).testBit (n % 8) = false ∨ (n = 0 ∧ x.portEnd q = 255) then x
    else
      let y := (x.setPortWord q n {}).put (portBase q + 64) 1 (n + 1)
      CragSt.padPort q fuel (if x.get (portBase q + 67) 1 = 0 then { y with pad := satAdd x.pad 1 }.put (portBase q + 67) 1 1 else y)

/-- The whole beat an output port holds: poisoned when any of its words is (R196). -/
def CragSt.portBeat (x : CragSt) (q : Dir) : Option Beat :=
  if x.portCount q < 16 then none
  else some { data := BitVec.ofNat 512 (x.get (portBase q) 64), psn := x.get (portBase q + 68) 2 != 0 }

/-- The port empties its beat. -/
def CragSt.clearPort (x : CragSt) (q : Dir) : CragSt :=
  ((x.put (portBase q) 64 0).put (portBase q + 64) 1 0).put (portBase q + 67) 3 0

/-- The port owes the output wheel an end mark: every edge PE has sent END and no word is left (R195). -/
def CragSt.portMark (x : CragSt) (q : Dir) : Bool := x.portEnd q == 255 && x.portCount q == 0

/-! ### PEs (R187 to R196) -/

def CragSt.pos (x : CragSt) (p : Pe) : Nat := x.get (peBase p + 0xE0) 4
def CragSt.setPos (x : CragSt) (p : Pe) (n : Nat) : CragSt := x.put (peBase p + 0xE0) 4 n
def CragSt.taint (x : CragSt) (p : Pe) : Bool := x.get (peBase p + 0xE5) 1 != 0
def CragSt.setTaint (x : CragSt) (p : Pe) (b : Bool) : CragSt := x.put (peBase p + 0xE5) 1 (if b then 1 else 0)
/-- Entries the PE's accumulator store has streamed. -/
def CragSt.streamed (x : CragSt) (p : Pe) : Nat := x.get (peBase p + 0xE8) 4
def CragSt.counter (x : CragSt) (p : Pe) (k : Fin 4) : Nat := x.get (peBase p + 0xD0 + 4 * k.val) 4
def CragSt.setCounter (x : CragSt) (p : Pe) (k : Fin 4) (n : Nat) : CragSt := x.put (peBase p + 0xD0 + 4 * k.val) 4 n

/-- An operand's value; none while its queue is empty. -/
def CragSt.operand (x : CragSt) (p : Pe) : PeSrc → Option PeItem
  | .reg i => some (x.item p i.val)
  | .queue d => x.queueHead p d

/-- The queues an instruction pops: each queue head it reads, once. -/
def peQueues (i : PeInstr) : List Dir :=
  (i.args.filterMap (fun a => match a with | .queue d => some d | .reg _ => none)).eraseDups

/-- A loop count, a CONT value or a store address that is poisoned is used as 0 (R196). -/
def PeItem.used (t : PeItem) : Nat := if t.psn then 0 else t.v.toNat

/-- The bank an instruction accesses (R190). -/
def opBank (op : PeOp) (a : PeItem) : Option Nat :=
  match op with
  | .load off | .store off => some ((a.used + off) / 4 % 16)
  | _ => none

/-- Element `n` of a store path's sequence: an offset in the accumulator file (R212, R217, R221). -/
def storePathAddr (d : Desc) (n : Nat) : Nat :=
  let rec go (k : Nat) : List Nat → Nat → Int
    | [], _ => 0
    | e :: es, n =>
      let i := n % e
      let m := if d.xdim = some k then (let r := (i + d.rot) % e; if d.rev then e - 1 - r else r) else i
      d.stride.getD k 0 * (m : Int) + go (k + 1) es (n / e)
  ((d.base : Int) + go 0 d.ext n).toNat

/-- What an instruction makes: the item for its destinations, if any, and the crag after its own effect. -/
structure PeRes where
  item : Option PeItem := none
  next : Nat := 0
  crag : CragSt := {}
  deriving DecidableEq, Repr

/-- The effect of an instruction whose operands are `a`, `b`, `c`, before its result is written (R189 to R194, R196). -/
def peEffect (g : PeProg) (i : PeInstr) (a b c : PeItem) (x : CragSt) : PeRes :=
  let p := g.pe
  let at_ := x.pos p + 1
  match i.op with
  | .alu f => { item := some { v := aluWord f a.v b.v c.v, psn := aluPsn f a.v a.psn b.psn c.psn, tok := f == .mov && a.tok }
                next := at_, crag := x }
  | .load off =>
    let t := x.loadWord (a.used + off)
    { item := some { t with psn := t.psn || a.psn }, next := at_, crag := if a.psn then x.setTaint p true else x }
  | .store off =>
    { next := at_, crag := if a.psn then x.setTaint p true else x.storeWord (a.used + off) b }
  | .accumulate e => { next := at_, crag := x.accumulate e.val a }
  | .accRead e => { item := some (x.acc e.val), next := at_, crag := x }
  | .accStore .. => { next := at_, crag := x }
  | .setCounter k =>
    let t : PeItem := if i.args = [] then { v := BitVec.ofNat 32 (g.counters.getD k.val 0) } else a
    let y := x.setCounter p k t.used
    { next := at_, crag := if t.psn then y.setTaint p true else y }
  | .loop k back =>
    let n := x.counter p k
    if n ≤ 1 then { next := at_, crag := x.setCounter p k 0 } else { next := back, crag := x.setCounter p k (n - 1) }
  | .token iter =>
    { item := some { v := BitVec.ofNat 32 ((if iter then 3 else 4) * 2 ^ 28 + (if iter then a.v.toNat else a.used) % 2 ^ 28)
                     tok := true, psn := iter && a.psn }
      next := at_, crag := if a.psn && !iter then x.setTaint p true else x }
  | .branch onEnd onCont =>
    { next := if a.ends then onEnd else if a.tok && tokKind a == 4 && a.used % 2 ^ 28 == 1 then onCont else at_
      crag := if a.tok && tokKind a == 4 && a.psn then x.setTaint p true else x, item := some a }

/-- How an attempt to issue ends: an instruction issued, one waited for credit or a bank, or one waits for operands. -/
inductive Issue where
  | done (bank : Option Nat) (x : CragSt)
  | held
  | idle
  deriving DecidableEq, Repr

/-- A store path moves one entry into its port: the next word of the beat (R221, R222). -/
def streamEntry (g : CragProg) (p : Pe) (d : Desc) (q : Dir) (x : CragSt) : Issue :=
  let n := d.ext.foldl (· * ·) 1
  if g.outs.contains q = false ∨ 16 ≤ x.portCount q then .held
  else
    let k := x.streamed p
    let y := (x.setPortWord q (x.portCount q) (x.acc (storePathAddr d k / 4))).put (portBase q + 64) 1 (x.portCount q + 1)
    if k + 1 < n then .done none (y.put (peBase p + 0xE8) 4 (k + 1))
    else .done none ((y.put (peBase p + 0xE8) 4 0).setPos p (x.pos p + 1))

/-- The program counter of a body, back at its start after its last instruction. -/
def peWrap (g : PeProg) (n : Nat) : Nat := if n < g.body.length then n else 0

/-- A PREDICATED PE at the start of its body ends its layer once END or ABORT stands at the head of each of its ending
queues: it takes them and sends the token on (R193, R195, 10.3.1). -/
def layerEnd (cg : CragProg) (g : PeProg) (x : CragSt) : Option Issue :=
  if g.token ∨ x.pos g.pe ≠ 0 ∨ g.endFrom = [] then none
  else
    let heads := g.endFrom.map (x.queueHead g.pe)
    if heads.all (fun h => match h with | some t => t.ends | none => false) then
      let t : PeItem := ((heads.headD none).getD {})
      if g.endTo.all (fun d => cg.credit x g.pe d t) then
        let y := g.endFrom.foldl (fun y d => y.pop g.pe d) x
        some (.done none ((g.endTo.foldl (fun y d => cg.send g.pe d t y) y).setTaint g.pe false))
      else some .held
    else none

/-- One PE issues its next instruction, if it may (R187): every queue operand is there, every outgoing link has credit,
no bank conflict. A PREDICATED PE takes no token as an operand (10.3.1). A masked instruction reads no queue and writes
nothing (R193; DEDUCED, LOG 119). -/
def issue (cg : CragProg) (busy : List Nat) (g : PeProg) (x : CragSt) : Issue :=
  let p := g.pe
  match layerEnd cg g x with
  | some r => r
  | none =>
  match g.body[x.pos p]? with
  | none => .idle
  | some i =>
    let pr := match i.pred with | some k => some (x.item p k.val) | none => none
    if (match pr with | some t => t.v == 0 | none => false) then .done none (x.setPos p (peWrap g (x.pos p + 1)))
    else match i.op with
    | .accStore d q => match streamEntry cg p d q x with
      | .done b y => .done b (y.setPos p (peWrap g (y.pos p)))
      | r => r
    | _ =>
      let ops := i.args.map (x.operand p)
      if ops.any (·.isNone) then .idle
      else
        let at_ := fun (k : Nat) => ((ops.getD k none).getD {} : PeItem)
        if !g.token && (List.range 3).any (fun k => (at_ k).tok) then .idle
        else
          let bank := opBank i.op (at_ 0)
          if (match bank with | some b => busy.contains b | none => false) then .held
          else
            let y := (peQueues i).foldl (fun (y : CragSt) d => y.pop p d) x
            let y := if (peQueues i).any (fun d => match x.queueHead p d with | some t => t.ends | none => false)
              then y.setTaint p false else y
            let r := peEffect g i (at_ 0) (at_ 1) (at_ 2) y
            let z := r.crag
            let mark := (match pr with | some t => t.psn | none => false)
            let out : PeItem := let t := r.item.getD {}; { t with psn := t.psn || mark }
            let sent : PeItem := { out with psn := (out.psn || z.taint p) && !out.ends }
            if r.item.isSome && !(i.links.all (fun d => cg.credit x p d sent)) then .held
            else
              let z1 := match i.reg with | some k => if r.item.isSome then z.setItem p k.val out else z | none => z
              let z2 := if r.item.isSome then i.links.foldl (fun z d => cg.send p d sent z) z1 else z1
              .done bank (z2.setPos p (peWrap g r.next))

/-- Items in pass-through registers move on, each once the next PE has room (R188). -/
def movePassing (g : CragProg) (x : CragSt) : Bool × CragSt :=
  g.routes.foldl (fun (acc : Bool × CragSt) r =>
    let y := acc.2
    if y.passing r.pe r.src then
      let t := y.item r.pe (48 + r.src.val)
      if g.credit y r.pe r.out t then
        (true, g.send r.pe r.out t ((y.setItem r.pe (48 + r.src.val) {}).setFlag (peBase r.pe + 0xF0) (16 + r.src.val) false))
      else acc
    else acc) (false, x)

/-- One cycle of the PEs, served round-robin from the `k`-th: each issues at most one instruction, each bank serves one
access (R187, R190). Answers whether anything moved; a cycle in which a PE waited counts in CRG_STALL. -/
def peCycle (g : CragProg) (k : Nat) (x : CragSt) : Bool × CragSt :=
  let n := k % max 1 g.pes.length
  let (b0, x0) := movePassing g x
  let r := (g.pes.drop n ++ g.pes.take n).foldl (fun (acc : Bool × Bool × List Nat × CragSt) p =>
    match issue g acc.2.2.1 p acc.2.2.2 with
    | .done bank y => (true, acc.2.1, (bank.toList ++ acc.2.2.1), { y with fire := y.fire + 1 })
    | .held => (acc.1, true, acc.2.2)
    | .idle => acc) (b0, false, [], x0)
  (r.1, if r.2.1 then { r.2.2.2 with stall := satAdd r.2.2.2.stall 1 } else r.2.2.2)

/-- Nothing is on its way inside the crag: queues, pass-through registers and ports are empty (R203). -/
def CragSt.empty (x : CragSt) : Bool :=
  (List.finRange 64).all (fun p => x.get (peBase p + 0xF0) 4 == 0)
    && (List.finRange 4).all (fun q => x.portCount q == 0 && x.portEnd q == 0)

end Sys2Proof.Machine
end

