-- ==== Sys2Proof/Machine/Signals.lean ====
section
/-! DEFINITION. Cairn signals, waits, monitors and publications (08), and the table of unit states (18.6). -/

namespace Sys2Proof.Machine

/-! ### Classification (R147) -/

/-- Classes of a wait (Table 8-2). -/
inductive WaitClass where
  | satisfied | ahead (d : Nat) | outOfRange
  deriving DecidableEq, Repr

/-- Table 8-2, of TARGET against VALUE. -/
def classify (target value : Word) : WaitClass :=
  let d := (target - value).toNat
  if d = 0 then .satisfied
  else if d < 0x80000000 then .ahead d
  else if d < 0xC0000000 then .outOfRange
  else .satisfied

/-! ### Monitors (R162) -/

/-- A monitor hit sets the pending bit; REACH returns to OFF. -/
def monHit (x : CairnSt) : CairnSt :=
  { x with monPend := true, monMode := if x.monMode = 2 then 0 else x.monMode }

/-- A monitor after a change of VALUE by `add` (R161, R162). -/
def monAfter (add : Nat) (x : CairnSt) : CairnSt :=
  match x.monMode.toNat with
  | 1 => monHit x
  | 2 => if x.monLeft ≤ add then monHit x else { x with monLeft := x.monLeft - add }
  | _ => x

/-! ### Waits of rings and units after an add (R148) -/

/-- A ring whose head holds a pending WAIT on cairn `c`: satisfied, or nearer by `add` (R148, R156). -/
def ringWaitAfter (c : Cairn) (add : Nat) (value : Word) (r : Ring) (s : State) : State :=
  match s.rings[r].queue with
  | [] => s
  | w :: _ =>
    match w.remaining with
    | none => s
    | some d =>
      if w.op = 6 ∧ w.f 0x10 1 = c.val then
        if d ≤ add then complete r w stOK value.toNat 1 s
        else modCmd r w.cid (fun w => { w with remaining := some (d - add) }) s
      else s

/-- A unit's pending wait: satisfied (its unit resumes), or nearer by `add` (R148, R157). -/
def unitWaitAfter (c : Cairn) (add : Nat) (w : UnitWait) : Option UnitWait :=
  if w.cairn = c then
    match w.left with
    | none => some w
    | some d => if d ≤ add then none else some { w with left := some (d - add), sum := w.sum + BitVec.ofNat 32 add }
  else some w

/-- Forwarding of an applied signal to the Pair link (R332): entry `e` forwards cairn `c` while UP, queues
up to 1,024 while OPENING or LOST, and counts what it loses. -/
def forwardOn (c : Cairn) (add : Word) (e : Peer) (s : State) : State :=
  let p := s.pair.peers[e]
  let lo := p.cfg.fwdLo.toNat
  if p.cfg.valid = false ∨ c.val < lo ∨ lo + p.cfg.fwdN.toNat ≤ c.val ∨ s.cairns[c].owner ≠ p.cfg.tenant then s
  else
    let q := (p.cfg.remBase.toNat + (c.val - lo), add)
    match p.sess with
    | .up => s.onPeer e (fun p => { p with fwd := p.fwd ++ [q] })
    | .opening | .lost =>
      if p.fwd.length < 1024 then s.onPeer e (fun p => { p with fwd := p.fwd ++ [q] })
      else raiseEvent 0x0804 0xFF (BitVec.ofNat 32 e.val) (BitVec.ofNat 32 c.val)
        (s.onPeer e (fun p => { p with sigOvf := satAdd p.sigOvf 1 }))
    | _ => s

/-- A signal is applied: VALUE rises by the whole ADD, waits it satisfies end, monitors and publication
follow, and a signal that did not come over the Pair link is forwarded (R149, R150, R148, R161, R162, R332). -/
def applySignal (c : Cairn) (kind id : Nat) (add : Word) (s : State) : State :=
  let value := s.cairns[c].value + add
  let s1 := announcing 17 (fun s => s.onCairn c (fun x =>
    let y := { x with
      value := value, lastKind := BitVec.ofNat 4 kind, lastId := BitVec.ofNat 8 id
      lastAdd := add, sigCount := x.sigCount + 1 }
    if add = 0 then y else monAfter add.toNat { y with pubOwed := y.pubOwed || y.pubEn })) s
  let s2 := (List.finRange 16).foldl (fun s r => ringWaitAfter c add.toNat value r s) s1
  let s2 := if kind = 7 then s2 else (List.finRange 4).foldl (fun s e => forwardOn c add e s) s2
  { s2 with ma := { s2.ma with waits := s2.ma.waits.filterMap (unitWaitAfter c add.toNat) } }

/-- A signal blocked because its tenant does not own the cairn (R155): counted, recorded in LAST_BLOCK
and announced by CAIRN_XTENANT. -/
def blockSignal (c : Cairn) (kind id : Nat) (s : State) : State :=
  raiseEvent 0x0401 0xFF (BitVec.ofNat 32 c.val) (BitVec.ofNat 32 (kind * 256 + id % 256))
    (s.onCairn c (fun x => { x with xblock := satAdd x.xblock 1, blkKind := BitVec.ofNat 4 kind
                                    blkId := BitVec.ofNat 8 id }))

/-- A page write rejected (R153): counted in SIG_REJ and announced by CAIRN_BADADD. -/
def rejectSignal (c : Cairn) (kind id : Nat) (s : State) : State :=
  raiseEvent 0x0402 0xFF (BitVec.ofNat 32 c.val) (BitVec.ofNat 32 (kind * 256 + id % 256))
    (s.onCairn c (fun x => { x with sigRej := satAdd x.sigRej 1, blkKind := BitVec.ofNat 4 kind
                                    blkId := BitVec.ofNat 8 id }))

/-- A signal from tenant `t`: applied where the tenant owns the cairn, blocked elsewhere (R155). -/
def signalFrom (t : Tenant) (c : Cairn) (kind id : Nat) (add : Word) (s : State) : State :=
  if s.cairns[c].owner = t then applySignal c kind id add s else blockSignal c kind id s

/-! ### Units (18.6, R385) -/

/-- The unit's number in reports (18.6, R385). -/
def sigNum : SigUnit → Nat
  | .crag n => n.val | .rowan e => 32 + e.val | .lane l => 36 + l.val

/-- The unit's source kind (Table 8-8). -/
def sigKind : SigUnit → Nat
  | .crag _ => 3 | .rowan _ => 4 | .lane _ => 5

/-- The unit's number in LAST_SIG (Table 8-7). -/
def sigId : SigUnit → Nat
  | .crag n => n.val | .rowan e => e.val | .lane l => l.val

/-- The tenant of a unit (Table 8-3): a Rowan engine has the tenant of its current transfer's ring. -/
def State.unitTenant (s : State) : SigUnit → Tenant
  | .crag n => s.ma.crags[n].tenant
  | .rowan e => match s.ma.rowan[e].queue with
    | x :: _ => s.ringTenant x.x.ring
    | [] => 0
  | .lane l => s.ma.lanes[l].owner

/-- The unit runs work of the loaded bit-stream: it can signal and present waits. -/
def State.unitRuns (s : State) (u : SigUnit) : Bool :=
  s.cfg.loaded && s.pw.rdy &&
  match u with
  | .crag n => let x := s.ma.crags[n]; x.used && !x.suspended && !x.fenced && !x.keep && !x.clkGate && !x.pwrGate
  | .rowan e => !s.ma.rowan[e].fenced && !s.ma.rowan[e].queue.isEmpty
  | .lane l => let x := s.ma.lanes[l]; x.owned && !x.fenced && !x.keep && !x.clkOff && !x.pwrOff

/-- The unit sleeps on a cairn (R157). -/
def State.asleep (s : State) (u : SigUnit) : Bool :=
  s.ma.waits.any (fun w => w.unit == u && w.mode == .sleep)

/-- STATE of a unit in UNIT_VIEW (18.6): 0 USABLE, 1 THROTTLED, 2 FENCED, 3 GATED, 4 OFFLINE, 5 KEEP. -/
def unitState (s : State) (u : Nat) : Nat :=
  let off := s.cfg.mgmtOff.contains u
  let fenced := s.wd.powerFenced.contains u
  if u < 32 then
    let x := s.ma.crags[ix 31 u]
    if x.fenced || fenced then 2 else if x.keep then 5
    else if off && !x.used then 4
    else if x.clkGate || x.pwrGate then 3
    else if s.pw.therm95 && x.used then 1 else 0
  else if u < 36 then
    let x := s.ma.rowan[ix 3 (u - 32)]
    if x.fenced || fenced then 2 else if off && x.queue.isEmpty then 4 else 0
  else if u < 52 then
    let x := s.ma.lanes[ix 15 (u - 36)]
    if x.fenced || fenced then 2 else if x.keep then 5
    else if off then 4 else if x.clkOff || x.pwrOff then 3 else 0
  else if u < 60 then
    if bit s.st.chInUse (u - 52) then (if s.pw.derated then 1 else 0) else 2
  else if u < 76 then
    if bit s.st.onfi (u - 60) then 0 else 2
  else if fenced then 2 else if off then 4 else 0

/-- The byte UNIT_VIEW holds for a unit: STATE in bits 7:5, MGMT_OFF in bit 4. -/
def viewByte (s : State) (u : Nat) : Byte :=
  BitVec.ofNat 8 (unitState s u * 32 + (if s.cfg.mgmtOff.contains u then 16 else 0))

/-- UNIT_VIEW brought up to date; DP_GEN rises by one for every byte that changed, and the table goes to the management
endpoint (R365). -/
def refreshView (s : State) : State :=
  let v : Vector Byte 78 := Vector.ofFn (fun u : Fin 78 => viewByte s u.val)
  let n := ((List.finRange 78).filter (fun u => v[u] != s.cfg.unitView[u])).length
  if n = 0 then s
  else
    let g := s.cfg.dpGen + BitVec.ofNat 16 n
    { s with cfg := { s.cfg with unitView := v, dpGen := g }, mg := { s.mg with sent := s.mg.sent ++ [(g, v)] } }

/-- New work may be given to the unit (R367). -/
def State.usable (s : State) (u : Nat) : Bool := unitState s u ≤ 1 && !s.cfg.mgmtOff.contains u

end Sys2Proof.Machine
end

