-- ==== Sys2Proof/Machine/Head.lean ====
section
/-! DEFINITION. How a command stands at its ring's head: when it may enter, the checks of Table 6-6,
the arbitration of the resources it uses (17.3), and the reads it issues (5.5). -/

namespace Sys2Proof.Machine

/-! ### Shard maps, images, lanes of the loaded configuration -/

def State.map? (s : State) (m : Nat) : Option MapSec := s.cfg.bs.maps.find? (fun x => x.id.val == m)

/-- The image a tenant holds under a number (R256). -/
def State.image? (s : State) (t : Tenant) (img : Word) : Option Image :=
  s.st.images.find? (fun x => x.tenant == t && x.img == img)

def modImage (t : Tenant) (img : Word) (f : Image → Image) (s : State) : State :=
  { s with st := { s.st with images := s.st.images.map (fun x => if x.tenant = t ∧ x.img = img then f x else x) } }

/-- A COMMAND lane the tenant owns that still serves (R226, R230). -/
def State.commandLane (s : State) (t : Tenant) : Option Lane :=
  (List.finRange 16).find? (fun l =>
    let x := s.ma.lanes[l]; x.owned && !x.keep && x.owner == t && x.role == .command)

/-- The lane serves the snoops of the bit-stream: a SNOOP lane that a tenant owns and the Keep has not claimed (R226). -/
def LaneSt.snooping (x : LaneSt) : Bool := x.role == .snoop && x.owned && !x.keep

/-- The lane whose snoop feeds leaf digests (T8). -/
def State.leafLane (s : State) : Option Lane :=
  (List.finRange 16).find? (fun l => s.ma.lanes[l].snooping && s.ma.lanes[l].snoops.any (·.leaf))

/-- The bit-stream gives some crag a program of the kind. -/
def State.hasProgram (s : State) (k : ProgKind) : Bool := s.cfg.bs.programs.any (fun p => p.kind == k)

/-- A peer entry counts as configured for the tenant (R318). -/
def State.peerFor (s : State) (t : Tenant) (e : Nat) : Bool :=
  decide (e < 4) && (let x := s.pair.peers[ix 3 e]; x.cfg.valid && x.cfg.tenant == t)

/-- The buddy entry a SNAP_SEAL with PAIR = 1 pairs through (R325). -/
def State.buddyFor (s : State) (t : Tenant) : Option Peer :=
  (List.finRange 4).find? (fun e => s.pair.peers[e].cfg.buddy && s.peerFor t e.val)

/-! ### Checks at the head (R108, Table 6-6) -/

/-- Check 3: the command needs a shard map, crag program, Sloe lane, key slot or pair peer that the
loaded bit-stream does not configure. A map or entry number outside Table 6-5 is left to check 5. RESTORE asks for no lane
here, although COMPARE mode uses one (DESIGN CHOICE, LOG 99). -/
def unconfigured (s : State) (r : Ring) (c : Cmd) : Bool :=
  let t := s.ringTenant r
  let noMap := fun (off : Nat) => decide (c.f off 1 ≤ 15) && (s.map? (c.f off 1)).isNone
  match c.op with
  | 0x10 => noMap 0x1C || s.leafLane.isNone || !s.hasProgram .pack
  | 0x11 => !s.hasProgram .pack || s.leafLane.isNone
  | 0x12 => c.f 0x14 1 == 1 && (s.buddyFor t).isNone
  | 0x13 => noMap 0x1C || !s.hasProgram .unpack
  | 0x14 => noMap 0x10 || noMap 0x11 ||
      (match s.map? (c.f 0x10 1), s.map? (c.f 0x11 1) with
       | some a, some b =>
         a.tensors.any (fun x => b.tensors.any (fun y => x.id == y.id && x.dtype != y.dtype)) && !s.hasProgram .cast
       | _, _ => false)
  | 0x18 => (s.commandLane t).isNone ||
      (decide (c.f 0x13 1 ≤ 31) && (let k := s.ma.keys[ix 31 (c.f 0x13 1)]; !k.keep && k.given.isNone))
  | 0x20 | 0x21 => decide (c.f 0x1C 1 ≤ 3) && !s.peerFor t (c.f 0x1C 1)
  | _ => false

/-- Check 4: the TRB offset of the first field that names a cairn, ring, key slot or shard map of
another tenant. -/
def foreignField (s : State) (r : Ring) (c : Cmd) : Option Nat :=
  let t := s.ringTenant r
  let cairnOf := fun (n : Nat) => decide (n ≤ 127) && s.cairns[ix 127 n].owner != t
  let mapOf := fun (off : Nat) => match s.map? (c.f off 1) with | some m => m.tenant != t | none => false
  match c.op with
  | 0x04 => if c.f 0x10 1 = 2 ∧ (List.finRange 16).any (fun q => (c.f 0x12 2).testBit q.val && s.ringTenant q != t)
            then some 0x12 else none
  | 0x05 | 0x06 => if cairnOf (c.f 0x10 1) then some 0x10 else none
  | 0x10 => if mapOf 0x1C then some 0x1C
            else if c.f 0x1D 1 ≤ 127 ∧ (List.range 128).any (fun k => decide (k < c.f 0x1E 2) && cairnOf (c.f 0x1D 1 + k))
            then some 0x1D else none
  | 0x13 => if mapOf 0x1C then some 0x1C else none
  | 0x14 => if mapOf 0x10 then some 0x10 else if mapOf 0x11 then some 0x11 else none
  | 0x18 => if c.f 0x13 1 ≤ 31 ∧ (let k := s.ma.keys[ix 31 (c.f 0x13 1)]; !k.keep && k.given != some t)
            then some 0x13 else none
  | _ => none

/-- The resources a command's transfer uses (R338). -/
def needs (s : State) (c : Cmd) : List Res :=
  let host := c.f 0x24 1 == 0
  match c.op with
  | 0x01 => [0, 5] ++ (if host then [1] else [])
  | 0x02 => [0, 6] ++ (if host then [2] else [])
  | 0x11 => [0, 5] ++ (if s.cfg.bs.limits.resident then [] else [1])
  | 0x12 => [0, 5]
  | 0x13 => [0] ++ (match c.f 0x1D 1 with | 1 => ([6] : List Res) | 2 => [4] | _ => [])
              ++ (match s.map? (c.f 0x1C 1) with | some m => if m.stagingBases.isNone then [1, 2] else [] | none => [])
  | 0x14 => [0]
  | 0x18 => match c.f 0x10 1 with | 0 => [1] | 1 => [0] | 2 => [6] | _ => [0]
  | 0x20 => [3]
  | 0x21 => [4, 5, 0]
  | 0x4F => [2]
  | 0x40 => [1]
  | _ => []

/-- The first resource the command needs whose live capacity is 0 (R338). -/
def zeroRes (s : State) (c : Cmd) : Option Res := (needs s c).find? (fun k => s.liveOf k == 0)

/-- The checks of Table 6-6 in their order, the sector run of R107 with check 5, then R338's capacity. -/
def headCheck (s : State) (r : Ring) (c : Cmd) : Option Outc :=
  let t := s.ringTenant r
  if wellFormedTrb c.trb = false then some { status := stREFUSED }
  else if s.cfg.loaded = false ∧ preLoadOp c.op = false then some { status := stNOT_ADMITTED }
  else if unconfigured s r c then some { status := stNOT_ADMITTED }
  else match foreignField s r c with
  | some off => some { status := stFOREIGN, d0 := off }
  | none =>
  let ext := match c.op with
    | 0x01 | 0x02 => extentFault s t (c.f 0x18 8) (c.f 0x20 4) 0x18 0x20
    | 0x18 => if c.f 0x10 1 = 2 then extentFault s t (c.f 0x18 8) (ceilDiv (c.f 0x20 8) 4096) 0x18 0x20 else none
    | _ => none
  match (match rangeFault c, ext with | some x, some y => some (min x y) | some x, none => some x | none, e => e) with
  | some off => some { status := stRANGE, d0 := off }
  | none =>
  if c.op = 0x42 ∧ c.f 0x10 1 = 1 ∧ t ≠ 0 then some { status := stREFUSED }
  else match zeroRes s c with
  | some k => some { status := stNOT_ADMITTED, d0 := 0x70, refusedFor := some k }
  | none => none

/-! ### Reads of host and peer memory (5.5, 5.6) -/

/-- The beats a command has, by position in its read plan. -/
def gotAt (c : Cmd) (i : Nat) : Option Got := (c.got.find? (fun p => p.1 == i)).map (·.2)

/-- Every planned beat has come. -/
def allGot (c : Cmd) (plan : List Nat) : Bool := (List.range plan.length).all (fun i => (gotAt c i).isSome)

/-- The beat at position `i` of a command's plan has come, or its read is in flight. -/
def State.asked (s : State) (c : Cmd) (i : Nat) : Bool :=
  (gotAt c i).isSome || s.link.reads.any (fun q => match q.what with
    | .cmd n f => n == c.cid && decide (f ≤ i ∧ i < f + q.beats)
    | _ => false)

/-- Beats of a plan, with their positions, that may be issued: not asked for and translated (R94, R95). -/
def readyReads (s : State) (r : Ring) (c : Cmd) : List (Nat × Nat) :=
  c.plan.zipIdx.filter (fun p => !s.asked c p.2 && (match s.fate (s.cmdKey r c) p.1 false true with | .go .. => true | _ => false))

/-- Why a ring gets no tag now: its own cap (true) or the pool (false) (R91, R92). -/
def tagStall (s : State) (r : Ring) : Option Bool :=
  if s.rings[r].tagCap.toNat ≤ s.inUse r then some true else if s.poolFree = 0 then some false else none

/-- Beats one request may ask: consecutive positions and addresses inside one 512-byte block, at most Max Read Request
Size (R91, Table 5-2). -/
def readRun (maxBytes : Nat) : List (Nat × Nat) → Nat
  | [] => 0
  | (a, i) :: rest =>
    let rec go : Nat → List (Nat × Nat) → Nat
      | n, [] => n
      | n, (b, j) :: bs =>
        if b = a + 64 * n && j = i + n && b / 512 == a / 512 && 64 * (n + 1) ≤ maxBytes then go (n + 1) bs else n
    go 1 rest

/-- A read leaves: it holds the next tag, and its issue time is kept (R81, R91). -/
def sendRead (k : Key) (what : ReadFor) (a n : Nat) (orc : Bool) (s : State) : State :=
  match s.fate k a false true with
  | .go xa t =>
    let tag := s.link.nextTag
    let q : ReadReq := { tag := tag, key := k, what := what, addr := a, beats := n, xaddr := xa, xlat := t.xlat, since := s.now, orc := orc }
    emit (.readReq tag k.ring.val xa (64 * n) t)
      { s with link := { s.link with reads := s.link.reads ++ [q], nextTag := tag + 1 } }
  | _ => s

/-- The next read of a command leaves. -/
def sendNext (r : Ring) (c : Cmd) (s : State) : State :=
  match readyReads s r c with
  | [] => s
  | (a, i) :: rest =>
    sendRead (s.cmdKey r c) (.cmd c.cid i) a (readRun (min 512 s.link.maxRead) ((a, i) :: rest)) false s

/-! ### Arbitration (17.3) -/

def SvcEnt.floorRate (e : SvcEnt) (frac : Nat) (breach : Bool) : Nat :=
  if breach then e.amount.toNat * frac / 1024 else e.amount.toNat

/-- Bytes of one grant of a resource (Table 17-2). -/
def grantBytes (k : Res) : Nat := if k.val ≤ 2 then 512 else 4096

/-- Tokens earned since the last look at the buckets, at the (scaled) AMOUNT rate, at most 64 grants'
worth (R343, R347). AMOUNT is in 1/16 GB/s, that is 62.5 bytes a microsecond. -/
def refill (k : Res) (now : Nat) (a : Arb) : Arb :=
  { a with
    tokAt := now
    tokens := Vector.ofFn (fun q : Fin 64 =>
      min 64 (a.tokens[q] + (now - a.tokAt) * a.ent[q].floorRate a.frac.toNat a.breach * 125 / (2 * grantBytes k))) }

/-- The first of `qs` after `last` in round-robin order. -/
def roundRobin (last : Nat) (qs : List Req) : Option Req :=
  match qs.find? (fun q => decide (last < q.val)) with
  | some q => some q
  | none => qs.head?

/-- The arbiter's choice among the eligible requesters (R343): aged, tier G, F, E, B. -/
def arbChoose (a : Arb) (eligible : List Req) : Option Req :=
  let aged := eligible.filter (fun q => decide (64 ≤ a.age[q]))
  let oldest := aged.foldl (fun b q => match b with
    | none => some q
    | some p => if a.age[p] < a.age[q] then some q else some p) (none : Option Req)
  let tok := fun q : Req => decide (0 < a.tokens[q] ∧ 0 < a.ent[q].amount.toNat)
  let tier := fun (p : Req → Bool) => roundRobin a.last (eligible.filter p)
  match oldest with
  | some q => some q
  | none =>
  match tier (fun q => a.ent[q].cls == .guaranteed && tok q) with
  | some q => some q
  | none =>
  match tier (fun q => a.ent[q].cls == .elastic && tok q) with
  | some q => some q
  | none =>
  if a.breach then none
  else
  -- weighted round-robin: the requester of the last grant keeps its turn until WEIGHT grants
  match (eligible.find? (fun q => q.val == a.last && a.ent[q].cls != .background &&
      decide (a.share < a.ent[q].weight.toNat))) with
  | some q => some q
  | none =>
  match tier (fun q => a.ent[q].cls != .background) with
  | some q => some q
  | none => tier (fun q => a.ent[q].cls == .background)

/-- One grant to `q`: a token is spent, its age returns to 0 and every other eligible age rises (R343). -/
def arbGrant (a : Arb) (eligible : List Req) (q : Req) : Arb :=
  { a with
    tokens := a.tokens.set q (a.tokens[q] - 1)
    age := Vector.ofFn (fun p : Fin 64 => if p = q then 0 else if eligible.contains p then a.age[p] + 1 else a.age[p])
    share := if a.last = q.val then a.share + 1 else 1
    last := q.val }

/-- The requester number of a ring. -/
def ringReq (r : Ring) : Req := ⟨r.val, by omega⟩

/-! ### Wheel slots and the next fill (R165, R169, R182) -/

/-- Slots that lie before position `i`; each stretch between cuts begins a slot of its own (R165). -/
def slotsBefore : Nat → List Nat → Nat → Nat
  | prev, [], i => (i - prev) / 64
  | prev, c :: cs, i => if c ≤ i then ceilDiv (c - prev) 64 + slotsBefore c cs i else (i - prev) / 64

/-- The positions at which streams end. -/
def streamEnds : Nat → List Strm → List Nat
  | _, [] => []
  | n, st :: rest => (n + st.beats) :: streamEnds (n + st.beats) rest

/-- Where end marks lie on a wheel. -/
def WheelSt.cuts (x : WheelSt) : List Nat := if x.output then x.marks else streamEnds 0 x.streams

/-- The slot of a position, counted from the slot at HEAD when the stream began. -/
def WheelSt.slotNo (x : WheelSt) (i : Nat) : Nat := slotsBefore 0 x.cuts i

/-- A slot at or beyond TAIL has room for a beat at position `i` (R166, R169). -/
def WheelSt.room (x : WheelSt) (i : Nat) : Bool := decide (x.slotNo i < x.slotNo x.taken + x.depth.toNat)

/-- The stream a position belongs to and the beat within it; none past a DRAIN end still to come (R182, R183). -/
def streamAt : Nat → List Strm → Nat → Option (Strm × Nat)
  | _, [], _ => none
  | base, st :: rest, i =>
    if i < base + st.beats then some (st, i - base)
    else if st.drain && st.consumed then none else streamAt (base + st.beats) rest i

/-- The stream whose part the wheel fills next. -/
def WheelSt.filling (x : WheelSt) : Option (Strm × Nat) :=
  if x.en && !x.output && !x.fenced && !x.drainHold then streamAt 0 x.streams x.asked else none

/-- The wheel's prefetcher reads the stream: its range is the bit-stream's, or its command's (9.2). -/
def Strm.prefetched (st : Strm) : Bool := st.gen == .fixed || (st.gen == .command && st.cid.isSome)

/-- Reads in flight for a wheel (R169). -/
def State.inflight (s : State) (w : Wheel) : Nat :=
  (s.link.reads.filter (fun q => match q.what with | .wheel v _ | .merged v _ => v == w | _ => false)).length

/-- The requester a wheel's stream is charged to: its driving ring (R339, R169), or the crag program that no command
drives. -/
def streamReq (s : State) (w : Wheel) : Req :=
  let x := s.ma.wheels[w]
  match x.filling with
  | some (st, _) => if st.cid.isSome then ringReq st.ring else
      ((s.cfg.bs.programs[s.ma.crags[x.crag].prog.toNat]?).bind (·.req)).getD (ringReq st.ring)
  | none => 0

/-- A wheel has a read to ask for: a beat of its stream, room in its slots and INFLIGHT below PF_TAGS (R169, R343). -/
def wheelWants (s : State) (w : Wheel) : Bool :=
  let x := s.ma.wheels[w]
  match x.filling with
  | some (st, _) => st.prefetched && x.room x.asked && decide (s.inflight w < x.pfTags.toNat)
  | none => false

/-- The key of a wheel's accesses: its command's, or its ring's (R94, R169). -/
def State.strmKey (s : State) (st : Strm) : Key :=
  match st.cid.bind (fun cid => s.rings[st.ring].find cid) with
  | some c => s.cmdKey st.ring c
  | none => s.ringKey st.ring

/-- A wheel's next fill is a read of host or peer memory that may leave now (R343). -/
def wheelReads (s : State) (w : Wheel) : Bool :=
  wheelWants s w && (match s.ma.wheels[w].filling with
    | some (st, off) => !st.staging && (tagStall s st.ring).isNone &&
        (match s.fate (s.strmKey st) (st.addr + 64 * off) false true with | .go .. => true | _ => false)
    | none => false)

/-- A ring has a request on a resource: its head command uses it and has not started, or a command of it waits with a
read it may issue and a tag it may take (R343). -/
def ringWants (s : State) (k : Res) (r : Ring) : Bool :=
  (match s.rings[r].queue with
    | c :: _ => !c.started && (needs s c).contains k
    | [] => false)
  || (k == 1 && (tagStall s r).isNone && (s.rings[r].queue ++ s.rings[r].past).any (fun c => c.started && !(readyReads s r c).isEmpty))
  || (List.finRange 64).any (fun w => streamReq s w == ringReq r && (if k = 0 then wheelWants s w &&
      (match s.ma.wheels[w].filling with | some (st, _) => st.staging | none => false) else k == 1 && wheelReads s w))

/-- Requesters with a request on a resource that meet its other conditions (R343): rings, crag programs whose
streams no command drives, and the BUDDY requester while a ward's image comes in (R339). -/
def eligibleOn (s : State) (k : Res) : List Req :=
  ((List.finRange 16).filter (ringWants s k)).map ringReq
    ++ (((List.finRange 64).filter (fun w => (streamReq s w).val ≥ 16 && wheelWants s w && (match s.ma.wheels[w].filling with
        | some (st, _) => if st.staging then k == 0 else k == 1 && wheelReads s w
        | none => false))).map (streamReq s)).eraseDups
    ++ (match s.cfg.bs.buddyReq with
        | some q => if k.val ≤ 5 && (k == 4 || k == 0) && s.pair.peers.toList.any (fun p => p.xfers.any (fun x => !x.sending && x.accepted))
            then [q] else []
        | none => [])

/-- Why a ring waited for a grant of a resource (R345): its tier closed in a breach, its floor scaled by the breach, or
no token while others were granted. `after` is the time until it earns a token. -/
inductive GrantWait where
  | no | closed | scaled (after : Nat) | tier
  deriving DecidableEq, Repr

/-- The tier of requester `q` is closed by a breach (R347): BACKGROUND, or no floor and no reservation. -/
def tierClosed (a : Arb) (q : Req) : Bool :=
  a.breach && (a.ent[q].cls == .background || a.ent[q].amount == 0)

/-- Grants in the arbiter's order, up to `q`'s: each requester chosen before it takes the grant it asked for and keeps it
until it uses it (R343; DESIGN CHOICE, LOG 95). None when the arbiter stops first. Answers whether `q` was the first. -/
def arbServe (q : Req) : Nat → List Req → Bool → Arb → Option (Bool × Arb)
  | 0, _, _, _ => none
  | fuel + 1, el, first, a =>
    match arbChoose a el with
    | none => none
    | some p =>
      let b := arbGrant a el p
      if p = q then some (first, b)
      else arbServe q fuel (el.filter (· != p)) false { b with granted := setBit b.granted p.val true }

/-- Microseconds until a requester without a token earns one at its scaled rate; none where it earns nothing. -/
def earnTime (k : Res) (a : Arb) (q : Req) : Option Nat :=
  let rate := a.ent[q].floorRate a.frac.toNat a.breach
  if rate = 0 then none else some (ceilDiv (2 * grantBytes k) (125 * rate))

/-- The grant a command asks of a resource, and the arbiter after it. A grant handed to it before is used first. -/
def askGrant (s : State) (k : Res) (r : Ring) : GrantWait × Arb :=
  let q := ringReq r
  let a := refill k s.now s.adm[k]
  if bit a.granted q.val then (.no, { a with granted := setBit a.granted q.val false })
  else if tierClosed a q then (.closed, a)
  else
    let el := eligibleOn s k
    let el := (if el.contains q then el else q :: el).filter (fun p => !bit a.granted p.val)
    let tok := decide (0 < a.tokens[q] ∧ 0 < a.ent[q].amount.toNat)
    match arbServe q 64 el true a with
    | some (first, b) => (if first || tok then .no else .tier, b)
    | none => match earnTime k a q with
      | some n => (.scaled n, { a with tokens := a.tokens.set q 0, tokAt := s.now + n })
      | none => (.closed, a)

/-- A wait for capacity makes the command's entry DELAYED and names its cause (R131, R345, R346). -/
def delayCmd (r : Ring) (cid : Nat) (res cause : Nat) (s : State) : State :=
  modCmd r cid (fun c => { c with
    delayed := true, res := BitVec.ofNat 3 res, cause := BitVec.ofNat 4 cause
    waitFrom := some (c.waitFrom.getD s.now) }) s

/-- Asks a grant of every resource in turn; none when a tier is closed, the command then waits. -/
def takeGrants (r : Ring) (cid : Nat) : List Res → State → Bool × State
  | [], s => (true, s)
  | k :: ks, s =>
    match askGrant s k r with
    | (.closed, _) => (false, delayCmd r cid k.val 3 s)
    | (.no, a) => takeGrants r cid ks (s.onArb k (fun _ => a))
    | (.scaled n, a) =>
      let s1 := advanceTo (s.now + n) (delayCmd r cid k.val 2 (s.onArb k (fun _ => a)))
      takeGrants r cid ks (modCmd r cid (stopWaiting s1.now) s1)
    | (.tier, a) => takeGrants r cid ks (modCmd r cid (stopWaiting s.now) (delayCmd r cid k.val 1 (s.onArb k (fun _ => a))))

/-! ### Leaving NAP and IDLE (R28, R29) -/

/-- The program the loaded bit-stream puts on a crag, by PLACE_MAP (R204). -/
def State.programOn (s : State) (n : Crag) : Option ProgSec :=
  let x := s.ma.crags[n]
  if x.used then s.cfg.bs.programs[x.prog.toNat]? else none

/-- A used crag's program is reloaded in its initial state; the store and the accumulators of every crag are undefined
from now on (R29, DESIGN CHOICE, LOG 12). -/
def reloadCrag (s : State) (n : Crag) : State :=
  let body := match s.programOn n with | some p => p.initial | none => s.ma.crags[n].body
  { s.onCrag n (fun x => { x with body := body, undefinedSince := some s.freeIx, written := [], rest := x.used }) with freeIx := s.freeIx + 1 }

/-- Work or an access that needs the data path returns the engine to ACTIVE (R28); out of NAP the crag
programs are reloaded (R29). A NAP request still in STATE_REQ is pending again. -/
def wake (s : State) : State :=
  match s.pw.pstate with
  | .active => s
  | .idle => { s with pw := { s.pw with pstate := .active } }
  | .nap =>
    let s1 := { s with pw := { s.pw with pstate := .active, reqPend := s.pw.stateReq == 2 } }
    (List.finRange 32).foldl reloadCrag s1

/-- An access that leaves NAP and lets IDLE be (R28). -/
def wakeNap (s : State) : State := if s.pw.pstate = .nap then wake s else s

/-! ### The head (R108, R114) -/

/-- The engine runs commands: ready, no hold-up or reset, 12 V on the auxiliary connector (2.1.1), and the Steward
neither halted nor dead (R36, R44, R372, R386). -/
def State.running (s : State) : Bool :=
  s.pw.phase == .ready && s.pw.rdy && s.pw.aux != .absent && !s.dbg.halted && !s.wd.stewardDead

/-- The completion ring holds every entry up: DEPTH entries unconsumed and one waiting (R113), or an
entry write failed (Table 5-8). -/
def RingSt.stalled (x : RingSt) : Bool :=
  x.faulted || (!x.waiting.isEmpty && decide (x.depth.toNat ≤ x.unconsumed))

/-- The command at the head of a ring that may act now: the ring runs, and an ORDERED command enters
only when every earlier one has completed (Table 6-3, 6.4.1). -/
def headCmd (s : State) (r : Ring) : Option Cmd :=
  let x := s.rings[r]
  if s.running = false ∨ x.inReset ∨ x.stalled then none
  else match x.queue with
    | [] => none
    | c :: _ => if c.ordered ∧ !c.atHead ∧ (!x.past.isEmpty || !x.waiting.isEmpty || x.aborts.any (fun a => decide (a.cmd.cid < c.cid)))
        then none else some c

/-- The standalone engine that takes new work: of those neither fenced nor marked offline that hold fewer than 8
transfers, the one with the shortest queue (R209, R367; DESIGN CHOICE, LOG 32). -/
def State.rowanFree (s : State) : Option Eng :=
  ((List.finRange 4).filter (fun e => !s.ma.rowan[e].fenced && !s.cfg.mgmtOff.contains (32 + e.val)
      && decide (s.ma.rowan[e].queue.length < 8))).foldl (fun b e => match b with
    | none => some e
    | some f => if s.ma.rowan[e].queue.length < s.ma.rowan[f].queue.length then some e else some f) (none : Option Eng)

/-- The engine that holds a command's transfers. -/
def State.engineOf (s : State) (r : Ring) (cid : Nat) : Option Eng :=
  (List.finRange 4).find? (fun e => s.ma.rowan[e].queue.any (fun x => x.own == some (r, cid)))

/-- The taps a command's stream passes (Table 12-2). -/
def tapsOf (s : State) (r : Ring) (c : Cmd) : List Tap :=
  let rowan : List Tap := match (s.engineOf r c.cid).or s.rowanFree with | some e => [.rowan e] | none => []
  match c.op with
  | 0x01 => if c.f 0x24 1 = 0 then [.hostLink r] else []
  | 0x02 => [.vaultRead]
  | 0x11 => rowan ++ (if s.cfg.bs.limits.resident then [.packed] else [.packed, .hostLink r])
  | 0x13 => rowan ++ (if c.f 0x1D 1 = 1 then [.vaultRead] else [])
  | 0x14 => rowan ++ (match s.map? (c.f 0x10 1) with
    | some m => if m.stagingBases.isNone then [.hostLink r] else []
    | none => [])
  | 0x18 => (match c.f 0x10 1 with | 0 => [.hostLink r] | 2 | 3 => [.vaultRead] | _ => [])
      ++ (if c.f 0x12 1 = 1 then [.hostLink r] else [])
  | 0x20 => [.pairTx, .vaultRead]
  | 0x21 => [.pairRx]
  | _ => []

/-- A fenced lane whose snoop the command's stream needs: its role is served by no other lane (R230). -/
def tapFenced (s : State) (taps : List Tap) : Option Nat :=
  ((List.finRange 16).find? (fun l => s.ma.lanes[l].fenced && s.ma.lanes[l].snooping &&
    s.ma.lanes[l].snoops.any (fun p => taps.contains p.tap))).map (fun l => 36 + l.val)

/-- A lane has fewer contexts free than it has snoops on the taps: a stream's messages would wait (R228, R229). -/
def LaneSt.full (x : LaneSt) (taps : List Tap) : Bool :=
  !x.fenced && x.snooping && decide ((x.ctx.toList.filter (fun c => c.msg.isNone)).length
    < (x.snoops.filter (fun p => taps.contains p.tap)).length)

/-- A lane on the taps has no context free: the stream waits (R228, R229). -/
def tapFull (s : State) (taps : List Tap) : Bool := (List.finRange 16).any (fun l => s.ma.lanes[l].full taps)

/-- A command reaches its ring's head: the PASID of its accesses is RNG_PASID as it stands (R110). -/
def reachHead (r : Ring) (cid : Nat) (s : State) : State :=
  let p := if s.rings[r].pasidV then some s.rings[r].pasid else none
  modCmd r cid (fun c => if c.atHead then c else { c with atHead := true, pasid := p }) s

/-- The command's work runs on the Massif. -/
def usesArray (c : Cmd) : Bool := [0x11, 0x13, 0x14].contains c.op

/-- A step below STEP_CEIL slows the command down: DELAYED by CLOCK (R35, Table 17-5). -/
def slowClock (s : State) (c : Cmd) : Cmd :=
  if usesArray c && decide (s.pw.stepCeil.toNat < s.pw.step.toNat) then { c with delayed := true, res := 7, cause := 6 } else c

/-- A tap stall is counted on the lanes that have no context free (R228). -/
def countTapStall (taps : List Tap) (s : State) : State :=
  { s with ma := { s.ma with lanes := mapBank (fun _ x =>
      if x.full taps then { x with tapStall := satAdd x.tapStall 1 } else x) s.ma.lanes } }

/-- A step of the command of opcode `code` at the head of ring `r`. A command the checks refuse completes
at once (R108); an opcode the table lacks is refused by whichever head step comes (DEDUCED, LOG 14); while 64
commands run past the head the head holds (R114). `act` does what the owning chapter says. -/
def headStep (r : Ring) (code : Nat) (act : Cmd → State → State) (s : State) : State :=
  match headCmd s r with
  | none => s
  | some c =>
    if c.op ≠ code ∧ (opBody c.op).isSome then s
    else if 64 ≤ s.rings[r].past.length then delayCmd r c.cid 7 7 (reachHead r c.cid s)
    else if c.started then act c s
    else match headCheck s r c with
      | some o => pushEntry r c o s
      | none =>
        match takeGrants r c.cid (needs s c) (modCmd r c.cid (stopWaiting s.now) (reachHead r c.cid s)) with
        | (false, s1) => s1
        | (true, s1) =>
          match tapFenced s1 (tapsOf s1 r c), tapFull s1 (tapsOf s1 r c) with
          | some u, _ => pushEntry r c (faultOutc u) s1
          | none, true => delayCmd r c.cid 7 0 (countTapStall (tapsOf s1 r c) s1)
          | none, false =>
          let s2 := modCmd r c.cid (fun c => slowClock s1 { stopWaiting s.now c with started := true })
            (if usesArray c then wake s1 else s1)
          match s2.rings[r].find c.cid with
          | some c2 => act c2 s2
          | none => s2

/-- The command has made its first side effect (R138). -/
def effectOf (r : Ring) (cid : Nat) (s : State) : State := modCmd r cid (fun c => { c with effect := true }) s

/-- Beats of a plan whose check fails come back poisoned at once, each logged (R95, R97, R98, R99); a beat without a
translation asks for one and waits alone (R94). -/
def judgeReads (r : Ring) (cid : Nat) : List (Nat × Nat) → State → State
  | [], s => s
  | (a, i) :: rest, s =>
    match s.rings[r].find cid with
    | none => s
    | some c =>
      let k := s.cmdKey r c
      if s.asked c i then judgeReads r cid rest s
      else match s.fate k a false true with
        | .fail w => judgeReads r cid rest
            (keyFlt k a w false (modCmd r cid (fun c => { c with got := c.got ++ [(i, .bad w)] }) s))
        | .wait => judgeReads r cid rest (askTranslation k a false s)
        | .go .. => judgeReads r cid rest s

/-- A command that waits for a tag: its ring's own counter, and DELAYED by TAGS (R92). -/
def stallForTag (r : Ring) (cid : Nat) (cap : Bool) (s : State) : State :=
  delayCmd r cid 1 4 (s.onRing r (fun x =>
    if cap then { x with stallCap := satAdd x.stallCap 1 } else { x with stallPool := satAdd x.stallPool 1 }))

/-- The reads of a command leave as far as the ring's cap and the pool allow (R91); each holds one tag. -/
def issueReads (r : Ring) (cid : Nat) : Nat → State → State
  | 0, s => s
  | fuel + 1, s =>
    match s.rings[r].find cid with
    | none => s
    | some c =>
      if (readyReads s r c).isEmpty then modCmd r cid (stopWaiting s.now) s
      else match tagStall s r with
        | some cap => stallForTag r cid cap s
        | none => issueReads r cid fuel (sendNext r c s)

/-- The reads of a plan, as far as they go. Answers whether every beat is there, and whether every read has been issued
(R114). -/
def gather (r : Ring) (cid : Nat) (plan : List Nat) (s : State) : Bool × Bool × State :=
  let s1 := judgeReads r cid plan.zipIdx (modCmd r cid (fun c => { c with plan := plan }) s)
  let s2 := issueReads r cid (plan.length + 1) s1
  match s2.rings[r].find cid with
  | none => (false, false, s2)
  | some c => (allGot c plan, (List.range plan.length).all (s2.asked c), takeDenials (s2.cmdKey r c) false s2)

/-- The beats of a plan as they came: data, or poison with its cause. -/
def planBeats (c : Cmd) (plan : List Nat) : List (Nat × Got) :=
  plan.zipIdx.map (fun p => (p.1, (gotAt c p.2).getD (.bad .link)))

/-- A poisoned or failed beat's data bytes are undefined (R173): a free value each (DESIGN CHOICE, LOG 13). -/
def beatsOf : List (Nat × Got) → State → List Beat × State
  | [], s => ([], s)
  | (_, .ok d) :: more, s =>
    let (bs, s1) := beatsOf more s
    ({ data := d, psn := false } :: bs, s1)
  | (_, .bad _) :: more, s =>
    let (d, s1) := drawBeat s
    let (bs, s2) := beatsOf more s1
    ({ data := d, psn := true } :: bs, s2)

/-- What the failed beats of a transfer do to its status (R129): the first failing address, the number
of failing beats, and whether one timed out. -/
structure Bad where
  first : Option Nat := none
  n : Nat := 0
  timeout : Bool := false
  deriving DecidableEq, Repr

def badOf (bs : List (Nat × Got)) : Bad :=
  bs.foldl (fun b p => match p.2 with
    | .ok _ => b
    | .bad c => { first := some (b.first.getD p.1), n := b.n + 1, timeout := b.timeout || c == .timeout }) {}

def Bad.add (x : Bad) (addr : Nat) (n : Nat) : Bad :=
  if n = 0 then x else { x with first := some (x.first.getD addr), n := x.n + n }

/-- A transfer's outcome: TIMEOUT, POISONED or the OK details (R129, Table 7-5). -/
def Bad.outc (x : Bad) (d0 d1 : Nat) : Outc :=
  match x.first with
  | none => { status := stOK, d0 := d0, d1 := d1 }
  | some a => { status := if x.timeout then stTIMEOUT else stPOISONED, d0 := a, d1 := min x.n 0xFFFFFFFF }

/-- Host writes of consecutive beats from `addr`, of `len` bytes: each beat whose check fails is not
issued and is logged (R95, Table 5-8); a posted write's later fate is unknown (R427). Poisoned beats are
written with EP (R175). Its callers have had every write judged. -/
def hostWrites (k : Key) (addr : Nat) (beats : List Beat) (len : Nat) (b : Bad) (s : State) : Bad × State :=
  beats.zipIdx.foldl (fun (acc : Bad × State) p =>
    let a := addr + 64 * p.2
    match acc.2.fate k a true true with
    | .go xa t =>
      (if p.1.psn then acc.1.add a 1 else acc.1,
       emit (.hostWrite k.ring.val xa ((bytesLE 64 p.1.data).take (len - 64 * p.2)) p.1.psn t) acc.2)
    | .fail c => (acc.1.add a 1, keyFlt k a c true acc.2)
    | .wait => (acc.1.add a 1, keyFlt k a .atsFail true acc.2)) (b, s)

/-- The work whose host writes go to `addrs`, once every one is judged; until then the command waits (R94, R95). -/
def withWrites (k : Key) (addrs : List Nat) (act : State → State) (s : State) : State :=
  match writesJudged k addrs s with
  | (false, s1) => s1
  | (true, s1) => takeDenials k true (act s1)

end Sys2Proof.Machine
end

