-- ==== Sys2Proof/Machine/SloeOps.lean ====
section
/-! DEFINITION. Shared operations of Sloe (12): messages, their finalisation and result slots, snoops on the
taps, and the fencing of a lane. -/

namespace Sys2Proof.Machine

/-- A lane has digested `n` bytes in messages of which `tainted` were tainted (R245). -/
def laneCount (l : Lane) (n tainted : Nat) (s : State) : State :=
  s.onLane l (fun x => { x with bytes := x.bytes + BitVec.ofNat 32 (n / 64), taintCnt := satAdd x.taintCnt tainted })

/-- The bytes a message takes from beats: 64 zero bytes in place of each poisoned one (R231, R245). -/
def sloeBytes (bs : List Beat) : List Byte :=
  bs.flatMap (fun b => if b.psn then List.replicate 64 0 else bytesLE 64 b.data)

/-- ALG of Table 6-5. -/
def algBits : Alg → BitVec 2
  | .sha256 => 0 | .sha384 => 1 | .sha512 => 2

/-- A message's result, before its compare pair. -/
structure MsgOut where
  digest : List Byte := []
  n : Nat := 0
  ovf : Nat := 0
  trunc : Bool := false
  short : Bool := false
  deriving DecidableEq, Repr

/-- The digest of what a message has received, cut at its declared length (R231 to R233, R241, R250). -/
def msgOut (m : SloeMsg) : MsgOut :=
  let total := m.done + m.bytes.length + m.excess
  let kept := if m.declared = 0 then m.bytes else m.bytes.take (m.declared - m.done)
  { digest := if m.keyFail then [] else match m.inner with
      | some (i, o) => hmacFrom m.alg i o kept
      | none => shaFinish m.alg ((m.chain.map unpackChain).getD (shaInit m.alg)) m.done kept
    n := m.done + kept.length
    ovf := total - (m.done + kept.length)
    trunc := m.declared != 0 && decide (m.declared < total)
    short := m.declared != 0 && decide (total < m.declared) }

/-- A message that is driven to the pair 0b00 without comparing (R237, R243, R248). -/
def noCompare (m : SloeMsg) (o : MsgOut) : Bool := m.tainted || o.trunc || o.short || m.expectBad || m.keyFail

/-- The two comparators (R236): both halves from the same comparison, or as they disagree. -/
def comparePair (m : SloeMsg) (o : MsgOut) (glitch : Option (Bool × Bool)) : Bool × Bool :=
  if !m.compare || noCompare m o then (false, false)
  else
    let eq := o.digest == m.expect.take (digestLen m.alg)
    match glitch with
    | some (a, b) => if a = b then (eq, eq) else (a, b)
    | none => (eq, eq)

/-- The result slot of a finished message (Table 12-6); in COMPARE mode its DIGEST reads 0 (R236). -/
def slotOf (m : SloeMsg) (o : MsgOut) (pair : Bool × Bool) (x : CtxSt) : CtxSt :=
  { x with
    digest := if m.compare then 0 else ofBytes 512 o.digest
    state := 2, alg := algBits m.alg, compare := m.compare, cached := m.cached, tainted := m.tainted
    trunc := o.trunc, short := o.short, keyFail := m.keyFail, keySlot := m.keySlot
    cmpEq := pair.1, cmpNeN := pair.2, len := BitVec.ofNat 64 o.n, ovf := satNat 32 o.ovf
    msg := if m.ended then none else some { m with finalised := true } }

/-- Two halves that disagree raise SLOE_GLITCH, and the lane tests its comparators before its next compare
(R238). -/
def noteGlitch (l : Lane) (c : Ctx) (pair : Bool × Bool) (s : State) : State :=
  if pair.1 = pair.2 then s
  else raiseEvent 0x0602 (BitVec.ofNat 8 (36 + l.val)) (BitVec.ofNat 32 c.val) 0
    (s.onLane l (fun x => { x with glitchCnt := satAdd x.glitchCnt 1, selfTest := true }))

/-- A message's result is written. -/
def writeResult (l : Lane) (c : Ctx) (m : SloeMsg) (glitch : Option (Bool × Bool)) (s : State) : State :=
  let o := msgOut m
  let pair := comparePair m o glitch
  let s1 := laneCount l (o.n - m.done) (if m.tainted then 1 else 0) s
  let s2 := s1.onLane l (fun x => { x with truncCnt := if o.trunc then satAdd x.truncCnt 1 else x.truncCnt })
  noteGlitch l c pair (s2.onCtx l c (slotOf m o pair))

/-- The first context of a lane that holds no message. -/
def freeCtx (x : LaneSt) : Option Ctx := (List.finRange 16).find? (fun c => x.ctx[c].msg.isNone)

/-- A lasting fault fences a lane until the next load (R230, R383): its messages stop, their slots read
ABORTED, their commands are DISCARDED, and a wait of the lane goes (8.3.1). -/
def fenceLane (l : Lane) (why : Nat) (s : State) : State :=
  if s.ma.lanes[l].fenced then s
  else
    let owners := s.ma.lanes[l].ctx.toList.filterMap (fun c => c.msg.bind (·.cid))
    let s1 := s.onLane l (fun x => { x with
      fenced := true, tapBuf := []
      ctx := mapBank (fun _ c => if c.msg.isSome then { c with state := 3, digest := 0, msg := none } else c) x.ctx })
    let s1 := { s1 with ma := { s1.ma with waits := s1.ma.waits.filter (fun w => w.unit != .lane l) } }
    let s2 := owners.foldl (fun s cid => match s.ringOf cid with
      | some r => match s.rings[r].find cid with
        | some c => pushEntry r c (faultOutc (36 + l.val)) s
        | none => s
      | none => s) s1
    refreshView (raiseEvent 0x0601 (BitVec.ofNat 8 (36 + l.val)) 0 (BitVec.ofNat 32 why)
      (if s.ma.lanes[l].keep then { s2 with cfg := { s2.cfg with claimFenced := true } } else s2))

/-! ### Snoops (R227, R232 to R234, R243, R245) -/

/-- Beats of a tap that carries no packed sectors. -/
def plain (bs : List Beat) : List (Beat × Bool) := bs.map (fun b => (b, false))

/-- The beats of a packed sector; `flag` is the POISON bit of its header (R245). -/
def packed (flag : Bool) (x : Sec) : List (Beat × Bool) := (Sec.beats x).map (fun b => (b, flag))

/-- The byte length a command's TRB states for the stream it drives, 0 where it states none (R227; DEDUCED, LOG 101). -/
def cmdLen (c : Cmd) : Nat :=
  match c.op with
  | 0x01 | 0x02 => 4096 * c.f 0x20 4
  | 0x11 | 0x18 => c.f 0x20 8
  | _ => 0

/-- The message a snoop starts: its key states are copied at the start (R241), its expected value comes from
the bit-stream or the lane's EXP registers (R236), its declared length from its source (R227). -/
def snoopMsg (s : State) (l : Lane) (it : TapItem) (p : Snoop) : SloeMsg :=
  let m : SloeMsg := {
    alg := p.alg, compare := p.compare, snoop := some it.snoop, resumable := p.resumable
    declared := match p.declared with | .none => 0 | .fixed n => n | .command => it.len
    cid := it.own.map (·.2), ring := (it.own.map (·.1)).getD 0
    expect := bytesLE 64 (p.expect.getD s.ma.lanes[l].expect) }
  match p.keyed with
  | .cached i =>
    let x := s.ma.keys[i]
    { m with cached := true, keySlot := BitVec.ofNat 5 i.val, inner := some (x.inner, x.outer)
             keyFail := !x.loaded || x.alg != p.alg }
  | _ => m

/-- Every snoop of a tap, with its lane, that serves it now. -/
def snoopsOn (s : State) (tap : Tap) : List (Lane × Nat × Snoop) :=
  (List.finRange 16).flatMap (fun l => let x := s.ma.lanes[l]
    if x.snooping ∧ !x.fenced then (x.snoops.zipIdx.filter (fun p => p.1.tap == tap)).map (fun p => (l, p.2, p.1))
    else [])

/-- The context that holds a snoop's open message. -/
def openCtx (x : LaneSt) (k : Nat) : Option Ctx :=
  (List.finRange 16).find? (fun c => match x.ctx[c].msg with
    | some m => m.snoop == some k && !m.ended && !m.parked
    | none => false)

/-- A parked context the snoop's next stream continues (R250). -/
def parkedCtx (x : LaneSt) (k : Nat) : Option Ctx :=
  (List.finRange 16).find? (fun c => match x.ctx[c].msg with
    | some m => m.snoop == some k && m.parked
    | none => false)

/-- Bytes a message has received. -/
def SloeMsg.total (m : SloeMsg) : Nat := m.done + m.bytes.length + m.excess

/-- A stream's poison and overflow stand on the command that drives it (R234, R246). -/
def noteDriver (m : SloeMsg) (n : Nat) (bad ended : Bool) (s : State) : State :=
  match m.cid with
  | none => s
  | some cid => modCmd m.ring cid (fun c => { c with
      tainted := c.tainted || bad
      trunc := if ended && c.trunc.isNone && m.declared != 0 && decide (m.declared < m.total + n)
        then some (m.declared, m.total + n - m.declared) else c.trunc }) s

/-- Bytes join a message. One finalised at its declared length only counts its overflow and its taint, and its pair no
longer stands (R232, R237, R245). -/
def takeBytes (l : Lane) (c : Ctx) (bytes : List Byte) (bad ended : Bool) (s : State) : State :=
  let x := s.ma.lanes[l].ctx[c]
  match x.msg with
  | none => s
  | some m =>
    if m.finalised then
      (s.onLane l (fun y => { y with
        truncCnt := if !x.trunc && bytes != [] then satAdd y.truncCnt 1 else y.truncCnt
        taintCnt := if !x.tainted && bad then satAdd y.taintCnt 1 else y.taintCnt })).onCtx l c (fun x => { x with
        ovf := satAdd x.ovf bytes.length, trunc := x.trunc || bytes != [], tainted := x.tainted || bad
        cmpEq := x.cmpEq && bytes == [], cmpNeN := x.cmpNeN && bytes == []
        msg := if ended then none else some { m with excess := m.excess + bytes.length } })
    else s.onCtx l c (fun x => { x with state := 1, msg := some { m with
        bytes := m.bytes ++ bytes, tainted := m.tainted || bad, parked := false, ended := ended } })

/-- The context a snoop's next beat goes to: its open message's, a parked one, or a free one where a message starts
(R229). -/
def ctxFor (l : Lane) (it : TapItem) (p : Snoop) (s : State) : Option (Ctx × State) :=
  let lane := s.ma.lanes[l]
  match openCtx lane it.snoop with
  | some c => some (c, s)
  | none => match parkedCtx lane it.snoop with
    | some c => some (c, s)
    | none => (freeCtx lane).map (fun c => (c, s.onCtx l c (fun y => { y with
        state := 1, alg := algBits p.alg, compare := p.compare, msg := some (snoopMsg s l it p) })))

/-- A stream ends: its message ends, or a RESUMABLE context parks (R250). -/
def endMessage (l : Lane) (it : TapItem) (p : Snoop) (s : State) : State :=
  match openCtx s.ma.lanes[l] it.snoop with
  | none => s
  | some c => match s.ma.lanes[l].ctx[c].msg with
    | none => s
    | some m =>
      if p.resumable ∧ (m.declared = 0 ∨ m.total < m.declared) then s.onCtx l c (fun y => { y with msg := some { m with parked := true } })
      else takeBytes l c [] false true (noteDriver m 0 false true s)

/-- One entry of the tap buffer reaches its lane's contexts, or waits in the buffer behind what waits there (R228,
R229). A message ends at its SEG_LEN (R227, R233). -/
def feedItem (l : Lane) (it : TapItem) (s : State) : State :=
  let lane := s.ma.lanes[l]
  let wait := s.onLane l (fun y => { y with tapBuf := y.tapBuf ++ [it] })
  match lane.snoops[it.snoop]? with
  | none => s
  | some p =>
    if s.asleep (.lane l) || lane.tapBuf.any (fun q => q.snoop == it.snoop) then wait
    else match it.ev with
      | .endMark => endMessage l it p s
      | .empty => if p.seg.isNone then s else match ctxFor l it p s with
        | none => wait
        | some (c, s1) => takeBytes l c [] false true s1
      | .beat b flag => match ctxFor l it p s with
        | none => wait
        | some (c, s1) => match s1.ma.lanes[l].ctx[c].msg with
          | none => s1
          | some m =>
            let full := match p.seg with | some n => decide (n ≤ m.total + 64) | none => false
            takeBytes l c (sloeBytes [b]) (b.psn || flag) full (noteDriver m 64 (b.psn || flag) full s1)

/-- What waits in a lane's tap buffer goes on where contexts have come free. -/
def drainTap (l : Lane) (s : State) : State :=
  s.ma.lanes[l].tapBuf.foldl (fun s it => feedItem l it s) (s.onLane l (fun y => { y with tapBuf := [] }))

/-- Events of a stream pass a tap; the leaf snoop's messages are the chunks themselves. -/
def snoopEvents (tap : Tap) (evs : List TapEv) (own : Option (Ring × Nat)) (len : Nat) (s : State) : State :=
  ((snoopsOn s tap).filter (fun x => !x.2.2.leaf)).foldl (fun s x =>
    evs.foldl (fun s ev => feedItem x.1 { snoop := x.2.1, own := own, len := len, ev := ev } s) s) s

/-- Beats of a long-running stream pass a tap. -/
def snoopFeed (tap : Tap) (bs : List (Beat × Bool)) (own : Option (Ring × Nat)) (s : State) : State :=
  let len := ((own.bind (fun o => s.rings[o.1].find o.2)).map cmdLen).getD 0
  snoopEvents tap (bs.map (fun b => .beat b.1 b.2)) own len s

/-- A long-running stream ends on a tap. -/
def snoopEnd (tap : Tap) (own : Option (Ring × Nat)) (s : State) : State := snoopEvents tap [.endMark] own 0 s

/-- The lengths of the messages a snoop cuts a stream of `n` bytes into. -/
def cutLens (seg : Option Nat) (n : Nat) : List Nat :=
  match seg with
  | none => [n]
  | some k => (List.range (ceilDiv n (max 1 k))).map (fun i => min (max 1 k) (n - max 1 k * i))

/-- A command's whole stream passes a tap: its poison, and the first message over its declared length, stand on the
command at once (R234, R246); messages that find no context wait in the tap buffer. -/
def snoopRun (tap : Tap) (bs : List (Beat × Bool)) (own : Option (Ring × Nat)) (s : State) : State :=
  let cmd := own.bind (fun o => s.rings[o.1].find o.2)
  let len := (cmd.map cmdLen).getD 0
  let on := (snoopsOn s tap).filter (fun x => !x.2.2.leaf)
  let s1 := match own with
    | none => s
    | some (r, cid) =>
      let cut := on.findSome? (fun x =>
        let d := match x.2.2.declared with | .none => 0 | .fixed n => n | .command => len
        ((cutLens x.2.2.seg (64 * bs.length)).find? (fun k => d != 0 && decide (d < k))).map (fun k => (d, k - d)))
      if on.isEmpty then s else modCmd r cid (fun c => { c with
        tainted := c.tainted || bs.any (fun b => b.1.psn || b.2)
        trunc := match c.trunc with | some x => some x | none => cut }) s
  snoopEvents tap (if bs = [] then [.empty] else bs.map (fun b => .beat b.1 b.2) ++ [.endMark]) own len s1

/-- The stream on a tap is cut off: contexts digesting its messages stop, and their slots read ABORTED (R230). -/
def abortTap (tap : Tap) (s : State) : State :=
  (snoopsOn s tap).foldl (fun s x => s.onLane x.1 (fun y => { y with
    tapBuf := y.tapBuf.filter (fun it => it.snoop != x.2.1)
    ctx := mapBank (fun _ c => match c.msg with
      | some m => if m.snoop = some x.2.1 ∧ !m.ended then { c with state := 3, digest := 0, msg := none } else c
      | none => c) y.ctx })) s

/-- The taps can take a beat: on every snoop a context holds its message, is free, or its buffer of 64 KiB has room
(R228). -/
def tapRoom (s : State) (taps : List Tap) : Bool :=
  (List.finRange 16).all (fun l =>
    let x := s.ma.lanes[l]
    x.fenced || !x.snooping || decide (x.tapBuf.length < 1024) || !x.snoops.any (fun p => taps.contains p.tap))

/-- A held tap is counted on the lanes whose buffer is full (R228). -/
def countHeld (taps : List Tap) (s : State) : State :=
  { s with ma := { s.ma with lanes := mapBank (fun _ x =>
      if !x.fenced && x.snooping && decide (1024 ≤ x.tapBuf.length) && x.snoops.any (fun p => taps.contains p.tap)
      then { x with tapStall := satAdd x.tapStall 1 } else x) s.ma.lanes } }

/-- Elements between the sides of a standalone engine, as beats in sequence order (Table 12-2, R212). -/
def elementBeats (bytes : List Byte) (bad : List Nat) : List (Beat × Bool) :=
  (toBeats bytes).zipIdx.map (fun p => ({ data := p.1, psn := bad.contains p.2 }, false))

end Sys2Proof.Machine
end

