-- ==== Sys2Proof/Machine/StreamOps.lean ====
section
/-! DEFINITION. Streams on wheels (9.1, 9.5): what a wheel holds, how a stream ends, how a removed command's stream
leaves, and which stream serves a command. -/

namespace Sys2Proof.Machine

/-! ### Slots (R165, Table 9-3) -/

/-- Beats present without a gap, from the last one taken on. -/
def WheelSt.inOrder (x : WheelSt) : Nat :=
  let rec go : Nat → Nat → Nat
    | 0, n => n
    | k + 1, n => if x.held.any (fun p => p.1 == n) then go k (n + 1) else n
  go x.held.length x.taken

/-- An index of the slot ring, `k` slots on from HEAD at the current stream's start. -/
def WheelSt.slot (x : WheelSt) (k : Nat) : BitVec 4 := BitVec.ofNat 4 ((x.head.toNat + k) % (max 1 x.depth.toNat))

/-- WHL_STATUS.OCC: slots holding at least one beat. -/
def WheelSt.occ (x : WheelSt) : Nat := ((x.held.map (fun p => x.slotNo p.1)).eraseDups).length

/-- An end mark lies between HEAD and TAIL. -/
def WheelSt.boundary (x : WheelSt) : Bool :=
  !x.streams.isEmpty && x.cuts.any (fun c => decide (x.taken ≤ c ∧ c ≤ x.inOrder ∧ 0 < c)) || (x.output && !x.marks.isEmpty)

/-- The wheel's idle point for DEPTH (R167). -/
def State.wheelIdle (s : State) (w : Wheel) : Bool :=
  let x := s.ma.wheels[w]
  let n := ix 3 x.port.toNat
  x.held.isEmpty && s.inflight w == 0 && (s.ma.crags[x.crag]).portCount n == 0

/-! ### Crags as consumers and producers -/

/-- The crag runs: not suspended, moving, fenced or gated (R198, R204). -/
def CragSt.takes (x : CragSt) : Bool := !x.suspended && !x.moving && !x.fenced && !x.clkGate && !x.pwrGate

/-- The crag runs and does not sleep on a cairn (R157). -/
def State.cragRuns (s : State) (n : Crag) : Bool := (s.ma.crags[n]).takes && !s.asleep (.crag n)

/-- The PE programs, routes and output ports of a crag (R164, R185, R188). -/
def State.cragProg (s : State) (n : Crag) : CragProg :=
  match s.programOn n with
  | none => {}
  | some p =>
    { pes := p.pes, routes := s.cfg.bs.routes.filter (fun r => r.prog == s.ma.crags[n].prog.toNat)
      outs := (s.ma.wheels.toList.filter (fun x => x.en && x.output && x.crag == n)).map (fun x => ix 3 x.port.toNat) }

/-- The crag's program is given PE by PE; one that is not takes what its ports deliver at once (DESIGN CHOICE, LOG 11). -/
def State.hasPes (s : State) (n : Crag) : Bool := match s.programOn n with | some p => !p.pes.isEmpty | none => false

/-- The crag is at a rest point (R203): nothing on its way inside, each input wheel between streams, each output wheel
past its end mark. -/
def State.atRest (s : State) (n : Crag) : Bool :=
  (s.ma.crags[n]).empty && s.ma.wheels.toList.all (fun x => !(x.en && x.crag == n) || (x.taken == 0 &&
    (!x.output || (x.held.isEmpty && x.marks.isEmpty))))

/-- The rest flag follows the crag's state. -/
def noteRest (n : Crag) (s : State) : State :=
  let rests := s.ma.crags[n].used && s.atRest n
  s.onCrag n (fun x => { x with rest := rests, restSince := if rests && !x.rest then s.now else x.restSince })

/-! ### A stream's end (R182, R183) -/

/-- Reads of a wheel's later streams, their positions counted from a new start. -/
def shiftReads (w : Wheel) (from_ n : Nat) (s : State) : State :=
  let move := fun (f : Nat) => if f < from_ then f else f - n
  { s with link := { s.link with reads := s.link.reads.map (fun q => match q.what with
      | .wheel v f => if v = w then { q with what := .wheel v (move f) } else q
      | .merged v f => if v = w then { q with what := .merged v (move f) } else q
      | _ => q) } }

/-- The list of streams without the one at the head, which comes again, unbound, where commands name it. -/
def nextStreams : List Strm → List Strm
  | [] => []
  | st :: rest => if st.gen = .command then rest ++ [{ st with cid := none }] else rest

/-- The taps a stream's beats pass on their way to the port (Table 12-2). -/
def strmTaps (w : Wheel) (st : Strm) : List Tap :=
  .wheel w :: (if st.staging || st.gen == .rowan then [] else [.hostLink st.ring])

/-- The command a stream serves. -/
def Strm.own (st : Strm) : Option (Ring × Nat) := st.cid.map (fun cid => (st.ring, cid))

/-- The stream at the head has had its end mark: positions are counted from the next one's first beat. DRAIN holds the
next stream; an end mode nothing consumes is ignored (R182, R183, 9.5.1). -/
def endStream (w : Wheel) (s : State) : State :=
  let x := s.ma.wheels[w]
  let n := if x.output then x.marks.headD 0 else match x.streams with | st :: _ => st.beats | [] => 0
  let s1 := match x.streams with
    | st :: _ => if x.output then snoopEnd (.wheel w) st.own s else (strmTaps w st).foldl (fun s t => snoopEnd t st.own s) s
    | [] => s
  let s2 := (shiftReads w 0 n s1).onWheel w (fun x => { x with
    head := x.slot (ceilDiv n 64), streams := nextStreams x.streams, layers := x.layers + 1
    asked := x.asked - n, taken := x.taken - n, held := x.held.map (fun p => (p.1 - n, p.2))
    marks := (x.marks.drop 1).map (· - n)
    drainHold := !x.output && (match x.streams with | st :: _ => st.drain && st.consumed | [] => false) })
  noteRest x.crag s2

/-! ### Streams of commands (9.2, R168, R195) -/

/-- The wheels a tenant's program of a kind reads by streams a command names. -/
def cmdWheels (s : State) (t : Tenant) (k : ProgKind) : List Wheel :=
  (List.finRange 64).filter (fun w =>
    let x := s.ma.wheels[w]
    x.en && !x.output && x.tenant == t && x.streams.any (fun st => st.gen == .command && !st.staging && st.consumed) &&
      (match s.programOn x.crag with | some p => p.kind == k | none => false))

/-- The first unbound stream a command names takes the command's range. Only the host SRC of SNAP_RANGE names one (R169;
DEDUCED, LOG 115). -/
def bindFirst (r : Ring) (cid addr beats : Nat) : List Strm → List Strm
  | [] => []
  | st :: rest =>
    if st.gen = .command ∧ st.cid = none ∧ !st.staging ∧ st.consumed then
      { st with cid := some cid, ring := r, addr := addr, beats := beats } :: rest
    else st :: bindFirst r cid addr beats rest

/-- A stream of the command still runs on some wheel. -/
def State.streams (s : State) (cid : Nat) : Bool := s.ma.wheels.toList.any (fun x => x.streams.any (fun st => st.cid == some cid))

/-- The command a wheel's beat at a position serves: ring, number, and the beat's place in its range. -/
def WheelSt.driver (x : WheelSt) (i : Nat) : Option (Ring × Nat × Nat) :=
  let rec go : Nat → List Strm → Option (Ring × Nat × Nat)
    | _, [] => none
    | base, st :: rest => if i < base + st.beats then st.cid.map (fun cid => (st.ring, cid, i - base)) else go (base + st.beats) rest
  go 0 x.streams

/-- Where the first stream of a command starts on a wheel, and its beats. -/
def cmdSpan (cid : Nat) : Nat → List Strm → Option (Nat × Nat)
  | _, [] => none
  | base, st :: rest => if st.cid = some cid then some (base, st.beats) else cmdSpan cid (base + st.beats) rest

/-- The streams of a removed command are unbound. -/
def unbind (cid : Nat) : List Strm → List Strm
  | [] => []
  | st :: rest => if st.cid = some cid then rest ++ [{ st with cid := none }] else st :: unbind cid rest

/-- The output wheels of a crag drop what the layer under way has produced, up to its end mark (R195). -/
def dropOutputs (n : Crag) (s : State) : State :=
  let drop := fun (x : WheelSt) =>
    let m := x.marks.getLastD 0
    { x with held := x.held.filter (fun p => decide (p.1 < m)), asked := max m x.taken, dropTo := true }
  let bank := mapBank (fun _ x => if x.en && x.output && x.crag == n then drop x else x) s.ma.wheels
  { s with ma := { s.ma with wheels := bank } }

/-- Beats `b .. b + n - 1` of an input wheel leave with their reads, whose data is dropped on arrival; a stream already
in the crag is replaced by ABORT (R168, R195). -/
def dropSpan (w : Wheel) (b n : Nat) (streams : List Strm) (s : State) : State :=
  let x := s.ma.wheels[w]
  let inside := fun (f : Nat) => decide (b ≤ f ∧ f < b + n)
  let reads := s.link.reads.filterMap (fun q => match q.what with
    | .wheel v f => if v = w ∧ inside f then some { q with what := .dropped } else some q
    | .merged v f => if v = w ∧ inside f then none else some q
    | _ => some q)
  let s1 := shiftReads w (b + n) n { s with link := { s.link with reads := reads } }
  let s2 := s1.onWheel w (fun x => { x with
    streams := streams, stallTag := false, stallSlot := false
    asked := if x.asked ≤ b then x.asked else if x.asked ≤ b + n then b else x.asked - n
    taken := if b = 0 then 0 else x.taken
    held := (x.held.filter (fun p => !inside p.1)).map (fun p => if p.1 < b then p else (p.1 - n, p.2)) })
  if b = 0 ∧ 0 < x.taken ∧ s.hasPes x.crag then
    dropOutputs x.crag (s2.onCrag x.crag (·.endPort (ix 3 x.port.toNat) true))
  else s2

/-- A command removed by CAUGHT, a ring reset or a fault discard takes its streams with it (R168). -/
def removeStreams (cid : Nat) (s : State) : State :=
  (List.finRange 64).foldl (fun s w =>
    let x := s.ma.wheels[w]
    match (if x.output then none else cmdSpan cid 0 x.streams) with
    | none => s
    | some (b, n) => noteRest x.crag (dropSpan w b n (unbind cid x.streams) s)) s

/-- An engine without the transfer at its head. -/
def RowanSt.next (x : RowanSt) : RowanSt :=
  { x with queue := x.queue.drop 1, index := [], crossed := false, plan := [], got := [], moved := false, inp := [], out := []
           st := if x.fenced then 4 else 0 }

/-- A command's transfers leave the engine that holds them. -/
def RowanSt.without (x : RowanSt) (cid : Nat) : RowanSt :=
  let mine := fun (j : RowanXfer) => j.own.map (·.2) == some cid
  let y := match x.queue with | j :: _ => if mine j then x.next else x | [] => x
  { y with queue := y.queue.filter (fun j => !mine j) }

/-- A removed or completed command leaves the engines (R209). -/
def leaveEngines (cid : Nat) (s : State) : State :=
  { s with ma := { s.ma with rowan := mapBank (fun _ x => x.without cid) s.ma.rowan } }

/-- The stream at a wheel's head is dropped with its beats and its end mark (R168, 9.5.1). -/
def dropStream (w : Wheel) (s : State) : State :=
  let x := s.ma.wheels[w]
  if x.output then s.onWheel w (fun x => { x with held := [], marks := [], asked := 0, taken := 0, head := 0, stallSlot := false })
  else match x.streams with
    | [] => s
    | st :: _ =>
      if x.asked = 0 then s
      else (dropSpan w 0 st.beats (nextStreams x.streams) (abortTap (.wheel w) s)).onWheel w (fun x => { x with head := 0 })

/-- The wheels of a crag drop what they carry. -/
def dropStreams (n : Crag) (s : State) : State :=
  (List.finRange 64).foldl (fun s w => if s.ma.wheels[w].en && s.ma.wheels[w].crag == n then dropStream w s else s) s

end Sys2Proof.Machine
end

