-- ==== Sys2Proof/Machine/RingCmds.lean ====
section
/-! DEFINITION. How commands enter a ring and how their entries leave it: TRB_GO, COMPLETION_ENTRY_WRITE,
CPL_HEAD_WRITE, CPL_RING_SETUP, CPL_RING_SETUP_TAKES_EFFECT, DEFER_HEAD_WRITE, EVT_HEAD_WRITE. -/

namespace Sys2Proof.Machine

/-! ### TRB_GO (R100 to R102) -/

/-- CPL_DEPTH holds a valid depth (R112). -/
def validDepth (d : Nat) : Bool := [16, 32, 64, 128, 256, 512, 1024, 2048, 4096].contains d

/-- TRB_STATUS.READY (R100). A latch takes no time in the model (DESIGN CHOICE, LOG 17). -/
def State.readyBit (s : State) (r : Ring) : Bool :=
  let x := s.rings[r]
  s.pw.rdy && s.pw.phase == .ready && !s.cfg.loading && !x.inReset && validDepth x.depth.toNat
    && decide (x.queue.length < 256)

/-- What a removed command leaves: contexts digesting its messages stop, and their slots read ABORTED (R230); its
streams and transfers leave wheels and engines (R168, R209). -/
def abortContexts (cid : Nat) (s : State) : State :=
  let s1 := leaveEngines cid (removeStreams cid s)
  { s1 with ma := { s1.ma with lanes := mapBank (fun _ l =>
      { l with
        tapBuf := l.tapBuf.filter (fun it => it.own.map (·.2) != some cid)
        ctx := mapBank (fun _ c => match c.msg with
          | some m => if m.cid = some cid then { c with state := 3, digest := 0, msg := none } else c
          | none => c) l.ctx }) s1.ma.lanes } }

/-- The commands in a FENCE's scope at its latch (R120): on the rings of its kind, those without their
last entry and those in the uncovered sets. -/
def fenceScope (s : State) (r : Ring) (c : Cmd) : List Nat × List Nat :=
  let rings : List Ring := if c.f 0x10 1 = 2
    then (List.finRange 16).filter (fun q => q == r || (c.f 0x12 2).testBit q.val) else [r]
  let tagOk := fun (t : BitVec 16) => c.f 0x10 1 != 1 || (decide (c.f 0x14 2 ≤ t.toNat) && decide (t.toNat ≤ c.f 0x16 2))
  let pick := fun (l : List (Nat × BitVec 16)) => (l.filter (fun p => tagOk p.2)).map (·.1)
  let wait := rings.flatMap (fun q => pick s.rings[q].open_)
  let unc := rings.flatMap (fun q => pick s.rings[q].uncovered)
  (wait, wait ++ unc.filter (fun i => !wait.contains i))

/-- The stall channel starts when the ring goes from holding no command to holding one (R378). -/
def startStall (now : Nat) (was : Bool) (x : RingSt) : RingSt :=
  if was then x else { x with stallFrom := some now, stallWin := x.stallMs }

/-- ABORT_TAG at its latch (R109, R138, R139): check 1, the target, and whether it is caught. -/
def latchAbort (r : Ring) (c : Cmd) (s : State) : State :=
  let x := s.rings[r]
  let tag := BitVec.ofNat 16 (c.f 0x10 2)
  let all := ((x.queue ++ x.past ++ x.aborts.flatMap (fun a => a.caught.toList)).map (fun d => (d.cid, d.latchNo, d.tag)))
    ++ ((x.waiting.filter (fun e => e.last && e.opcode != 0x30)).map (fun e => (e.cid, e.latchNo, e.tag)))
  let target := (all.filter (fun p => p.2.2 == tag)).foldl
    (fun b p => match b with | none => some p | some q => if p.1 < q.1 then some p else some q)
    (none : Option (Nat × Nat × BitVec 16))
  let reject := !wellFormedTrb c.trb
  let hit := match target with
    | some p => if reject || x.resetOnly then none else x.queue.find? (fun d => d.cid == p.1 && !d.effect)
    | none => none
  let a : AbortRec := { cmd := c, found := target.isSome, targetNo := (target.map (·.2.1)).getD 0
                        caught := hit, reject := reject, resetOnly := x.resetOnly }
  let s1 := s.onRing r (fun x => { x with aborts := x.aborts ++ [a] })
  match hit with
  | some d => settleFlushes (abortContexts d.cid (s1.onRing r (·.drop d.cid)))
  | none => s1

/-- A SNAP_BEGIN latched makes the next rest point of each of its tenant's crags a step boundary (R203). -/
def markStep (t : Tenant) (s : State) : State :=
  { s with ma := { s.ma with
    steps := s.ma.steps + 1
    crags := mapBank (fun _ x => if x.used && x.tenant == t then { x with step := some s.ma.steps } else x) s.ma.crags } }

/-- A command is latched (R101): the 64 TRB bytes as they stand, its cid and latch number. A
LOAD_BITSTREAM starts the load's busy time (R73); a covered opcode joins the uncovered set (R122). -/
def latch (r : Ring) (s : State) : State :=
  let x := s.rings[r]
  let c0 : Cmd := { cid := s.nextCid, latchNo := x.latches % 65536, trb := x.trb
                    durable := x.durable || bit x.trb 8 }
  let sc := if c0.op = 0x04 then fenceScope s r c0 else ([], [])
  let c := { c0 with scopeWait := sc.1, scope := sc.2 }
  let s1 := { s with nextCid := s.nextCid + 1 }
  let s2 := s1.onRing r (fun y => startStall s.now x.busy { y with
    latches := y.latches + 1
    uncovered := if coveredOp c.op then y.uncovered ++ [(c.cid, c.tag)] else y.uncovered })
  let s3 := if c.op = 0x30 then latchAbort r c s2 else s2.onRing r (fun y => { y with queue := y.queue ++ [c] })
  if c.op = 0x40 then busyOn 2 { s3 with cfg := { s3.cfg with loading := true } }
  else if c.op = 0x10 then markStep (s.ringTenant r) s3 else s3

/-- TRB_GO (R101, R102): GO = 0 and writes before RDY do nothing; GO while READY is 0 is lost and
counted; else the command is latched. Both leave NAP (R28). -/
def execTrbGo (r : Ring) (v : Word) (s : State) : Host.Outcome State Fault Refusal :=
  .next (if s.pw.rdy = false ∨ bit v 0 = false then s
    else if s.readyBit r then latch r (wakeNap s)
    else (wakeNap s).onRing r (fun x => { x with lost := true, lostCnt := satAdd x.lostCnt 1 }))

/-! ### COMPLETION_ENTRY_WRITE (R113, R124, R125) -/

/-- The 32 bytes of an entry (Table 7-2), as bits. -/
def entryBits (e : Entry) (seq : BitVec 16) (phase deferred : Bool) : BitVec 256 :=
  let flags : Nat := (if phase then 0x80 else 0) + (if deferred then 0x40 else 0) + (if e.tainted then 0x20 else 0)
    + (if e.rst then 0x10 else 0) + (if e.corrected then 8 else 0) + (if e.more then 4 else 0)
  BitVec.ofNat 256 (e.tag.toNat + e.opcode.toNat * 2 ^ 16 + e.status.toNat * 2 ^ 24 + e.stage.toNat * 2 ^ 32
    + e.service.toNat * 2 ^ 40 + seq.toNat * 2 ^ 48 + e.ctx.toNat * 2 ^ 64 + e.d0.toNat * 2 ^ 128
    + e.d1.toNat * 2 ^ 192 + e.delay.toNat * 2 ^ 224 + flags * 2 ^ 248)

/-- Address of the entry at TAIL under the ring's PASID. -/
def RingSt.entryAddr (x : RingSt) : Nat := x.baseHi.toNat * 2 ^ 32 + x.baseLo.toNat * 4096 + 32 * x.tail.toNat

/-- What writing an entry changes in its ring: TAIL, SEQ, the write phase, the counters of R132, SVC_LAST
(R346), the DEFERRED flag owed (R133) and the stall channel (R378). A last entry other than OK takes the command out of the
uncovered set; the entries of a SNAP_SEAL's earlier stages do not count (R122 names no entry; DESIGN CHOICE, LOG 96). -/
def RingSt.afterEntry (now : Nat) (e : Entry) (x : RingSt) : RingSt :=
  let wrap := decide (x.tail.toNat + 1 = x.depth.toNat)
  let y := { x with
    tail := if wrap then 0 else x.tail + 1
    phase := if wrap then !x.phase else x.phase
    seq := x.seq + 1
    unconsumed := x.unconsumed + 1
    deferOwed := false
    served := if e.service = 0 then satAdd x.served 1 else x.served
    delayedCnt := if e.service = 1 then satAdd x.delayedCnt 1 else x.delayedCnt
    refusedCnt := if e.service = 2 then satAdd x.refusedCnt 1 else x.refusedCnt
    lastRes := if e.service = 0 then x.lastRes else e.res
    lastCause := if e.service = 0 then x.lastCause else e.cause
    uncovered := if e.last && e.status != 0 then x.uncovered.filter (fun p => p.1 != e.cid) else x.uncovered }
  { y with stallFrom := if y.busy then some now else none, stallWin := y.stallMs }

/-- A FENCE that completes OK takes its scope out of the uncovered sets (R122). -/
def coverBy (e : Entry) (s : State) : State :=
  if e.covers = [] ∨ e.status ≠ stOK then s
  else { s with rings := mapBank (fun _ x => { x with uncovered := x.uncovered.filter (fun p => !e.covers.contains p.1) }) s.rings }

/-- One entry written at TAIL (R124, R125) under the ring's PASID, Relaxed Ordering clear (R87): the write leaves the
part, vector r is announced (R89) and a last entry completes its command (R127). -/
def writeEntry (r : Ring) (e : Entry) (s : State) : State :=
  let x := s.rings[r]
  let (xa, t) := match s.fate (s.ringKey r) x.entryAddr true false with
    | .go xa t => (xa, t)
    | _ => (x.entryAddr, {})
  let s1 := emit (.entry r.val xa (entryBits e x.seq x.phase x.deferOwed) t) (coverBy e s)
  let s2 := announcing ⟨r.val, by omega⟩ (fun s => s.onRing r (·.afterEntry s.now e)) s1
  if e.last then leaveScopes e.cid (e.status == 0) s2
  else if e.status = 0 then s2 else spoilScopes e.cid s2

/-- An entry whose write fails its check: not written, the ring stalls, CPL_FAULT is raised (Table 5-8). -/
def entryFault (r : Ring) (c : Cause) (s : State) : State :=
  raiseEvent 0x0303 (ringUnit r) 0 0
    (takeDenials (s.ringKey r) true
      (keyFlt (s.ringKey r) s.rings[r].entryAddr c true (s.onRing r (fun x => { x with faulted := true }))))

/-- COMPLETION_ENTRY_WRITE: the ring's oldest waiting entry is written when a free entry exists (R113) and its
translation, where it needs one, has come (R94). -/
def execCompletionEntryWrite (r : Ring) (s : State) : Host.Outcome State Fault Refusal :=
  let x := s.rings[r]
  .next (if s.pw.rdy = false ∨ s.pw.phase ≠ .ready ∨ x.inReset ∨ x.faulted ∨ x.depth.toNat ≤ x.unconsumed then s
    else match x.waiting with
      | [] => s
      | e :: rest =>
        match s.fate (s.ringKey r) x.entryAddr true false with
        | .fail c => entryFault r c s
        | .wait => askTranslation (s.ringKey r) x.entryAddr true s
        | .go .. => writeEntry r e (s.onRing r (fun x => { x with waiting := rest })))

/-! ### Completion ring control (R112, R113) -/

/-- A write of CPL_HEAD (R113): frees the entries up to the index, unless one of them is unwritten. The spec does not say
what an index the ring does not have, or with DEPTH 0 another than HEAD, does: refused with RANGE (DESIGN CHOICE, LOG 94). -/
def cplHead (r : Ring) (v : Word) (s : State) : State :=
  let x := s.rings[r]
  let i := (fld v 0 12).toNat
  let d := x.depth.toNat
  let n := (i + d - x.head.toNat) % d
  if s.cfg.loading then setExp .busy s
  else if d = 0 then (if i = x.head.toNat then setExp .applied s else setExp .range s)
  else if d ≤ i ∨ x.unconsumed < n then setExp .range s
  else setExp .applied (s.onRing r (fun x => { x with head := fld v 0 12, unconsumed := x.unconsumed - n }))

def execCplHeadWrite (r : Ring) (v : Word) (s : State) : Host.Outcome State Fault Refusal :=
  .next (if s.pw.rdy = false then s else cplHead r v s)

/-- A write of CPL_BASE or CPL_DEPTH (R112): checked, and pending until the ring's idle point. -/
def cplSetup (r : Ring) (reg : CplReg) (v : Word) (s : State) : State :=
  let x := s.rings[r]
  let p := x.setup.getD (x.baseLo, x.baseHi, x.depth)
  if s.cfg.loading then setExp .busy s
  else match reg with
    | .baseLo => setExp .applied (s.onRing r (fun x => { x with setup := some (fld v 12 20, p.2.1, p.2.2) }))
    | .baseHi => setExp .applied (s.onRing r (fun x => { x with setup := some (p.1, v, p.2.2) }))
    | .depth =>
      let d := fld v 0 13
      if d = 0 ∨ validDepth d.toNat then
        setExp .applied (s.onRing r (fun x => { x with setup := some (p.1, p.2.1, d) }))
      else setExp .range s

def execCplRingSetup (r : Ring) (reg : CplReg) (v : Word) (s : State) : Host.Outcome State Fault Refusal :=
  .next (if s.pw.rdy = false then s else cplSetup r reg v s)

/-- The ring's idle point of R112: no command held, none executing, no unconsumed entry. -/
def RingSt.idlePoint (x : RingSt) : Bool :=
  x.queue.isEmpty && x.past.isEmpty && x.waiting.isEmpty && x.aborts.isEmpty && x.unconsumed == 0
    && x.head == x.tail

/-- A pending set-up takes effect: HEAD and TAIL 0, the write phase 1, SEQ and the latch count from 0,
a stall of a failed entry write cleared (R112, R125, Tables 7-2 and 7-5). -/
def RingSt.applySetup (x : RingSt) : RingSt :=
  match x.setup with
  | none => x
  | some (lo, hi, d) =>
    { x with baseLo := lo, baseHi := hi, depth := d, setup := none, head := 0, tail := 0, phase := true
             seq := 0, latches := 0, unconsumed := 0, faulted := false }

/-- CPL_RING_SETUP_TAKES_EFFECT: at the ring's idle point, outside a reset, whose end applies it too. -/
def execCplRingSetupTakesEffect (r : Ring) (s : State) : Host.Outcome State Fault Refusal :=
  .next (if s.rings[r].idlePoint ∧ !s.rings[r].inReset ∧ s.pw.phase ≠ .holdUp then s.onRing r (·.applySetup) else s)

/-! ### DEFER_HEAD and EVT_HEAD (R134, R388) -/

/-- A write of DEFER_HEAD: refused with RANGE when it would pass DEFER_TAIL. -/
def deferHead (r : Ring) (v : Word) (s : State) : State :=
  let x := s.rings[r]
  let h := fld v 8 7
  if s.cfg.loading then setExp .busy s
  else if (x.dTail - x.dHead).toNat < (h - x.dHead).toNat then setExp .range s
  else setExp .applied (s.onRing r (fun x => { x with dHead := h }))

def execDeferHeadWrite (r : Ring) (v : Word) (s : State) : Host.Outcome State Fault Refusal :=
  .next (if s.pw.rdy = false then s else deferHead r v s)

/-- A write of EVT_HEAD: refused with RANGE when it would pass EVT_TAIL (R388). -/
def evtHead (v : Word) (s : State) : State :=
  let h := fld v 16 9
  if (s.wd.eTail - s.wd.eHead).toNat < (h - s.wd.eHead).toNat then setExp .range s
  else setExp .applied { s with wd := { s.wd with eHead := h } }

def execEvtHeadWrite (v : Word) (s : State) : Host.Outcome State Fault Refusal :=
  .next (if s.pw.rdy = false then s else evtHead v s)

end Sys2Proof.Machine
end

