-- ==== Sys2Proof/Machine/HeadCmds.lean ====
section
/-! DEFINITION. Ring commands that move no data: FLUSH and FENCE. -/

namespace Sys2Proof.Machine

/-- FLUSH (R119): it does not hold the head; it completes OK once every earlier WRITE_SECTORS of its
scope is programmed or has failed, here or at the step that reaches its scope. -/
def flushAct (r : Ring) (c : Cmd) (s : State) : State := settleFlushes (leaveHead r c.cid s)

def execFlush (r : Ring) (s : State) : Host.Outcome State Fault Refusal := .next (headStep r 0x03 (flushAct r) s)

/-- LEVEL 1 of R121: no sector staged for a command in the scope is still waiting for its program. -/
def levelReached (s : State) (c : Cmd) : Bool :=
  c.f 0x11 1 == 0 ||
  !s.st.staged.any (fun g => c.scope.contains g.cid || g.stands.any (fun i => c.scope.contains i))

/-- FENCE (R121, R122): it holds the head until its scope has completed and reached LEVEL; then OK, or REFUSED when a
command in scope was not OK. The scope leaves the uncovered sets as the OK entry is written, which completes it
(`coverBy`). -/
def fenceAct (r : Ring) (c : Cmd) (s : State) : State :=
  if c.scopeWait ≠ [] ∨ levelReached s c = false then s
  else if c.scopeBad then complete r c stREFUSED 0 0 s
  else complete r c stOK 0 0 s

def execFence (r : Ring) (s : State) : Host.Outcome State Fault Refusal := .next (headStep r 0x04 (fenceAct r) s)

/-- An earlier command of the uncovered set that no FENCE of the ring about to complete OK covers. -/
def uncoveredBefore (x : RingSt) (cid : Nat) : Bool :=
  x.uncovered.any (fun p => decide (p.1 < cid) && !x.waiting.any (fun e => e.covers.contains p.1))

end Sys2Proof.Machine
end

