-- ==== Sys2Proof/Machine/VaultOps.lean ====
section
/-! DEFINITION. Shared operations of staging memory and the Vault (15): the pool, the image area, the
metadata journal, staging and programming of sectors, and the hold of a SANITISE or FORMAT. -/

namespace Sys2Proof.Machine

/-! ### The pool (R293 to R295) -/

/-- Length of a union of intervals, given in rising order of their starts. -/
def unionLen : Nat → List (Nat × Nat) → Nat
  | _, [] => 0
  | at_, (a, b) :: rest => (b - max at_ a) + unionLen (max at_ b) rest

/-- Insertion by start. -/
def insIv (x : Nat × Nat) : List (Nat × Nat) → List (Nat × Nat)
  | [] => [x]
  | y :: l => if x.1 ≤ y.1 then x :: y :: l else y :: insIv x l

/-- 2 MiB pages that valid windows back (R293). -/
def backedPages (wins : List WinEnt) : Nat :=
  unionLen 0 (((wins.filter (·.valid)).map (fun w => (w.base.toNat, w.base.toNat + w.size.toNat))).foldr insIv [])

/-- Pool blocks with `wins` as window table: blocks of the channels trained at bring-up, less the system
area, less what the windows back (R295). -/
def poolBlocks (s : State) (wins : List WinEnt) : Nat :=
  popCount (~~~s.boot.chLost) * 16384 - 768 - backedPages wins

/-- STG_POOL_SIZE (R295). -/
def State.poolTotal (s : State) : Nat := poolBlocks s s.link.wins.toList

/-- Blocks of staged sectors of commands, in units of 2 MiB (R294). -/
def stagedBlocks (staged : List Staged) : Nat :=
  ceilDiv ((staged.filter (fun g => match g.src with | .ring _ => true | _ => false)).length) 512

/-- Pool blocks in use (Table 15-3). -/
def State.poolUsed (s : State) : Nat :=
  stagedBlocks s.st.staged + s.st.images.foldl (fun n i => n + i.blocks) 0
    + s.st.copies.foldl (fun n c => n + ceilDiv c.total 512) 0
    + (s.st.frozen.filter (·.copied)).length
    + s.pair.peers.toList.foldl (fun n p => n + (p.xfers.filter (fun x => !x.sending && x.accepted)).foldl
        (fun n x => n + ceilDiv x.total 512) 0) 0

/-- STG_POOL.FREE. -/
def State.poolFreeBlocks (s : State) : Nat := s.poolTotal - s.poolUsed

/-! ### Frozen pages (R265) -/

/-- The first write to a frozen page: the original's contents are kept and the live view moves to the
copy; a copy that fails twice is poisoned (R265, 1.2.1). -/
def copyPage (page : Nat) (fail : Bool) (s : State) : State :=
  let inPage := fun (a : Nat) => a / winUnit == page
  let cells := s.st.mem.filter (fun c => inPage c.1)
  let bad := s.st.memBad.filter (fun b => inPage (64 * b))
  let s1 := { s with st := { s.st with frozen := s.st.frozen.map (fun f =>
    if f.page = page ∧ f.copied = false then { f with copied := true, bytes := cells, bad := bad } else f) } }
  if fail then (List.range 32768).foldl (fun s i => markBad true (page * 32768 + i) s) (dropLines (page * winUnit) winUnit s1) else s1

/-- The page is frozen and its live view has not been redirected yet. -/
def State.mustCopy (s : State) (page : Nat) : Bool := s.st.frozen.any (fun f => f.page == page && !f.copied)

/-- Copies for an engine command's writes: none when the pool is short (the command waits, DELAYED), or while a forced halt
holds PAGEMAP (Table 21-5). -/
def copyPages (pages : List Nat) (s : State) : Option State :=
  let need := (pages.filter s.mustCopy).eraseDups
  if s.poolFreeBlocks < need.length ∨ (s.heldRes 3 ∧ need ≠ []) then none else some (need.foldl (fun s p => copyPage p false s) s)

/-- As many of the copies as the pool has blocks for, in the order of the writes; the writes of a page wait for its copy
alone (R11; DESIGN CHOICE, LOG 112). -/
def copySome (pages : List Nat) (s : State) : State :=
  if s.heldRes 3 then s
  else (((pages.filter s.mustCopy).eraseDups).take s.poolFreeBlocks).foldl (fun s p => copyPage p false s) s

/-! ### The image area (R302 to R304) -/

/-- LBAs that are not free for an image: extents and bound images, in rising order. -/
def takenRuns (s : State) : List (Nat × Nat) :=
  let exts := (s.tenants.toList.filter (fun t => t.valid && t.extLen != 0)).map
    (fun t => (t.extBase.toNat * 262144, (t.extBase.toNat + t.extLen.toNat) * 262144))
  let imgs := (s.st.images.filter (fun i => i.sealed_ && i.total != 0)).map (fun i => (i.lba, i.lba + i.total))
  (exts ++ imgs).foldr insIv []

/-- The end of the logical space (R302). -/
def lbaEnd : Nat := 0x400000000

/-- The first run of `n` free LBAs at or after `at_`. -/
def firstRun (n : Nat) : Nat → List (Nat × Nat) → Option Nat
  | at_, [] => if at_ + n ≤ lbaEnd then some at_ else none
  | at_, (a, b) :: rest => if at_ + n ≤ a then some at_ else firstRun n (max at_ b) rest

/-- Sectors of the image area that no image holds or has reserved. -/
def areaFree (s : State) : Nat :=
  lbaEnd - unionLen 0 (takenRuns s) - (s.st.images.filter (fun i => !i.sealed_)).foldl (fun n i => n + i.area) 0
    - (s.st.copies.filter (fun c => c.drained || c.left != 0)).foldl (fun n c => n + c.total) 0

/-- The reservation of `n` sectors can be made (R303). -/
def areaFits (s : State) (n : Nat) : Bool := decide (n ≤ areaFree s) && (firstRun n 0 (takenRuns s)).isSome

/-- The run an image is bound to (R303): the spec leaves open which; the search starts at a free place. -/
def bindRun (s : State) (n : Nat) : Nat :=
  match firstRun n (Config.freePlace s.st.nextSeal % lbaEnd) (takenRuns s) with
  | some a => a
  | none => (firstRun n 0 (takenRuns s)).getD 0

/-! ### Spare blocks and the journal (R308, R309) -/

/-- SPARE_PCT: spare blocks in units of 0.1 % of capacity, to the nearest, saturating (R308). -/
def sparePct (spare : Nat) : Nat := min 255 ((spare * 1000 + 2097152) / 4194304)

/-- Blocks retired: VLT_RETIRED rises, the spare falls, and its two thresholds are announced (R308). A
read-only Vault programs nothing, so nothing more retires. -/
def retire (n : Nat) (s : State) : State :=
  if n = 0 ∨ s.st.roMode then s
  else
    let spare := s.st.spare - n
    let s1 := { s with st := { s.st with retired := satAdd s.st.retired n, spare := spare } }
    let s2 := if spare ≤ 41943 ∧ s.st.spareLow = false then
        raiseEvent 0x0702 0xFF (BitVec.ofNat 32 (sparePct spare)) 0 { s1 with st := { s1.st with spareLow := true } }
      else s1
    if spare = 0 ∧ s.st.roMode = false then
      raiseEvent 0x0703 0xFF 0 0 { s2 with st := { s2.st with roMode := true } }
    else s2

/-- The journal tail is committed to the Vault (R309). -/
def commitTail (s : State) : State :=
  { s with st := { s.st with
      journal := 0, baseVault := s.st.vault, baseUnread := s.st.unread
      baseImages := s.st.images.filter (fun i => i.durable && !i.copyOnly), tailSecs := [] } }

/-- Mapping changes join the journal tail; it is committed before it would exceed 262,144 entries
(R309), and on every update while HOLDUP_OK is 0 (R37). -/
def journalAdd (n : Nat) (s : State) : State :=
  let j := s.st.journal + n
  if s.pw.holdupOk = false ∨ 262144 ≤ j then commitTail s else { s with st := { s.st with journal := j } }

/-- A ring sector's mapping joins the tail. -/
def journalSec (r : Ring) (g : Staged) (s : State) : State :=
  journalAdd 1 { s with st := { s.st with tailSecs := s.st.tailSecs ++ [(r, g)] } }

/-! ### Vault sectors (R300, R305, R307) -/

/-- The Vault's contents of an LBA: never written or unmapped reads as zero, without poison (R300). -/
def State.vaultSec (s : State) (lba : Nat) : Sec := kvGet {} s.st.vault lba

/-- A sector as a read of the medium delivers it: every beat poisoned when the sector is unreadable or
carries its POISON flag (R305, R307), its data then a free value (R173; DESIGN CHOICE, LOG 13). -/
def State.readSec (s : State) (lba : Nat) : Sec :=
  let x := s.vaultSec lba
  if s.st.unread.contains lba ∨ x.psn ≠ 0 then { data := Config.freeSector s.freeIx lba, psn := BitVec.allOnes 64 } else x

/-- A sector programmed: the POISON flag covers the whole sector, and rewriting clears an unreadable
condition (R305, R307). -/
def putVault (lba : Nat) (x : Sec) (s : State) : State :=
  { s with st := { s.st with
      vault := kvSet {} lba { x with psn := if x.psn = 0 then 0 else BitVec.allOnes 64 } s.st.vault
      unread := nDel lba s.st.unread } }

/-- LBAs unmapped: they read as zero without poison (R300). -/
def unmapLbas (lo n : Nat) (s : State) : State :=
  { s with st := { s.st with
      vault := s.st.vault.filter (fun p => p.1 < lo || lo + n ≤ p.1)
      unread := s.st.unread.filter (fun l => l < lo || lo + n ≤ l) } }

/-! ### The hold of SANITISE and FORMAT (R312), and the read-only Vault (R308) -/

/-- The command would read or write the Vault. -/
def touchesVault (c : Cmd) : Bool :=
  match c.op with
  | 0x01 | 0x02 | 0x10 | 0x11 | 0x12 | 0x21 => true
  | 0x13 => c.f 0x1D 1 != 0
  | 0x18 => c.f 0x10 1 == 2 || c.f 0x10 1 == 3
  | _ => false

/-- REFUSED 0x51 while the Vault is held, 0x54 for writes to a read-only Vault (R312, R308). -/
def vaultGate (s : State) (c : Cmd) : Option Outc :=
  if s.st.op.st = 1 ∧ touchesVault c then some { status := stREFUSED, d0 := 0x51 }
  else if s.st.roMode ∧ (c.op = 0x01 ∨ c.op = 0x10) then some { status := stREFUSED, d0 := 0x54 }
  else none

/-! ### Staging sectors (R298) -/

/-- A sector staged for a WRITE_SECTORS: an earlier staged sector of the same ring and LBA whose program
has not begun is superseded, and the new one stands for its commands (R298). -/
def stageSector (g : Staged) (l : List Staged) : List Staged :=
  let old := l.filter (fun x => x.src == g.src && x.lba == g.lba && x.inUnit.isNone)
  let l' := l.filter (fun x => !(x.src == g.src && x.lba == g.lba && x.inUnit.isNone))
  l' ++ [{ g with stands := old.flatMap (fun x => x.cid :: x.stands) }]

/-- The newest staged version of an LBA: the last staged (R116, R300). -/
def State.stagedSec (s : State) (lba : Nat) : Option Sec :=
  (s.st.staged.reverse.find? (fun g => g.lba == lba && (match g.src with | .ring _ => true | _ => false))).map (·.sec)

/-- Beats as a reader gets them: the data of a poisoned one is a free value (R173; DESIGN CHOICE, LOG 13). -/
def freshBeats : List Beat → State → List Beat × State
  | [], s => ([], s)
  | b :: bs, s =>
    let (d, s1) := if b.psn then drawBeat s else (b.data, s)
    let (ds, s2) := freshBeats bs s1
    ({ b with data := d } :: ds, s2)

/-- What an LBA reads as to a sector command (R300). -/
def State.visibleSec (s : State) (lba : Nat) : Sec := (s.stagedSec lba).getD (s.readSec lba)

/-- A DURABLE write has no sector left to program: it completes MEDIUM, POISONED, TIMEOUT or OK (R117,
R129, R306). -/
def finishWrite (r : Ring) (c : Cmd) (s : State) : State :=
  let o : Outc :=
    if c.badCause = some .timeout then { status := stTIMEOUT, d0 := c.badFirst.getD 0, d1 := c.badBeats }
    else match c.failedLba with
      | l :: _ => { status := stMEDIUM, d0 := c.failedLba.foldl min l, d1 := c.failedLba.length }
      | [] => if c.badBeats = 0 then { status := stOK }
              else { status := stPOISONED, d0 := c.badFirst.getD 0, d1 := c.badBeats }
  pushEntry r c o s

/-- No staged sector stands for the command any more. -/
def nothingStaged (s : State) (cid : Nat) : Bool :=
  !s.st.staged.any (fun g => g.cid == cid || g.stands.contains cid)

/-- DURABLE writes of the listed commands that have every sector programmed or failed complete. -/
def settleWrites (cids : List Nat) (s : State) : State :=
  cids.foldl (fun s cid => match s.ringOf cid with
    | none => s
    | some r => match s.rings[r].past.find? (·.cid == cid) with
      | some c => if c.op = 1 ∧ c.effect ∧ nothingStaged s cid then finishWrite r c s else s
      | none => s) s

/-! ### Images released and abandoned (R256, R268, R304, R311) -/

/-- An image leaves the engine: its LBAs read as zero (R304), its reservation and staged sectors go. -/
def releaseImage (t : Tenant) (img : Word) (s : State) : State :=
  match s.image? t img with
  | none => s
  | some i =>
    let s1 := if i.sealed_ then journalAdd 1 (unmapLbas i.lba i.total s) else s
    { s1 with st := { s1.st with
        images := s1.st.images.filter (fun x => !(x.tenant == t && x.img == img))
        staged := s1.st.staged.filter (fun g => g.src != .image t img) } }

/-- Commands waiting on an image that no longer exists complete REFUSED with reason 0x46 (R268, R311). -/
def refusePending (t : Tenant) (img : Word) (s : State) : State :=
  (List.finRange 16).foldl (fun s r =>
    if s.ringTenant r ≠ t then s
    else ((s.rings[r].queue.filter (·.started)) ++ s.rings[r].past).foldl (fun s c =>
      if (c.op = 0x11 ∨ c.op = 0x12) ∧ BitVec.ofNat 32 (c.f 0x10 4) = img ∧ c.stages = 0
      then complete r c stREFUSED 0x46 0 s else s) s) s

/-- An OPEN image is abandoned (R268): its ranges are released, the frozen pages of its map thaw and its
pending commands are refused. -/
def abandonImage (t : Tenant) (img : Word) (s : State) : State :=
  match s.image? t img with
  | none => s
  | some i =>
    let s1 := refusePending t img (releaseImage t img s)
    { s1 with st := { s1.st with frozen := match i.map with
        | some m => s1.st.frozen.filter (fun f => f.map != m)
        | none => s1.st.frozen } }

end Sys2Proof.Machine
end

