-- ==== Sys2Proof/Machine/PairOps.lean ====
section
/-! DEFINITION. Shared operations of the Pair link (16): sessions, packets, pairing and fetching of
images, verification of received copies, and what a lost or ended session leaves. -/

namespace Sys2Proof.Machine

/-! ### Stages of SNAP_SEAL (R8, R127) -/

/-- The stages a SNAP_SEAL owes: STAGED 1, DURABLE 3, and PAIRED 2 with PAIR = 1. -/
def sealOwed (c : Cmd) : List Nat := if c.f 0x14 1 = 1 then [1, 2, 3] else [1, 3]

/-- One stage entry; the last one owed has MORE = 0. A stage is reported once. -/
def sealReport (r : Ring) (c : Cmd) (stage : Nat) (o : Outc) (s : State) : State :=
  if bit c.stages stage then s
  else
    let more := (sealOwed c).any (fun k => k != stage && !bit c.stages k)
    pushEntry r c { o with stage := BitVec.ofNat 8 stage, more := more }
      (modCmd r c.cid (fun c => { c with stages := setBit c.stages stage true }) s)

/-- A command that waits on the Pair link ends, or its PAIRED stage does. -/
def pairOutcome (own : Option (Ring × Nat)) (o : Outc) (s : State) : State :=
  match own with
  | none => s
  | some (r, cid) => match s.rings[r].find cid with
    | none => s
    | some c => if c.op = 0x12 then sealReport r c 2 o s else pushEntry r c o s

/-! ### Packets (R323, R324) -/

/-- Serial-number order of PSNs (R324). -/
def psnLt (a b : Word) : Bool := a != b && !bit (b - a) 31

/-- The bytes of a packet: the 32-byte header of Table 16-5, every field big-endian (R5, R323), then the payload. -/
def pairBytes (x : PairRx) (ty : Nat) (payload : List Byte) : List Byte :=
  bytesBE 2 x.magic ++ [x.ver] ++ toBE 1 ty ++ bytesBE 4 x.session ++ bytesBE 8 x.srcId ++ bytesBE 4 x.psn
    ++ toBE 2 payload.length ++ toBE 1 x.doze.toNat ++ [0] ++ bytesBE 4 x.cumAck ++ bytesBE 4 x.crc ++ payload

/-- CRC: CRC-32C of the packet with its CRC field taken as 0 (R323). -/
def pairCrc (x : PairRx) (ty : Nat) (payload : List Byte) : Word :=
  BitVec.ofNat 32 (crc32c (pairBytes { x with crc := 0 } ty payload))

/-- A packet as this engine sends it. -/
def pairPacket (ty : Nat) (session psn cumAck : Word) (doze : Bool) (payload : List Byte) : List Byte :=
  let x : PairRx := { srcId := Config.engineId, session := session, psn := psn, doze := doze, cumAck := cumAck }
  pairBytes { x with crc := pairCrc x ty payload } ty payload

/-- A packet leaves the part; an engine in NAP sets DOZE (R320). -/
def pairEmit (e : Peer) (ty : Nat) (psn : Word) (payload : List Byte) (s : State) : State :=
  let p := s.pair.peers[e]
  let session := if ty = 1 then 0 else p.peerNonce.getD 0
  emit (.pair e.val (pairPacket ty session psn p.rxPsn (s.pw.pstate == .nap) payload))
    (s.onPeer e (fun p => { p with lastTx := s.now }))

/-- An unreliable packet: it shows the next PSN and does not consume it (Table 16-5). -/
def pairSend (e : Peer) (ty : Nat) (payload : List Byte) (s : State) : State :=
  pairEmit e ty s.pair.peers[e].nextPsn payload s

/-- A reliable packet joins the queue; PAIR_TRANSMIT gives it its PSN and sends it (R324). -/
def pairQueue (e : Peer) (ty : Nat) (payload : List Byte) (s : State) : State :=
  s.onPeer e (fun p => { p with out := p.out ++ [{ ty := ty, payload := payload }] })

/-- Reliable packets in flight (R324). -/
def PeerSt.inFlight (p : PeerSt) : Nat := (p.out.filter (·.sent)).length

/-- A reliable packet sent now, with the next PSN. -/
def pairRelease (e : Peer) (k : PairPkt) (before after : List PairPkt) (s : State) : State :=
  let p := s.pair.peers[e]
  let k1 := { k with psn := p.nextPsn, sent := true, since := s.now, sentAt := s.now }
  pairEmit e k.ty k1.psn k.payload
    (s.onPeer e (fun p => { p with out := before ++ k1 :: after, nextPsn := p.nextPsn + 1 }))

/-- The payload of HELLO and HELLO_ACK (Table 16-6). -/
def helloBytes (nonce epoch : Word) (hs : List HoldRec) : List Byte :=
  bytesBE 4 nonce ++ bytesBE 4 epoch ++ toBE 2 hs.length ++ toBE 6 0
    ++ hs.flatMap (fun c => bytesBE 8 c.step ++ bytesBE 4 c.img ++ toBE 1 (c.drained.toNat + 2 * c.tainted.toNat)
      ++ toBE 3 0 ++ toBE 8 c.total)

/-- HELLO and HELLO_ACK: nonce, EPOCH and every copy held for the receiver (R322). -/
def helloPayload (s : State) (e : Peer) : List Byte :=
  helloBytes s.pair.peers[e].nonce s.boot.epoch ((s.st.copies.filter (fun c => c.peer == e)).map (fun c =>
    { step := c.step, img := c.img, drained := c.drained, tainted := c.tainted, total := c.total }))

/-- ACK: BASE_PSN and the bitmap of the PSNs received from there on. -/
def ackPayload (p : PeerSt) : List Byte :=
  bytesBE 4 p.rxPsn ++ (List.range 64).map (fun i => BitVec.ofNat 8 ((List.range 8).foldl (fun n j =>
    2 * n + (if p.rxAhead.any (fun q => q.1 == p.rxPsn + BitVec.ofNat 32 (8 * i + j)) then 1 else 0)) 0))

/-- ACK sent: nothing is left unacknowledged. -/
def sendAck (e : Peer) (s : State) : State :=
  pairSend e 0x05 (ackPayload s.pair.peers[e]) (s.onPeer e (fun p => { p with unacked := 0 }))

/-- BYE: the steps of the copies that are drained (Table 16-6). -/
def byeBytes (steps : List Dword) : List Byte := toBE 2 steps.length ++ toBE 6 0 ++ steps.flatMap (bytesBE 8)

def offerBytes (xfer img : Word) (step : Dword) (total : Nat) (alg : Alg) (kind : Bool) (root : BitVec 512) : List Byte :=
  bytesBE 4 xfer ++ bytesBE 4 img ++ bytesBE 8 step ++ toBE 8 total ++ toBE 1 (algCode alg) ++ toBE 1 kind.toNat ++ toBE 6 0
    ++ bytesLE 64 root

def offerPayload (t : Transfer) : List Byte := offerBytes t.xfer t.img t.step t.total t.alg t.fetchReply t.root

def refusePayload (xfer : Word) (reason : Nat) : List Byte := bytesBE 4 xfer ++ toBE 1 reason ++ toBE 3 0

def heldPayload (xfer : Word) (tainted : Bool) (step : Dword) : List Byte :=
  bytesBE 4 xfer ++ toBE 1 tainted.toNat ++ toBE 3 0 ++ bytesBE 8 step

def resendPayload (xfer : Word) (sector count : Nat) : List Byte :=
  bytesBE 4 xfer ++ toBE 4 0 ++ toBE 8 sector ++ toBE 4 count ++ toBE 4 0

def signalPayload (cairn : Nat) (add : Word) (seq : Dword) : List Byte :=
  toBE 1 cairn ++ toBE 3 0 ++ bytesBE 4 add ++ bytesBE 4 (fld seq 0 32)

def sigAckPayload (seq : Dword) (status : Nat) : List Byte := bytesBE 4 (fld seq 0 32) ++ toBE 1 status ++ toBE 3 0

def fetchPayload (xfer : Word) (owner step : Dword) : List Byte :=
  bytesBE 4 xfer ++ toBE 4 0 ++ bytesBE 8 owner ++ bytesBE 8 step

/-- The POISON bitmap of a DATA packet: one bit per beat, bit 7 of byte 0 first. -/
def poisonMap (xs : List Sec) : List Byte :=
  bitsBytes ((xs.flatMap (fun x => (List.range 64).map (fun i => bit x.psn i))) ++ List.replicate (64 * (2 - xs.length)) false)

def dataPayload (xfer : Word) (sector : Nat) (xs : List Sec) : List Byte :=
  bytesBE 4 xfer ++ toBE 8 sector ++ toBE 2 xs.length ++ toBE 2 0 ++ poisonMap xs ++ xs.flatMap Sec.bytes

/-- TYPE and payload of the packet a row brings (Table 16-6). -/
def pairFrame : Instr → Nat × List Byte
  | .hello _ nonce epoch holds => (0x01, helloBytes nonce epoch holds)
  | .helloAck _ nonce epoch holds => (0x02, helloBytes nonce epoch holds)
  | .heartbeat _ => (0x03, [])
  | .bye _ drained => (0x04, byeBytes drained)
  | .ack _ base got => (0x05, bytesBE 4 base ++ bytesLE 64 got)
  | .offer _ xfer img step total alg kind root => (0x10, offerBytes xfer img step total alg kind root)
  | .accept _ xfer => (0x11, bytesBE 4 xfer)
  | .refuse _ xfer reason => (0x12, refusePayload xfer reason.toNat)
  | .data _ xfer sector secs => (0x13, dataPayload xfer sector secs)
  | .held _ xfer tainted step => (0x14, heldPayload xfer tainted step)
  | .resend _ xfer sector count => (0x15, resendPayload xfer sector count)
  | .pairSignalReceive _ cairn add seq => (0x20, signalPayload cairn.toNat add seq)
  | .sigAck _ seq status => (0x21, sigAckPayload seq status.toNat)
  | .fetch _ xfer owner step => (0x30, fetchPayload xfer owner step)
  | _ => (0, [])

/-- The checks of R317 a packet can fail by itself: CRC, MAGIC and VER. -/
def pairSound (x : PairRx) (f : Nat × List Byte) : Bool :=
  x.crc == pairCrc x f.1 f.2 && x.magic == 0x5A50 && x.ver == 1

/-! ### Sending an image (R326) -/

/-- Sectors `lo .. lo + n - 1` in packets of two. -/
def packetRun (lo n : Nat) : List (Nat × Nat) := (List.range (ceilDiv n 2)).map (fun i => (lo + 2 * i, min 2 (n - 2 * i)))

/-- One packet of each unfinished chunk in turn. -/
def interleave : Nat → List (List (Nat × Nat)) → List (Nat × Nat)
  | 0, _ => []
  | fuel + 1, ls => ls.flatMap (fun l => l.take 1) ++ interleave fuel ((ls.map (fun l => l.drop 1)).filter (fun l => l != []))

/-- Windows of 32 consecutive chunks. -/
def chunkWindows : Nat → List ChunkRec → List (Nat × Nat)
  | 0, _ => []
  | fuel + 1, cs =>
    if cs = [] then []
    else
      let w := cs.take 32
      interleave (w.foldl (fun n c => n + c.nsec) 0 + 1) (w.map (fun c => packetRun c.off c.nsec))
        ++ chunkWindows fuel (cs.drop 32)

/-- The order of R326: sector 0, manifest and tree, then the chunk area. -/
def sendOrder (secs : List Sec) : List (Nat × Nat) :=
  match openImage secs with
  | some o => (0, 1) :: packetRun o.hdr.manOff (secs.length - o.hdr.manOff) ++ chunkWindows (o.chunks.length + 1) o.chunks
  | none => packetRun 0 secs.length

/-- DATA packets of some sectors, queued. -/
def queueData (e : Peer) (t : Transfer) (runs_ : List (Nat × Nat)) (s : State) : State :=
  runs_.foldl (fun s p => pairQueue e 0x13 (dataPayload t.xfer p.1 ((List.range p.2).map (fun i =>
    ((t.secs.find? (fun q => q.1 == p.1 + i)).map (·.2)).getD {}))) s) s

/-! ### Transfers -/

/-- A transfer rewritten, by its number and side. -/
def modXfer (e : Peer) (xfer : Word) (sending : Bool) (f : Transfer → Transfer) (s : State) : State :=
  s.onPeer e (fun p => { p with xfers := p.xfers.map (fun t => if t.xfer = xfer ∧ t.sending = sending then f t else t) })

def dropXfer (e : Peer) (xfer : Word) (sending : Bool) (s : State) : State :=
  s.onPeer e (fun p => { p with xfers := p.xfers.filter (fun t => !(t.xfer == xfer && t.sending == sending)) })

def PeerSt.xferOf (p : PeerSt) (xfer : Word) (sending : Bool) : Option Transfer :=
  p.xfers.find? (fun t => t.xfer == xfer && t.sending == sending)

/-- A transfer ends with a reason of Table 16-9: its command completes REFUSED; what was received goes. -/
def endXfer (e : Peer) (t : Transfer) (reason : Nat) (s : State) : State :=
  pairOutcome t.owner { status := stREFUSED, d0 := reason }
    (dropXfer e t.xfer t.sending (if t.sending || t.secs.isEmpty then s else abortTap .pairRx s))

/-- This side ends a transfer with REFUSE (R326). -/
def refuseXfer (e : Peer) (t : Transfer) (reason : Nat) (s : State) : State :=
  endXfer e t reason (if t.opened then pairQueue e 0x12 (refusePayload t.xfer reason) s else s)

/-- Every transfer of an entry that `p` holds for ends. -/
def endXfers (e : Peer) (reason : Nat) (p : Transfer → Bool) (s : State) : State :=
  (s.pair.peers[e].xfers.filter p).foldl (fun s t => endXfer e t reason s) s

/-- A command removed while its transfer runs: REFUSE with reason 0x6A, no completion (16.4.1). -/
def dropCmdXfers (cid : Nat) (s : State) : State :=
  (List.finRange 4).foldl (fun s e =>
    (s.pair.peers[e].xfers.filter (fun t => match t.owner with | some (_, c) => c == cid | none => false)).foldl
      (fun s t => refuseXfer e { t with owner := none } 0x6A s) s) s

/-- OFFER or FETCH goes out (R325, R334, R335). -/
def openXfer (e : Peer) (t : Transfer) (s : State) : State :=
  let s1 := modXfer e t.xfer t.sending (fun t => { t with opened := true }) s
  let s2 := match t.owner with | some (r, cid) => effectOf r cid s1 | none => s1
  if t.sending then pairQueue e 0x10 (offerPayload t) s2
  else pairQueue e 0x30 (fetchPayload t.xfer t.ownerId t.step) s2

/-- A transfer begins: at once in UP, waiting in OPENING or LOST, REFUSED 0x60 else (R325). -/
def beginXfer (e : Peer) (t : Transfer) (s : State) : State :=
  let p := s.pair.peers[e]
  let t1 := { t with xfer := p.nextXfer, since := s.now }
  let s1 := s.onPeer e (fun p => { p with nextXfer := p.nextXfer + 1, xfers := p.xfers ++ [t1] })
  match p.sess with
  | .up => openXfer e t1 s1
  | .opening | .lost => s1
  | _ => pairOutcome t.owner { status := stREFUSED, d0 := 0x60 } s

/-- The sectors of an image the engine holds: its staging copy, else the Vault's (R267). -/
def State.imageSecs (s : State) (i : Image) : List Sec :=
  if i.inStage then i.secs
  else if i.durable then (List.range i.total).map (fun k => s.readSec (i.lba + k))
  else []

def zipIx (xs : List Sec) : List (Nat × Sec) := xs.zipIdx.map (fun p => (p.2, p.1))

/-- A pairing of an image through an entry, for a command (R325). An image held nowhere locally has
nothing to send. -/
def beginPairing (e : Peer) (r : Ring) (cid : Nat) (i : Image) (s : State) : State :=
  let secs := s.imageSecs i
  if secs = [] then pairOutcome (some (r, cid)) { status := stREFUSED, d0 := 0x49 } s
  else
    beginXfer e { xfer := 0, sending := true, step := i.step, img := i.img, tenant := i.tenant, total := i.total
                  root := ofBytes 512 i.root, alg := i.alg, owner := some (r, cid), secs := zipIx secs } s

/-! ### Copies held for wards (R327, R331) -/

/-- A copy released with its reservation and what of it was still to drain. -/
def releaseCopy (e : Peer) (step : Dword) (s : State) : State :=
  { s with st := { s.st with
      copies := s.st.copies.filter (fun c => !(c.peer == e && c.step == step))
      staged := s.st.staged.filter (fun g => g.src != .copy e step) } }

def State.copiesOf (s : State) (e : Peer) : List Copy := s.st.copies.filter (fun c => c.peer == e)

/-- At most two copies, those of the two highest steps. -/
def trimCopies (e : Peer) (s : State) : State :=
  let cs := s.copiesOf e
  if cs.length ≤ 2 then s
  else match cs.foldl (fun b c => match b with
      | none => some c
      | some x => if c.step.toNat < x.step.toNat then some c else some x) (none : Option Copy) with
    | some c => releaseCopy e c.step s
    | none => s

/-- A verified copy is held; with DRAIN it joins the drain (R328, R331). -/
def holdCopy (e : Peer) (t : Transfer) (secs : List Sec) (s : State) : State :=
  let p := s.pair.peers[e].cfg
  let s0 := releaseCopy e t.step s
  let c : Copy := { peer := e, owner := p.engineId, step := t.step, img := t.img, total := t.total, root := t.root
                    alg := t.alg, secs := secs, tainted := t.tainted, left := if p.drain then t.total else 0 }
  let add := if p.drain then secs.zipIdx.map (fun q => ({ src := .copy e t.step, cid := 0, lba := q.2, sec := q.1 } : Staged))
    else []
  trimCopies e { s0 with st := { s0.st with copies := s0.st.copies ++ [c], staged := s0.st.staged ++ add } }

/-! ### Sessions (R319 to R322) -/

/-- A fresh random, non-zero nonce (R319, DESIGN CHOICE, LOG 6). -/
def drawNonce (s : State) : Word × State :=
  let (w, s1) := draw s
  (if w = 0 then 1 else w, s1)

/-- Queued and unacknowledged signals of a session end, counted in SIG_OVF (16.5.1). -/
def endSignals (e : Peer) (s : State) : State :=
  s.onPeer e (fun p => { p with
    sigOvf := satAdd p.sigOvf (p.fwd.length + p.sigWait.length), fwd := [], sigWait := [] })

/-- PSNs restart at 0 on both sides (R321). -/
def freshPsns (p : PeerSt) : PeerSt := { p with nextPsn := 0, rxPsn := 0, rxAhead := [], unacked := 0, out := [] }

/-- A new session opens: OPENING, with a nonce of its own (Table 16-4). -/
def openSession (e : Peer) (s : State) : State :=
  let (n, s1) := drawNonce s
  s1.onPeer e (fun p => { freshPsns p with sess := .opening, nonce := n, peerNonce := none, doze := false })

/-- The entry's family has an address on a port; `up` asks for a port that is up (R316). -/
def hasAddr (s : State) (c : PeerCfg) (up : Bool) : Bool :=
  s.pair.ports.toList.any (fun p => (!up || p.up) && (if c.v6 then p.ip6 != 0 else p.ip4 != 0))

/-- Sessions leave and enter DOWN as the entry, the load and the addresses allow (Table 16-4, R316). -/
def refreshSessions (s : State) : State :=
  (List.finRange 4).foldl (fun s e =>
    let p := s.pair.peers[e]
    let may := p.cfg.valid && s.cfg.loaded
    if p.sess = .down then (if may && hasAddr s p.cfg true then openSession e s else s)
    else if may && hasAddr s p.cfg false then s
    else endXfers e 0x60 (fun _ => true) (endSignals e (s.onPeer e (fun p => { freshPsns p with sess := .down })))) s

/-- Reconciling copies with a buddy's list (R322). -/
def reconcile (e : Peer) (list : List HoldRec) (s : State) : State :=
  let p := s.pair.peers[e]
  if p.cfg.buddy = false then s
  else
    let t := p.cfg.tenant
    let lost := s.st.images.filter (fun i => i.tenant == t && i.paired && !list.any (fun h => h.step == i.step))
    let s1 := lost.foldl (fun s i =>
      if i.copyOnly then { s with st := { s.st with images := s.st.images.filter (fun x => !(x.tenant == t && x.img == i.img)) } }
      else raiseEvent 0x0803 0xFF (BitVec.ofNat 32 e.val) i.img (modImage t i.img (fun x => { x with paired := false }) s)) s
    list.foldl (fun s h => match s.image? t h.img with
      | some i => if i.step = h.step then s else s.onPeer e (fun p => { p with hidden := satAdd p.hidden 1 })
      | none => { s with st := { s.st with images := s.st.images ++ [
          { tenant := t, img := h.img, sealed_ := true, paired := true, copyOnly := true, tainted := h.tainted
            step := h.step, total := h.total }] } }) s1

/-- The session is UP: copies are reconciled, and transfers that waited begin (R322, R325). -/
def becomeUp (e : Peer) (list : List HoldRec) (s : State) : State :=
  let s1 := reconcile e list (s.onPeer e (fun p => { p with sess := .up, list := list }))
  (s1.pair.peers[e].xfers.filter (fun t => !t.opened)).foldl (fun s t => openXfer e t s) s1

/-- The peer has reopened (R321): transfers and signals of the old session end, PSNs restart. -/
def peerReopened (e : Peer) (s : State) : State :=
  (endSignals e (endXfers e 0x6A (·.opened) s)).onPeer e freshPsns

/-- The session is LOST (Table 16-4). -/
def loseSession (e : Peer) (s : State) : State :=
  if s.pair.peers[e].sess = .up then
    raiseEvent 0x0801 0xFF (BitVec.ofNat 32 e.val) 0 (s.onPeer e (fun p => { p with sess := .lost }))
  else s

/-! ### Receiving (R317, R324) -/

/-- CUM_ACK: every reliable packet below it has been received. -/
def cumAcked (e : Peer) (cum : Word) (s : State) : State :=
  s.onPeer e (fun p => { p with out := p.out.filter (fun k => !(k.sent && psnLt k.psn cum)) })

/-- The entry a packet comes from: SRC_ID and source address match one VALID entry (R317). -/
def pairEntry (s : State) (x : PairRx) : Option Peer :=
  (List.finRange 4).find? (fun e =>
    let c := s.pair.peers[e].cfg
    c.valid && c.engineId == x.srcId && (if c.v6 then c.addr == x.srcAddr else fld c.addr 0 32 == fld x.srcAddr 0 32))

/-- A frame dropped: counted in the entry's RX_DROP, or in PAIR_RX_OTHER (R317). -/
def countDrop (e : Option Peer) (s : State) : State :=
  match e with
  | some e => s.onPeer e (fun p => { p with rxDrop := satAdd p.rxDrop 1 })
  | none => { s with pair := { s.pair with rxOther := satAdd s.pair.rxOther 1 } }

/-- The acceptance of R317. A frame arrives only through a port that is up; packets received during a
load are dropped (R321), and so is everything for an entry in DOWN. An accepted packet leaves NAP (R28). -/
def pairAccept (x : PairRx) (f : Nat × List Byte) (s : State) : Option Peer × State :=
  let hello := f.1 == 1
  if s.pw.rdy = false ∨ s.pw.phase ≠ .ready ∨ s.pair.ports[x.port].up = false ∨ s.cfg.loading then (none, s)
  else
    let e := pairEntry s x
    match e with
    | none => (none, countDrop none s)
    | some i =>
      let p := s.pair.peers[i]
      if !pairSound x f || (!hello && x.session != p.nonce) || p.sess == .down || (!hello && p.sess == .gone) then
        (none, countDrop e s)
      else
        let s1 := (wakeNap s).onPeer i (fun p => { p with lastRx := s.now, doze := x.doze })
        (e, if hello then s1 else cumAcked i x.cumAck s1)

/-! ### Verifying a received image (R328) -/

def Transfer.sec? (t : Transfer) (k : Nat) : Option Sec := (t.secs.find? (fun p => p.1 == k)).map (·.2)

def Transfer.hasAll (t : Transfer) (lo n : Nat) : Bool :=
  let mine := t.secs.filter (fun p => decide (lo ≤ p.1 ∧ p.1 < lo + n))
  decide (n ≤ mine.length)

/-- The image as received so far. -/
def Transfer.whole (t : Transfer) : List Sec := (List.range t.total).map (fun k => (t.sec? k).getD {})

/-- What a look at a receiving transfer finds. -/
inductive RxLook where
  | go (t : Transfer) (resend : List (Nat × Nat))
  | bad
  | done (t : Transfer)
  deriving DecidableEq, Repr

/-- One chunk all of whose sectors are there: compared once, asked for again once (R328). -/
def rxChunk (o : Opened) (t : Transfer) (resend : List (Nat × Nat)) (i : Nat) : RxLook :=
  match o.chunks[i]? with
  | none => .go t resend
  | some c =>
    if t.verified.contains i || !t.hasAll c.off c.nsec then .go t resend
    else
      let xs := (List.range c.nsec).map (fun k => (t.sec? (c.off + k)).getD {})
      if c.pois || xs.any (fun x => x.psn != 0) then
        .go { t with verified := i :: t.verified, tainted := true } resend
      else if sha o.hdr.alg (xs.flatMap Sec.bytes) = (o.leaves[i]?).getD [] then
        .go { t with verified := i :: t.verified } resend
      else if t.resent.contains i then .bad
      else .go { t with
          resent := i :: t.resent
          secs := t.secs.filter (fun p => p.1 < c.off || c.off + c.nsec ≤ p.1) } (resend ++ [(c.off, c.nsec)])

/-- The header against the OFFER, the tree, then every chunk that has arrived. -/
def rxLook (t : Transfer) : RxLook :=
  match t.sec? 0 with
  | none => .go t []
  | some s0 =>
    match readHeader s0 with
    | none => .bad
    | some h =>
      if ofBytes 512 h.root ≠ t.root ∨ h.total ≠ t.total then .bad
      else if !t.hasAll h.manOff (t.total - h.manOff) then .go t []
      else match openImage t.whole with
        | none => .bad
        | some o =>
          let r := (List.range o.chunks.length).foldl (fun r i => match r with
            | .go t resend => rxChunk o t resend i
            | r => r) (RxLook.go t [])
          match r with
          | .go t resend => if t.verified.length = o.chunks.length then .done t else .go t resend
          | r => r

/-- Payload bytes the receive-tap lane has digested: SLOE_BYTES of the first lane on the tap. -/
def State.rxLane (s : State) : Option Lane :=
  (List.finRange 16).find? (fun l => s.ma.lanes[l].snooping && !s.ma.lanes[l].fenced &&
    s.ma.lanes[l].snoops.any (fun p => p.tap == .pairRx))

/-- The first sector with a poisoned beat, and the poisoned beats, of a sent or pulled image (Table 16-8). -/
def poisonOf (secs : List Sec) : Nat × Nat :=
  let marked := (secs.zipIdx.filter (fun p => p.1.psn != 0)).map (fun p => (p.2, popCount p.1.psn))
  match marked, openImage secs with
  | m :: _, _ => (m.1, marked.foldl (fun n p => n + p.2) 0)
  | [], some o => match o.chunks.filter (·.pois) with
    | c :: cs => (c.off, (c :: cs).foldl (fun n c => n + 64 * c.nsec) 0)
    | [] => (0, 0)
  | [], none => (0, 0)

/-- Sectors of an image's chunks whose packed sectors carry POISON = 1 (R245, R284). -/
def flaggedSecs (secs : List Sec) : List Nat :=
  match openImage secs with
  | some o => (o.chunks.filter (·.pois)).flatMap (fun c => (List.range c.nsec).map (fun i => c.off + i))
  | none => []

/-- Sectors of an image as the Vault and Pair link taps see them. -/
def tapSecs (flagged : List Nat) (xs : List (Nat × Sec)) : List (Beat × Bool) :=
  xs.flatMap (fun p => packed (flagged.contains p.1) p.2)

/-- A received image is complete: HELD goes out (R328); a buddy holds the copy, a PAIR_TAKEOVER makes it
an image of its tenant that drains like any sealed image (R335), and a RESTORE goes on with it (R336). -/
def rxDone (e : Peer) (t : Transfer) (s : State) : State :=
  let secs := t.whole
  let s1 := pairQueue e 0x14 (heldPayload t.xfer t.tainted t.step) (snoopEnd .pairRx t.owner (dropXfer e t.xfer false s))
  let s2 := match s.rxLane with
    | some l => laneCount l (4096 * t.total) (if t.tainted then 1 else 0) s1
    | none => s1
  match t.owner with
  | none => holdCopy e t secs s2
  | some (r, cid) => match s2.rings[r].find cid with
    | none => s2
    | some c =>
      let tn := s2.ringTenant r
      if c.op = 0x21 then
        let lba := bindRun s2 t.total
        let i : Image := {
          tenant := tn, img := BitVec.ofNat 32 (c.f 0x18 4), sealed_ := true, inStage := true, tainted := t.tainted
          step := t.step, ring := r, blocks := ceilDiv t.total 512, secs := secs, total := t.total
          root := (bytesLE 64 t.root).take (digestLen t.alg), alg := t.alg, lba := lba
          sealOrder := s2.st.nextSeal }
        let s3 := journalAdd 1 { s2 with st := { s2.st with
          images := s2.st.images ++ [i], nextSeal := s2.st.nextSeal + 1
          staged := s2.st.staged ++ secs.zipIdx.map (fun q =>
            ({ src := .image tn i.img, cid := cid, lba := q.2, sec := q.1 } : Staged)) } }
        if t.tainted then
          pushEntry r c { status := stPOISONED, d0 := (poisonOf secs).1, d1 := (poisonOf secs).2, tainted := true } s3
        else complete r c stOK (4096 * t.total) (min t.retx 0xFFFFFFFF) s3
      else
        modCmd r cid (fun c => { c with units := 1 })
          (modImage tn t.img (fun i => { i with
            inStage := true, copyOnly := false, secs := secs, total := t.total, blocks := ceilDiv t.total 512
            root := (bytesLE 64 t.root).take (digestLen t.alg), alg := t.alg, tainted := i.tainted || t.tainted }) s2)

/-- A receiving transfer after new sectors. -/
def rxSettle (e : Peer) (xfer : Word) (s : State) : State :=
  match s.pair.peers[e].xferOf xfer false with
  | none => s
  | some t =>
    match rxLook t with
    | .bad => refuseXfer e t 0x64 s
    | .done t1 => rxDone e t1 s
    | .go t1 resend =>
      resend.foldl (fun s p => pairQueue e 0x15 (resendPayload xfer p.1 p.2) s)
        (modXfer e xfer false (fun _ => t1) s)

/-- A fetched image is accepted once the pool has room; the command waits as DELAYED (R335, R336). For a
takeover the image-area reservation is made first. -/
def fetchAccept (e : Peer) (t : Transfer) (s : State) : State :=
  match t.owner with
  | none => s
  | some (r, cid) =>
    match s.rings[r].find cid with
    | none => s
    | some c =>
      if c.op = 0x21 ∧ areaFits s t.total = false then
        pushEntry r c { status := stNOT_ADMITTED, d0 := 0x53, refusedFor := some 5 }
          (pairQueue e 0x12 (refusePayload t.xfer 0x61) (dropXfer e t.xfer false s))
      else if s.poolFreeBlocks < ceilDiv t.total 512 then delayCmd r cid 0 5 s
      else pairQueue e 0x11 (bytesBE 4 t.xfer)
        (modXfer e t.xfer false (fun t => { t with accepted := true }) (modCmd r cid (stopWaiting s.now) s))

/-- Fetches offered and still waiting for pool blocks. -/
def settleFetches (s : State) : State :=
  (List.finRange 4).foldl (fun s e =>
    (s.pair.peers[e].xfers.filter (fun t => !t.sending && t.opened && !t.accepted && t.owner.isSome && t.total != 0)).foldl
      (fun s t => fetchAccept e t s) s) s

end Sys2Proof.Machine
end

