-- ==== Sys2Proof/Machine/VaultCmds.lean ====
section
/-! DEFINITION. The commands of the Vault and staging memory: WRITE_SECTORS, READ_SECTORS, SANITISE,
FORMAT, PROGRAM_UNIT_START, SECTOR_PROGRAMMED, VAULT_OP_UNIT_DONE, VAULT_OP_DONE, BACKGROUND_ERASE,
PATROL_SCRUB, VAULT_READ_DONE. -/

namespace Sys2Proof.Machine

/-! ### WRITE_SECTORS (R116, R117, R298) -/

/-- Beat addresses of a transfer of `n` bytes from `a`. -/
def beatPlan (a n : Nat) : List Nat := (List.range (ceilDiv n 64)).map (fun i => a + 64 * i)

/-- The beats of a SPACE 1 source: each is checked against the tenant's windows, logged when it fails,
and poisoned when it is stored poisoned (R84, Table 5-8, R297). -/
def stagingReads (k : Key) : List Nat → State → List (Nat × Got) × List Beat × State
  | [], s => ([], [], s)
  | a :: rest, s =>
    if inWindows s k.tenant a 64 then
      let b := s.beat (a / 64)
      let (d, s1) := if b.psn then drawBeat s else (b.data, s)
      let (gs, bs, s2) := stagingReads k rest s1
      ((a, if b.psn then .bad .link else .ok d) :: gs, { data := d, psn := b.psn } :: bs, s2)
    else
      let (d, s1) := drawBeat (keyFlt k a .window false s)
      let (gs, bs, s2) := stagingReads k rest s1
      ((a, .bad .window) :: gs, { data := d, psn := true } :: bs, s2)

/-- The source beats of a write that has them all. -/
def writeBeats (r : Ring) (c : Cmd) (s : State) : List (Nat × Got) × List Beat × State :=
  let plan := beatPlan (c.f 0x10 8) (4096 * c.f 0x20 4)
  if c.f 0x24 1 = 0 then
    let gs := planBeats c plan
    let (bs, s1) := beatsOf gs s
    (gs, bs, snoopRun (.hostLink r) (plain bs) (some (r, c.cid)) s1)
  else stagingReads (s.cmdKey r c) plan s

/-- Sectors cut from a run of beats. -/
def cutSecs (bs : List Beat) (n : Nat) : List Sec := (List.range n).map (fun i => secOf ((bs.drop (64 * i)).take 64))

/-- The sectors of a write whose data has come are staged; it completes when staged (BUFFERED), or runs
past the head until programmed (DURABLE or DUR) (R117). Answers false while the pool has no room: the
command waits, DELAYED for SPACE (R294). -/
def stageWrite (r : Ring) (cid : Nat) (s : State) : Bool × State :=
  match s.rings[r].find cid with
  | none => (false, s)
  | some c0 =>
    let n := c0.f 0x20 4
    let staged0 := s.st.staged
    let room := s.poolFreeBlocks + stagedBlocks staged0
    let (gs, bs, s1) := writeBeats r c0 s
    let secs := cutSecs bs n
    let bad := badOf gs
    let staged1 := (secs.zipIdx).foldl (fun l p => stageSector
      { src := .ring r, cid := cid, lba := c0.f 0x18 8 + p.2, sec := p.1, acked := !c0.durable
        tag := c0.tag, ctx := c0.ctx } l) staged0
    if room < stagedBlocks staged1 then (false, delayCmd r cid 0 5 s)
    else
      let s2 := modCmd r cid (fun c => { stopWaiting s.now c with
        effect := true, got := [], badBeats := bad.n, badFirst := bad.first
        badCause := if bad.timeout then some .timeout else if bad.n = 0 then none else some .link })
        { s1 with st := { s1.st with staged := staged1 } }
      match s2.rings[r].find cid with
      | none => (false, s2)
      | some c =>
        if c0.durable then (true, leaveHead r cid s2)
        else (true, pushEntry r c (bad.outc 0 0) s2)

/-- An earlier write of the ring to some of the same sectors has not been staged yet (R116). -/
def earlierWrite (s : State) (r : Ring) (c : Cmd) : Bool :=
  (s.rings[r].queue ++ s.rings[r].past).any (fun d => d.op == 1 && !d.effect && decide (d.cid < c.cid) &&
    decide (d.f 0x18 8 < c.f 0x18 8 + c.f 0x20 4 ∧ c.f 0x18 8 < d.f 0x18 8 + d.f 0x20 4))

/-- The data of a write has come. -/
def writeReady (c : Cmd) : Bool := c.f 0x24 1 != 0 || allGot c (beatPlan (c.f 0x10 8) (4096 * c.f 0x20 4))

/-- Writes past the head whose data has come are staged, same-sector writes in latch order (R116). -/
def stageReady (r : Ring) (s : State) : State :=
  (s.rings[r].past.filter (fun c => c.op == 1 && !c.effect)).foldl (fun s c =>
    match s.rings[r].find c.cid with
    | some d => if writeReady d && !earlierWrite s r d then (stageWrite r d.cid s).2 else s
    | none => s) s

/-- Pool blocks have come free: writes past the head that waited for room are staged, ring by ring (R294, R18). -/
def stageWaiting (s : State) : State := (List.finRange 16).foldl (fun s r => stageReady r s) s

def writeAct (r : Ring) (c : Cmd) (s : State) : State :=
  match vaultGate s c with
  | some o => pushEntry r c o s
  | none =>
    let (ready, issued, s1) := if c.f 0x24 1 = 0
      then gather r c.cid (beatPlan (c.f 0x10 8) (4096 * c.f 0x20 4)) s else (true, true, s)
    if ready then
      if earlierWrite s1 r c then leaveHead r c.cid s1 else stageReady r (stageWrite r c.cid s1).2
    else if issued then leaveHead r c.cid s1 else s1

/-- WRITE_SECTORS. One refused at its head is no longer in the scope of a FLUSH that waits (R119). -/
def execWriteSectors (r : Ring) (s : State) : Host.Outcome State Fault Refusal :=
  .next (settleFlushes (headStep r 0x01 (writeAct r) s))

/-! ### READ_SECTORS (R116, R300, R305, R307) -/

/-- Beats written to the destination of a SPACE 1 command: checked against the tenant's windows, logged
when they fail, stored with their mark (Table 5-8, R175). -/
def stagingWrites (k : Key) (addr : Nat) (beats : List Beat) (b : Bad) (s : State) : Bad × State :=
  beats.zipIdx.foldl (fun (acc : Bad × State) p =>
    let a := addr + 64 * p.2
    if inWindows acc.2 k.tenant a 64 then
      (if p.1.psn then acc.1.add a 1 else acc.1, storeBeat (a / 64) p.1 acc.2)
    else (acc.1.add a 1, keyFlt k a .window true acc.2)) (b, s)

/-- The staging pages a run of `n` bytes touches. -/
def runPages (a n : Nat) : List Nat :=
  if n = 0 then [] else (List.range ((a + n - 1) / winUnit - a / winUnit + 1)).map (fun i => a / winUnit + i)

/-- The writes of a READ_SECTORS, and the entry they make (R129). -/
def readMove (r : Ring) (c : Cmd) (s : State) : State :=
  let lba := c.f 0x18 8
  let n := c.f 0x20 4
  let k := s.cmdKey r c
  let secs := (List.range n).map (fun i => s.visibleSec (lba + i))
  let medium := (List.range n).filter (fun i => (s.stagedSec (lba + i)).isNone && s.st.unread.contains (lba + i))
  let fromVault := (List.range n).filter (fun i => (s.stagedSec (lba + i)).isNone)
  let (beats, s0) := freshBeats (secs.flatMap Sec.beats) s
  let srcBad : Bad := (secs.zipIdx).foldl (fun b p => b.add (lba + p.2) (popCount p.1.psn)) {}
  let write := fun (bs : List Beat) => if c.f 0x24 1 = 0
    then hostWrites k (c.f 0x10 8) bs (4096 * n) {} s0
    else stagingWrites k (c.f 0x10 8) bs {} s0
  let (wbad, s1) := write beats
  let (dbad, _) := write (beats.map (fun b => { b with psn := false }))
  let o : Outc := match medium with
    | i :: _ => { status := stMEDIUM, d0 := lba + i, d1 := medium.length }
    | [] => if srcBad.n = 0 then wbad.outc 0 0
            else { status := stPOISONED, d0 := srcBad.first.getD lba, d1 := srcBad.n + dbad.n }
  pushEntry r c o (if fromVault = [] then s1
    else snoopRun .vaultRead (fromVault.flatMap (fun i => let x := s.readSec (lba + i); packed (packedFlag x) x)) (some (r, c.cid)) s1)

/-- READ_SECTORS: each sector's newest visible staged version or the Vault's contents go to DST once its writes are
judged (R95), or the frozen pages among them are copied (R265); an unreadable sector makes it MEDIUM, poison or a failed
write POISONED (R129). -/
def readAct (r : Ring) (c : Cmd) (s : State) : State :=
  match vaultGate s c with
  | some o => pushEntry r c o s
  | none =>
    if earlierWrite s r c then s
    else
      let len := 4096 * c.f 0x20 4
      if c.f 0x24 1 = 0 then withWrites (s.cmdKey r c) (beatPlan (c.f 0x10 8) len) (readMove r c) s
      else match copyPages (runPages (c.f 0x10 8) len) s with
        | none => delayCmd r c.cid 0 5 (copySome (runPages (c.f 0x10 8) len) s)
        | some s1 => readMove r ((s1.rings[r].find c.cid).getD c) s1

def execReadSectors (r : Ring) (s : State) : Host.Outcome State Fault Refusal :=
  .next (headStep r 0x02 (readAct r) s)

/-! ### The drain (R298, R299, R301, R306) -/

/-- The service entry under which a source's drain is charged (R339, T15): the ring that staged, the
ring of SNAP_BEGIN, or the engine's internal BACKGROUND requester. -/
def drainClosed (s : State) (src : Source) : Bool :=
  match src with
  | .ring r => tierClosed s.adm[(5 : Res)] (ringReq r)
  | .image t i => match s.image? t i with
    | some x => tierClosed s.adm[(5 : Res)] (ringReq x.ring)
    | none => false
  | .copy _ _ => s.adm[(5 : Res)].breach

/-- The staged sectors a source's next program unit takes: up to 32 in its own order (R298, R299). -/
def unitTake (src : Source) (u : Nat) : Nat → List Staged → List Staged
  | _, [] => []
  | 0, l => l
  | k + 1, g :: l =>
    if g.src = src ∧ g.inUnit.isNone then { g with inUnit := some u } :: unitTake src u k l
    else g :: unitTake src u (k + 1) l

/-- A copy drains only where its peer entry has DRAIN and WARD (R331, Table 20-5). -/
def maySource (s : State) : Source → Bool
  | .copy e _ => s.pair.peers[e].cfg.drain && s.pair.peers[e].cfg.ward
  | _ => true

/-- Credit for the commands a sector stood for: a failure is noted with its LBA. A command stopped by a ring
reset counts the sectors completed before its discard (Table 7-5). -/
def creditCmd (lba : Nat) (failed corrected : Bool) (cid : Nat) (s : State) : State :=
  match s.ringOf cid with
  | none => if failed then s else { s with rings := mapBank (fun _ x => { x with dying := x.dying.map (fun d =>
      if d.entry.cid = cid then { d with entry := { d.entry with d1 := satAdd d.entry.d1 1 } } else d) }) s.rings }
  | some r => modCmd r cid (fun c => { c with
      units := c.units + (if failed then 0 else 1)
      failedLba := if failed then c.failedLba ++ [lba] else c.failedLba
      corrected := c.corrected || corrected }) s

/-- What one sector's program leaves (R301, R306): on success the Vault holds it and its mapping is
journalled; on failure the old contents stay, and an acknowledged BUFFERED sector becomes a deferred
error, an image sector a MEDIUM DURABLE stage. Answers the sector when a record is owed. -/
def programOne (g : Staged) (res : ProgRes) (s : State) : State :=
  let ok := res != .failed
  let s1 := retire (match res with | .ok => 0 | .okAfterRetry => 1 | .failed => 2) s
  let s2 := match g.src with
    | .ring r => if ok then journalSec r g (putVault g.lba g.sec s1) else s1
    | .image t i =>
      if ok then journalAdd 1 s1
      else modImage t i (fun x => { x with failed := x.failed ++ [g.lba] }) s1
    | .copy e step =>
      { s1 with st := { s1.st with copies := s1.st.copies.map (fun c =>
        if c.peer = e ∧ c.step = step ∧ ok then
          { c with left := c.left - 1, drained := c.left == 1 } else c) } }
  (g.cid :: g.stands).foldl (fun s cid => creditCmd g.lba (!ok) (res == .okAfterRetry) cid s) s2

/-- A program unit's sectors leave the staged list, outcomes in hand; deferred records follow, then the
commands and FLUSHes whose last sector this was (R119, R133, R306). -/
def programUnit (u : Nat) (res : List ProgRes) (s : State) : State :=
  let gs := s.st.staged.filter (fun g => g.inUnit == some u)
  let s1 := { s with st := { s.st with staged := s.st.staged.filter (fun g => g.inUnit != some u) } }
  let s2 := (gs.zipIdx).foldl (fun s p => programOne p.1 ((res[p.2]?).getD .ok) s) s1
  let lost := (gs.zipIdx.filter (fun p => p.1.acked && (res[p.2]?).getD .ok == .failed)).map (·.1)
  let s3 := (List.finRange 16).foldl (fun s r =>
    let mine := lost.filter (fun g => g.src == .ring r)
    if mine = [] then s else deferSectors r 1 mine s) s2
  stageWaiting (settleFlushes (settleWrites (gs.flatMap (fun g => g.cid :: g.stands)) s3))

/-- PROGRAM_UNIT_START: the drain takes the next sectors of a source into a program unit (R298). On a
read-only Vault they can no longer be programmed and are reported under R306 at once (R308). -/
def execProgramUnitStart (src : Source) (s : State) : Host.Outcome State Fault Refusal :=
  .next (if s.pw.phase ≠ .ready ∨ s.pw.rdy = false ∨ s.st.onfi = 0 ∨ s.st.op.st = 1 && s.st.op.kind == 1
      ∨ drainClosed s src ∨ maySource s src = false
      ∨ !s.st.staged.any (fun g => g.src == src && g.inUnit.isNone) then s
    else
      let u := s.st.nextUnit
      let s1 := { s with st := { s.st with staged := unitTake src u 32 s.st.staged, nextUnit := u + 1 } }
      if s.st.roMode then programUnit u (List.replicate 32 .failed) s1 else s1)

/-- An earlier program unit in flight holds one of a unit's sectors: the order in which sectors of an LBA were staged is
the order in which their programs take effect (R116, R299). -/
def unitBehind (s : State) (u : Nat) : Bool :=
  let ringSrc := fun (g : Staged) => match g.src with | .ring _ => true | _ => false
  s.st.staged.any (fun g => g.inUnit == some u && ringSrc g && s.st.staged.any (fun h =>
    ringSrc h && h.lba == g.lba && (match h.inUnit with | some v => decide (v < u) | none => false)))

/-- SECTOR_PROGRAMMED: a program unit in flight finishes, each sector with its own result. While a forced halt holds
JOURNAL, no programming point is reached (Table 21-5). Programs in flight complete during hold-up too (Table 2-11). -/
def execSectorProgrammed (u : Nat) (res : List ProgRes) (s : State) : Host.Outcome State Fault Refusal :=
  .next (if s.heldRes 4 = false ∧ unitBehind s u = false ∧ s.st.staged.any (fun g => g.inUnit == some u)
    then programUnit u res s else s)

/-! ### SANITISE and FORMAT (15.5) -/

/-- Sectors of one 64 MiB progress unit (Table 15-1). -/
def unitSectors : Nat := 16384

/-- The whole Vault in progress units (Table 15-1). -/
def wholeUnits : Nat := 1048576

/-- SANITISE's own refusals after the checks at the head (R310, R312, R308). -/
def sanitiseGate (s : State) (r : Ring) (c : Cmd) : Option Outc :=
  if s.ringTenant r ≠ 0 then some { status := stREFUSED, d0 := 0x50 }
  else if s.st.op.st = 1 then some { status := stREFUSED, d0 := 0x52 }
  else if s.st.roMode ∧ c.f 0x10 1 = 1 then some { status := stREFUSED, d0 := 0x54 }
  else none

/-- Every staged sector and every image is discarded without deferred records (R310); commands that
waited on them are refused. -/
def discardAll (s : State) : State :=
  let s1 := s.st.images.foldl (fun s i => refusePending i.tenant i.img s) s
  let s2 := { s1 with st := { s1.st with staged := [], images := [], frozen := [], copies := [] } }
  (List.finRange 16).foldl (fun s r =>
    (s.rings[r].past.filter (fun c => c.op == 1 && c.effect)).foldl
      (fun s c => complete r c stREFUSED 0x51 0 s) s) s2

/-- SANITISE: it leaves the head once its checks pass and runs past it (R312); a foreground one holds
RB_N busy. -/
def sanitiseAct (r : Ring) (c : Cmd) (s : State) : State :=
  match sanitiseGate s r c with
  | some o => pushEntry r c o s
  | none =>
    let op : VltOp := { st := 1, kind := 1, action := c.f 0x10 1 == 1, bg := c.f 0x11 1 == 1
                        total := wholeUnits, owner := some (r, c.cid) }
    let s1 := discardAll (effectOf r c.cid s)
    let s2 := leaveHead r c.cid { s1 with st := { s1.st with op := op } }
    settleFlushes (if op.bg then s2 else busyOn 3 s2)

def execSanitise (r : Ring) (s : State) : Host.Outcome State Fault Refusal := .next (headStep r 0x41 (sanitiseAct r) s)

/-- The rings whose earlier writes a FORMAT waits for. -/
def formatRings (s : State) (r : Ring) (whole : Bool) : List Ring :=
  (List.finRange 16).filter (fun q => whole || s.ringTenant q == s.ringTenant r)

/-- Writes latched before a FORMAT in its scope (R311). -/
def earlierWrites (s : State) (r : Ring) (whole : Bool) (cid : Nat) : List Nat :=
  (formatRings s r whole).flatMap (fun q =>
    ((s.rings[q].queue ++ s.rings[q].past).filter (fun d => d.op == 1 && decide (d.cid < cid))).map (·.cid)
    ++ (s.st.staged.filter (fun g => g.src == .ring q)).map (·.cid))

/-- FORMAT (R311): refused while an operation runs or the Vault is read-only; a tenant without an extent
has nothing to format and completes OK; else it leaves the head and runs past it. -/
def formatAct (r : Ring) (c : Cmd) (s : State) : State :=
  let t := s.ringTenant r
  let whole := c.f 0x10 1 == 1
  if s.st.op.st = 1 then complete r c stREFUSED 0x52 0 s
  else if s.st.roMode then complete r c stREFUSED 0x54 0 s
  else if !whole ∧ (s.extent t).2 = 0 then complete r c stOK 0 0 s
  else
    let op : VltOp := { st := 1, kind := 2, scope := whole, tenant := t, owner := some (r, c.cid)
                        total := if whole then wholeUnits else (s.extent t).2 / unitSectors
                        waitFor := earlierWrites s r whole c.cid }
    leaveHead r c.cid (effectOf r c.cid { s with st := { s.st with op := op } })

def execFormat (r : Ring) (s : State) : Host.Outcome State Fault Refusal := .next (headStep r 0x42 (formatAct r) s)

/-- The writes a FORMAT waits for are all programmed or have failed (R311). -/
def formatMay (s : State) : Bool :=
  s.st.op.waitFor.all (fun cid => nothingStaged s cid &&
    (match s.ringOf cid with | some q => !((s.rings[q].find cid).map (fun c => c.op == 1)).getD false | none => true))

/-- The images of a FORMAT's scope are released, OPEN ones abandoned (R311). -/
def formatImages (s : State) : State :=
  let whole := s.st.op.scope
  let t := s.st.op.tenant
  (s.st.images.filter (fun i => whole || i.tenant == t)).foldl (fun s i =>
    if i.sealed_ then releaseImage i.tenant i.img s else abandonImage i.tenant i.img s) s

/-- The stall timer of the issuing ring is served at each progress record (R312, R378). -/
def serveStall (r : Ring) (s : State) : State :=
  s.onRing r (fun x => if x.busy then { x with stallFrom := some s.now, stallWin := x.stallMs } else x)

/-- SANITISE erases the blocks themselves, so nothing of the unit is left for a rebuild to return to. -/
def eraseBase (kind : BitVec 2) (lba : Nat) (s : State) : State :=
  if kind = 1 then { s with st := { s.st with
    baseVault := s.st.baseVault.filter (fun p => p.1 < lba || lba + unitSectors ≤ p.1)
    baseUnread := s.st.baseUnread.filter (fun l => l < lba || lba + unitSectors ≤ l) } }
  else s

/-- VAULT_OP_UNIT_DONE: one 64 MiB unit is done and recorded (R313); its LBAs read as zero; blocks that
failed to erase are retired (R314). -/
def execVaultOpUnitDone (retired : Nat) (s : State) : Host.Outcome State Fault Refusal :=
  let op := s.st.op
  .next (if s.pw.rdy = false ∨ s.pw.phase ≠ .ready ∨ op.st ≠ 1 ∨ op.total ≤ op.done
      ∨ (op.kind = 2 ∧ formatMay s = false)
      ∨ (op.kind = 1 ∧ op.bg ∧ s.adm[(5 : Res)].breach) then s
    else
      let s0 := if op.kind = 2 ∧ op.unmapped = false then formatImages s else s
      let base := if op.kind = 2 ∧ op.scope = false then (s.extent op.tenant).1 else 0
      let lba := base + op.done * unitSectors
      let s1 := journalAdd 1 (eraseBase op.kind lba (retire retired (unmapLbas lba unitSectors s0)))
      let s2 := { s1 with st := { s1.st with
        op := { op with done := op.done + 1, unmapped := true, bad := op.bad + retired
                        badLba := if op.bad = 0 ∧ retired ≠ 0 then lba else op.badLba }
        erase := if op.kind = 2 then s1.st.erase + 4 else s1.st.erase } }
      match op.owner with
      | some (r, _) => serveStall r s2
      | none => s2)

/-- VAULT_OP_DONE: at the end of the last unit the operation's outcome stands in VLT_OP; a command that
still owns it writes its FINAL entry, else VAULT_OP_DONE is raised (R314). -/
def execVaultOpDone (s : State) : Host.Outcome State Fault Refusal :=
  let op := s.st.op
  .next (if s.pw.rdy = false ∨ op.st ≠ 1 ∨ op.done < op.total then s
    else
      let st : BitVec 2 := if op.bad = 0 then 2 else 3
      let s1 := { s with st := { s.st with op := { op with st := st, owner := none } } }
      let s2 := if op.kind = 1 ∧ op.bg = false then busyOff 3 s1 else s1
      match op.owner with
      | some (r, cid) => match s.rings[r].find cid with
        | some c => if op.bad = 0 then complete r c stOK op.done 0 s2 else complete r c stMEDIUM op.badLba op.bad s2
        | none => s2
      | none => raiseEvent 0x0704 0xFF (BitVec.ofNat 32 st.toNat) (BitVec.ofNat 32 op.done) s2)

/-- BACKGROUND_ERASE: blocks a FORMAT freed are erased as BACKGROUND traffic, which a breach of VLT_PG
closes (R311, R347); no register and no LBA changes. -/
def execBackgroundErase (blocks : Nat) (s : State) : Host.Outcome State Fault Refusal :=
  .next (if s.pw.rdy = false ∨ s.adm[(5 : Res)].breach then s
    else { s with st := { s.st with erase := s.st.erase - blocks } })

/-- PATROL_SCRUB (R297): a corrected beat is counted, an uncorrectable one is marked poisoned in place and
STG_UE_SCRUB names it. A beat of a pool block is named by its physical address only. -/
def execPatrolScrub (a : ScrubAt) (res : ScrubRes) (s : State) : Host.Outcome State Fault Refusal :=
  .next (if s.pw.rdy = false then s
    else
      let (n, pool) : Nat × Nat := match a with | .offset b => (b, 0) | .pool b => (b, 1)
      match res with
      | .clean => { s with st := { s.st with scrubAt := n } }
      | .corrected => { s with st := { s.st with ce := satAdd s.st.ce 1, scrubAt := n } }
      | .uncorrectable =>
        raiseEvent 0x0701 0xFF (BitVec.ofNat 32 n) (BitVec.ofNat 32 pool)
          (let s1 := { s with st := { s.st with scrubAt := n } }
           if pool = 0 then markBad true n s1 else s1))

/-- VAULT_READ_DONE (R305): a NAND read needed a threshold offset, or stayed uncorrectable: the sector is
unreadable until it is rewritten. -/
def execVaultReadDone (lba : Nat) (res : ReadRes) (s : State) : Host.Outcome State Fault Refusal :=
  .next (if s.pw.rdy = false then s
    else match res with
      | .clean => s
      | .retried => { s with st := { s.st with readRetry := satAdd s.st.readRetry 1 } }
      | .unreadable => { s with st := { s.st with
          unreadable := satAdd s.st.unreadable 1, unread := nIns lba s.st.unread } })

end Sys2Proof.Machine
end

