-- ==== Sys2Proof/Machine/PowerOps.lean ====
section
/-! DEFINITION. Shared operations of power and clocks (02): the effective cap, the limits on CLK_ARRAY, quiescence,
the zeroisation the Keep does (18.4), and the start of the hold-up sequence. -/

namespace Sys2Proof.Machine

/-! ### Limits (2.4, R27, R40) -/

/-- Table 2-2 in watts. -/
def auxCap : AuxInd → Nat
  | .w150 => 216
  | _ => 240

/-- CAP_EFF: the lowest of CAP_W, the management cap, the Table 2-2 limit and 100 W under PWRBRK_N (2.4). -/
def State.capEff (s : State) : Nat :=
  min (min s.pw.capW.toNat s.pw.mgmtCap.toNat) (min (auxCap s.pw.aux) (if s.pw.brake then 100 else 240))

/-- The slowest of STEP_CEIL, the step that meets CAP_EFF and the AVS limit, before the thermal limit. -/
def Power.baseLimit (p : Power) : Nat := max p.stepCeil.toNat (max p.capStep.toNat p.avsStep.toNat)

/-- The CLK_ARRAY step the limits of R40 ask for, 0 fastest (Table 2-7 for the thermal limit). -/
def Power.limit (p : Power) : Nat :=
  if p.therm105 then 2 else if p.therm95 then min 2 (p.baseLimit + 1) else min 2 p.baseLimit

/-- A crag scan is in progress (R38). -/
def State.scanning (s : State) : Bool := s.ma.crags.toList.any (·.scanBusy)

/-- The step the limits ask for is requested; CLK_STEP_CHANGE makes it (R38, R40). -/
def askStep (s : State) : State :=
  let w := BitVec.ofNat 2 s.pw.limit
  { s with pw := { s.pw with stepWant := if w = s.pw.step then none else some w } }

/-! ### Quiescence (R28) -/

/-- A ring holds or executes a command. -/
def RingSt.holds (x : RingSt) : Bool := x.busy || !x.dying.isEmpty

/-- No transfer of the Pair Protocol is open. -/
def State.pairQuiet (s : State) : Bool := s.pair.peers.toList.all (fun p => p.xfers.isEmpty)

/-- A sealed image still waits for its DURABLE stage. -/
def sealPending (i : Image) : Bool := i.sealed_ && i.inStage && !i.durable && i.failed.isEmpty && !i.copyOnly

/-- The engine is quiescent but for rings and OPEN images: the parts of R28 a load shares; a queued Rowan transfer
counts too (11.1.1). -/
def State.quietRest (s : State) : Bool :=
  s.st.staged.isEmpty && s.pairQuiet && s.ma.waits.isEmpty && !s.st.images.any sealPending
    && s.ma.xferWait.isEmpty && s.ma.rowan.toList.all (fun x => x.queue.isEmpty)

/-- A context of a lane holds an unfinished message (12.1.1). -/
def LaneSt.digesting (x : LaneSt) : Bool := x.ctx.toList.any (·.msg.isSome) || !x.tapBuf.isEmpty

/-- The engine is quiescent (R28). -/
def State.quiescent (s : State) : Bool :=
  s.quietRest && s.ma.lanes.toList.all (fun x => !x.digesting) && s.rings.toList.all (fun x => !x.holds) && !s.st.images.any (fun i => !i.sealed_ && !i.copyOnly)

/-- Some crag has work: a command that uses crag programs is started, or a wheel still carries a stream (R28). -/
def State.cragWork (s : State) : Bool :=
  s.rings.toList.any (fun x => (x.queue ++ x.past).any (fun c => c.started && [0x11, 0x13, 0x14].contains c.op))
    || s.ma.wheels.toList.any (fun w => w.en && (w.asked != w.taken || !w.held.isEmpty || !w.marks.isEmpty))
    || s.ma.crags.toList.any (fun x => x.used && !x.empty)

/-! ### Zeroisation (R358) -/

/-- A crag's registers, queues, store and accumulators are zeroed. -/
def zeroCrag (n : Crag) (s : State) : State :=
  s.onCrag n (fun x => { x with body := [], undefinedSince := none, written := [] })

/-- A lane's contexts, result slots, chaining values and expected value are zeroed. -/
def zeroLane (l : Lane) (s : State) : State :=
  s.onLane l (fun x => { x with expect := 0, ctx := Vector.replicate 16 {} })

/-- A key slot is zeroed: EMPTY. What the loaded bit-stream says of it stays. -/
def zeroKey (k : KSlot) (s : State) : State :=
  s.onKey k (fun x => { x with loaded := false, alg := .sha256, owner := 0, label := 0, inner := [], outer := [] })

/-- Every claimed crag and lane is zeroed (Table 18-5). -/
def zeroClaims (s : State) : State :=
  let s1 := ((List.finRange 32).filter (fun n => s.ma.crags[n].keep)).foldl (fun s n => zeroCrag n s) s
  ((List.finRange 16).filter (fun l => s.ma.lanes[l].keep)).foldl (fun s l => zeroLane l s) s1

/-- Every key slot is zeroed. -/
def zeroKeys (s : State) : State := (List.finRange 32).foldl (fun s k => zeroKey k s) s

/-- The unit number of a Keep unit (R385). -/
def keepNum : KeepUnit → Nat
  | .crag n => n.val | .lane l => 36 + l.val | .slot k => 0xD0 + k.val

/-- A read-back that failed twice fences the unit until the next power-on and raises KEEP_ZERO_FAIL (R359). -/
def zeroFail (u : KeepUnit) (s : State) : State :=
  let s1 := { s with wd := { s.wd with powerFenced := nIns (keepNum u) s.wd.powerFenced } }
  let s2 := match u with
    | .crag n => s1.onCrag n (fun x => { x with fenced := true })
    | .lane l => s1.onLane l (fun x => { x with fenced := true })
    | .slot _ => s1
  refreshView (raiseEvent 0x0A02 (BitVec.ofNat 8 (keepNum u)) 0 0
    (raiseEvent 0x0601 (BitVec.ofNat 8 (keepNum u)) 0 3 s2))

/-! ### Records and programs that finish before a reset (R49, R54) -/

/-- A settings record is written into the next of the twelve slots, with the next sequence number (R52);
RET_STATUS.COMMITS counts it and RET_WORN warns at 1,000,000 (3.3). -/
def writeRecord (x : Record) (s : State) : State :=
  let n := satAdd s.boot.commits 1
  let seq := match s.boot.stored with | p :: _ => p.1 + 1 | [] => 0
  let s1 := { s with boot := { s.boot with
    record := x, stored := ((seq, x) :: s.boot.stored).take 12, commits := n, lastRecord := some s.now } }
  if n.toNat = 1000000 then raiseEvent 0x0204 0xFF (BitVec.ofNat 32 n.toNat) 0 s1 else s1

/-- The live settings are committed (R53). -/
def commitRecord (s : State) : State := writeRecord s.liveRecord s

/-- NAND programs in flight complete, each unit as a success: the row brings no other result (R36, R49). -/
def finishPrograms (s : State) : State :=
  (s.st.staged.filterMap (·.inUnit)).foldl (fun s u =>
    if s.st.staged.any (fun g => g.inUnit == some u) then programUnit u [] s else s) s

/-! ### Hold-up (R36) -/

/-- Main power failure, a surprise removal, 115 °C or loss of the reference is detected: ring intake stops, RB_N is
driven busy, and nothing but the sequence of Table 2-11 runs: no access is answered any more. The first cause of a reset stands (R51). -/
def beginHoldUp (cause : BitVec 4) (s : State) : State :=
  if s.pw.phase = .holdUp ∨ s.pw.phase = .off ∨ s.pw.phase = .vaux then s
  else busyOn 1 { s with
    pw := { s.pw with phase := .holdUp, rdy := false }
    boot := { s.boot with nextCause := some (s.boot.nextCause.getD (cause, 0)), rechoose := true } }

end Sys2Proof.Machine
end

