-- ==== Sys2Proof/Machine/BootOps.lean ====
section
/-! DEFINITION. Shared operations of resets and bring-up (03): what each reset of Table 3-3 keeps, and the steps of
Table 3-2 that a reset release runs before RDY. -/

namespace Sys2Proof.Machine

/-! ### Firmware slots (3.4) -/

/-- A firmware slot rewritten; `b` names slot B. -/
def modSlot (b : Bool) (f : FwSlot → FwSlot) (x : Boot) : Boot :=
  if b then { x with slotB := f x.slotB } else { x with slotA := f x.slotA }

def Boot.slot (x : Boot) (b : Bool) : FwSlot := if b then x.slotB else x.slotA

/-- The slot an update writes: the one that is not ACTIVE (R59, R364). Where neither is ACTIVE the spec names none, and
the model writes slot A, even where A is the VALID slot that runs (DESIGN CHOICE, LOG 88). -/
def Boot.updateB (x : Boot) : Bool := x.slotA.st == 2

/-- A reset that re-chooses the slot ends an unconfirmed trial: the slot becomes FAILED (R58). -/
def failTrial (x : Boot) : Boot :=
  if x.trial then { modSlot x.bootB (fun y => { y with st := 5 }) x with trial := false } else x

/-- A reset during an update leaves the slot being written INCOMPLETE (R59). -/
def dropUpdate (x : Boot) : Boot :=
  match x.update with
  | .receiving => { modSlot x.updateB (fun y => { y with st := 4 }) x with update := .idle, updImage := [] }
  | _ => { x with update := .idle, updImage := [] }

/-- A PENDING slot below the SVN floor is marked FAILED by the first bring-up that considers it (3.4.1). -/
def failLowSvn (b : Bool) (x : Boot) : Boot :=
  if (x.slot b).st = 3 ∧ (x.slot b).svn.toNat < x.svnFloor.toNat then modSlot b (fun y => { y with st := 5 }) x else x

/-- R57: a PENDING slot as a trial, the ACTIVE slot, a VALID slot with FALLBACK; only slots that verify. -/
def chooseSlot (okA okB : Bool) (x : Boot) : Option (Bool × Bool × Bool) :=
  let ok := fun b => if b then okB else okA
  let pick := fun (st : BitVec 3) => [false, true].find? (fun b => (x.slot b).st == st && ok b)
  match pick 3 with
  | some b => some (b, true, false)
  | none => match pick 2 with
    | some b => some (b, false, false)
    | none => (pick 1).map (fun b => (b, false, true))

/-- The Keep's choice at a bring-up; none is recovery mode (R57). A reset that keeps the choice keeps the trial too. -/
def bootSlot (okA okB : Bool) (x : Boot) : Option Boot :=
  if x.rechoose = false ∧ x.cause ≠ 0 ∧ (if x.bootB then okB else okA) then some x
  else
    let y := failLowSvn true (failLowSvn false x)
    (chooseSlot okA okB y).map (fun c => { y with
      fails := if c.1 = y.bootB then y.fails else 0
      bootB := c.1, trial := c.2.1, fallback := c.2.2 })

/-! ### What a reset keeps (Table 3-3, R414) -/

/-- Acknowledged BUFFERED sectors not programmed, with their rings (Table 15-4). -/
def lostNow (s : State) : List (Ring × Staged) :=
  s.st.staged.filterMap (fun g => match g.src with
    | .ring r => if g.acked || g.stands.any (fun i => (s.ringOf i).isNone) then some (r, g) else none
    | _ => none)

/-- A ring after a reset: its reset values, its unconsumed DEFER_LOG records from index 0, and its RSEQ (R135,
R137). -/
def keptRing (x : RingSt) : RingSt :=
  let n := (x.dTail - x.dHead).toNat
  { log := Vector.ofFn (fun i : Fin 64 => if i.val < n then x.log[ix 63 ((x.dHead.toNat + i.val) % 64)] else {})
    dTail := BitVec.ofNat 7 n, rseq := x.rseq, deferOwed := x.deferOwed }

/-- Images that survive: the DURABLE ones, without their staging copies (R258). -/
def keptImages (is : List Image) : List Image :=
  (is.filter (fun i => i.durable && !i.copyOnly)).map (fun i => { i with
    inStage := false, secs := [], blocks := 0, area := 0, ranges := [] })

/-- Staging memory and the Vault after a reset (Table 15-4). -/
def keptStore (s : State) : Store :=
  let x := s.st
  { chFailed := x.chFailed, nextUnit := x.nextUnit, vault := x.vault, unread := x.unread, journal := x.journal
    baseVault := x.baseVault, baseUnread := x.baseUnread, baseImages := x.baseImages, tailSecs := x.tailSecs
    spare := x.spare, retired := x.retired, roMode := x.roMode, spareLow := x.spareLow
    op := { x.op with owner := none, waitFor := [] }, erase := x.erase
    images := keptImages x.images, nextSeal := x.nextSeal, copies := x.copies.filter (·.drained)
    lostSectors := x.lostSectors ++ lostNow s }

/-- Key slots after a reset: their contents, but no bit-stream's claims. -/
def keptKeys (s : State) : Vector KeySt 32 := mapBank (fun _ k => { k with keep := false, given := none, off := false }) s.ma.keys

/-- Power and pins after a reset: what the board drives, the temperature, and busy. -/
def keptPower (ph : Phase) (p : Power) : Power :=
  { phase := ph, rdy := false, busy := true, causes := (if ph = .thermalHold then 32 else 2), lastCause := 1
    busySince := p.busySince, pulsed := false, perstEdge := p.perstEdge, perstN := p.perstN, frstLow := p.frstLow
    maddr := p.maddr, mainOn := p.mainOn, vauxOn := p.vauxOn, aux := p.aux, wakeN := p.wakeN, smbAlert := p.smbAlert
    thermN := p.thermN, brake := p.brake, arrayV := p.arrayV, memStep := if p.brake then 2 else 0, hotspot := p.hotspot
    therm95 := p.therm95, therm105 := p.therm105, therm115 := p.therm115, derated := p.derated
    clkFailed := p.clkFailed }

/-- A unit whose zeroisation could not be verified stays fenced until the next power-on (R359). -/
def fencePower (s : State) : State :=
  s.wd.powerFenced.foldl (fun s u =>
    if u < 32 then s.onCrag (ix 31 u) (fun x => { x with fenced := true })
    else if 36 ≤ u ∧ u < 52 then s.onLane (ix 15 (u - 36)) (fun x => { x with fenced := true }) else s) s

/-- Every field at its reset value, but for what Table 3-3 keeps and what is not reset: the queue of commands, the
bus, the clock, the board's pins, the link's negotiated rate, the management endpoint and the TAP (R48, R414). -/
def freshState (ph : Phase) (keys : Bool) (s : State) : State :=
  fencePower
  { pending := s.pending, bus := s.bus, now := s.now, freeIx := s.freeIx, nextCid := s.nextCid
    pw := keptPower ph s.pw
    boot := { dropUpdate s.boot with
      up := false, retRej := false, factoryDone := false, recovery := false }
    cfg := { lastLoadId := s.cfg.lastLoadId }
    rings := mapBank (fun _ x => keptRing x) s.rings
    ma := { keys := if keys then keptKeys s else Vector.replicate 32 {} }
    link := { rate := s.link.rate, width := s.link.width, flit := s.link.flit, tagw := s.link.tagw }
    st := keptStore s
    wd := { powerFenced := s.wd.powerFenced, since := s.now }
    dbg := { ir := s.dbg.ir, boundary := s.dbg.boundary, op := s.dbg.op, status := s.dbg.status
             addr := s.dbg.addr, data := s.dbg.data, nonce := s.dbg.nonce, token := s.dbg.token }
    mg := { s.mg with view := Vector.replicate 78 0, sent := [] } }

/-- The DEFER_LOG CAUSE of sectors lost now; an earlier loss not yet reported keeps its own. -/
def noteLoss (cause : Nat) (s : State) : State :=
  if s.st.lostSectors = [] then { s with boot := { s.boot with lossCause := BitVec.ofNat 8 cause } } else s

/-- The first cause of the coming bring-up stands (R51); a reset that re-chooses the slot ends a trial (R58). -/
def noteCause (cause : BitVec 4) (arg : Word) (rechoose : Bool) (s : State) : State :=
  let b := if rechoose then failTrial s.boot else s.boot
  { s with boot := { b with nextCause := some (b.nextCause.getD (cause, arg)), rechoose := b.rechoose || rechoose } }

/-- A reset of Table 3-3 that runs the steps of R49: programs in flight complete, the journal tail and a pending
record are committed, claimed units are zeroised, and the data path is reset. -/
def tableReset (ph : Phase) (cause : BitVec 4) (arg : Word) (rechoose keys : Bool) (loss : Nat) (s : State) : State :=
  let s1 := commitTail (finishPrograms s)
  let s2 := zeroClaims (if s1.retPending && s1.pw.rdy then commitRecord s1 else s1)
  let s3 := noteLoss loss (noteCause cause arg rechoose (busyOn 1 s2))
  freshState ph keys (if keys then s3 else zeroKeys s3)

/-! ### Bring-up (Table 3-2) -/

/-- The record's values become live (R52, R53, R349). -/
def applyRecord (x : Record) (s : State) : State :=
  { s with
    rings := Vector.ofFn (fun r : Fin 16 => { s.rings[r] with
      durable := x.rings[r].durable, resetOnly := x.rings[r].resetOnly, tagCap := x.rings[r].tagCap
      stallMs := x.rings[r].stallMs, stallWin := x.rings[r].stallMs })
    wd := { s.wd with windowS := x.windowS }
    tenants := x.tenants
    cairns := Vector.ofFn (fun c : Fin 128 => { s.cairns[c] with owner := x.cairnOwner[c] })
    pw := { s.pw with capW := x.capW, mgmtCap := x.mgmtCap }
    pair := { s.pair with peers := Vector.ofFn (fun e : Fin 4 => { s.pair.peers[e] with cfg := x.peers[e] }) }
    boot := { s.boot with lastDigest := x.digest, record := x } }

/-- The valid record with the highest sequence number: record `n` stands in slot `n` mod 12 (R52). -/
def validRecord (bad : BitVec 12) (l : List (Nat × Record)) : Option Record :=
  (l.find? (fun p => !bit bad (p.1 % 12))).map (·.2)

/-- The settings at a bring-up: FRST_N, a factory-reset command, no valid record, or the record (R52, R55). -/
def applySettings (b : BootIn) (s : State) : State :=
  let set := fun (src : BitVec 2) (done : Bool) (s : State) =>
    { s with boot := { s.boot with retSrc := src, factoryDone := done, factoryCmd := false } }
  if b.frstLow then set 1 true (commitRecord (applyRecord {} s))
  else match validRecord b.badRecords s.boot.stored with
    | none => raiseEvent 0x0203 0xFF 0 0 (set 3 true (applyRecord {} s))
    | some x => set (if s.boot.factoryCmd then 2 else 0) s.boot.factoryCmd (applyRecord x s)

/-- A lost journal tail: the Vault is rebuilt from the last committed entry (R309). -/
def rebuildVault (lost : Bool) (s : State) : State :=
  if lost then
    { s with
      st := { s.st with vault := s.st.baseVault, unread := s.st.baseUnread, images := keptImages s.st.baseImages }
      boot := { s.boot with journalRebuild := true }
      rings := mapBank (fun _ x => { x with deferOwed := true }) s.rings }
  else { s with boot := { s.boot with journalRebuild := false }, st := { s.st with tailSecs := [] } }

/-- Records of the data the reset lost, ring by ring, one per run of one command (R47, R137, R309). -/
def reportLoss (s : State) : State :=
  let s1 := (List.finRange 16).foldl (fun s r =>
    let mine := fun (l : List (Ring × Staged)) => (l.filter (fun p => p.1 == r)).map (·.2)
    deferSectors r 2 (mine s.st.tailSecs) (deferSectors r s.boot.lossCause.toNat (mine s.st.lostSectors) s)) s
  commitTail { s1 with st := { s1.st with lostSectors := [], tailSecs := [] }
                       boot := { s1.boot with lossCause := 0, journalLost := false } }

/-- DDR5 training: channels that fail, and those a fault dropped from this bring-up, are lost (3.1.1, R296). -/
def trainChannels (fail : Byte) (s : State) : State :=
  let lost := fail ||| s.st.chFailed
  let s1 := { s with st := { s.st with chInUse := ~~~ lost, chFailed := 0 }, boot := { s.boot with chLost := lost } }
  (List.range 8).foldl (fun s n => if bit lost n then raiseEvent 0x0202 0xFF (BitVec.ofNat 32 n) 0 s else s) s1

/-- The hold-up bank is charged and measured; it must cover 40 ms at 35 W, that is 1,400 mJ (R37). -/
def checkBank (mJ : Nat) (s : State) : State :=
  if 1400 ≤ mJ then { s with pw := { s.pw with holdupOk := true } }
  else raiseEvent 0x0102 0xFF (BitVec.ofNat 32 mJ) 0 { s with pw := { s.pw with holdupOk := false } }

/-- A foreground operation of the Vault goes on after RDY and holds RB_N busy (3.1.1, R313). -/
def resumeOp (s : State) : State :=
  if s.st.op.st = 1 then
    let s1 := { s with st := { s.st with op := { s.st.op with resumed := true } } }
    if s.st.op.kind = 1 ∧ s.st.op.bg = false then busyOn 3 s1 else s1
  else s

/-- Recovery mode (R57): RDY stays 0 and RB_N busy with cause 4. -/
def enterRecovery (s : State) : State :=
  { s with boot := { s.boot with recovery := true }
           pw := { s.pw with phase := .recovery, causes := 16 } }

/-- The system watchdog starts its bring-up window at t0; challenge and salt are drawn (R369 to R371). -/
def startWatchdog (s : State) : State :=
  let (c, s1) := draw s
  let (x, s2) := draw s1
  { s2 with wd := { s2.wd with challenge := c, salt := x, seq := 0, since := s2.now, window := 60000, bringUp := true
                               badTok := false, warn := false, eHead := 0, eTail := 0, eOvf := 0, eSupp := 0
                               recent := [] } }

/-- The steps of Table 3-2 from t0 to just before RDY. Where no slot verifies (recovery mode), BOOT_SLOT, TRIAL and
FALLBACK keep the values of the bring-up before (DESIGN CHOICE, LOG 89). -/
def bringUp (b : BootIn) (s : State) : State :=
  let (cause, arg) := s.boot.nextCause.getD (0, 0)
  let chosen := bootSlot b.slotAOk b.slotBOk { s.boot with cause := cause }
  let s1 := startWatchdog { s with
    pw := { s.pw with phase := .bringUp, causes := 2, frstLow := b.frstLow, perstEdge := false, perstN := false
                      clkFailed := false }
    boot := { (chosen.getD s.boot) with
      cause := cause, nextCause := none, rechoose := false, up := true, epoch := s.boot.epoch + 1
      powerLoss := s.boot.holdUpRan, holdUpRan := false, clkFailSeen := false } }
  let s2 := raiseEvent 0x0201 0xFF (BitVec.ofNat 32 cause.toNat) arg s1
  let s3 := if s.boot.clkFailSeen then raiseEvent 0x0103 0xFF 0 0 s2 else s2
  let s4 := checkBank b.bankmJ (trainChannels b.chFail s3)
  let s5 := applySettings b (reportLoss (rebuildVault (s.boot.journalLost || b.journalLost) s4))
  let s6 := askStep (refreshView (recap (reportLink s5)))
  if chosen.isNone ∨ s4.st.chInUse = 0 then enterRecovery s6 else s6

end Sys2Proof.Machine
end

