-- ==== Sys2Proof/Machine/BootCmds.lean ====
section
/-! DEFINITION. Power, reset and bring-up commands (02, 03): AUX_POWER_UP, RESET_RELEASE, RDY, PERST_ASSERT,
HOT_RESET, FLR, MAIN_POWER_FAIL, MAIN_POWER_RETURN, SURPRISE_REMOVAL, HOLD_UP_SEQUENCE, PME_TURN_OFF,
TRIAL_CONFIRM, FACTORY_RESET_COMMAND, RETAINED_COMMIT. -/

namespace Sys2Proof.Machine

/-- The engine runs from its data path's point of view: a reset of Table 3-3 has something to reset. -/
def State.live (s : State) : Bool :=
  match s.pw.phase with
  | .bringUp | .ready | .recovery => true
  | _ => false

/-- AUX_POWER_UP: RB_N is driven busy, MADDR is sampled, and the endpoint starts as an SMBus target with endpoint ID 0
(R43, R361). A running engine has 3.3 Vaux already. -/
def execAuxPowerUp (maddr : BitVec 3) (s : State) : Host.Outcome State Fault Refusal :=
  .next (if s.live ∨ s.pw.phase = .holdUp then s
    else emit (.rbBusy true) { s with
      pw := { s.pw with phase := .vaux, vauxOn := true, maddr := maddr, busy := true, busySince := s.now, causes := 2
                        pulsed := false }
      boot := { s.boot with nextCause := some (0, 0), rechoose := true }
      wd := { s.wd with powerFenced := [] }
      mg := { waiting := s.mg.waiting } })

/-- RESET_RELEASE (R43): both supplies are on and both reset pins are released. Without 12 V on the auxiliary connector
the data path does not come up, and RB_N stays busy (2.1.1); else the steps of Table 3-2 run to just before RDY. -/
def execResetRelease (b : BootIn) (s : State) : Host.Outcome State Fault Refusal :=
  let may := s.pw.mainOn && s.pw.vauxOn && match s.pw.phase with
    | .inReset | .waitRelease | .deep | .vaux => true
    | .bringUp => !s.boot.up
    | _ => false
  .next (if may = false then s
    else if s.pw.aux = .absent then
      { s with pw := { s.pw with phase := .inReset, causes := 64, perstEdge := false, perstN := false } }
    else bringUp b s)

/-- RDY (R44): DEV_STATUS.RDY is set, the retained watchdog window starts, bring-up ends as a cause of busy once
HOLDUP_OK is 1 (R37); a foreground Vault operation that resumes keeps RB_N busy. -/
def execRdy (s : State) : Host.Outcome State Fault Refusal :=
  .next (if s.pw.phase ≠ .bringUp ∨ s.boot.up = false ∨ s.pw.aux = .absent then s
    else
      let s1 := resumeOp { s with
        pw := { s.pw with phase := .ready, rdy := true }
        boot := { s.boot with fails := 0 }
        wd := { s.wd with since := s.now, window := 1000 * s.wd.windowS.toNat, bringUp := false, warn := false
                          rdyAt := s.now, confirmFrom := if s.boot.trial then some s.now else none } }
      if s.pw.holdupOk then busyOff 1 s1 else s1)

/-- The asserted reset pin. -/
def assertPin (p : PerstPin) (s : State) : State :=
  match p with
  | .edge => { s with pw := { s.pw with perstEdge := true } }
  | .sideband => { s with pw := { s.pw with perstN := true } }

/-- PERST_ASSERT: a reset with main power kept; the slot is re-chosen (Table 3-3, R49). -/
def execPerstAssert (p : PerstPin) (s : State) : Host.Outcome State Fault Refusal :=
  .next (assertPin p (if s.live then tableReset .inReset 1 0 true true 3 s else s))

/-- HOT_RESET: a hot reset or link disable; the slot choice is kept, and bring-up follows (Table 3-3). -/
def execHotReset (s : State) : Host.Outcome State Fault Refusal :=
  .next (if s.live then tableReset .bringUp 2 0 false true 3 s else s)

/-- FLR: as a hot reset, with its own cause (Table 3-3). -/
def execFlr (s : State) : Host.Outcome State Fault Refusal :=
  .next (if s.live then tableReset .bringUp 3 0 false true 3 s else s)

/-- MAIN_POWER_FAIL: 12 V main is gone; an engine that is not powered down runs the hold-up sequence (R36). -/
def execMainPowerFail (s : State) : Host.Outcome State Fault Refusal :=
  let s1 := { s with pw := { s.pw with mainOn := false } }
  .next (match s.pw.phase with
    | .off | .vaux | .deep => s1
    | .holdUp => s1
    | _ => beginHoldUp 0 { s1 with boot := { s1.boot with mainLost := true } })

/-- MAIN_POWER_RETURN: a running sequence still completes; then the engine waits for a reset release (2.5.1). -/
def execMainPowerReturn (s : State) : Host.Outcome State Fault Refusal :=
  .next { s with pw := { s.pw with mainOn := true, phase := if s.pw.phase = .off then .waitRelease else s.pw.phase } }

/-- SURPRISE_REMOVAL: a link-down nobody asked for starts the hold-up sequence (R61). -/
def execSurpriseRemoval (s : State) : Host.Outcome State Fault Refusal :=
  .next (if s.live then beginHoldUp 0 (emit .linkDown s) else s)

/-- Where the sequence of Table 2-11 leaves the engine: powered down, held until it has cooled, or waiting for a reset
release on main power (Table 2-7, R61). -/
def afterHoldUp (s : State) : Phase :=
  if s.pw.mainOn = false then .off else if s.pw.therm115 then .thermalHold else .waitRelease

/-- HOLD_UP_SEQUENCE (R36, R37, R54, R359): programs in flight complete, the Keep zeroises every key slot and claimed
unit, the journal tail is committed unless the bank failed, and a pending record only when main power was not lost. -/
def execHoldUpSequence (zeroVerified journalKept : Bool) (s : State) : Host.Outcome State Fault Refusal :=
  .next (if s.pw.phase ≠ .holdUp then s
    else
      let s1 := finishPrograms s
      let s2 := if s1.retPending && !s1.wd.bringUp && !s1.boot.mainLost then commitRecord s1 else s1
      let s3 := noteLoss 2 (zeroKeys (zeroClaims s2))
      let s4 := { s3 with boot := { failTrial s3.boot with
        rechoose := true, holdUpRan := true, mainLost := false
        zeroOk := zeroVerified && journalKept, zeroUnv := !journalKept
        journalLost := s3.boot.journalLost || !journalKept } }
      let s5 := if journalKept then commitTail s4 else s4
      let s6 := freshState (afterHoldUp s5) false s5
      if s6.pw.phase = .off then { s6 with wd := { s6.wd with powerFenced := [] } } else s6)

/-- PME_TURN_OFF: the L2 sequence into DEEP; the Keep zeroises before the engine acknowledges (R30, R49, R358). -/
def execPmeTurnOff (s : State) : Host.Outcome State Fault Refusal :=
  .next (if s.live then emit (.pin "PME_TO_Ack" true) (tableReset .deep 7 0 true false 4 s) else s)

/-- TRIAL_CONFIRM (R58): one watchdog window after RDY the trial slot becomes ACTIVE, the previous ACTIVE slot VALID,
and the SVN floor rises to the trial slot's. -/
def execTrialConfirm (s : State) : Host.Outcome State Fault Refusal :=
  .next (match s.wd.confirmFrom with
    | none => s
    | some t =>
      if s.boot.trial = false ∨ s.pw.phase ≠ .ready then s
      else
        let s1 := advanceTo (t + 1000000 * s.wd.windowS.toNat) s
        let b := s1.boot.bootB
        let old := modSlot (!b) (fun y => if y.st = 2 then { y with st := 1 } else y) s1.boot
        let new := modSlot b (fun y => { y with st := 2 }) old
        { s1 with boot := { new with trial := false, svnFloor := (new.slot b).svn }
                  wd := { s1.wd with confirmFrom := none } })

/-- A RET_CTL write is refused: wrong KEY, FACTORY = 0, a Vault operation or an update in progress (R56). -/
def retCtlRefused (v : Word) (s : State) : Bool :=
  fld v 16 16 != 0xFAC7 || !bit v 0 || s.st.op.st == 1 || s.boot.update != .idle

/-- FACTORY_RESET_COMMAND (R55, R50): factory values become a new record, and a factory reset follows. -/
def execFactoryResetCommand (v : Word) (s : State) : Host.Outcome State Fault Refusal :=
  .next (if s.live = false then s
    else if retCtlRefused v s then { s with boot := { s.boot with retRej := true } }
    else
      let s0 := writeRecord {} s
      let s1 := tableReset .bringUp 5 0 true true 3 { s0 with boot := { s0.boot with record := s0.liveRecord } }
      emit .linkDown { s1 with boot := { s1.boot with record := {}, factoryCmd := true } })

/-- RETAINED_COMMIT (R53): the changes waiting are written as one record, at least 1 s after the last. -/
def execRetainedCommit (s : State) : Host.Outcome State Fault Refusal :=
  .next (if s.pw.rdy = false ∨ s.pw.phase ≠ .ready ∨ s.retPending = false then s
    else commitRecord (match s.boot.lastRecord with
      | some t => advanceTo (t + 1000000) s
      | none => s))

end Sys2Proof.Machine
end

