-- ==== Sys2Proof/Machine/WheelOps.lean ====
section
/-! DEFINITION. Wheels and the Orchard (09): prefetch, delivery in stream order, the crags' cycles between input and
output wheels, drains, Orchard lines, and the beats a read brings. -/

namespace Sys2Proof.Machine

/-! ### Beats into a wheel (R88, R165, R174) -/

/-- What came for a stream's beats reaches the command it serves (R176). -/
def noteGot (w : Wheel) (first : Nat) (gs : List Got) (s : State) : State :=
  gs.zipIdx.foldl (fun s p => match s.ma.wheels[w].driver (first + p.2) with
    | some (r, cid, i) => modCmd r cid (fun c => { c with got := c.got ++ [(i, p.1)] }) s
    | none => s) s

/-- Beats enter a wheel's slots at their places in stream order; poisoned ones are counted (R174). -/
def enterBeats (w : Wheel) (first : Nat) (bs : List Beat) (s : State) : State :=
  s.onWheel w (fun x => { x with
    held := x.held ++ bs.zipIdx.map (fun p => (first + p.2, p.1))
    poison := satAdd x.poison (bs.filter (·.psn)).length })

/-- What a read brought enters a wheel: a failed beat poisoned (R173). -/
def enterGot (w : Wheel) (first : Nat) (gs : List Got) (s : State) : State :=
  let (bs, s1) := beatsOf (gs.map (fun g => (0, g))) (noteGot w first gs s)
  enterBeats w first bs s1

/-- Beats asked for. -/
def askBeats (w : Wheel) (n : Nat) (s : State) : State := s.onWheel w (fun x => { x with asked := x.asked + n })

/-! ### Delivery (R165, R174, R182, R186, R195) -/

/-- The port of a wheel holds neither a beat nor end tokens. -/
def portFree (s : State) (x : WheelSt) : Bool :=
  let q := ix 3 x.port.toNat
  (s.ma.crags[x.crag]).portCount q == 0 && (s.ma.crags[x.crag]).portEnd q == 0

/-- The end mark goes to the port between the stream's last beat and the next one's first (R182, R195). -/
def endLayer (w : Wheel) (s : State) : State :=
  let x := s.ma.wheels[w]
  let taken := match x.streams with | st :: _ => st.consumed | [] => false
  endStream w (if s.hasPes x.crag && taken then s.onCrag x.crag (·.endPort (ix 3 x.port.toNat) false) else s)

/-- One beat in stream order passes the taps and reaches the port; work on the Massif leaves IDLE (R28). -/
def deliverOne (w : Wheel) (st : Strm) (b : Beat) (s0 : State) : State :=
  let s := wake s0
  let x := s.ma.wheels[w]
  let s1 := (strmTaps w st).foldl (fun s t => snoopFeed t (plain [b]) st.own s) s
  let s2 := s1.onWheel w (fun x => { x with
    beats := x.beats + 1, held := x.held.filter (fun p => p.1 != x.taken), taken := x.taken + 1 })
  let s3 := s2.onCrag x.crag (fun c =>
    { (if s.hasPes x.crag && st.consumed then c.loadPort (ix 3 x.port.toNat) b else c) with
        rest := false, step := if c.rest then none else c.step })
  if st.beats ≤ x.taken + 1 then endLayer w s3 else s3

/-- The next beat of an input wheel is delivered, or its empty stream ends, where crag, port and taps let it (R165, R228).
Answers whether anything moved. -/
def deliverNext (w : Wheel) (s : State) : Bool × State :=
  let x := s.ma.wheels[w]
  match x.streams with
  | [] => (false, s)
  | st :: _ =>
    if !x.en || x.output || x.drainHold || !s.cragRuns x.crag || (s.hasPes x.crag && st.consumed && !portFree s x) then (false, s)
    else if st.beats = 0 ∧ (st.gen = .fixed ∨ st.cid.isSome) then (true, endLayer w s)
    else match x.held.find? (fun p => p.1 == x.taken) with
      | none => (false, s)
      | some p => if tapRoom s (strmTaps w st) then (true, deliverOne w st p.2 s) else (false, s)

/-- Every beat present in its turn is delivered. -/
def deliver_ (w : Wheel) : Nat → Bool → State → Bool × State
  | 0, any, s => (any, s)
  | k + 1, any, s => match deliverNext w s with
    | (true, s1) => deliver_ w k true s1
    | (false, s1) => (any, s1)

/-! ### Output wheels (R165, R166, R174, R175, R186, R195) -/

/-- A whole beat, or the end mark, leaves the crag's port for its output wheel, where a slot has room. -/
def produceOne (w : Wheel) (s : State) : Bool × State :=
  let x := s.ma.wheels[w]
  let q := ix 3 x.port.toNat
  if !s.cragRuns x.crag then (false, s)
  else
    let c := CragSt.padPort q 16 s.ma.crags[x.crag]
    match c.portBeat q with
    | some b =>
      if x.dropTo then (true, s.onCrag x.crag (fun _ => c.clearPort q))
      else if x.room x.asked then
        (true, (s.onCrag x.crag (fun _ => c.clearPort q)).onWheel w (fun x => { x with
          asked := x.asked + 1, held := x.held ++ [(x.asked, b)], poison := satAdd x.poison (if b.psn then 1 else 0) }))
      else (false, s.onCrag x.crag (fun _ => c))
    | none =>
      if c.portMark q then
        (true, (s.onCrag x.crag (fun _ => c.put (portBase q + 65) 1 0)).onWheel w (fun x =>
          if x.dropTo then { x with dropTo := false } else { x with marks := x.marks ++ [x.asked] }))
      else (false, s)

/-- The beat at the head of an output wheel has been written: its slot's room comes back (R166). -/
def beatGone (w : Wheel) (s : State) : State :=
  s.onWheel w (fun x => { x with beats := x.beats + 1, taken := x.taken + 1, held := x.held.filter (fun p => p.1 != x.taken) })

/-- The failure of a page has served the accesses of a stream once its last beat on the page has gone. -/
def dropDenial (k : Key) (write : Bool) (a : Nat) (last : Bool) (s : State) : State :=
  if last || (a + 64) % 4096 == 0 then
    { s with link := { s.link with atsBad := s.link.atsBad.filter (fun x => !(x.1 == k && x.2.1 == pageOf a && x.2.2.1 == write)) } }
  else s

/-- The drain writes the next beat of an output wheel to its destination, its mark kept (R175): a staging write waits for a
frozen page's copy (R11), a host write for its translation (R94); a write whose check fails is not made (Table 5-8). The
end mark passes once every beat before it is written (R183). -/
def drainOne (w : Wheel) (s : State) : Bool × State :=
  let x := s.ma.wheels[w]
  if x.marks.head? = some x.taken then (true, endStream w s)
  else match x.streams, x.held.find? (fun p => p.1 == x.taken) with
    | st :: _, some p =>
      if !st.prefetched || decide (st.beats ≤ x.taken) || x.fenced then (false, s)
      else
        let a := st.addr + 64 * x.taken
        let k := s.strmKey st
        let feed := fun (s : State) => beatGone w (snoopFeed (.wheel w) (plain [p.2]) st.own s)
        if !tapRoom s [.wheel w] then (false, s)
        else if st.staging then
          if inWindows s k.tenant a 64 = false then (true, feed (keyFlt k a .window true s))
          else match copyPages [a / winUnit] s with
            | none => (false, s)
            | some s1 => (true, feed (storeBeat (a / 64) p.2 s1))
        else match s.fate k a true true with
          | .go xa t => (true, feed (emit (.hostWrite k.ring.val xa (bytesLE 64 p.2.data) p.2.psn t) s))
          | .fail c => (true, feed (dropDenial k true a (x.taken + 1 == st.beats) (keyFlt k a c true s)))
          | .wait => (false, askTranslation k a true s)
    | _, _ => (false, s)

/-! ### The Orchard (R177 to R181) -/

/-- Tenants that own an ORC wheel of the loaded bit-stream. -/
def orcTenants (s : State) : List Tenant :=
  (List.finRange 8).filter (fun t => s.ma.wheels.toList.any (fun x => x.en && x.orc && x.tenant == t))

/-- Ways of a tenant (R177). -/
def orcWays (s : State) (t : Tenant) : Nat :=
  let ts := orcTenants s
  let n := ts.length
  if n = 0 then 0 else 16 / n + (if (ts.findIdx (· == t)) < 16 % n then 1 else 0)

/-- The key of a line (R177): tenant, space, PASID, whether the address is a translated one, and the line's number. -/
structure OrcKey where
  tenant : Tenant
  staging : Bool
  pasid : Option (BitVec 20)
  xlat : Bool
  line : Nat
  deriving DecidableEq, Repr

def OrcLine.key (l : OrcLine) : OrcKey := { tenant := l.tenant, staging := l.staging, pasid := l.pasid, xlat := l.xlat, line := l.line }

/-- The line of a read, if it has one (R177). -/
def orcFind (s : State) (k : OrcKey) : Option OrcLine := s.ma.lines.find? (fun l => l.key == k)

/-- A line used last (R177). -/
def orcTouch (l : OrcLine) (s : State) : State :=
  { s with ma := { s.ma with lines := s.ma.lines.filter (· != l) ++ [l] } }

/-- A line installed, of the address `a` before translation; its tenant's least recently used line of the set goes when its ways are full (R177). -/
def orcInstall (k : OrcKey) (a : Nat) (bs : List Beat) (s : State) : State :=
  let l : OrcLine := { tenant := k.tenant, staging := k.staging, pasid := k.pasid, xlat := k.xlat, line := k.line, va := a / 512, data := bs }
  let mine := s.ma.lines.filter (fun x => x.tenant == l.tenant && x.line % 4096 == l.line % 4096)
  let s1 := if orcWays s l.tenant ≤ mine.length then
      match mine.head? with
      | some v => { s with ma := { s.ma with lines := s.ma.lines.filter (· != v) } }
      | none => s
    else s
  { s1 with ma := { s1.ma with lines := s1.ma.lines ++ [l] } }

/-- A fill came back whole: installed when clean, counted once when poisoned (R178, R181). A fill that covers a part of a
line is not installed. -/
def orcFill (k : OrcKey) (addr : Nat) (gs : List Got) (bs : List Beat) (s : State) : State :=
  if gs.any (fun g => match g with | .bad _ => true | .ok _ => false) || bs.any (·.psn) then
    { s with ma := { s.ma with orcPoison := satAdd s.ma.orcPoison 1 } }
  else if bs.length < 8 ∨ addr % 512 ≠ 0 then s
  else orcInstall k addr bs s

/-! ### Prefetch (R169 to R171) -/

/-- Beats of the next read: to the end of its 512-byte block, of the stream, and of the room in the slots; on the host
link at most Max Read Request Size. -/
def nextBeats (s : State) (x : WheelSt) (st : Strm) (off : Nat) : Nat :=
  let n := min (8 - (st.addr + 64 * off) / 64 % 8) (st.beats - off)
  let n := if st.staging then n else min n (max 1 (min 512 s.link.maxRead / 64))
  if x.room (x.asked + (n - 1)) then n else min n (64 - off % 64)

/-- A read in flight that an ORC read joins: a fill of its line, under its key, that covers its beats (R178). -/
def mergeWith (s : State) (k : Key) (xa n : Nat) : Option ReadReq :=
  s.link.reads.find? (fun q => q.orc && !q.stale && q.tagged && q.key.tenant == k.tenant && q.key.pasid == k.pasid
    && q.xaddr / 512 == xa / 512
    && decide (q.xaddr ≤ xa + 64 * q.line.length ∧ xa + 64 * n ≤ q.xaddr + 64 * q.beats))

/-- One fill of an input wheel's stream that takes no tag: from the Orchard, from staging memory, poisoned by its check,
or merged with a fill in flight. None where there is none to make. -/
def fillStep (w : Wheel) (s : State) : Option State :=
  let x := s.ma.wheels[w]
  match x.filling with
  | none => none
  | some (st, off) =>
    if wheelWants s w = false then none
    else
      let n := nextBeats s x st off
      let a := st.addr + 64 * off
      let k := s.strmKey st
      let put := fun (gs : List Got) (s : State) => some (enterGot w x.asked gs (askBeats w n s))
      let open_ := x.orc && !bit s.ma.orcInv x.tenant.val
      if st.staging then
        let key : OrcKey := { tenant := x.tenant, staging := true, pasid := none, xlat := false, line := a / 512 }
        match (if x.orc then orcFind s key else none) with
        | some l =>
          let s1 := orcTouch l { s with ma := { s.ma with orcHit := satAdd s.ma.orcHit 1 } }
          some (enterBeats w x.asked ((l.data.drop (a / 64 % 8)).take n) (askBeats w n s1))
        | none =>
          let (gs, bs, s1) := stagingReads k ((List.range n).map (fun i => a + 64 * i)) s
          let s2 := if x.orc then orcFill key a (gs.map (·.2)) bs { s1 with ma := { s1.ma with orcMiss := satAdd s1.ma.orcMiss 1 } } else s1
          some (enterBeats w x.asked bs (askBeats w n s2))
      else match s.fate k a false true with
        | .wait => if s.link.atsWait.any (fun q => q.key == k && q.addr == pageOf a && !q.write && !q.stale) then none
          else some (askTranslation k a false s)
        | .fail c =>
          put (List.replicate n (.bad c)) (dropDenial k false (a + 64 * (n - 1)) (off + n == st.beats)
            ((List.range n).foldl (fun s i => keyFlt k (a + 64 * i) c false s) s))
        | .go xa t =>
          let key : OrcKey := { tenant := x.tenant, staging := false, pasid := k.pasid, xlat := t.xlat, line := xa / 512 }
          match (if open_ then orcFind s key else none) with
          | some l =>
            let s1 := orcTouch l { s with ma := { s.ma with orcHit := satAdd s.ma.orcHit 1 } }
            put (((l.data.drop (xa / 64 % 8)).take n).map (fun b => .ok b.data)) s1
          | none => match (if open_ then mergeWith s k xa n else none) with
            | some q =>
              let m : ReadReq := { tag := q.tag, key := k, what := .merged w x.asked, addr := a, beats := n, xaddr := xa, since := s.now }
              some (askBeats w n { s with
                ma := { s.ma with orcMerge := satAdd s.ma.orcMerge 1 }
                link := { s.link with reads := s.link.reads ++ [m] } })
            | none => none

/-- Fills that take no tag, as far as they go. -/
def fillFree (w : Wheel) : Nat → Bool → State → Bool × State
  | 0, any, s => (any, s)
  | k + 1, any, s => match fillStep w s with
    | some s1 => fillFree w k true s1
    | none => (any, s)

/-- The host read of a wheel's next part leaves under its driving ring's tag (R169, R91). -/
def fillHost (w : Wheel) (s : State) : State :=
  let x := s.ma.wheels[w]
  match x.filling with
  | none => s
  | some (st, off) =>
    let n := nextBeats s x st off
    let open_ := x.orc && !bit s.ma.orcInv x.tenant.val
    let s1 := askBeats w n (sendRead (s.strmKey st) (.wheel w x.asked) (st.addr + 64 * off) n open_ s)
    if x.orc then { s1 with ma := { s1.ma with orcMiss := satAdd s1.ma.orcMiss 1 } } else s1

/-! ### Tags among the requesters (R91, R92, R343) -/

/-- The command of a ring whose next read may leave. -/
def readyCmd (s : State) (r : Ring) : Option Cmd :=
  if (tagStall s r).isSome then none
  else (s.rings[r].queue ++ s.rings[r].past).find? (fun c => c.started && !(readyReads s r c).isEmpty)

/-- The requesters with a host read that may leave now. -/
def readers (s : State) : List Req :=
  let ws := (List.finRange 64).filter (wheelReads s)
  (((List.finRange 16).filter (fun r => (readyCmd s r).isSome)).map ringReq ++ ws.map (streamReq s)).eraseDups

/-- One read of a requester leaves: of a command past its first reads, else of a wheel it is charged for. -/
def serveReader (q : Req) (s : State) : State :=
  match (List.finRange 16).find? (fun r => ringReq r == q && (readyCmd s r).isSome) with
  | some r => match readyCmd s r with
    | some c => let s1 := sendNext r c s
      match s1.rings[r].find c.cid with
      | some d => if (readyReads s1 r d).isEmpty then modCmd r c.cid (stopWaiting s1.now) s1 else s1
      | none => s1
    | none => s
  | none => match (List.finRange 64).find? (fun w => wheelReads s w && streamReq s w == q) with
    | some w => fillHost w s
    | none => s

/-- One grant of the host link's reads, to the requester the arbiter chooses (R343). -/
def grantRead (s : State) : Bool × State :=
  match readers s with
  | [] => (false, s)
  | el =>
    let a := refill 1 s.now s.adm[(1 : Res)]
    match arbChoose a el with
    | none => (false, s)
    | some q => (true, serveReader q (s.onArb 1 (fun _ => arbGrant a el q)))

/-! ### The whole array -/

/-- A cycle of one crag: its input ports feed the edge queues and its PEs issue (R186, R187). -/
def cragCycle (k : Nat) (n : Crag) (s : State) : Bool × State :=
  if !s.hasPes n || !s.cragRuns n then (false, s)
  else
    let g := s.cragProg n
    let ins := (s.ma.wheels.toList.filter (fun x => x.en && !x.output && x.crag == n)).map (fun x => ix 3 x.port.toNat)
    let x := s.ma.crags[n]
    let x1 := ins.foldl (fun x q => g.feedPort q 32 x) x
    let (moved, x2) := peCycle g k x1
    (moved || ins.any (fun q => x.portCount q != x1.portCount q || x.portEnd q != x1.portEnd q), s.onCrag n (fun _ => x2))

/-- Beats of a Rowan transfer enter the wheel it writes, where that wheel's stream is a descriptor's and a slot has room
(R164 to R166, R183, R212). -/
def rowanFill (e : Eng) (s : State) : Bool × State :=
  let y := s.ma.rowan[e]
  match y.out, y.queue with
  | b :: bs, j :: _ =>
    let w : Wheel := ix 63 j.x.wd.base
    let x := s.ma.wheels[w]
    match x.filling with
    | some (st, _) => if st.gen = .rowan ∧ j.own = none ∧ x.room x.asked then
        (true, (askBeats w 1 (enterBeats w x.asked [b] s)).onRowan e (fun y => { y with out := bs }))
      else (false, s)
    | none => (false, s)
  | _, _ => (false, s)

/-- A Rowan transfer that runs takes the next beat of the output wheel it reads, up to its elements (R166, R212). -/
def rowanDrain (e : Eng) (s : State) : Bool × State :=
  let y := s.ma.rowan[e]
  match y.queue with
  | j :: _ =>
    let w : Wheel := ix 63 j.x.rd.base
    let x := s.ma.wheels[w]
    if y.st ≠ 1 ∨ y.moved ∨ j.own.isSome ∨ j.x.rd.space ≠ 2 ∨ !x.en ∨ !x.output
      ∨ ceilDiv (j.x.rd.ext.foldl (· * ·) 1 * 2 ^ j.x.rd.esize.val) 64 ≤ y.inp.length then (false, s)
    else match x.streams, x.held.find? (fun p => p.1 == x.taken) with
      | st :: _, some p => if st.gen = .rowan ∧ tapRoom s [.wheel w] then
          (true, (beatGone w (snoopFeed (.wheel w) (plain [p.2]) none s)).onRowan e (fun y => { y with inp := y.inp ++ [p.2] }))
        else (false, s)
      | _, _ => (false, s)
  | [] => (false, s)

/-- Steps over a list, and whether any moved. -/
def anyOf {α : Type} (f : α → State → Bool × State) (l : List α) (s : State) : Bool × State :=
  l.foldl (fun acc a => let r := f a acc.2; (acc.1 || r.1, r.2)) (false, s)

/-- Wheels of the loaded configuration. -/
def wheelsOf (s : State) (output : Bool) : List Wheel :=
  (List.finRange 64).filter (fun w => s.ma.wheels[w].en && s.ma.wheels[w].output == output && !s.ma.wheels[w].fenced)

/-- One round: delivery, crags, output wheels, fills, Rowan's beats, one host read. -/
def pumpRound (k : Nat) (s : State) : Bool × State :=
  let ins := wheelsOf s false
  let outs := wheelsOf s true
  let (b1, s1) := anyOf (fun w s => deliver_ w s.ma.wheels[w].held.length.succ false s) ins s
  let (b2, s2) := anyOf (cragCycle k) (if ins = [] ∧ outs = [] then [] else List.finRange 32) s1
  let (b3, s3) := anyOf produceOne outs s2
  let (b4, s4) := anyOf drainOne outs s3
  let (b5, s5) := anyOf (fun w s => fillFree w (64 * 16) false s) ins s4
  let (b6, s6) := anyOf rowanFill (List.finRange 4) s5
  let (b7, s7) := anyOf rowanDrain (List.finRange 4) s6
  let (b8, s8) := grantRead s7
  (b1 || b2 || b3 || b4 || b5 || b6 || b7 || b8, s8)

/-- Rounds until nothing moves. -/
def pumpRounds : Nat → State → State
  | 0, s => s
  | k + 1, s =>
    let x := pumpRound k s
    if x.1 then pumpRounds k x.2 else x.2

/-- How long a wheel waits, as its status and counters show: for a tag (R170), for a slot, for a beat. A wait counts once
each time the array comes to rest (DESIGN CHOICE, LOG 17). A command whose stream waits for a tag is DELAYED (R170, R92). -/
def noteStall (w : Wheel) (s : State) : State :=
  let x := s.ma.wheels[w]
  let slot := if x.output then !x.room x.asked && ((s.ma.crags[x.crag]).portBeat (ix 3 x.port.toNat)).isSome
    else match x.filling with | some (st, _) => st.prefetched && !x.room x.asked | none => false
  let empty := !x.output && !x.fenced && !x.drainHold && !x.streams.isEmpty && !x.held.any (fun p => p.1 == x.taken)
  let held := match x.streams with | st :: _ => !x.output && !tapRoom s (strmTaps w st) && x.held.any (fun p => p.1 == x.taken) | [] => false
  let tags := match (if x.output then none else x.filling) with
    | some (st, off) =>
      if !st.prefetched || !x.room x.asked then none
      else if x.pfTags.toNat ≤ s.inflight w then some (st, none)
      else if st.staging then none
      else match s.fate (s.strmKey st) (st.addr + 64 * off) false true with
        | .go .. => (tagStall s st.ring).map (fun c => (st, some c))
        | _ => none
    | none => none
  let s1 := s.onWheel w (fun x => { x with
    stallTag := tags.isSome, stallSlot := slot, cTag := satAdd x.cTag (if tags.isSome then 1 else 0)
    cSlot := satAdd x.cSlot (if slot then 1 else 0), cEmpty := satAdd x.cEmpty (if empty then 1 else 0) })
  let s2 := match x.streams with | st :: _ => if held then countHeld (strmTaps w st) s1 else s1 | [] => s1
  match tags with
  | none => s2
  | some (st, why) =>
    let s3 := match why with
      | none => s2
      | some cap => s2.onRing st.ring (fun y =>
          if cap then { y with stallCap := satAdd y.stallCap 1 } else { y with stallPool := satAdd y.stallPool 1 })
    match st.cid with
    | some cid => delayCmd st.ring cid 1 4 s3
    | none => s3

/-- The array runs until nothing moves: beats are delivered, crags compute, results drain, streams read ahead. At most
2^20 rounds in one step (DESIGN CHOICE, LOG 102). -/
def pumpWheels (s : State) : State :=
  if s.pw.rdy = false ∨ s.pw.phase ≠ .ready ∨ s.cfg.loaded = false then s
  else
    let s1 := pumpRounds (2 ^ 20) s
    let s2 := (wheelsOf s1 false ++ wheelsOf s1 true).foldl (fun s w => noteStall w s) s1
    (List.finRange 32).foldl (fun s n => if s.hasPes n then noteRest n s else s) s2

/-! ### What a read brings (R88, R99, Table 5-9) -/

/-- Beats reach what their read serves. -/
def placeRead (q : ReadReq) (gs : List Got) (s : State) : State :=
  match q.what with
  | .cmd cid first => modCmd q.key.ring cid (fun c => { c with got := c.got ++ gs.zipIdx.map (fun p => (first + p.2, p.1)) }) s
  | .xfer e first => s.onRowan e (fun y => { y with got := y.got ++ gs.zipIdx.map (fun p => (first + p.2, p.1)) })
  | .wheel w first | .merged w first => enterGot w first gs s
  | .dropped => s

/-- A read whose first beats have come. -/
def ReadReq.rest (q : ReadReq) (gs : List Got) : ReadReq :=
  let n := gs.length
  { q with
    addr := q.addr + 64 * n, xaddr := q.xaddr + 64 * n, beats := q.beats - n
    line := if q.orc then q.line ++ gs else q.line
    what := match q.what with
      | .cmd cid f => .cmd cid (f + n)
      | .xfer e f => .xfer e (f + n)
      | .wheel w f => .wheel w (f + n)
      | .merged w f => .merged w (f + n)
      | .dropped => .dropped }

/-- The tenant whose Orchard ways a fill belongs to: the wheel's (R177). -/
def fillTenant (s : State) (q : ReadReq) : Tenant :=
  match q.what with | .wheel w _ => s.ma.wheels[w].tenant | _ => q.key.tenant

/-- A fill is whole: the reads merged with it get their beats, and its line may be installed (R178, R181), unless an
invalidation covers it (R180). -/
def finishFill (q : ReadReq) (s : State) : State :=
  let origin := q.xaddr - 64 * q.line.length
  let s1 := (s.link.reads.filter (fun m => m.tag == q.tag && !m.tagged)).foldl (fun s m =>
    placeRead m ((q.line.drop ((m.xaddr - origin) / 64)).take m.beats) s) s
  let s2 := { s1 with link := { s1.link with reads := s1.link.reads.filter (fun m => m.tag != q.tag) } }
  if q.orc && !q.stale then
    orcFill { tenant := fillTenant s q, staging := false, pasid := q.key.pasid, xlat := q.xlat, line := origin / 512 }
      (q.addr - 64 * q.line.length) q.line
      (q.line.map (fun g => match g with | .ok b => { data := b } | .bad _ => { psn := true })) s2
  else s2

/-- Beats of the read with a tag: placed by tag; the tag is free after the last one (R88, R91, R178). A completion for no
read in flight is unexpected and discarded (5.5.1). -/
def completeRead (tag : Nat) (got : List Got) (s : State) : State :=
  match s.link.reads.find? (fun q => q.tag == tag && q.tagged) with
  | none => s
  | some q =>
    let gs := got.take q.beats
    let s1 : State := match q.what with
      | .dropped => s
      | _ => gs.zipIdx.foldl (fun (s : State) p => match p.1 with | .bad c => keyFlt q.key (q.addr + 64 * p.2) c false s | .ok _ => s) s
    let q1 := q.rest gs
    let reads := s1.link.reads.map (fun m => if m.tag = tag ∧ m.tagged then q1 else m)
    let s2 := placeRead q gs { s1 with link := { s1.link with reads := reads } }
    if q1.beats = 0 then finishFill q1 s2 else s2

end Sys2Proof.Machine
end

