-- ==== Sys2Proof/Machine/CairnCmds.lean ====
section
/-! DEFINITION. The cairn commands (08) of rings, units and the host: SIGNAL, WAIT, UNIT_SIGNAL, UNIT_WAIT,
SIGNAL_PAGE_ADD, CAIRN_PUBLICATION. -/

namespace Sys2Proof.Machine

/-- Units a signal has woken go on: what waits in the tap buffers of lanes, and the array (R157, R158). -/
def resumeUnits (s : State) : State :=
  pumpWheels ((List.finRange 16).foldl (fun s l =>
    if s.ma.lanes[l].tapBuf.isEmpty || s.asleep (.lane l) then s else drainTap l s) s)

/-- SIGNAL (R123, R151): UNFENCED while the ring's uncovered set holds an earlier command; else the add is
applied at the head and the command completes OK with VALUE in DETAIL0. Behind a FENCE whose OK entry still waits to
be written the SIGNAL waits for that completion. -/
def signalAct (r : Ring) (c : Cmd) (s : State) : State :=
  let k : Cairn := ix 127 (c.f 0x10 1)
  if uncoveredBefore s.rings[r] c.cid then complete r c stUNFENCED 0 0 s
  else if s.rings[r].uncovered.any (fun p => decide (p.1 < c.cid)) then s
  else
    let s1 := applySignal k 1 r.val (BitVec.ofNat 32 (c.f 0x14 4)) s
    complete r c stOK s1.cairns[k].value.toNat 0 s1

/-- A ring SIGNAL to another tenant's cairn is counted as a blocked signal (R155) beside its FOREIGN
completion. -/
def blockedAtHead (r : Ring) (s : State) : State :=
  match headCmd s r with
  | none => s
  | some c =>
    if c.op = 0x05 ∧ !c.started ∧ decide (s.rings[r].past.length < 64) then
      match headCheck s r c with
      | some o => if o.status = stFOREIGN then blockSignal (ix 127 (c.f 0x10 1)) 1 r.val s else s
      | none => s
    else s

def execSignal (r : Ring) (s : State) : Host.Outcome State Fault Refusal :=
  .next (resumeUnits (headStep r 0x05 (signalAct r) (blockedAtHead r s)))

/-- WAIT (R156): classified once at the head; reached or passed completes OK at once, out of range
completes RANGE, else it holds the head until a signal satisfies it. -/
def waitAct (r : Ring) (c : Cmd) (s : State) : State :=
  let k : Cairn := ix 127 (c.f 0x10 1)
  let v := s.cairns[k].value
  if c.remaining.isSome then s
  else match classify (BitVec.ofNat 32 (c.f 0x14 4)) v with
    | .satisfied => complete r c stOK v.toNat 0 s
    | .ahead d => modCmd r c.cid (fun c => { c with remaining := some d }) s
    | .outOfRange => complete r c stRANGE 0x14 v.toNat s

def execWait (r : Ring) (s : State) : Host.Outcome State Fault Refusal := .next (headStep r 0x06 (waitAct r) s)

/-! ### Signals and waits of units (R152, R157) -/

/-- UNIT_SIGNAL: a signal site of a running unit. Its earlier stores are visible (R152: the model makes
every store visible at once). -/
def execUnitSignal (u : SigUnit) (c : Cairn) (add : Word) (s : State) : Host.Outcome State Fault Refusal :=
  .next (if s.unitRuns u ∧ !s.asleep u ∧ add ≠ 0 ∧ bit add 31 = false
    then resumeUnits (signalFrom (s.unitTenant u) c (sigKind u) (sigId u) add (wake s)) else s)

/-- UNIT_WAIT: classified when presented (R147); pending waits hold the unit or the PE, an out-of-range
one raises CAIRN_RANGE and is never satisfied (R157). -/
def execUnitWait (u : SigUnit) (c : Cairn) (target : Word) (m : WaitMode) (s : State) :
    Host.Outcome State Fault Refusal :=
  .next (if s.unitRuns u ∧ !s.asleep u then
      match classify target s.cairns[c].value with
      | .satisfied => s
      | .ahead d => { s with ma := { s.ma with waits := s.ma.waits ++
          [{ unit := u, cairn := c, target := target, mode := m, left := some d }] } }
      | .outOfRange =>
        raiseEvent 0x0403 (BitVec.ofNat 8 (sigNum u)) (BitVec.ofNat 32 c.val) target
          { s with ma := { s.ma with waits := s.ma.waits ++
            [{ unit := u, cairn := c, target := target, mode := m, left := none }] } }
    else s)

/-! ### The signal pages (R153) -/

/-- A write to the signal page of tenant `t`: one aligned 4-byte write of ADD to an add word is a signal;
every other write is not applied and is charged to the cairn whose words it covers, cairn 0 for
reserved space. Ownership is judged last, so only a write that fails on it alone is a foreign signal. -/
def pageWrite (t : Tenant) (off size : Nat) (v : Word) (s : State) : State :=
  let c : Cairn := if off < 0x400 then ix 127 (off / 8) else 0
  let addWord := decide (off < 0x400) && off % 8 == 0 && size == 4
  if addWord = false ∨ s.cfg.loaded = false ∨ v = 0 ∨ bit v 31 then rejectSignal c 6 t.val s
  else if s.cairns[c].owner ≠ t then blockSignal c 6 t.val s
  else applySignal c 6 t.val v s

/-- SIGNAL_PAGE_ADD: from RDY on (R44). -/
def execSignalPageAdd (t : Tenant) (off size : Nat) (v : Word) (s : State) : Host.Outcome State Fault Refusal :=
  .next (if s.pw.rdy = false then s else resumeUnits (pageWrite t off size v s))

/-! ### Publications (R161) -/

/-- CAIRN_PUBLICATION: a publication owed is written as the pair (VALUE, VALUE_N) under PUB_RING's tenant
and PASID, once its translation, where it needs one, has come; one that fails its check sets PUB_FLT and raises
CAIRN_PUB_FAULT. -/
def execCairnPublication (c : Cairn) (s : State) : Host.Outcome State Fault Refusal :=
  let x := s.cairns[c]
  let addr := x.pubHi.toNat * 2 ^ 32 + x.pubLo.toNat * 8
  .next (if s.pw.rdy = false ∨ x.pubEn = false ∨ x.pubOwed = false then s
    else
      let s1 := s.onCairn c (fun x => { x with pubOwed := false })
      let k := s.ringKey x.pubRing
      match s.fate k addr true false with
      | .go xa t => emit (.publication c.val xa x.value (x.value ^^^ 0xFFFFFFFF) t) s1
      | .wait => askTranslation k addr true s
      | .fail why =>
        raiseEvent 0x0404 0xFF (BitVec.ofNat 32 c.val) 0
          (takeDenials k true (keyFlt k addr why true (s1.onCairn c (fun x => { x with pubFlt := true })))))

end Sys2Proof.Machine
end

