-- ==== Sys2Proof/Machine/RowanOps.lean ====
section
/-! DEFINITION. Rowan (11): descriptors and when they are valid, element order, tiles, the checks of index tensors, the
writes of elements, and the queues of the standalone engines. -/

namespace Sys2Proof.Machine

/-! ### Element order (R212, R217) -/

/-- Elements of a side. -/
def Desc.count (d : Desc) : Nat := d.ext.foldl (· * ·) 1

/-- Bytes of an element. -/
def Desc.size (d : Desc) : Nat := 2 ^ d.esize.val

/-- Indices of element `n`, dimension 0 first. -/
def digits : List Nat → Nat → List Nat
  | [], _ => []
  | e :: es, n => n % e :: digits es (n / e)

/-- Where position `i` along dimension `k` lies (R212, R217). -/
def along (d : Desc) (idx : List Nat) (k i : Nat) : Nat :=
  if d.gdim = some k then idx.getD i 0
  else if d.xdim = some k then
    let e := d.ext.getD k 1
    let r := (i + d.rot) % e
    if d.rev then e - 1 - r else r
  else i

/-- Address of the first byte of element `n`. -/
def elemAddr (d : Desc) (idx : List Nat) (n : Nat) : Nat :=
  ((digits d.ext n).zipIdx.foldl (fun (a : Int) p => a + d.stride.getD p.2 0 * (along d idx p.2 p.1 : Int)) (d.base : Int)).toNat

/-- The fastest-varying contiguous dimension of a side: the lowest whose stride is one element (11.3). -/
def contiguous (d : Desc) : Nat :=
  ((List.range d.ext.length).find? (fun k => decide (1 < d.ext.getD k 1) && (d.stride.getD k 0).natAbs == 2 ^ d.esize.val)).getD 0

/-- A transfer is crossed when the write side's contiguous dimension is not dimension 0 (11.3). -/
def crossed (x : XferSec) : Bool := x.wd.space.val < 2 && contiguous x.wd != 0

/-! ### When a transfer is valid (R213, R218, Table 11-4) -/

/-- Bytes of the space a memory side lies in: 2^64, or the 256 GiB of staging memory; the accumulator file's 16 KiB. -/
def sideLimit (d : Desc) : Nat :=
  match d.space.val with | 1 => 2 ^ 38 | 3 => 16384 | _ => 2 ^ 64

/-- The highest position along a dimension: below BOUND where it is indexed. -/
def sideTop (d : Desc) (k : Nat) : Nat := if d.gdim = some k then d.bound - 1 else d.ext.getD k 1 - 1

/-- Every element lies within the side's space; strides are multiples of ESIZE below 2^47 (R213). -/
def sideFits (d : Desc) : Bool :=
  let reach := fun (pos : Bool) => (List.range d.ext.length).foldl (fun (a : Int) k =>
    let v := d.stride.getD k 0 * (sideTop d k : Int)
    if pos then max a (a + v) else min a (a + v)) (d.base : Int)
  d.space == 2 || ((d.stride.all (fun s => s % (Desc.size d : Int) == 0 && decide (s.natAbs < 2 ^ 47)))
    && decide (0 ≤ reach false ∧ reach true + Desc.size d ≤ ((sideLimit d : Nat) : Int)))

/-- Strides and extents in ascending order of stride. -/
def insDim (x : Nat × Nat) : List (Nat × Nat) → List (Nat × Nat)
  | [] => [x]
  | y :: l => if x.1 ≤ y.1 then x :: y :: l else y :: insDim x l

/-- A write side does not alias: in ascending order each stride is at least the span of the dimensions before it, taken
together (R213; DEDUCED, LOG 103). -/
def sideApart (d : Desc) : Bool :=
  let dims := ((List.range d.ext.length).filter (fun k => decide (1 < d.ext.getD k 1) && d.gdim != some k)).map
    (fun k => ((d.stride.getD k 0).natAbs, d.ext.getD k 1))
  let rec go : Nat → List (Nat × Nat) → Bool
    | _, [] => true
    | span, (s, e) :: rest => decide (span ≤ s) && go (span + s * (e - 1)) rest
  d.space == 2 || go (Desc.size d) (dims.foldr insDim [])

/-- The reason code of the first condition of R213 and R218 a transfer fails (Table 11-4). -/
def xferReason (rd wd : Desc) : Option Nat :=
  let turned := fun (d : Desc) => match d.xdim with | some k => d.gdim == some k || decide (d.ext.getD k 1 ≤ d.rot) | none => false
  let count := fun (d : Desc) => (match d.gdim with | some k => d.ext.getD k 0 | none => 0 : Nat)
  if rd.esize ≠ wd.esize ∨ Desc.count rd ≠ Desc.count wd ∨ 2 ^ 48 ≤ Desc.count rd then some 1
  else if turned rd || turned wd then some 4
  else if 2 ^ 24 < count rd ∨ 2 ^ 24 < count wd ∨ 0xFFFFFFFF < rd.bound ∨ (wd.gdim.isSome ∧ 2 ^ 28 < wd.bound) then some 7
  else if !sideFits rd || !sideFits wd then some 2
  else if !sideApart wd then some 3
  else none

/-- What gensar checks of a descriptor pair of the bit-stream (R69, R214, R218, R221): valid, at most one side indexed, the
accumulator file on no standalone engine. -/
def xferAdmitted (x : XferSec) : Bool :=
  (xferReason x.rd x.wd).isNone && !(x.rd.gdim.isSome && x.wd.gdim.isSome) && x.rd.space != 3 && x.wd.space != 3

/-- What gensar checks of a store path's descriptor (R221): 4-byte entries of the file, no index. -/
def storePathAdmitted (d : Desc) : Bool :=
  d.space == 3 && d.esize == 2 && d.gdim.isNone && sideFits d && decide (d.ext.length ≤ 8) &&
    (match d.xdim with | some k => decide (d.rot < d.ext.getD k 1) | none => true)

/-! ### Tiles (R216) -/

/-- The tiles of a transfer, each a list of element numbers in run order: 64 by 64 elements along dimension 0 and the write
side's contiguous dimension; runs along that dimension. The order of the tiles is a DESIGN CHOICE, LOG 120. -/
def tiles (ext : List Nat) (cdim : Nat) : List (List Nat) :=
  let total := ext.foldl (· * ·) 1
  if cdim = 0 then (List.range (ceilDiv total 4096)).map (fun t => (List.range (min 4096 (total - 4096 * t))).map (fun i => 4096 * t + i))
  else
    let e0 := ext.headD 1
    let ek := ext.getD cdim 1
    let step := (ext.take cdim).foldl (· * ·) 1
    let bases := (List.range total).filter (fun n => n % e0 == 0 && n / step % ek == 0)
    bases.flatMap (fun b => (List.range (ceilDiv ek 64)).flatMap (fun tk => (List.range (ceilDiv e0 64)).map (fun t0 =>
      (List.range (min 64 (e0 - 64 * t0))).flatMap (fun i => (List.range (min 64 (ek - 64 * tk))).map (fun j =>
        b + 64 * t0 + i + step * (64 * tk + j))))))

/-- An element on its way: destination address, bytes, mark. -/
abbrev Elem := Nat × List Byte × Bool

/-- Neighbouring elements of one 64-byte beat joined into one write (R216). -/
def mergeElems : List Elem → List Elem
  | [] => []
  | (a, bs, p) :: rest =>
    match mergeElems rest with
    | (b, cs, q) :: more =>
      if b = a + bs.length ∧ a / 64 = (b + cs.length - 1) / 64 then (a, bs ++ cs, p || q) :: more
      else (a, bs, p) :: (b, cs, q) :: more
    | [] => [(a, bs, p)]

/-- Elements in ascending order of address. -/
def insElem (x : Elem) : List Elem → List Elem
  | [] => [x]
  | y :: l => if x.1 ≤ y.1 then x :: y :: l else y :: insElem x l

/-- The writes of one tile: those to one beat are merged, whatever order the elements come in (R216). -/
def mergeTile (es : List Elem) : List Elem :=
  ((es.map (fun e => e.1 / 64)).eraseDups).flatMap (fun b =>
    mergeElems ((es.filter (fun e => e.1 / 64 == b)).foldr insElem []))

/-- The writes of a transfer in tile order, and in run order within a tile (R216). -/
def tileWrites (ext : List Nat) (cdim : Nat) (es : List Elem) : List Elem :=
  let a := es.toArray
  (tiles ext cdim).flatMap (fun t => mergeTile (t.filterMap (fun n => a[n]?)))

/-! ### Writing elements (R223, R224) -/

/-- Writes of elements of `size` bytes: to staging memory within the tenant's windows, else to host or peer memory; those
whose check fails are not made (Table 5-8). Counts the failing writes, and poisoned ones when asked, and answers how many
elements failed. Its callers have had every write judged. -/
def writeElems (k : Key) (staging : Bool) (size : Nat) (countPoison : Bool) (es : List Elem) (b : Bad) (s : State) :
    Bad × Nat × State :=
  es.foldl (fun (acc : Bad × Nat × State) p =>
    let (a, bs, bad) := p
    let ok := if bad && countPoison then acc.1.add a 1 else acc.1
    let lost := fun (c : Cause) => (acc.1.add a 1, acc.2.1 + ceilDiv bs.length size, keyFlt k a c true acc.2.2)
    if staging then
      if inWindows acc.2.2 k.tenant a bs.length then (ok, acc.2.1, storeBytes a bs bad acc.2.2) else lost .window
    else
      match acc.2.2.fate k a true true with
      | .go xa t => (ok, acc.2.1, emit (.hostWrite k.ring.val xa bs bad t) acc.2.2)
      | .fail c => lost c
      | .wait => lost .atsFail) (b, 0, s)

/-- Pages a list of staging writes touches. -/
def elemPages (es : List Elem) : List Nat :=
  (es.flatMap (fun e => [e.1 / winUnit, (e.1 + e.2.1.length - 1) / winUnit])).eraseDups

/-- One page address of every page host writes touch, for the ATPU to judge. -/
def hostPages (addrs : List Nat) : List Nat := (addrs.map pageOf).eraseDups

/-! ### Engine queues (R209, 11.1.1) -/

/-- Waiting transfers go to engines that take new work (R209, R367). -/
def assignXfers : Nat → State → State
  | 0, s => s
  | k + 1, s =>
    match s.ma.xferWait, s.rowanFree with
    | x :: rest, some e =>
      assignXfers k ({ s with ma := { s.ma with xferWait := rest } }.onRowan e (fun y => { y with queue := y.queue ++ [x] }))
    | _, _ => s

/-- Every standalone engine is fenced (11.1.1). -/
def State.rowanDead (s : State) : Bool := s.ma.rowan.toList.all (·.fenced)

/-- A command's transfers reach the engine they were assigned to, with the descriptors of the first; they run when they
stand at its head, and until then the command is DELAYED (R209, R211). A command's transfers hold one place of the queue
(DESIGN CHOICE, LOG 32). -/
def claimEngine (r : Ring) (cid : Nat) (rd wd : Desc) (s : State) : Option Eng × State :=
  let at_ := fun (e : Eng) (s : State) =>
    match s.ma.rowan[e].queue with
    | j :: _ => if j.own = some (r, cid) then
        (some e, s.onRowan e (fun y => { y with st := 1, crossed := crossed j.x })) else (none, delayCmd r cid 7 0 s)
    | [] => (none, s)
  match s.engineOf r cid with
  | some e => at_ e s
  | none => match s.rowanFree with
    | none => (none, delayCmd r cid 7 0 s)
    | some e =>
      let j : RowanXfer := { x := { ring := r, rd := rd, wd := wd }, own := some (r, cid) }
      at_ e (s.onRowan e (fun y => { y with queue := y.queue ++ [j] }))

/-- Engines give up the transfers of commands that have completed, and waiting ones move up (R209). -/
def sweepEngines (s : State) : State :=
  let gone := fun (j : RowanXfer) => match j.own with
    | some (r, cid) => (s.rings[r].find cid).isNone
    | none => false
  let s1 := s.ma.rowan.toList.foldl (fun s x => x.queue.foldl (fun s j =>
    match j.own with | some (_, cid) => if gone j then leaveEngines cid s else s | none => s) s) s
  assignXfers s1.ma.xferWait.length s1

/-- Elements an engine moved, and how many failed (R224). -/
def countElems (e : Eng) (n lost : Nat) (s : State) : State :=
  s.onRowan e (fun x => { x with elems := x.elems + BitVec.ofNat 32 n, elemFlt := satAdd x.elemFlt lost })

/-! ### The pre-pass (R218 to R220) -/

/-- Index entries of a byte string. -/
def indexOf (isize n : Nat) (bs : List Byte) : List Nat := (List.range n).map (fun i => natLE ((bs.drop (isize * i)).take isize))

/-- The position of the first entry that is at or above BOUND or, in a scatter, repeats an earlier one, and its reason
code. -/
def badIndex (bound : Nat) (scatter : Bool) (idx : List Nat) : Option (Nat × Nat) :=
  (List.range idx.length).findSome? (fun i =>
    if bound ≤ idx.getD i 0 then some (i, 5)
    else if scatter && (idx.take i).contains (idx.getD i 0) then some (i, 6) else none)

/-- The aligned beats of `n` bytes from `a`. -/
def spanPlan (a n : Nat) : List Nat :=
  if n = 0 then [] else (List.range ((a % 64 + n + 63) / 64)).map (fun i => a / 64 * 64 + 64 * i)

end Sys2Proof.Machine
end

