-- ==== Sys2Proof/Machine/SnapOps.lean ====
section
/-! DEFINITION. Shared operations of snapshots, RESTORE and RESHARD (13): shard maps cut into chunks,
frozen pages, descriptors of pieces, canonical reading and scattering of elements, casts, and address tables. -/

namespace Sys2Proof.Machine

/-! ### Shard maps (R252 to R254) -/

/-- The product of extents. -/
def volume (ext : List Nat) : Nat := ext.foldl (· * ·) 1

/-- Indices of a box, dimension 0 fastest (R212). -/
def boxIdx : List Nat → List (List Nat)
  | [] => [[]]
  | e :: es => (boxIdx es).flatMap (fun rest => (List.range e).map (fun i => i :: rest))

/-- A chunk of a map: its range, tensor record, the piece it is cut from, and its box (R254). -/
structure ChunkPlan where
  range : Nat
  tensor : Nat
  dtype : DType
  piece : PieceSec
  lo : List Nat
  bext : List Nat
  deriving DecidableEq, Repr

/-- Canonical bytes of a chunk. -/
def ChunkPlan.canon (c : ChunkPlan) : Nat := dsize c.dtype * volume c.bext

/-- A piece lies in a range (Table 13-2). -/
def pieceIn (x : PieceSec) (g : RangeSec) : Bool :=
  x.slot == g.slot && decide (g.offset ≤ x.offset ∧ x.offset < g.offset + g.len)

/-- A replica of this box lies on a lower slot, or earlier on the same one (R276). -/
def isReplica (ps : List (PieceSec × Nat)) (x : PieceSec) (k : Nat) : Bool :=
  ps.any (fun q => q.1.tensor == x.tensor && q.1.lo == x.lo && q.1.bext == x.bext &&
    (decide (q.1.slot < x.slot) || (q.1.slot == x.slot && decide (q.2 < k))))

/-- The pieces packed or moved once: one of each set of replicas. -/
def firstPieces (m : MapSec) : List PieceSec :=
  let ps := m.pieces.zipIdx
  (ps.filter (fun p => !isReplica ps p.1 p.2)).map (·.1)

/-- 64 MiB. -/
def chunkMax : Nat := 67108864

/-- A piece cut along its slowest dimension longer than 1 into boxes of at most 64 MiB (R254). -/
def cutPiece (size : Nat) (x : PieceSec) : List (List Nat × List Nat) :=
  match ((List.range x.bext.length).filter (fun k => decide (1 < x.bext.getD k 1))).getLast? with
  | none => [(x.lo, x.bext)]
  | some k =>
    let n := x.bext.getD k 1
    let row := size * volume x.bext / n
    let per := max 1 (chunkMax / row)
    (List.range (ceilDiv n per)).map (fun i =>
      (x.lo.set k (x.lo.getD k 0 + i * per), x.bext.set k (min per (n - i * per))))

/-- The index of a map's tensor among the records in ascending TENSOR_ID. -/
def tensorIx (m : MapSec) (k : Nat) : Nat :=
  match m.tensors[k]? with
  | some t => ((sortTensors m.tensors).findIdx? (fun x => x.id == t.id)).getD 0
  | none => 0

def tensorType (m : MapSec) (k : Nat) : DType := ((m.tensors[k]?).map (·.dtype)).getD .fp32

/-- The chunks of a map in image order: by range, then in the order the map lists its pieces. -/
def mapChunks (m : MapSec) : List ChunkPlan :=
  m.ranges.zipIdx.flatMap (fun g => ((firstPieces m).filter (fun x => pieceIn x g.1)).flatMap (fun x =>
    (cutPiece (dsize (tensorType m x.tensor)) x).map (fun b =>
      { range := g.2, tensor := tensorIx m x.tensor, dtype := tensorType m x.tensor, piece := x, lo := b.1, bext := b.2 })))

/-- The share's canonical bytes (R259). -/
def shareBytes (m : MapSec) : Nat := (mapChunks m).foldl (fun n c => n + c.canon) 0

/-- The worst-case image size in sectors (R294). -/
def worstSectors (alg : Alg) (m : MapSec) : Nat :=
  let cs := mapChunks m
  imageTotal alg m.tensors.length cs.length (cs.foldl (fun n c => n + ceilDiv (ceilDiv c.canon 4096 * 4308) 4096) 0)

/-- Byte offset of an element of a box within its piece's slot. -/
def pieceOff (x : PieceSec) (lo : List Nat) (idx : List Nat) : Nat :=
  x.offset + (List.range x.strides.length).foldl (fun n k =>
    n + x.strides.getD k 0 * (lo.getD k 0 + idx.getD k 0 - x.lo.getD k 0)) 0

/-- A map's segment set with its element types (R253). -/
def segments (ts : List TensorSec) : List (Dword × List Nat × Nat × Nat) :=
  ts.map (fun t => (t.id, t.ext, t.segFirst, t.segCount))

/-- Two maps are compatible (R253). -/
def mapsCompatible (a b : MapSec) : Bool :=
  (segments a.tensors).all (fun x => (segments b.tensors).contains x)
    && (segments b.tensors).all (fun x => (segments a.tensors).contains x)
    && a.tensors.all (fun x => b.tensors.all (fun y => x.id != y.id || x.dtype == y.dtype ||
        (x.dtype != .int32 && y.dtype != .int32)))

/-- An image is compatible with a map: each of its segments is the map's, with the same DTYPE (R253). -/
def imageCompatible (ts : List TensorSec) (m : MapSec) : Bool :=
  ts.all (fun x => m.tensors.any (fun y =>
    x.id == y.id && x.ext == y.ext && x.segFirst == y.segFirst && x.segCount == y.segCount && x.dtype == y.dtype))

/-! ### Frozen pages (R265) -/

/-- The pages of every slot of a STAGING map. -/
def slotPages (m : MapSec) : List Nat :=
  match m.stagingBases with
  | none => []
  | some bs => (bs.take m.slots).flatMap (fun b => (List.range (ceilDiv m.slotBytes winUnit)).map (fun i => b / winUnit + i))

/-- One byte of the frozen state of a map: the original where its page was copied, else the live byte. -/
def frozenByte (s : State) (m : MapId) (a : Nat) : Byte :=
  match s.st.frozen.find? (fun f => f.map == m && f.page == a / winUnit && f.copied) with
  | some f => kvGet 0 f.bytes a
  | none => readByte s.st.mem a

def frozenBad (s : State) (m : MapId) (a : Nat) : Bool :=
  match s.st.frozen.find? (fun f => f.map == m && f.page == a / winUnit && f.copied) with
  | some f => f.bad.contains (a / 64)
  | none => s.st.memBad.contains (a / 64)

/-- Originals are returned, and pages never written released in place, once no range still to come
needs them (R265). -/
def thaw (m : MapSec) (isIn : List Bool) (s : State) : State :=
  let needed := m.ranges.zipIdx.flatMap (fun g =>
    if isIn.getD g.2 true then [] else
      let base := ((m.stagingBases.getD [])[g.1.slot]?).getD 0 + g.1.offset
      (List.range (ceilDiv (base % winUnit + g.1.len) winUnit)).map (fun i => base / winUnit + i))
  { s with st := { s.st with frozen := s.st.frozen.filter (fun f => f.map != m.id || needed.contains f.page) } }

/-! ### Reads of a byte run and of address tables -/

/-- Bytes and marks of beats, as bytes from the first beat's address. -/
def beatBytes (bs : List Beat) : Array Byte := (bs.flatMap (fun b => bytesLE 64 b.data)).toArray

/-- The 8-byte entries of a command's address table. -/
def tableOf (a n : Nat) (bs : List Beat) : List Nat :=
  let bytes := (beatBytes bs).toList.drop (a % 64)
  (List.range n).map (fun i => natLE ((bytes.drop (8 * i)).take 8))

/-! ### Elements to and from memory -/

/-- Where a map's slots lie: its staging bases, or the command's table. -/
def slotBases (m : MapSec) (table : List Nat) : List Nat := m.stagingBases.getD table

/-- The part of a box inside a piece. -/
def meetBox (lo bext plo pext : List Nat) : Option (List Nat × List Nat) :=
  let n := lo.length
  let dims := (List.range n).map (fun k =>
    let a := max (lo.getD k 0) (plo.getD k 0)
    let b := min (lo.getD k 0 + bext.getD k 0) (plo.getD k 0 + pext.getD k 0)
    (a, b - a))
  if dims.any (fun d => d.2 == 0) then none else some (dims.map (·.1), dims.map (·.2))

/-- Row-major position of an index within a box. -/
def linear : List Nat → List Nat → Nat
  | e :: es, i :: is => i + e * linear es is
  | _, _ => 0

/-- The descriptor the Steward builds for a piece (R211): its box in its slot. -/
def pieceDesc (m : MapSec) (bases : List Nat) (x : PieceSec) : Desc :=
  { base := (bases[x.slot]?).getD 0 + x.offset, space := if m.stagingBases.isNone then 0 else 1
    esize := match tensorType m x.tensor with | .bf16 => 1 | _ => 2
    ext := x.bext, stride := x.strides.map Int.ofNat }

/-- The wheel side of a piece's transfer: its elements in sequence order, as beats (R212). The descriptor names wheel 0
(DESIGN CHOICE, LOG 116). -/
def wheelDesc (d : Desc) : Desc := { space := 2, esize := d.esize, ext := d.ext, stride := d.ext.map (fun _ => 0) }

/-- The elements of one chunk for every piece of the map that meets its box, as writes in tile and run order, with the
elements written (R216, R269). -/
def scatterChunk (m : MapSec) (bases : List Nat) (id : Dword) (size : Nat) (lo bext : List Nat) (bytes : Array Byte)
    (bad : Nat → Bool) : Nat × List Elem :=
  (m.pieces.filter (fun x => ((m.tensors[x.tensor]?).map (·.id)) == some id)).foldl (fun acc x =>
    match meetBox lo bext x.lo x.bext with
    | none => acc
    | some (ilo, iext) =>
      let es := (boxIdx iext).map (fun idx =>
        let pos := linear bext ((List.range lo.length).map (fun k => ilo.getD k 0 + idx.getD k 0 - lo.getD k 0))
        (((bases[x.slot]?).getD 0 + pieceOff x ilo idx,
         (List.range size).map (fun i => (bytes[size * pos + i]?).getD 0), bad pos) : Elem))
      (acc.1 + es.length, acc.2 ++ tileWrites iext (contiguous (pieceDesc m bases x)) es)) (0, [])

/-- The addresses every element of a map's pieces takes in host memory, page by page, for the ATPU to judge. -/
def destHost (m : MapSec) (bases : List Nat) : List Nat :=
  if m.stagingBases.isSome then []
  else hostPages (m.pieces.flatMap (fun x => (boxIdx x.bext).map (fun idx => (bases[x.slot]?).getD 0 + pieceOff x x.lo idx)))

/-! ### Casts (R189) -/

/-- Bytes of an element under the destination's DTYPE. -/
def castElem (a b : DType) (bs : List Byte) : List Byte :=
  match a, b with
  | .fp32, .bf16 => toLE 2 (castDown (natLE bs))
  | .bf16, .fp32 => toLE 4 (castUp (natLE bs))
  | _, _ => bs

/-! ### Units a command needs (R143, R209, R230) -/

/-- Elements of a command's transfers pass the element tap of the engine that runs them (Table 12-2). -/
def rowanTap (e : Eng) (own : Ring × Nat) (streams : Unit → List (List Byte × List Nat)) (s : State) : State :=
  if (snoopsOn s (.rowan e)).isEmpty then s
  else (streams ()).foldl (fun s p => snoopRun (.rowan e) (elementBeats p.1 p.2) (some own) s) s

/-- Some unfenced crag runs a program of the kind. -/
def State.progRuns (s : State) (k : ProgKind) : Bool :=
  s.cfg.bs.programs.zipIdx.any (fun p => p.1.kind == k && (List.finRange 32).any (fun n =>
    let x := s.ma.crags[n]
    x.used && x.prog.toNat == p.2 && !x.fenced))

/-- The crag whose program of a kind serves a command: the one its stream goes to, else the lowest of its tenant, else the
lowest (DESIGN CHOICE, LOG 104). -/
def State.cragOf (s : State) (r : Ring) (cid : Nat) (k : ProgKind) : Option Crag :=
  let runs := fun (n : Crag) => match s.programOn n with | some p => p.kind == k | none => false
  match (List.finRange 64).find? (fun w => s.ma.wheels[w].streams.any (fun st => st.cid == some cid)) with
  | some w => some s.ma.wheels[w].crag
  | none => match (List.finRange 32).find? (fun n => runs n && s.ma.crags[n].tenant == s.ringTenant r) with
    | some n => some n
    | none => (List.finRange 32).find? runs

/-- The crag a command needs is suspended or moving: the command waits, DELAYED (R198, R204). -/
def State.progHeld (s : State) (r : Ring) (cid : Nat) (k : ProgKind) : Bool :=
  match s.cragOf r cid k with
  | some n => s.ma.crags[n].suspended || s.ma.crags[n].moving
  | none => false

/-- The kind of crag program a command uses. -/
def State.kindOf (s : State) (c : Cmd) : Option ProgKind :=
  match c.op with
  | 0x11 => some .pack
  | 0x13 => some .unpack
  | 0x14 => match s.map? (c.f 0x10 1), s.map? (c.f 0x11 1) with
    | some a, some b => if a.tensors.any (fun x => b.tensors.any (fun y => x.id == y.id && x.dtype != y.dtype)) then some .cast else none
    | _, _ => none
  | _ => none

/-- A started command has work in a crag (R143). -/
def State.usesCrag (s : State) (n : Crag) (r : Ring) (c : Cmd) : Bool :=
  match s.kindOf c with
  | some k => s.cragOf r c.cid k == some n
  | none => false

/-- The number of a crag that ran the kind of program. -/
def State.progUnit (s : State) (k : ProgKind) : Nat :=
  ((s.cfg.bs.programs.find? (fun p => p.kind == k)).map (fun p => p.crag.val)).getD 0

/-- A fenced unit that a snapshot, restore or re-shard needs and nothing else serves. -/
def fencedFor (s : State) (kind : Option ProgKind) (lane : Option Lane) : Option Nat :=
  if s.rowanDead then some 32
  else match lane with
    | some l => if s.ma.lanes[l].fenced then some (36 + l.val) else
        (match kind with | some k => if s.progRuns k then none else some (s.progUnit k) | none => none)
    | none => match kind with
      | some k => if s.progRuns k then none else some (s.progUnit k)
      | none => none

/-- A leaf digest stands in a free context of the leaf lane, as a PUBLIC result (R229, R235, T8). -/
def leafResult (l : Lane) (c : Chunk) (alg : Alg) (s : State) : State :=
  match freeCtx s.ma.lanes[l] with
  | none => s
  | some k => (laneCount l (4096 * c.secs.length) (if c.pois then 1 else 0) s).onCtx l k (fun x => { x with
    digest := ofBytes 512 c.leaf, state := 2, alg := BitVec.ofNat 2 (algCode alg), compare := false, cached := false
    tainted := c.pois, trunc := false, short := false, keyFail := false, keySlot := 0, cmpEq := false, cmpNeN := false
    len := BitVec.ofNat 64 (4096 * c.secs.length), ovf := 0, msg := none })

/-- The reader's counts joined to the counters of Table 14-9. -/
def countRead (o : ReadOut) (s : State) : State :=
  { s with st := { s.st with
      secOk := s.st.secOk + BitVec.ofNat 32 o.ok
      missing := satAdd s.st.missing o.missing, falseMark := satAdd s.st.falseMark o.falseMark
      recovered := satAdd s.st.recovered o.recovered, poisonSec := satAdd s.st.poisonSec o.poison
      stale := satAdd s.st.stale o.stale } }

/-! ### Staging copies kept and reclamation (R257, R304) -/

/-- An image's map for the two-newest rules; images of no map form one (R257). -/
def sameMap (a b : Image) : Bool := a.tenant == b.tenant && a.map == b.map

/-- Older staging copies are released once DURABLE; an image of no map releases its own at once (R257, R335). -/
def trimStaging (s : State) : State :=
  { s with st := { s.st with images := s.st.images.map (fun i =>
      let newer := (s.st.images.filter (fun j => sameMap i j && j.sealed_ && !j.copyOnly && decide (i.sealOrder < j.sealOrder))).length
      if i.sealed_ ∧ i.inStage ∧ i.durable ∧ (2 ≤ newer ∨ i.map.isNone) then
        { i with inStage := false, secs := [], blocks := 0 } else i) } }

/-- Age order of R304: lowest STEP, then the one DURABLE first. -/
def olderThan (a b : Image) : Bool :=
  decide (a.step.toNat < b.step.toNat) || (a.step == b.step && decide (a.durOrder < b.durOrder))

/-- Commands of the tenant reading an image (R304). -/
def beingRead (s : State) (i : Image) : Bool :=
  (List.finRange 16).any (fun r => s.ringTenant r == i.tenant &&
    ((s.rings[r].queue.filter (·.started)) ++ s.rings[r].past).any (fun c =>
      ((c.op == 0x13 || c.op == 0x20) && BitVec.ofNat 32 (c.f 0x18 4) == i.img)
        || (c.op == 0x12 && BitVec.ofNat 32 (c.f 0x10 4) == i.img)
        || (c.op == 0x18 && c.f 0x10 1 == 3 && BitVec.ofNat 32 (c.f 0x14 4) == i.img)))

/-- DURABLE images that reclamation may take for a tenant, oldest first (R304). -/
def reclaimable (s : State) (t : Tenant) : List Image :=
  let mine := s.st.images.filter (fun i => i.tenant == t && i.durable)
  let ok := mine.filter (fun i => !beingRead s i &&
    decide (2 ≤ (mine.filter (fun j => sameMap i j && olderThan i j)).length))
  let rec ins (x : Image) : List Image → List Image
    | [] => [x]
    | y :: l => if olderThan x y then x :: y :: l else y :: ins x l
  ok.foldr ins []

/-- Released one at a time until the reservation fits (R304). -/
def reclaimUntil (n : Nat) : List Image → State → Option State
  | [], s => if areaFits s n then some s else none
  | i :: is, s => if areaFits s n then some s else reclaimUntil n is (releaseImage i.tenant i.img s)

/-- The reservation of `n` sectors for a tenant, reclaiming as needed; none, and nothing released, when it
cannot be made (R303, R304). -/
def reserveArea (t : Tenant) (n : Nat) (s : State) : Option State := reclaimUntil n (reclaimable s t) s

end Sys2Proof.Machine
end

