-- ==== Sys2Proof/Machine/UnitOps.lean ====
section
/-! DEFINITION. Crags as units (10, 19): scan images, where a program may be placed, placement, and what fencing a
unit does. -/

namespace Sys2Proof.Machine

/-! ### Scan images (Table 10-4) -/

/-- Length of a scan image. -/
def scanLen : Nat := 0x120000

/-! The twelve bytes of a pending wait: CAIRN, MODE (0 none, 1 SLEEP, 2 HEAD_STALL; bit 7 for a wait out of range), two zero
bytes, TARGET, the sum applied. The k-th wait of a crag stands in the record of PE k (DESIGN CHOICE, LOG 105). -/

/-- A wait as a scan holds it. -/
def waitBytes (w : UnitWait) : List Byte :=
  toLE 1 w.cairn.val ++ toLE 1 ((match w.mode with | .sleep => 1 | .headStall => 2) + (if w.left.isNone then 128 else 0))
    ++ [0, 0] ++ bytesLE 4 w.target ++ bytesLE 4 w.sum

/-- Offset of the first byte of PE `p`'s wait. -/
def waitOff (p : Nat) : Nat := 0x1000 + 512 * p + 0xF4

/-- The PE and byte of a wait that offset `k` of a scan image is. -/
def waitAt (k : Nat) : Option (Nat × Nat) :=
  if 0x1000 ≤ k ∧ k < 0x9000 ∧ 0xF4 ≤ k % 512 ∧ k % 512 < 0x100 then some ((k - 0x1000) / 512, k % 512 - 0xF4) else none

/-- Byte `k` of a scan image, from 0x40 up. -/
def scanByte (s : State) (n : Crag) (waits : Array (List Byte)) (k : Nat) : Byte :=
  match waitAt k with
  | some (p, i) => ((waits[p]?).getD []).getD i 0
  | none => s.ma.crags[n].byte k

/-- The waits of a crag, in the order they were presented. -/
def State.cragWaits (s : State) (n : Crag) : List UnitWait := s.ma.waits.filter (fun w => w.unit == .crag n)

/-- The header of a scan image, its CRC field taken as 0. -/
def scanHead (s : State) (n : Crag) (reason : Nat) : List Byte :=
  toLE 4 0x314E4353 ++ toLE 2 1 ++ toLE 1 n.val ++ [s.ma.crags[n].prog] ++ bytesLE 8 s.cfg.loadId ++ toLE 1 reason
    ++ List.replicate 47 0

/-- An image of header and body, with its CRC-32C. -/
def sealScan (head body : List Byte) : List Byte := head.take 0x3C ++ toLE 4 (crc32c (head ++ body)) ++ body

/-- The scan image of a crag. -/
def scanImage (s : State) (n : Crag) (reason : Nat) : List Byte :=
  let waits := ((s.cragWaits n).map waitBytes).toArray
  sealScan (scanHead s n reason) ((List.range (scanLen - 0x40)).map (fun k => scanByte s n waits (0x40 + k)))

/-- Bytes as sparse memory from 0. -/
def cellsOf (bs : List Byte) : List Host.Cell := writeBytes 0 bs []

/-! ### Placement (R41, R204, R367) -/

/-- Distance of two crags on the wake network (R158). -/
def hops (a b : Crag) : Nat :=
  let row := fun (n : Crag) => n.val / 8
  let col := fun (n : Crag) => n.val % 8
  let dr := max (row a) (row b) - min (row a) (row b)
  min dr (4 - dr) + (max (col a) (col b) - min (col a) (col b))

/-- A crag a program may be placed on: not used, fenced, claimed, gated, suspended or marked, and not the source of a
move within 60 s (R41, R202, R204, R367, 10.6.1). -/
def State.eligible (s : State) (n : Crag) : Bool :=
  let x := s.ma.crags[n]
  !x.used && !x.fenced && !x.keep && !x.clkGate && !x.pwrGate && !x.suspended && s.usable n.val
    && (match x.lastMove with | some t => decide (t + 60000000 ≤ s.now) | none => true)

/-- The nearest of the crags that may take a program from `n`; ties go to the lowest number. -/
def nearest (s : State) (n : Crag) (ok : Crag → Bool) : Option Crag :=
  ((List.finRange 32).filter (fun m => s.eligible m && ok m)).foldl (fun b m => match b with
    | none => some m
    | some k => if hops n m < hops n k then some m else some k) none

/-- PLACE_MAP entry of a program. -/
def setPlace (p : Byte) (n : Byte) (s : State) : State :=
  if h : p.toNat < 32 then { s with cfg := { s.cfg with placeMap := s.cfg.placeMap.set p.toNat n } } else s

/-- Wheels bound to one crag are bound to another (9.1.1). -/
def rebind (a b : Crag) (s : State) : State :=
  { s with ma := { s.ma with wheels := mapBank (fun _ x => if x.en && x.crag == a then { x with crag := b } else x) s.ma.wheels } }

/-- A program stands on a crag in its initial state, at rest. -/
def placeOn (n : Crag) (p : Byte) (t : Tenant) (body : List Host.Cell) (s : State) : State :=
  setPlace p (BitVec.ofNat 8 n.val) (s.onCrag n (fun x => { x with
    used := true, prog := p, tenant := t, body := body, rest := true, restSince := s.now, step := none
    undefinedSince := none, written := [] }))

/-- A crag no longer runs a program. -/
def unplace (n : Crag) (s : State) : State :=
  s.onCrag n (fun x => { x with
    used := false, prog := 0xFF, body := [], rest := false, step := none, undefinedSince := none, written := [] })

/-- The program of a number, of the loaded bit-stream. -/
def State.prog? (s : State) (p : Byte) : Option ProgSec := s.cfg.bs.programs[p.toNat]?

/-! ### Fencing (R383) -/

/-- Commands with work in a unit complete DISCARDED with reason FAULT (R143, R383). -/
def discardWork (unit : Nat) (uses : Ring → Cmd → Bool) (s : State) : State :=
  (List.finRange 16).foldl (fun s r =>
    ((s.rings[r].queue ++ s.rings[r].past).filter (fun c => c.started && uses r c)).foldl
      (fun s c => pushEntry r c (faultOutc unit) (abortContexts c.cid s)) s) s

/-- The data words a capture may fail to read: those of ports and PE records, crag store and accumulators. -/
def scanData (k : Nat) : Bool :=
  scanStore k || decide (0x40 ≤ k ∧ k < 0x240 ∧ (k - 0x40) % 128 < 64) || decide (0x1000 ≤ k ∧ k < 0x9000 ∧ k % 512 < 0xD0)

/-- The word, by offset ÷ 4, whose poison bit `i` of the byte at offset `k` is. -/
def markedWord (k i : Nat) : Option Nat :=
  if 0x110000 ≤ k ∧ k < 0x118000 then some (0x4000 + 8 * (k - 0x110000) + i)
  else if 0x11C000 ≤ k ∧ k < 0x11C200 then some (0x46000 + 8 * (k - 0x11C000) + i)
  else if 0x1000 ≤ k ∧ k < 0x9000 ∧ 0x100 ≤ k % 512 ∧ k % 512 < 0x10D then
    if i % 2 = 0 then some (k / 512 * 128 + (8 * (k % 512 - 0x100) + i) / 2) else none
  else if 0x40 ≤ k ∧ k < 0x240 ∧ (k - 0x40) % 128 ∈ [68, 69] then
    some ((k - (k - 0x40) % 128) / 4 + 8 * ((k - 0x40) % 128 - 68) + i)
  else none

/-- Byte `k` of a capture: words that cannot be read are stored as 0 and marked poisoned (R206). Which those are is a free
value (DESIGN CHOICE, LOG 111). -/
def capturedByte (s : State) (n : Crag) (waits : Array (List Byte)) (k : Nat) : Byte :=
  let b := scanByte s n waits k
  if scanData k then (if Config.freeLost s.freeIx (k / 4) then 0 else b)
  else (List.range 8).foldl (fun b i => match markedWord k i with
    | some w => if Config.freeLost s.freeIx w then setBit b i true else b
    | none => b) b

/-- A fault capture into the oldest of the four buffers (R206). -/
def capture (n : Crag) (s : State) : State :=
  let waits := ((s.cragWaits n).map waitBytes).toArray
  let image := sealScan (scanHead s n 3) ((List.range (scanLen - 0x40)).map (fun k => capturedByte s n waits (0x40 + k)))
  { s with
    freeIx := s.freeIx + 1
    ma := { s.ma with
      captures := modAt s.ma.captures (ix 3 (s.ma.capCount % 4)) (fun _ =>
        { valid := true, num := s.ma.capCount, image := cellsOf image })
      capCount := s.ma.capCount + 1 } }

/-- A fenced crag's program is reloaded in its initial state on the nearest eligible crag, or PLACE_NOSPARE is raised
(R206). -/
def reloadElsewhere (n : Crag) (s : State) : State :=
  let x := s.ma.crags[n]
  if x.used = false then s
  else
    let s1 := unplace n s
    match nearest s1 n (fun _ => true), s1.prog? x.prog with
    | some m, some p => rebind n m (placeOn m x.prog x.tenant p.initial s1)
    | _, _ => raiseEvent 0x0503 0xFF (BitVec.ofNat 32 x.prog.toNat) 0 (setPlace x.prog 0xFF s1)

/-- A crag is fenced: captured (a claimed one is zeroised instead), its work discarded, UNIT_FENCED raised, its program
reloaded elsewhere (R206, R351, R383). -/
def fenceCrag (n : Crag) (why : Nat) (s : State) : State :=
  let x := s.ma.crags[n]
  if x.fenced then s
  else
    let s1 := if x.keep then { zeroCrag n s with cfg := { s.cfg with claimFenced := true } } else capture n s
    let s2 := s1.onCrag n (fun x => { x with fenced := true, suspended := false, moving := false, scanBusy := false })
    let s3 := if x.used then dropStreams n (discardWork n.val (s.usesCrag n) s2) else s2
    let s4 := { s3 with ma := { s3.ma with waits := s3.ma.waits.filter (fun w => w.unit != .crag n) } }
    let s5 := raiseEvent 0x0601 (BitVec.ofNat 8 n.val) 0 (BitVec.ofNat 32 why) s4
    refreshView (reloadElsewhere n s5)

/-- A command's stream stands on a wheel. -/
def onWheelCmd (s : State) (w : Wheel) (c : Cmd) : Bool := s.ma.wheels[w].streams.any (fun st => st.cid == some c.cid)

/-- A wheel is fenced until the next load: its slots are emptied, and commands with a stream on it complete DISCARDED
(R168). -/
def fenceWheel (w : Wheel) (why : Nat) (s : State) : State :=
  if s.ma.wheels[w].fenced then s
  else
    let s1 := s.onWheel w (fun x => { x with fenced := true })
    let s2 := dropStream w (discardWork (0x80 + w.val) (fun _ c => onWheelCmd s w c) s1)
    raiseEvent 0x0601 (BitVec.ofNat 8 (0x80 + w.val)) 0 (BitVec.ofNat 32 why) s2

/-! ### Rowan queues (R209) -/

/-- The reads of an engine's transfer no longer serve it. -/
def dropXferReads (e : Eng) (s : State) : State :=
  { s with link := { s.link with reads := s.link.reads.map (fun q => match q.what with
      | .xfer f _ => if f = e then { q with what := .dropped } else q
      | _ => q) } }

/-- Transfers queued on an engine, after the first `keep`, move to the others and run there from their start (11.1.1); those
of commands are assigned anew when their command goes on. -/
def requeue (e : Eng) (keep : Nat) (s : State) : State :=
  let x := s.ma.rowan[e]
  let go := ((x.queue.drop keep).filter (fun y => y.own.isNone)).map (fun y => { y with presented := false })
  let s1 := s.onRowan e (fun x => if keep = 0 then { x.next with queue := [] } else { x with queue := x.queue.take keep })
  let s1 := if keep = 0 then dropXferReads e s1 else s1
  let s2 := { s1 with ma := { s1.ma with xferWait := go ++ s1.ma.xferWait
                                         waits := if keep = 0 then s1.ma.waits.filter (fun w => w.unit != .rowan e) else s1.ma.waits } }
  assignXfers s2.ma.xferWait.length s2

/-- An engine is fenced: commands with transfers in it complete DISCARDED, and the bit-stream's run on other engines
(R209, R225). -/
def fenceRowan (e : Eng) (why : Nat) (s : State) : State :=
  if s.ma.rowan[e].fenced then s
  else
    let s1 := s.onRowan e (fun x => { x with fenced := true, st := 4 })
    let s2 := discardWork (32 + e.val) (fun r c => s.engineOf r c.cid == some e) s1
    refreshView (requeue e 0 (raiseEvent 0x0601 (BitVec.ofNat 8 (32 + e.val)) 0 (BitVec.ofNat 32 why) s2))

end Sys2Proof.Machine
end

