-- ==== Sys2Proof/Machine/LoadOps.lean ====
section
/-! DEFINITION. Loading a bit-stream (04): the container of Tables 4-3 and 4-4, the checks of Table 4-8, and the
teardown and set-up of R72. -/

namespace Sys2Proof.Machine

/-! ### The container (R65 to R68) -/

/-- A little-endian field of a container. -/
def gsbN (bs : List Byte) (off n : Nat) : Nat := natLE ((bs.drop off).take n)

/-- An entry of the section table (Table 4-4). -/
structure GsbEnt where
  type : Nat
  sver : Nat
  flags : Nat
  off : Nat
  len : Nat
  deriving DecidableEq, Repr

def gsbEnt (bs : List Byte) (i : Nat) : GsbEnt :=
  let e := 64 + 24 * i
  { type := gsbN bs e 2, sver := gsbN bs (e + 2) 2, flags := gsbN bs (e + 4) 4, off := gsbN bs (e + 8) 8
    len := gsbN bs (e + 16) 8 }

def gsbEnts (bs : List Byte) : List GsbEnt := (List.range (gsbN bs 0xC 4)).map (gsbEnt bs)

/-- The section types of Table 4-2. -/
def gsbTypes : List Nat := [1, 2, 3, 4, 5, 6, 7, 8, 9, 0xA, 0xF0, 0xFF]

/-- A section the engine knows; SVER 1 is the format version it reads (DEDUCED, LOG 18). -/
def GsbEnt.known (e : GsbEnt) : Bool := gsbTypes.contains e.type && e.sver == 1

/-- Sections in order from `at_`: aligned, ascending, apart, with zero padding, each type once, none unknown that is
REQUIRED. -/
def entsOk (bs : List Byte) : Nat → List Nat → List GsbEnt → Bool
  | _, _, [] => true
  | at_, seen, e :: es =>
    decide (e.flags < 2) && e.off % 8 == 0 && decide (at_ ≤ e.off) && ((bs.drop at_).take (e.off - at_)).all (· == 0)
      && !seen.contains e.type && (e.known || e.flags == 0) && entsOk bs (e.off + e.len) (e.type :: seen) es

/-- Check 3 of Table 4-8: R65 and R68. Table 4-2's required sections must be there (DEDUCED, LOG 18). -/
def formatOk (bs : List Byte) (len : Nat) : Bool :=
  let ents := gsbEnts bs
  gsbN bs 0 4 == 0x31425347 && gsbN bs 4 2 == 1 && gsbN bs 8 4 == 64 && decide (4 ≤ gsbN bs 0xC 4 ∧ gsbN bs 0xC 4 ≤ 32)
    && gsbN bs 0x10 8 == len && decide (len ≤ 67108864) && decide (64 + 24 * gsbN bs 0xC 4 ≤ len)
    && gsbN bs 0x24 4 == 64 && gsbN bs 0x28 24 == 0
    && entsOk bs (64 + 24 * gsbN bs 0xC 4) [] ents
    && (match ents.getLast? with | some e => e.type == 0xFF && e.off + e.len == len | none => false)
    && [1, 2, 0xF0, 0xFF].all (fun t => ents.any (fun e => e.type == t && e.known))

/-- Where SIGNATURE starts. -/
def sigAt (bs : List Byte) : Nat := ((gsbEnts bs).getLast?.map (·.off)).getD 0

/-- Check 7: the form of R67, and the Keep's verdicts. -/
def signatureOk (bs : List Byte) (g : Gsb) : Bool :=
  let a := sigAt bs
  let n := gsbN bs (a + 4) 4
  decide (n ≤ 2048) && a + 104 + n == bs.length && g.certOk && g.sigOk

/-- The bit-stream digest, octet 0 lowest (R66). -/
def gsbDigest (bs : List Byte) : BitVec 384 := ofBytes 384 (sha .sha384 (bs.take (sigAt bs)))

/-- The binding digest over every section but ADMISSION and SIGNATURE, in table order (R70). -/
def bindingDigest (bs : List Byte) : BitVec 384 :=
  ofBytes 384 (sha .sha384 (((gsbEnts bs).filter (fun e => e.type != 0xF0 && e.type != 0xFF)).flatMap
    (fun e => (bs.drop e.off).take e.len)))

/-! ### What the sections spell -/

/-- The contents of the sections the engine knows: what an unknown one spells is skipped (R68). Lanes, transfers and index
tables, to which Table 4-2 gives no section, come with the required ones (DESIGN CHOICE, LOG 9). -/
def knownPart (bs : List Byte) (b : Sections) : Sections :=
  let has := fun (t : Nat) => (gsbEnts bs).any (fun e => e.type == t && e.known)
  { b with
    programs := if has 3 then b.programs else [], routes := if has 4 then b.routes else []
    wheels := if has 5 then b.wheels else [], maps := if has 6 then b.maps else []
    service := if has 7 then b.service else [], streams := if has 8 then b.streams else []
    opens := if has 9 then b.opens else [], settings := if has 0xA then b.settings else [] }

/-- The SERVICE entries of a bit-stream; what it omits is ELASTIC with WEIGHT 1 and AMOUNT 0 (R339). -/
def svcTable (b : Sections) (k : Res) : Vector SvcEnt 64 := Vector.ofFn (fun q : Fin 64 =>
  match b.service.find? (fun x => x.req == q && x.res == k) with
  | some x => { cls := x.cls, weight := BitVec.ofNat 8 x.weight, amount := BitVec.ofNat 16 x.amount }
  | none => {})

/-- The admission total of each resource (R341). -/
def bsTotals (b : Sections) : List Nat := (List.finRange 7).map (fun k => Arb.total { ent := svcTable b k })

/-- At most one owner for each unit of a bank. -/
def onceEach {n : Nat} (l : List (BitVec n)) : Bool :=
  (List.range n).all (fun i => decide ((l.filter (fun x => bit x i)).length ≤ 1))

/-- Extents lie in the Vault and do not overlap (R350). -/
def extentsOk (ts : List TenantSec) : Bool :=
  ts.all (fun t => decide (t.extBase < 65536 ∧ t.extLen < 65536 ∧ t.extBase + t.extLen ≤ 65536)) &&
  ts.all (fun t => ts.all (fun u => t.tenant == u.tenant || t.extLen == 0 || u.extLen == 0 ||
    decide (t.extBase + t.extLen ≤ u.extBase) || decide (u.extBase + u.extLen ≤ t.extBase)))

/-- What gensar checks of a program: one PE program per PE, store paths as R221 admits them. -/
def programOk (p : ProgSec) : Bool :=
  decide (p.size ≤ 262144) && decide ((p.pes.map (·.pe)).eraseDups.length = p.pes.length)
    && p.pes.all (fun x => x.body.all (fun i => match i.op with | .accStore d _ => storePathAdmitted d | _ => true))

/-- Check 9: the structural limits of Table 4-7 and R350, the values of LIMITS and SETTINGS that have an encoding (R6), and
the limits on descriptors (R214; DEDUCED, LOG 108). -/
def limitsOk (b : Sections) : Bool :=
  let ts := b.tenants
  decide (1 ≤ ts.length ∧ ts.length ≤ 8) && decide ((ts.map (·.tenant)).eraseDups.length = ts.length)
    && ts.any (fun t => t.tenant == 0 && t.rings != 0)
    && onceEach (ts.map (·.rings)) && onceEach (ts.map (·.cairns)) && onceEach (b.keepCrags :: ts.map (·.crags))
    && onceEach (ts.map (·.wheels)) && onceEach (b.keepLanes :: ts.map (·.lanes))
    && onceEach (b.keepSlots :: ts.map (·.kslots))
    && b.wheels.all (fun w => decide (3 ≤ w.depth ∧ w.depth ≤ 16))
    && b.settings.all (fun x => match x.field with
      | .tagCap _ => decide (16 ≤ x.value ∧ x.value ≤ 512)
      | .wmode _ | .amode _ => decide (x.value ≤ 1)
      | _ => true)
    && [0, 1, 2, levelOff].contains b.limits.level && b.xfers.all xferAdmitted
    && b.programs.all programOk && decide ((b.programs.map (·.crag)).eraseDups.length = b.programs.length)
    && decide (b.maps.length ≤ 16)
    && b.maps.all (fun m => decide (m.tensors.length ≤ 65536)
      && m.tensors.all (fun t => decide (t.ext.length ≤ 8) && decide (volume t.ext < 2 ^ 48)))
    && decide (b.limits.minStep ≤ 2) && extentsOk ts

/-- The owner a TENANTS field gives; none where no tenant has the bit. -/
def ownerBy {n : Nat} (b : Sections) (f : TenantSec → BitVec n) (i : Nat) : Option Tenant :=
  (b.tenants.find? (fun t => bit (f t) i)).map (·.tenant)

/-! ### The EXPERT state a load ends (R73, R78) -/

/-- Unlock state, the open arm and pending expert writes go; the NONCE sequence restarts. -/
def clearExpert (s : State) : State :=
  { s with cfg := { s.cfg with unlocked := 0, arm := none, nonce := 0, pend := [] } }

/-! ### Teardown (R72) -/

/-- Images whose LBAs the new extents cover are released (R350). -/
def releaseCovered (b : Sections) (s : State) : State :=
  (s.st.images.filter (fun i => i.sealed_ && !i.copyOnly && b.tenants.any (fun t =>
      decide (i.lba < (t.extBase + t.extLen) * 262144 ∧ t.extBase * 262144 < i.lba + i.total)))).foldl
    (fun s i => releaseImage i.tenant i.img s) s

/-- Every OPEN image is abandoned (R258). -/
def abandonOpen (s : State) : State :=
  (s.st.images.filter (fun i => !i.sealed_ && !i.copyOnly)).foldl (fun s i => abandonImage i.tenant i.img s) s

/-- Previous claims are zeroised (Table 18-5). -/
def zeroPrevious (s : State) : State :=
  ((List.finRange 32).filter (fun k => s.ma.keys[k].keep)).foldl (fun s k => zeroKey k s) (zeroClaims s)

/-- What stands of a crag after a load's reset: its counters, its temperature, a lasting fence, its scan address. -/
def resetCrag (x : CragSt) : CragSt :=
  { fenced := x.fenced, ce := x.ce, ue := x.ue, fire := x.fire, stall := x.stall, pad := x.pad, temp := x.temp
    scanAddr := x.scanAddr, scanRes := x.scanRes, lastMove := x.lastMove, ceAt := x.ceAt }

/-- A wheel after a load's teardown: emptied, not configured, its fence gone (R168); its counters stand. -/
def resetWheel (x : WheelSt) : WheelSt :=
  { beats := x.beats, poison := x.poison, cTag := x.cTag, cSlot := x.cSlot, cEmpty := x.cEmpty }

/-- A lane after a load's teardown: no messages, no role; its result slots and counters stand. -/
def resetLane (x : LaneSt) : LaneSt :=
  { bytes := x.bytes, truncCnt := x.truncCnt, taintCnt := x.taintCnt, glitchCnt := x.glitchCnt, tapStall := x.tapStall
    expect := x.expect, ctx := mapBank (fun _ c => { c with msg := none }) x.ctx }

/-- The previous configuration is torn down: crags reset, wheels emptied, waits released, Orchard host lines dropped,
gates and holds returned to 0 (R72, R180, R356). Only here are OPEN images abandoned: a load that fails one of checks 3 to 10
leaves them (DESIGN CHOICE, LOG 91). -/
def tearDown (s : State) : State :=
  let s1 := zeroPrevious (abandonOpen s)
  fencePower { s1 with
    cfg := { s1.cfg with
      loaded := false, digest := 0, loadId := 0, bs := {}, placeMap := Vector.replicate 32 0xFF
      laneGate := 0, slotGate := 0, laneSt := Vector.replicate 16 0, slotSt := Vector.replicate 32 0, holds := []
      claimFenced := false, warnKind := 0, warnItems := [] }
    ma := { s1.ma with
      crags := mapBank (fun _ x => resetCrag x) s1.ma.crags
      wheels := mapBank (fun _ x => resetWheel x) s1.ma.wheels
      lanes := mapBank (fun _ x => resetLane x) s1.ma.lanes
      keys := mapBank (fun _ x => { x with keep := false, given := none, off := false }) s1.ma.keys
      lines := s1.ma.lines.filter (·.staging)
      rowan := mapBank (fun _ x => { x.next with queue := [] }) s1.ma.rowan
      xferWait := [], waits := [] }
    link := { s1.link with reads := s1.link.reads.filterMap (fun q => match q.what with
      | .wheel .. | .xfer .. => some { q with what := .dropped }
      | .merged .. => none
      | _ => some q) } }

/-! ### Set-up (R72) -/

/-- The tenant table and the cairns (R349, R163, R146). -/
def setTenants (b : Sections) (s : State) : State :=
  { s with
    tenants := Vector.ofFn (fun t : Fin 8 => match b.tenants.find? (fun x => x.tenant == t) with
      | some x => { valid := true, rings := x.rings, extLen := BitVec.ofNat 16 x.extLen, extBase := BitVec.ofNat 16 x.extBase }
      | none => {})
    cairns := Vector.ofFn (fun c : Fin 128 =>
      { owner := (ownerBy b (·.cairns) c.val).getD 0
        value := ((b.limits.cairnInit.find? (fun p => p.1 == c)).map (·.2)).getD 0 }) }

/-- Crags, lanes and key slots get their owners and the Keep its claims (R351, R354). -/
def setOwners (b : Sections) (s : State) : State :=
  let keys := (List.finRange 32).filter (fun k => s.ma.keys[k].loaded && (bit b.keepSlots k.val ||
    (match ownerBy b (·.kslots) k.val with | some t => t != s.ma.keys[k].owner | none => false)))
  let s1 := keys.foldl (fun s k => zeroKey k s) s
  { s1 with
    cfg := { s1.cfg with claimFenced :=
      (List.finRange 32).any (fun n => bit b.keepCrags n.val && s1.ma.crags[n].fenced)
        || (List.finRange 16).any (fun l => bit b.keepLanes l.val && s1.ma.lanes[l].fenced) }
    ma := { s1.ma with
      crags := mapBank (fun i x => { x with
        keep := bit b.keepCrags i, tenant := if bit b.keepCrags i then 0 else (ownerBy b (·.crags) i).getD 0 }) s1.ma.crags
      lanes := mapBank (fun i x => { x with
        keep := bit b.keepLanes i, owned := (ownerBy b (·.lanes) i).isSome, owner := (ownerBy b (·.lanes) i).getD 0
        role := if (ownerBy b (·.lanes) i).isSome || bit b.keepLanes i
          then ((b.lanes.find? (fun y => y.lane.val == i)).map (·.role)).getD .idle else .idle
        snoops := ((b.lanes.find? (fun y => y.lane.val == i)).map (·.snoops)).getD [] }) s1.ma.lanes
      keys := mapBank (fun i x => { x with keep := bit b.keepSlots i, given := ownerBy b (·.kslots) i }) s1.ma.keys } }

/-- A stream as its wheel starts with it. -/
def strmOf (t : StreamSec) : Strm :=
  { gen := t.gen, ring := t.ring, staging := t.staging, addr := t.addr, beats := t.beats, drain := t.drain, consumed := t.consumed }

/-- Wheels and their streams; a wheel that is not configured counts nothing (R164). -/
def setWheels (b : Sections) (s : State) : State :=
  { s with ma := { s.ma with wheels := mapBank (fun i x => match b.wheels.find? (fun y => y.wheel.val == i) with
      | none => {}
      | some y =>
        { x with
          en := true, output := y.output, tenant := (ownerBy b (·.wheels) i).getD 0, depth := BitVec.ofNat 5 y.depth
          pfTags := BitVec.ofNat 8 y.pfTags, orc := y.orc, port := BitVec.ofNat 2 y.port.val, crag := y.crag
          streams := (b.streams.filter (fun t => t.wheel == y.wheel)).map strmOf }) s.ma.wheels } }

/-- One value of SETTINGS (R64): the per-ring settings. -/
def setSetting (x : SettingSec) (s : State) : State :=
  match x.field with
  | .wmode r => s.onRing r (fun y => { y with durable := x.value != 0 })
  | .amode r => s.onRing r (fun y => { y with resetOnly := x.value != 0 })
  | .tagCap r => s.onRing r (fun y => { y with tagCap := BitVec.ofNat 10 x.value })
  | .stallMs r => s.onRing r (fun y => { y with stallMs := BitVec.ofNat 16 x.value })
  | _ => s

/-- The service table, with fresh buckets (R340). -/
def setService (b : Sections) (s : State) : State :=
  (List.finRange 7).foldl (fun s k => s.onArb k (fun a =>
    { a with ent := svcTable b k, age := Vector.replicate 64 0, tokens := Vector.replicate 64 64, tokAt := s.now, last := 0
             share := 0 })) s

/-- The ignored combinations of a bit-stream: kind and item (Table 20-5, R397). -/
def bsWarnings (b : Sections) : List (Nat × Nat) :=
  let xform := fun (d : Desc) => d.xdim.isSome && !d.rev && d.rot == 0
  ((b.streams.zipIdx.filter (fun p => !p.1.consumed)).map (fun p => (0, p.2)))
    ++ ((b.wheels.filter (fun w => w.output && w.pfTags != 0)).map (fun w => (1, w.wheel.val)))
    ++ b.xfers.zipIdx.flatMap (fun p => (if xform p.1.rd then [(2, 2 * p.2)] else [])
        ++ (if xform p.1.wd then [(2, 2 * p.2 + 1)] else []))
    ++ (b.service.filter (fun x => x.cls == .background)).flatMap (fun x =>
        (if x.amount ≠ 0 then [(3, 2 * (7 * x.req.val + x.res.val))] else [])
        ++ (if x.weight ≠ 1 then [(3, 2 * (7 * x.req.val + x.res.val) + 1)] else []))
    ++ b.lanes.flatMap (fun l => l.snoops.zipIdx.flatMap (fun p =>
        let i := 64 * l.lane.val + p.2
        let rx := p.1.tap == .pairRx
        (if p.1.keyed = .composed ∧ p.1.compare then [(4, i)] else [])
        ++ (if rx ∧ !p.1.compare then [(5, 4 * i)] else []) ++ (if rx ∧ p.1.keyed ≠ .unkeyed then [(5, 4 * i + 1)] else [])
        ++ (if rx ∧ p.1.fixedAlg then [(5, 4 * i + 2)] else [])
        ++ (match p.1.keyed with | .cached _ => if p.1.resumable then [(7, i)] else [] | _ => [])))

/-- CFG_WARN set afresh, from the bit-stream and the retained peer table (R397). -/
def setWarnings (b : Sections) (s : State) : State :=
  let s1 := (bsWarnings b).foldl (fun s p => flagWarn p.1 p.2 s) s
  (List.finRange 4).foldl (fun s e =>
    let c := s.pair.peers[e].cfg
    if c.valid && c.drain && !c.ward then flagWarn 6 e.val s else s) s1

/-- Every program is loaded: on its crag, or on the nearest eligible one where that crag is fenced, marked, or fails
to load after its retry, which fences it (R72, R367, R383). Answers a crag whose program found no place. -/
def placeAll (fails : List Crag) (named : List Crag) : List (ProgSec × Nat) → State → Option Crag × State
  | [], s => (none, s)
  | (p, i) :: rest, s =>
    let n := p.crag
    let t := s.ma.crags[n].tenant
    let s1 := if fails.contains n ∧ !s.ma.crags[n].fenced then fenceCrag n 1 s else s
    if !s1.ma.crags[n].fenced && !s1.cfg.mgmtOff.contains n.val then
      placeAll fails named rest (placeOn n (BitVec.ofNat 8 i) t p.initial s1)
    else
      match nearest s1 n (fun m => !named.contains m && !fails.contains m) with
      | some m => placeAll fails named rest (rebind n m (placeOn m (BitVec.ofNat 8 i) t p.initial s1))
      | none => (some n, s1)

/-- The engine without a bit-stream (R46): its crags, wheels, lanes and service table are not configured. -/
def unconfigure (s : State) : State :=
  setWarnings {} (setService {} { s with
    cfg := { s.cfg with bs := {}, placeMap := Vector.replicate 32 0xFF, warnKind := 0, warnItems := [] }
    ma := { s.ma with
      crags := mapBank (fun _ x => { resetCrag x with clkGate := false }) s.ma.crags
      wheels := Vector.replicate 64 {}
      lanes := mapBank (fun _ x => { resetLane x with fenced := x.fenced }) s.ma.lanes
      keys := mapBank (fun _ x => { x with keep := false, given := none }) s.ma.keys
      xferWait := [] } })

/-- The new configuration is set up, but for check 11. -/
def setUp (b : Sections) (s : State) : State :=
  let s1 := setWheels b (setOwners b (setTenants b s))
  let s2 := b.settings.foldl (fun s x => setSetting x s) s1
  setWarnings b (setService b { s2 with
    cfg := { s2.cfg with bs := b }
    ma := { s2.ma with xferWait := b.xfers.map (fun x => { x := x }) } })

/-- What a successful load leaves (R72, R77, R200, R348): the digest live and to be retained, LOADED, a new LOAD_ID,
every breach ended, sessions opened. -/
def loadDone (digest : BitVec 384) (s : State) : State :=
  let s1 := { s with
    cfg := { s.cfg with
      loaded := true, loadErr := 0, digest := digest, loadCount := satAdd s.cfg.loadCount 1
      loadId := s.cfg.lastLoadId + 1, lastLoadId := s.cfg.lastLoadId + 1, lockout := 0, fails := Vector.replicate 8 0 }
    boot := { s.boot with lastDigest := digest } }
  let s2 := (List.finRange 7).foldl (fun s k => endBreach k s) s1
  refreshSessions (assignXfers s2.ma.xferWait.length (refreshView (recap s2)))

end Sys2Proof.Machine
end

