-- ==== Sys2Proof/Machine/LoadCmds.lean ====
section
/-! DEFINITION. LOAD_BITSTREAM (R71 to R73). -/

namespace Sys2Proof.Machine

/-- The ring holds another command than `cid`. -/
def holdsOther (x : RingSt) (cid : Nat) : Bool :=
  (x.queue ++ x.past).any (·.cid != cid) || !x.aborts.isEmpty || x.waiting.any (·.last) || !x.dying.isEmpty

/-- Check 2 of Table 4-8 passes. -/
def loadQuiet (s : State) (cid : Nat) : Bool :=
  s.quietRest && s.rings.toList.all (fun x => !holdsOther x cid) && s.st.op.st != 1

/-- The container's beats in host memory. -/
def loadPlan (c : Cmd) : List Nat := spanPlan (c.f 0x10 8) (c.f 0x18 8)

/-- The container's bytes, from its beats. -/
def container (c : Cmd) (bs : List Beat) : List Byte := ((bs.flatMap (fun b => bytesLE 64 b.data)).drop (c.f 0x10 8 % 64)).take (c.f 0x18 8)

/-- Checks 3 to 9 of Table 4-8, in order: the LOAD_ERR of the first that fails. Check 6 is a poisoned beat. -/
def loadErrOf (fw : Word) (bs : List Byte) (lost : Bool) (g : Gsb) : Option Nat :=
  let b := knownPart bs g.contents
  if formatOk bs bs.length = false then some 0x3
  else if gsbN bs 0x18 4 ≠ 0x32 then some 0xA
  else if fw.toNat < gsbN bs 0x1C 4 then some 0x5
  else if lost then some 0x2
  else if signatureOk bs g = false then some 0x4
  else if bindingDigest bs ≠ b.binding ∨ bsTotals b ≠ b.totals then some 0x7
  else if limitsOk b = false then some 0x6
  else none

/-- The first resource whose admission total exceeds its live capacity (check 10). -/
def overCapacity (s : State) (b : Sections) : Option Res :=
  (List.finRange 7).find? (fun k => decide (s.liveOf k < Arb.total { ent := svcTable b k }))

/-- A load that fails one of checks 3 to 10: LOAD_ERR shows it, the EXPERT state is cleared, nothing else changes. -/
def loadFails (code : Nat) (s : State) : State :=
  let s1 := clearExpert s
  { s1 with cfg := { s1.cfg with loadErr := BitVec.ofNat 4 code } }

/-- The running firmware's version. -/
def State.fwVer (s : State) : Word := (s.boot.slot s.boot.bootB).ver

/-- From check 10 on there is no way back: teardown, set-up, check 11 (R72). After NOSPARE the tenant table, SETTINGS and
cairn values stay as the new bit-stream set them (DESIGN CHOICE, LOG 93). -/
def replaceConfig (r : Ring) (c : Cmd) (bs : List Byte) (g : Gsb) (s : State) : State :=
  let b := knownPart bs g.contents
  let s1 := effectOf r c.cid (clearExpert s)
  let s2 := setUp b (tearDown (releaseCovered b s1))
  match placeAll g.loadFails (b.programs.map (·.crag)) b.programs.zipIdx s2 with
  | (none, s3) => pumpWheels (complete r c stOK 0 0 (loadDone (gsbDigest bs) s3))
  | (some n, s3) =>
    let s4 := unconfigure s3
    refreshSessions (refreshView (recap (complete r c stDISCARDED (1 + 256 * n.val) 0
      { s4 with cfg := { s4.cfg with loadErr := 9 } })))

/-- Checks 3 to 10 on a container that is there, then R72. -/
def loadChecks (r : Ring) (g : Gsb) (c : Cmd) (bs : List Byte) (bad : Bad) (s : State) : State :=
  match loadErrOf s.fwVer bs (bad.n != 0) g with
  | some 2 => pushEntry r c (bad.outc 0 0) (loadFails 2 s)
  | some e => complete r c stREFUSED e 0 (loadFails e s)
  | none => match overCapacity s (knownPart bs g.contents) with
    | some k => pushEntry r c { status := stNOT_ADMITTED, d0 := 8, refusedFor := some k, refusedCause := 0 } (loadFails 8 s)
    | none => replaceConfig r c bs g s

/-- LOAD_BITSTREAM at its ring's head (R71): checks 1 and 2 of Table 4-8, the fetch, the other checks, then R72. Where check 1 or
2 fails, LOAD_ERR stays as it was (DEDUCED, LOG 92). -/
def loadAct (r : Ring) (g : Gsb) (c : Cmd) (s : State) : State :=
  if c.plan = [] ∧ s.ringTenant r ≠ 0 then complete r c stREFUSED 0xB 0 s
  else if c.plan = [] ∧ loadQuiet s c.cid = false then complete r c stREFUSED 1 0 s
  else match gather r c.cid (loadPlan c) s with
    | (false, _, s1) => s1
    | (true, _, s1) => match s1.rings[r].find c.cid with
      | none => s1
      | some c1 =>
        let gs := planBeats c1 (loadPlan c)
        let (bs, s2) := beatsOf gs s1
        loadChecks r g c1 (container c bs) (badOf gs) (snoopRun (.hostLink r) (plain bs) (some (r, c.cid)) s2)

def execLoadBitstream (r : Ring) (g : Gsb) (s : State) : Host.Outcome State Fault Refusal :=
  .next (headStep r 0x40 (loadAct r g) s)

end Sys2Proof.Machine
end

