-- ==== Sys2Proof/Machine/CfgOps.lean ====
section
/-! DEFINITION. How a write of a configuration field is decided (R74), and the writes that decide more: the staging
window table (R84, R293), HL_BAR2_WIN (R82) and the service table (R342). -/

namespace Sys2Proof.Machine

/-! ### R74 -/

/-- What OPEN says of a field. -/
def State.opening (s : State) (f : FieldId) : Option OpenSec := s.cfg.bs.opens.find? (fun x => x.field == f)

/-- The field is open (R64): a per-ring setting unless SETTINGS fixes it, any other only where OPEN names it. -/
def State.isOpen (s : State) (f : FieldId) : Bool :=
  match f with
  | .wmode _ | .amode _ | .tagCap _ | .stallMs _ => !s.cfg.bs.settings.any (fun x => x.field == f && x.fixed)
  | _ => (s.opening f).isSome

/-- The value lies in the range OPEN permits. -/
def State.openRange (s : State) (f : FieldId) (v : Nat) : Bool :=
  match s.opening f with
  | some o => decide (o.lo ≤ v ∧ v ≤ o.hi)
  | none => true

/-- The tenant is at EXPERT level (R76, R78). -/
def State.expert (s : State) (t : Tenant) : Bool := bit s.cfg.unlocked t.val

/-- How a write of `v` to a field comes out (R74); the spec gives no order between CLOSED and LOCKED, and CLOSED is tested
first (DESIGN CHOICE, LOG 90). `owner` is the tenant that must be at EXPERT level, none for a BASIC
field; `keeps` says that no admitted guarantee breaks, `fits` that the value is in the field's own range. -/
def decideWrite (s : State) (f : FieldId) (owner : Option Tenant) (v : Nat) (keeps fits : Bool) : ExpRes :=
  if s.cfg.loading then .busy
  else if s.isOpen f = false then .closed
  else if (match owner with | some t => !s.expert t | none => false) then .locked
  else if keeps = false then .guarantee
  else if fits && s.openRange f v then .applied
  else .range

/-- The first outcome that is not APPLIED: a register of several fields takes all or none (R74). -/
def firstRefusal : List ExpRes → ExpRes
  | [] => .applied
  | .applied :: l => firstRefusal l
  | x :: _ => x

/-- The effect of an accepted write, with EXP_RESULT either way. -/
def underExp (x : ExpRes) (f : State → State) (s : State) : State := if x = .applied then setExp x (f s) else setExp x s

/-! ### Staging windows (R84, R85, R293) -/

/-- The first page of the system area (R293). -/
def systemPage : Nat := 0x1FD00

/-- One word of a staging window entry written (Table 5-5). -/
def winWrite (k : Fin 4) (v : Word) (w : WinEnt) : WinEnt :=
  match k.val with
  | 0 => { w with
      valid := bit v 31, tenant := ix 7 (fld v 28 3).toNat, inR := bit v 27, inW := bit v 26, hostOk := bit v 25
      base := fld v 0 17 }
  | 1 => { w with size := fld v 0 18 }
  | 2 => { w with ridMask := fld v 16 16, rid := fld v 0 16 }
  | _ => w

/-- The pages of an entry, as an interval. -/
def WinEnt.pages (w : WinEnt) : Nat × Nat := (w.base.toNat, w.base.toNat + w.size.toNat)

/-- Some valid window of the table covers the page. -/
def coversPage (ws : List WinEnt) (p : Nat) : Bool := ws.any (fun w => w.valid && decide (w.pages.1 ≤ p ∧ p < w.pages.2))

/-- The entry may not stand in the table (R84, Table 5-5). -/
def winBad (w : Win) (e : WinEnt) (ws : List WinEnt) : Bool :=
  e.valid && (e.size == 0 || decide (systemPage < e.pages.2) ||
    ws.zipIdx.any (fun p => p.2 != w.val && p.1.valid && p.1.tenant != e.tenant &&
      decide (p.1.pages.1 < e.pages.2 ∧ e.pages.1 < p.1.pages.2)))

/-- Staging memory of pages that no window backs any more: the blocks are zeroed (R293). -/
def unback (old : WinEnt) (ws : List WinEnt) (s : State) : State :=
  if old.valid = false then s
  else
    let gone := fun (a : Nat) => decide (old.pages.1 ≤ a / winUnit ∧ a / winUnit < old.pages.2) && !coversPage ws (a / winUnit)
    { s with
      st := { s.st with mem := s.st.mem.filter (fun c => !gone c.1), memBad := s.st.memBad.filter (fun b => !gone (64 * b)) }
      ma := { s.ma with lines := s.ma.lines.filter (fun l => !(l.staging && gone (512 * l.line))) } }

/-- A write of one word of the window table: RANGE when the table may not hold it, when the pool cannot back what it
adds, or when it would unback a page that is frozen or being copied (R84, R293). The change takes effect at once. -/
def windowApply (w : Win) (k : Fin 4) (v : Word) (s : State) : State :=
  let old := s.link.wins[w]
  let e := winWrite k v old
  let ws := s.link.wins.set w e
  let adds := backedPages (e :: s.link.wins.toList) - backedPages s.link.wins.toList
  let frozen := s.st.frozen.any (fun f => !f.copied && old.valid && decide (old.pages.1 ≤ f.page ∧ f.page < old.pages.2)
    && !coversPage ws.toList f.page)
  if winBad w e ws.toList ∨ s.poolFreeBlocks < adds ∨ frozen then setExp .range s
  else setExp .applied (unback old ws.toList { s with link := { s.link with wins := ws } })

/-- The write, which waits while a forced halt holds PAGEMAP (Table 21-5). -/
def windowWrite (w : Win) (k : Fin 4) (v : Word) (s : State) : State :=
  if s.heldRes 3 then { s with dbg := { s.dbg with winWait := s.dbg.winWait ++ [(w, k, v)] } } else windowApply w k v s

/-! ### HL_BAR2_WIN (R82) -/

/-- A write of HL_BAR2_WIN (Table 5-4). -/
def bar2WinWrite (v : Word) (s : State) : State :=
  if 256 / 2 ^ s.link.bar2Log2 ≤ (fld v 0 8).toNat then setExp .range s
  else setExp .applied { s with link := { s.link with bar2Index := fld v 0 8 } }

/-! ### SVC_ENT (R340, R342) -/

/-- The tenant that owns a requester: the ring's, or tenant 0 for requesters 16 to 63. -/
def State.reqTenant (s : State) (q : Req) : Tenant := if h : q.val < 16 then s.ringTenant ⟨q.val, h⟩ else 0

/-- What R342 says of an AMOUNT. -/
def decideAmount (s : State) (q : Req) (k : Res) (n : Nat) : ExpRes :=
  let a := s.adm[k]
  let e := a.ent[q]
  let x := decideWrite s (.amount q k) (some (s.reqTenant q)) n
    (e.cls == .background || decide (n ≤ e.amount.toNat) || decide (n ≤ s.liveOf k)) true
  if x = .applied ∧ e.cls ≠ .background ∧ e.amount.toNat < n ∧
      (a.breach ∨ s.liveOf k < a.total - e.amount.toNat + n) then .admission else x

/-- What R342 says of a WEIGHT. -/
def decideWeight (s : State) (q : Req) (k : Res) (n : Nat) : ExpRes :=
  decideWrite s (.weight q k) (some (s.reqTenant q)) n (s.adm[k].ent[q].cls == .background || n != 0) true

/-- A write of SVC_ENT (Table 17-3): a field that keeps its value is not written; CLASS is read-only. On a BACKGROUND
entry the values are ignored, read back as written, and flagged in CFG_WARN (R340). -/
def svcWrite (q : Req) (k : Res) (v : Word) (s : State) : State :=
  let e := s.adm[k].ent[q]
  let amount := fld v 0 16
  let weight := fld v 16 8
  let xs := (if amount = e.amount then [] else [decideAmount s q k amount.toNat])
    ++ (if weight = e.weight then [] else [decideWeight s q k weight.toNat])
  let x := if s.cfg.loading then .busy else firstRefusal xs
  let item := 2 * (7 * q.val + k.val)
  let warn := fun (s : State) =>
    if e.cls ≠ .background then s
    else
      let s1 := if amount = e.amount then s else flagWarn 3 item s
      if weight = e.weight then s1 else flagWarn 3 (item + 1) s1
  underExp x (fun s => recapOne k (warn (s.onArb k (fun a =>
    { a with ent := modAt a.ent q (fun e => { e with amount := amount, weight := weight }) })))) s

end Sys2Proof.Machine
end

