-- ==== Sys2Proof/Machine/SnapCmds.lean ====
section
/-! DEFINITION. The commands of snapshots and re-sharding (13): SNAP_BEGIN, SNAP_RANGE, SNAP_SEAL,
IMAGE_DURABLE, RESTORE, RESHARD and PAGE_COPY. -/

namespace Sys2Proof.Machine

/-- The command waits for a suspended or moving crag it needs, or for a Rowan engine that takes new work, DELAYED
(R198, R204, R209, R367). -/
def holdForProg (r : Ring) (c : Cmd) (k : Option ProgKind) (s : State) : Option State :=
  if (match k with | some k => s.progHeld r c.cid k | none => false) || ((s.engineOf r c.cid).isNone && s.rowanFree.isNone)
  then some (delayCmd r c.cid 7 0 s) else none

/-! ### SNAP_BEGIN (R255, R256, R259, R265, R295, R303) -/

/-- The map has an OPEN image. -/
def State.openOf (s : State) (m : MapId) : Option Image := s.st.images.find? (fun i => i.map == some m && !i.sealed_)

/-- The checks of R259 and R295, in order. -/
def beginCheck (s : State) (t : Tenant) (c : Cmd) (m : MapSec) : Option Outc :=
  if s.cfg.bs.limits.resident ≠ m.stagingBases.isSome then some { status := stREFUSED, d0 := 0x4B }
  else if c.f 0x1E 2 ≠ m.ranges.length then some { status := stRANGE, d0 := 0x1E, d1 := 0x41 }
  else if (s.image? t (BitVec.ofNat 32 (c.f 0x18 4))).isSome then some { status := stREFUSED, d0 := 0x48 }
  else if (s.openOf m.id).isSome then some { status := stREFUSED, d0 := 0x4A }
  else if s.poolTotal < ceilDiv (worstSectors s.cfg.bs.limits.imgAlg m) 512 then
    some { status := stNOT_ADMITTED, d0 := 0x4E, refusedFor := some 0 }
  else none

/-- The pages of a RESIDENT map freeze (R265). -/
def freeze (m : MapSec) (s : State) : State :=
  { s with st := { s.st with frozen := s.st.frozen ++ (slotPages m).map (fun p => ({ page := p, map := m.id } : Frozen)) } }

/-- The image a SNAP_BEGIN opens. -/
def openedImage (s : State) (r : Ring) (c : Cmd) (m : MapSec) : Image :=
  let worst := worstSectors s.cfg.bs.limits.imgAlg m
  { tenant := s.ringTenant r, img := BitVec.ofNat 32 (c.f 0x18 4), map := some m.id, step := BitVec.ofNat 64 (c.f 0x10 8)
    ranges := List.replicate m.ranges.length {}, ring := r
    cairnBase := if c.f 0x1D 1 = 0xFF then none else some (c.f 0x1D 1)
    blocks := ceilDiv worst 512, area := worst, alg := s.cfg.bs.limits.imgAlg }

/-- SNAP_BEGIN at the head. -/
def beginAct (r : Ring) (c : Cmd) (s : State) : State :=
  match s.map? (c.f 0x1C 1), vaultGate s c with
  | none, _ => s
  | some _, some o => pushEntry r c o s
  | some m, none =>
    let t := s.ringTenant r
    match beginCheck s t c m with
    | some o => pushEntry r c o s
    | none =>
      let worst := worstSectors s.cfg.bs.limits.imgAlg m
      if s.poolFreeBlocks < ceilDiv worst 512 then delayCmd r c.cid 0 5 s
      else match reserveArea t worst s with
        | none => pushEntry r c { status := stNOT_ADMITTED, d0 := 0x53, refusedFor := some 5 } s
        | some s1 =>
          let s2 := freeze m { s1 with st := { s1.st with images := s1.st.images ++ [openedImage s1 r c m] } }
          let c2 := stopWaiting s.now c
          complete r c2 stOK (shareBytes m) (slotPages m).length s2

def execSnapBegin (r : Ring) (s : State) : Host.Outcome State Fault Refusal := .next (headStep r 0x10 (beginAct r) s)

/-! ### SNAP_RANGE (R9, R260, R261, R263) -/

/-- Canonical bytes of a chunk and its poisoned 64-byte beats, from the bytes and marks of its slot. -/
def chunkCanon (byteAt : Nat → Byte) (badAt : Nat → Bool) (c : ChunkPlan) : List Byte × List Nat :=
  let sz := dsize c.dtype
  let offs := (boxIdx c.bext).map (pieceOff c.piece c.lo)
  (offs.flatMap (fun o => (List.range sz).map (fun i => byteAt (o + i))),
   ((offs.zipIdx.filter (fun p => (List.range sz).any (fun i => badAt (p.1 + i)))).map (fun p => sz * p.2 / 64)).eraseDups)

/-- The chunks of one range packed, in image order (R254, R284, R285). -/
def packRange (s : State) (m : MapSec) (k : Nat) (byteAt : Nat → Byte) (badAt : Nat → Bool) : List Chunk :=
  let lim := s.cfg.bs.limits
  ((mapChunks m).zipIdx.filter (fun p => p.1.range == k)).map (fun p =>
    let (bs, bad) := chunkCanon byteAt badAt p.1
    packChunk lim.level lim.tables (Config.freeArrival s.freeIx p.2) lim.imgAlg p.1.dtype p.1.tensor p.2 p.1.lo p.1.bext bs bad)

/-- The checks of SNAP_RANGE in order (R261, R260, Table 6-5, R312). -/
def rangeCheck (s : State) (t : Tenant) (c : Cmd) : Except Outc (Image × MapSec × RangeSec) :=
  match s.image? t (BitVec.ofNat 32 (c.f 0x10 4)) with
  | none => .error { status := stREFUSED, d0 := 0x46 }
  | some i =>
    if i.sealed_ then .error { status := stREFUSED, d0 := 0x46 }
    else match i.map.bind (fun m => s.map? m.val) with
    | none => .error { status := stREFUSED, d0 := 0x46 }
    | some m => match m.ranges[c.f 0x14 2]? with
      | none => .error { status := stRANGE, d0 := 0x14 }
      | some g =>
        if ((i.ranges[c.f 0x14 2]?).map (·.isIn)).getD false then .error { status := stREFUSED, d0 := 0x47 }
        else if c.f 0x20 8 ≠ g.len then .error { status := stRANGE, d0 := 0x20, d1 := 0x42 }
        else if m.stagingBases.isNone ∧ 2 ^ 64 < c.f 0x18 8 + g.len then .error { status := stRANGE, d0 := 0x18, d1 := 0x02 }
        else .ok (i, m, g)

/-- The range's sectors join the drain, and the range is in (R260, R299). A sector's key is its range and
position until SNAP_SEAL gives it its image sector. -/
def stageRange (r : Ring) (cid : Nat) (i : Image) (k : Nat) (cs : List Chunk) (bad : Bad) (s : State) : State :=
  let secs := cs.flatMap (·.secs)
  let s1 := { s with st := { s.st with staged := s.st.staged ++ secs.zipIdx.map (fun p =>
    ({ src := .image i.tenant i.img, cid := cid, lba := k * 2 ^ 32 + p.2, sec := p.1 } : Staged)) } }
  effectOf r cid (modImage i.tenant i.img (fun i => { i with
    ranges := i.ranges.set k { isIn := true, pois := bad.n != 0, chunks := cs }
    tainted := i.tainted || bad.n != 0
    badFirst := if i.badCount = 0 then bad.first.getD 0 else min i.badFirst (bad.first.getD i.badFirst)
    badCount := i.badCount + bad.n }) s1)

/-- A beat of a failed read is zero, and poisoned (R224). -/
def zeroFailed (gs : List (Nat × Got)) : List Beat :=
  gs.map (fun p => match p.2 with | .ok d => { data := d } | .bad _ => { psn := true })

/-- The descriptors of a range's transfers: each piece in the slot's bytes from `src`, where the range begins (R211). -/
def rangeDescs (m : MapSec) (g : RangeSec) (src : Nat) : List Desc :=
  ((firstPieces m).filter (fun x => pieceIn x g)).map (fun x => { pieceDesc m [] x with base := src + (x.offset - g.offset) })

/-- Elements of a range that failed beats cover (R224). -/
def lostElems (m : MapSec) (k : Nat) (lostAt : Nat → Bool) : Nat :=
  ((mapChunks m).filter (fun p => p.range == k)).foldl (fun n c =>
    n + ((boxIdx c.bext).filter (fun i => let o := pieceOff c.piece c.lo i
      (List.range (dsize c.dtype)).any (fun j => lostAt (o + j)))).length) 0

/-- What a range's bytes are: value and mark at an offset of the slot, the offsets a failed read covers, and how the reads
went. -/
structure RangeRead where
  byteAt : Nat → Byte
  badAt : Nat → Bool
  lostAt : Nat → Bool
  bad : Bad

/-- Packing, leaf digests, the internal fence, the gate signal and the completion (R9, R260, R263). -/
def finishRange (r : Ring) (e : Eng) (c : Cmd) (i : Image) (m : MapSec) (k : Nat) (x : RangeRead) (s : State) : State :=
  let cs := packRange s m k x.byteAt x.badAt
  let s1 := { s with freeIx := s.freeIx + 1 }
  let s1 := match s1.leafLane with
    | some l => cs.foldl (fun s x => leafResult l x i.alg s) s1
    | none => s1
  let s1 := cs.foldl (fun s x => snoopRun .packed (x.secs.flatMap (packed x.pois)) (some (r, c.cid)) s) s1
  let s2 := rowanTap e (r, c.cid) (fun _ => ((mapChunks m).filter (fun p => p.range == k)).map (chunkCanon x.byteAt x.badAt)) s1
  let n := ((mapChunks m).filter (fun p => p.range == k)).foldl (fun n c => n + volume c.bext) 0
  let s3 := stageRange r c.cid i k cs x.bad (countElems e n (lostElems m k x.lostAt) s2)
  let s4 := match s3.image? i.tenant i.img with
    | some i2 => thaw m (i2.ranges.map (·.isIn)) s3
    | none => s3
  let s5 := match i.cairnBase with
    | some b => signalFrom i.tenant (ix 127 (b + k)) 2 i.ring.val 1 s4
    | none => s4
  let s6 := if x.bad.n ≠ 0 then
      pushEntry r c { status := stPOISONED, d0 := x.bad.first.getD 0, d1 := min x.bad.n 0xFFFFFFFF, tainted := true } s5
    else complete r c stOK (cs.foldl (fun n x => n + 4096 * x.secs.length) 0) cs.length s5
  stageWaiting (resumeUnits s6)

/-- The frozen state of a range of a RESIDENT map, read through the tenant's windows: a beat outside them is a failed read
(R84, R224), a poisoned one undefined (R173). -/
def frozenRead (s : State) (k : Key) (m : MapId) (base : Nat) (g : RangeSec) : RangeRead × State :=
  let out := fun (a : Nat) => !inWindows s k.tenant (a / 64 * 64) 64
  let plan := spanPlan (base + g.offset) g.len
  ({ byteAt := fun o => if out (base + o) then 0 else if frozenBad s m (base + o) then Config.freeByte s.freeIx (base + o)
                        else frozenByte s m (base + o)
     badAt := fun o => out (base + o) || frozenBad s m (base + o)
     lostAt := fun o => out (base + o)
     bad := plan.foldl (fun b x => if out x || frozenBad s m x then b.add x 1 else b) {} },
   (plan.filter out).foldl (fun s a => keyFlt k a .window false s) s)

/-- Once a range's bytes are at hand and the taps have contexts free, it is packed (R228, R229, R260). -/
def packNow (r : Ring) (e : Eng) (c : Cmd) (i : Image) (m : MapSec) (x : RangeRead) (s : State) : State :=
  if tapFull s (tapsOf s r c) then delayCmd r c.cid 7 0 (countTapStall (tapsOf s r c) s)
  else finishRange r e c i m (c.f 0x14 2) x s

/-- The reads of a range of host or peer memory: by the stream the packing program's wheel has for it, which the command
names (9.2, R169), else by the command itself. Answers whether every beat is there. -/
def rangeReads (r : Ring) (c : Cmd) (plan : List Nat) (s : State) : Bool × State :=
  match cmdWheels s (s.ringTenant r) .pack with
  | [] => let g := gather r c.cid plan s; (g.1, g.2.2)
  | w :: _ =>
    let s1 := if c.plan = [] then pumpWheels ((modCmd r c.cid (fun c => { c with plan := plan }) s).onWheel w (fun x =>
        { x with streams := bindFirst r c.cid (plan.headD 0) plan.length x.streams })) else s
    match s1.rings[r].find c.cid with
    | some d => (!s1.streams c.cid && allGot d plan, s1)
    | none => (false, s1)

/-- The range's bytes from the beats a command has. -/
def hostRange (src : Nat) (g : RangeSec) (gs : List (Nat × Got)) : RangeRead :=
  let bs := zeroFailed gs
  let bytes := beatBytes bs
  let marks := (bs.map (·.psn)).toArray
  let at_ := fun (o : Nat) => src % 64 + (o - g.offset)
  { byteAt := fun o => (bytes[at_ o]?).getD 0, badAt := fun o => (marks[at_ o / 64]?).getD false
    lostAt := fun o => (marks[at_ o / 64]?).getD false, bad := badOf gs }

/-- A SNAP_RANGE that its engine runs. -/
def rangeRun (r : Ring) (e : Eng) (c : Cmd) (i : Image) (m : MapSec) (g : RangeSec) (s : State) : State :=
  match m.stagingBases with
  | some bases =>
    let (x, s1) := frozenRead s (s.cmdKey r c) m.id ((bases[g.slot]?).getD 0) g
    packNow r e c i m x s1
  | none =>
    let src := c.f 0x18 8
    let plan := spanPlan src g.len
    match rangeReads r c plan s with
    | (false, s1) => s1
    | (true, s1) => match s1.rings[r].find c.cid with
      | none => s1
      | some c1 =>
        let gs := planBeats c1 plan
        let x := hostRange src g gs
        if x.bad.timeout then pushEntry r c1 (x.bad.outc 0 0) s1
        else packNow r e c1 i m x (if cmdWheels s (s.ringTenant r) .pack = []
          then snoopRun (.hostLink r) (plain (zeroFailed gs)) (some (r, c.cid)) s1 else s1)

def rangeAct (r : Ring) (c : Cmd) (s : State) : State :=
  match vaultGate s c, rangeCheck s (s.ringTenant r) c with
  | some o, _ => pushEntry r c o s
  | none, .error o => pushEntry r c o s
  | none, .ok (i, m, g) =>
    match (cmdWheels s (s.ringTenant r) .pack).find? (fun w => s.ma.wheels[w].fenced), fencedFor s (some .pack) s.leafLane,
      holdForProg r c (some .pack) s with
    | some w, _, _ => pushEntry r c (faultOutc (0x80 + w.val)) s
    | none, some u, _ => pushEntry r c (faultOutc u) s
    | none, none, some s1 => s1
    | none, none, none =>
      let src := match m.stagingBases with | some b => (b[g.slot]?).getD 0 + g.offset | none => c.f 0x18 8
      let ds := rangeDescs m g src
      if m.stagingBases.isNone ∧ !ds.all sideFits then pushEntry r c { status := stRANGE, d0 := 0x18, d1 := 0x02 } s
      else match claimEngine r c.cid (ds.headD {}) (wheelDesc (ds.headD {})) (modCmd r c.cid (stopWaiting s.now) s) with
        | (none, s1) => s1
        | (some e, s1) => match s1.rings[r].find c.cid with
          | some c1 => rangeRun r e c1 i m g s1
          | none => s1

def execSnapRange (r : Ring) (s : State) : Host.Outcome State Fault Refusal :=
  .next (sweepEngines (headStep r 0x11 (rangeAct r) s))

/-! ### SNAP_SEAL (R8, R127, R262, R303) -/

/-- The image sector of a staging key, once the image is built. -/
def keySector (i : Image) (key : Nat) : Nat :=
  if 2 ^ 48 ≤ key then key - 2 ^ 48
  else 1 + (((i.ranges.take (key / 2 ^ 32)).flatMap (·.chunks)).foldl (fun n c => n + c.secs.length) 0) + key % 2 ^ 32

/-- Manifest, digest tree and header are written, the unused reservation returns, and the image is SEALED
and bound to its LBAs (R262, R272 to R277, R299, R303). -/
def sealImage (cid : Nat) (i : Image) (s : State) : State :=
  let lim := s.cfg.bs.limits
  let ts := match i.map.bind (fun m => s.map? m.val) with | some m => sortTensors m.tensors | none => []
  let cs := i.ranges.flatMap (·.chunks)
  let (secs, root) := buildImage lim.level lim.tables i.alg i.step.toNat s.cfg.digest ts cs
  let area := cs.foldl (fun n c => n + c.secs.length) 0
  let s0 := modImage i.tenant i.img (fun x => { x with sealed_ := true, area := 0 }) s
  let lba := bindRun s0 secs.length
  let src : Source := .image i.tenant i.img
  let tail := (0 :: (List.range (secs.length - 1 - area)).map (fun k => 1 + area + k)).map (fun k =>
    ({ src := src, cid := cid, lba := k, sec := (secs[k]?).getD {} } : Staged))
  let s1 := { s with st := { s.st with
    staged := s.st.staged.map (fun g => if g.src = src then { g with lba := keySector i g.lba } else g) ++ tail
    nextSeal := s.st.nextSeal + 1 } }
  journalAdd 1 (modImage i.tenant i.img (fun x => { x with
    sealed_ := true, sealCid := cid, inStage := true, blocks := ceilDiv secs.length 512, area := 0, ranges := [], secs := secs
    total := secs.length, root := root, lba := lba, sealOrder := s.st.nextSeal, failed := x.failed.map (keySector i) }) s1)

/-- The STAGED outcome of Table 13-4. -/
def stagedOutc (i : Image) : Outc :=
  if i.badCount ≠ 0 then { status := stPOISONED, d0 := i.badFirst, d1 := min i.badCount 0xFFFFFFFF, tainted := true }
  else { status := stOK, d0 := 4096 * i.total, d1 := i.total, tainted := i.tainted }

/-- Sectors of the image still to be programmed. -/
def imageStaged (s : State) (t : Tenant) (img : Word) : Bool := s.st.staged.any (fun g => g.src == .image t img)

/-- The DURABLE outcome, once it is decided (Table 13-4, R306). -/
def durableOutc (s : State) (i : Image) : Option Outc :=
  if i.durable then some { status := stOK, d0 := i.lba }
  else if imageStaged s i.tenant i.img then none
  else match i.failed with
    | k :: _ => some { status := stMEDIUM, d0 := i.lba + i.failed.foldl min k, d1 := i.failed.length }
    | [] => none

/-- STAGED is reported, the command leaves the head, and the later stages follow (R8, R262). -/
def sealStages (r : Ring) (c : Cmd) (i : Image) (s : State) : State :=
  let s1 := leaveHead r c.cid (sealReport r c 1 (stagedOutc i) s)
  let s2 := match durableOutc s1 i, s1.rings[r].find c.cid with
    | some o, some c2 => sealReport r c2 3 o s1
    | _, _ => s1
  match s2.rings[r].find c.cid with
  | none => s2
  | some c2 =>
    if c2.f 0x14 1 = 0 then s2
    else match s.buddyFor i.tenant with
      | none => s2
      | some e =>
        if i.paired then sealReport r c2 2 { status := stOK, d0 := s2.pair.peers[e].cfg.engineId.toNat } s2
        else beginPairing e r c2.cid i s2

def sealAct (r : Ring) (c : Cmd) (s : State) : State :=
  let t := s.ringTenant r
  let img := BitVec.ofNat 32 (c.f 0x10 4)
  match s.image? t img with
  | none => complete r c stREFUSED 0x46 0 s
  | some i =>
    if i.copyOnly then complete r c stREFUSED 0x46 0 s
    else if i.sealed_ then sealStages r c i s
    else if s.st.op.st = 1 then complete r c stREFUSED 0x51 0 s
    else if i.ranges.any (fun g => !g.isIn) then s
    else
      let s1 := trimStaging (sealImage c.cid i (effectOf r c.cid s))
      match s1.image? t img, s1.rings[r].find c.cid with
      | some i2, some c2 => sealStages r c2 i2 s1
      | _, _ => s1

def execSnapSeal (r : Ring) (s : State) : Host.Outcome State Fault Refusal := .next (headStep r 0x12 (sealAct r) s)

/-! ### IMAGE_DURABLE (R8, R303, R306) -/

/-- Every SNAP_SEAL of the tenant's rings that waits for the image's DURABLE stage reports it. -/
def reportDurable (t : Tenant) (img : Word) (o : Outc) (s : State) : State :=
  (List.finRange 16).foldl (fun s r =>
    if s.ringTenant r ≠ t then s
    else (s.rings[r].past.filter (fun c => c.op == 0x12 && BitVec.ofNat 32 (c.f 0x10 4) == img)).foldl
      (fun s c => match s.rings[r].find c.cid with
        | some c2 => sealReport r c2 3 o s
        | none => s) s) s

/-- IMAGE_DURABLE: the last sector of a sealed image has been programmed or has failed. -/
def execImageDurable (t : Tenant) (img : Word) (s : State) : Host.Outcome State Fault Refusal :=
  .next (match s.image? t img with
    | none => s
    | some i =>
      if s.heldRes 4 ∨ i.sealed_ = false ∨ i.copyOnly ∨ i.durable ∨ i.total = 0 ∨ imageStaged s t img then s
      else match durableOutc s i with
        | some o => reportDurable t img o s
        | none =>
          if i.inStage = false then s
          else
            let s1 := i.secs.zipIdx.foldl (fun s p => putVault (i.lba + p.2) p.1 s) s
            let s2 := modImage t img (fun x => { x with durable := true, durOrder := s.st.nextSeal })
              { s1 with st := { s1.st with nextSeal := s1.st.nextSeal + 1 } }
            let s3 := if s2.st.journal = 0 then commitTail s2 else s2
            trimStaging (reportDurable t img { status := stOK, d0 := i.lba } s3))

/-! ### RESTORE (R267 to R269) -/

/-- R267's checks 1 to 6; check 4 of an image held nowhere waits for its manifest (R336). -/
def restoreCheck (s : State) (t : Tenant) (c : Cmd) (m : MapSec) : Except Outc Image :=
  match s.image? t (BitVec.ofNat 32 (c.f 0x18 4)) with
  | none => .error { status := stRANGE, d0 := 0x18, d1 := 0x40 }
  | some i =>
    let src := c.f 0x1D 1
    if i.sealed_ = false then .error { status := stREFUSED, d0 := 0x4D }
    else if BitVec.ofNat 64 (c.f 0x10 8) ≠ i.step then .error { status := stRANGE, d0 := 0x10, d1 := 0x45 }
    else if src != 2 && (match openImage (s.imageSecs i) with | some o => !imageCompatible o.tensors m | none => false)
    then .error { status := stRANGE, d0 := 0x1C, d1 := 0x44 }
    else if m.stagingBases.isNone ∧ c.f 0x1E 2 ≠ m.slots then .error { status := stRANGE, d0 := 0x1E, d1 := 0x43 }
    else if src = 0 ∧ i.inStage = false then .error { status := stREFUSED, d0 := 0x49 }
    else if src = 1 ∧ i.durable = false then .error { status := stREFUSED, d0 := 0x49 }
    else if src == 2 && c.units != 1 && (!i.paired || (match s.buddyFor t with
        | some e => s.pair.peers[e].sess != .up
        | none => true)) then .error { status := stREFUSED, d0 := 0x49 }
    else .ok i

/-- The reason code of R214 for a side's slots at their bases: misaligned or beyond its space (0x02), or, on a write side,
aliasing within a piece (0x03). -/
def basesReason (m : MapSec) (bases : List Nat) (write : Bool) : Option Nat :=
  m.pieces.findSome? (fun x =>
    let d := pieceDesc m bases x
    if !sideFits d then some 2 else if write && !sideApart d then some 3 else none)

/-- The source sectors of a RESTORE: the staging copy, else the Vault (R267, R305). -/
def restoreSecs (s : State) (c : Cmd) (i : Image) : List Sec :=
  if c.f 0x1D 1 = 1 then (List.range i.total).map (fun k => s.readSec (i.lba + k)) else i.secs

/-- What a RESTORE has done so far: failed writes, elements written and lost, the image sector of the first bad chunk with
the beats scattered poisoned, and the writes issued. -/
structure RestoreAcc where
  bad : Bad := {}
  n : Nat := 0
  lost : Nat := 0
  first : Option Nat := none
  beats : Nat := 0
  deriving DecidableEq, Repr

/-- One chunk read, compared and scattered; a chunk not equal to its leaf, or with poisoned or MISSING sectors,
with every beat poisoned (R269). -/
def restoreChunk (r : Ring) (e : Eng) (c : Cmd) (m : MapSec) (bases : List Nat) (secs : List Sec) (o : Opened) (ci : Nat)
    (acc : RestoreAcc × State) : RestoreAcc × State :=
  let (a, s) := acc
  match o.chunks[ci]? with
  | none => acc
  | some cr =>
    let x := readChunk o ci secs
    let dirty := x.dirty || cr.pois || !x.leafOk
    let t := (o.tensors[cr.tensor]?).getD {}
    let (n, ws) := scatterChunk m bases t.id (dsize t.dtype) cr.lo cr.bext x.bytes.toArray (fun _ => dirty)
    let s0 := rowanTap e (r, c.cid) (fun _ => [(x.bytes, if dirty then List.range (ceilDiv cr.canon 64) else [])]) (countRead x.out s)
    let (bad1, lost, s1) := writeElems (s.cmdKey r c) m.stagingBases.isSome (dsize t.dtype) false ws a.bad s0
    ({ bad := bad1, n := a.n + n, lost := a.lost + lost, first := if a.first.isNone && dirty then some cr.off else a.first
       beats := a.beats + (if dirty then ceilDiv cr.canon 64 else 0) }, s1)

/-- Staging pages RESTORE or RESHARD would write in a map. -/
def destPages (m : MapSec) (bases : List Nat) : List Nat :=
  if m.stagingBases.isNone then []
  else (m.pieces.flatMap (fun x =>
    let b := (bases[x.slot]?).getD 0
    let lo := b + x.offset
    let hi := b + pieceOff x x.lo (x.bext.map (· - 1)) + dsize (tensorType m x.tensor) - 1
    (List.range (hi / winUnit - lo / winUnit + 1)).map (fun k => lo / winUnit + k))).eraseDups

/-- The scatter of a RESTORE whose image and bases are at hand, once its writes are judged (R94, R95). -/
def restoreRun (r : Ring) (e : Eng) (c : Cmd) (m : MapSec) (i : Image) (bases : List Nat) (s : State) : State :=
  let secs := restoreSecs s c i
  match openImage secs with
  | none =>
    let n := secs.foldl (fun n x => n + popCount x.psn) 0
    pushEntry r c { status := stPOISONED, d0 := i.lba, d1 := if n = 0 then 64 else n, tainted := true } s
  | some o =>
    if !imageCompatible o.tensors m then complete r c stRANGE 0x1C 0x44 s
    else if tapFull s (tapsOf s r c) then delayCmd r c.cid 7 0 (countTapStall (tapsOf s r c) s)
    else withWrites (s.cmdKey r c) (destHost m bases) (fun s =>
      let s1 := match s.openOf m.id with
        | some x => abandonImage x.tenant x.img (effectOf r c.cid s)
        | none => s
      match copyPages (destPages m bases) s1 with
      | none => delayCmd r c.cid 0 5 (copySome (destPages m bases) s1)
      | some s2 =>
        let s2 := if c.f 0x1D 1 = 1 then
            snoopRun .vaultRead (secs.flatMap (fun x => packed (packedFlag x) x)) (some (r, c.cid)) s2 else s2
        let s3 := effectOf r c.cid (modCmd r c.cid (stopWaiting s.now) s2)
        let (a, s4) := (List.range o.chunks.length).foldl
          (fun acc ci => restoreChunk r e c m bases secs o ci acc) ({}, s3)
        let s5 := countElems e a.n a.lost s4
        match s5.rings[r].find c.cid with
        | none => s5
        | some c2 => match a.first with
          | none => pushEntry r c2 (a.bad.outc a.n o.chunks.length) s5
          | some off => pushEntry r c2
              { status := if a.bad.timeout then stTIMEOUT else stPOISONED, d0 := i.lba + off
                d1 := min (a.beats + a.bad.n) 0xFFFFFFFF, tainted := true } s5) s

/-- The address table of an ACCEL side, read first; a poisoned one moves no data (R220). -/
def tableBad (gs : List (Nat × Got)) : Option Outc :=
  let b := badOf gs
  if b.n = 0 then none else some (b.outc 0 0)

/-- The descriptor of a map's first piece. -/
def firstDesc (m : MapSec) (bases : List Nat) : Desc := (m.pieces.head?.map (pieceDesc m bases)).getD {}

/-- A command of the unit kinds gets its engine, and then acts (R209). -/
def onEngine (r : Ring) (c : Cmd) (rd wd : Desc) (act : Eng → Cmd → State → State) (s : State) : State :=
  match claimEngine r c.cid rd wd (modCmd r c.cid (stopWaiting s.now) s) with
  | (none, s1) => s1
  | (some e, s1) => match s1.rings[r].find c.cid with
    | some c1 => act e c1 s1
    | none => s1

def restoreAct (r : Ring) (c : Cmd) (s : State) : State :=
  match s.map? (c.f 0x1C 1), vaultGate s c with
  | none, _ => s
  | some _, some o => pushEntry r c o s
  | some m, none =>
    let t := s.ringTenant r
    -- a RESTORE that waits for its buddy holds the head; it goes on once the copy has come (R336)
    if s.pair.peers.toList.any (fun p => p.xfers.any (fun x => x.owner == some (r, c.cid))) then s
    else match restoreCheck s t c m with
    | .error o => pushEntry r c o s
    | .ok i =>
      match fencedFor s (some .unpack) none, holdForProg r c (some .unpack) s with
      | some u, _ => pushEntry r c (faultOutc u) s
      | none, some s1 => s1
      | none, none => onEngine r c (wheelDesc (firstDesc m (slotBases m []))) (firstDesc m (slotBases m [])) (fun e c s =>
        let plan := if m.stagingBases.isNone then spanPlan (c.f 0x20 8) (8 * m.slots) else []
        let (ready, _, s1) := gather r c.cid plan s
        if ready = false then s1
        else match s1.rings[r].find c.cid with
          | none => s1
          | some c1 =>
            let gs := planBeats c1 plan
            let bases := slotBases m (tableOf (c.f 0x20 8) m.slots (zeroFailed gs))
            match tableBad gs, basesReason m bases true with
            | some o, _ => pushEntry r c1 o s1
            | none, some why => complete r c1 stRANGE (if m.stagingBases.isNone then 0x20 else 0x1C) why s1
            | none, none =>
              if c.f 0x1D 1 = 2 ∧ c.units ≠ 1 then
                match s1.buddyFor t with
                | some p => beginXfer p { xfer := 0, sending := false, step := i.step, img := i.img, tenant := t
                                          owner := some (r, c.cid), ownerId := Config.engineId } s1
                | none => s1
              else restoreRun r e c1 m i bases s1) s

def execRestore (r : Ring) (s : State) : Host.Outcome State Fault Refusal :=
  .next (settleFetches (sweepEngines (headStep r 0x13 (restoreAct r) s)))

/-! ### RESHARD (R270, R271) -/

/-- Two maps' slots, at their bases, share a byte of one space. -/
def slotsOverlap (a b : MapSec) (sa sb : List Nat) : Bool :=
  a.stagingBases.isSome == b.stagingBases.isSome &&
  (sa.take a.slots).any (fun x => (sb.take b.slots).any (fun y =>
    decide (x < y + b.slotBytes ∧ y < x + a.slotBytes)))

/-- The source addresses of RESHARD's reads: one span per packed-once piece (R271). -/
def reshardReads (m : MapSec) (bases : List Nat) : List (PieceSec × Nat × Nat) :=
  (firstPieces m).map (fun x =>
    let b := (bases[x.slot]?).getD 0
    (x, b + x.offset, pieceOff x x.lo (x.bext.map (· - 1)) + dsize (tensorType m x.tensor) - x.offset))

/-- The STAGED entry of the SNAP_SEAL that sealed an image still waits to be written (R113, R12). -/
def stagedOwed (s : State) (i : Image) : Bool :=
  s.rings.toList.any (fun x => x.waiting.any (fun e => e.cid == i.sealCid && e.opcode == 0x12 && e.stage == 1))

/-- A snapshot of the same state begun and not yet reported STAGED holds RESHARD back (R12), and an OPEN image of TO_MAP
(R270). -/
def reshardHeld (s : State) (t : Tenant) (a b : MapSec) : Bool :=
  let same := fun (i : Image) => i.tenant == t && (match i.map.bind (fun m => s.map? m.val) with
    | some m => m.tensors.any (fun x => a.tensors.any (fun y => x.id == y.id))
    | none => false)
  s.st.images.any (fun i => (!i.sealed_ && (i.map == some b.id || same i)) || (i.sealed_ && same i && stagedOwed s i))

/-- The elements of a source piece in canonical order: bytes, mark, and whether their read failed. -/
def reshardElems (a : MapSec) (x : PieceSec) (bytes : Array Byte) (marks lost : Array Bool) (off : Nat) :
    List (List Byte × Bool × Bool) :=
  let sz := dsize (tensorType a x.tensor)
  (boxIdx x.bext).map (fun idx =>
    let o := off + (pieceOff x x.lo idx - x.offset)
    let any := fun (m : Array Bool) => (List.range sz).any (fun i => (m[(o + i) / 64]?).getD false)
    ((List.range sz).map (fun i => (bytes[o + i]?).getD 0), any marks, any lost))

/-- The chunk of one source piece for every piece of the destination, cast where the types differ (R189, R271): elements
written, and the writes. -/
def reshardPiece (a b : MapSec) (sb : List Nat) (x : PieceSec) (elems : List (List Byte × Bool × Bool)) : Nat × Nat × List Elem :=
  let ta := tensorType a x.tensor
  let id := ((a.tensors[x.tensor]?).map (·.id)).getD 0
  let tb := ((b.tensors.find? (fun y => y.id == id)).map (·.dtype)).getD ta
  let canon := (elems.flatMap (fun e => castElem ta tb e.1)).toArray
  let bad := (elems.map (·.2.1)).toArray
  (dsize tb, scatterChunk b sb id (dsize tb) x.lo x.bext canon (fun pos => (bad[pos]?).getD false))

/-- One source piece at hand: where its first byte lies in its beats, the beats, and which of them failed. -/
structure SourcePiece where
  piece : PieceSec
  off : Nat
  beats : List Beat
  lost : List Bool

/-- The data of RESHARD at hand, piece by piece: staging beats through the tenant's windows (R84), host beats as they came;
those of a failed read are zero (R224). -/
def reshardData (k : Key) (a : MapSec) (reads : List (PieceSec × Nat × Nat)) (gs : List (Nat × Got)) (s : State) :
    List SourcePiece × Bad × State :=
  let failed := fun (g : List (Nat × Got)) => g.map (fun p => match p.2 with | .bad c => c == .window || a.stagingBases.isNone | .ok _ => false)
  if a.stagingBases.isSome then
    reads.foldl (fun (acc : List SourcePiece × Bad × State) x =>
      let (g1, b1, s1) := stagingReads k (spanPlan x.2.1 x.2.2) acc.2.2
      let bs := (b1.zip (failed g1)).map (fun p => if p.2 then ({ psn := true } : Beat) else p.1)
      (acc.1 ++ [{ piece := x.1, off := x.2.1 % 64, beats := bs, lost := failed g1 }], (g1.zip b1).foldl (fun b p =>
        if p.2.psn then b.add p.1.1 1 else b) acc.2.1, s1)) ([], {}, s)
  else
    let r1 := reads.foldl (fun (acc : List SourcePiece × List (Nat × Got)) x =>
      let n := (spanPlan x.2.1 x.2.2).length
      let g := acc.2.take n
      (acc.1 ++ [{ piece := x.1, off := x.2.1 % 64, beats := zeroFailed g, lost := failed g }], acc.2.drop n)) ([], gs)
    (r1.1, badOf gs, s)

/-- What a RESHARD's writes come to: failures, elements written, elements lost. -/
structure ReshardAcc where
  bad : Bad := {}
  n : Nat := 0
  lost : Nat := 0
  deriving DecidableEq, Repr

/-- One source piece to every slot of the destination that holds it. -/
def reshardOne (r : Ring) (e : Eng) (c : Cmd) (a b : MapSec) (sb : List Nat) (p : SourcePiece) (acc : ReshardAcc × State) :
    ReshardAcc × State :=
  let (x, s) := acc
  let elems := reshardElems a p.piece (beatBytes p.beats) ((p.beats.map (·.psn)).toArray) p.lost.toArray p.off
  let (sz, n, ws) := reshardPiece a b sb p.piece elems
  let src := dsize (tensorType a p.piece.tensor)
  let s0 := rowanTap e (r, c.cid) (fun _ => [(elems.flatMap (·.1),
    ((elems.zipIdx.filter (fun q => q.1.2.1)).map (fun q => src * q.2 / 64)).eraseDups)]) s
  let (b1, lost, s1) := writeElems (s.cmdKey r c) b.stagingBases.isSome sz false ws x.bad s0
  ({ bad := b1, n := x.n + n, lost := x.lost + lost + (elems.filter (·.2.2)).length }, s1)

/-- The writes of RESHARD and its completion, once they are judged (R94, R95). -/
def reshardWrite (r : Ring) (e : Eng) (c : Cmd) (a b : MapSec) (sb : List Nat) (data : List SourcePiece) (bad : Bad)
    (s : State) : State :=
  withWrites (s.cmdKey r c) (destHost b sb) (fun s =>
    match copyPages (destPages b sb) s with
    | none => delayCmd r c.cid 0 5 (copySome (destPages b sb) s)
    | some s1 =>
      let s2 := effectOf r c.cid (modCmd r c.cid (stopWaiting s.now) s1)
      let s2 := if a.stagingBases.isNone then
          snoopRun (.hostLink r) (plain (data.flatMap (·.beats))) (some (r, c.cid)) s2 else s2
      let (x, s3) := data.foldl (fun acc p => reshardOne r e c a b sb p acc) ({ bad := bad }, s2)
      let s4 := countElems e x.n x.lost s3
      match s4.rings[r].find c.cid with
      | none => s4
      | some c2 => pushEntry r c2 (x.bad.outc x.n 0) s4) s

/-- RESHARD whose address tables are at hand: the checks of R214 and R270, R12's hold, the reads, the writes. -/
def reshardMove (r : Ring) (e : Eng) (c : Cmd) (a b : MapSec) (tables : List Nat) (sa sb : List Nat) (s : State) : State :=
  if slotsOverlap a b sa sb then complete r c stRANGE 0x10 0x4C s
  else match basesReason a sa false, basesReason b sb true with
  | some why, _ => complete r c stRANGE (if a.stagingBases.isNone then 0x18 else 0x10) why s
  | none, some why => complete r c stRANGE (if b.stagingBases.isNone then 0x20 else 0x11) why s
  | none, none =>
    if reshardHeld s (s.ringTenant r) a b then s
    else if tapFull s (tapsOf s r c) then delayCmd r c.cid 7 0 (countTapStall (tapsOf s r c) s)
    else
      let reads := reshardReads a sa
      let plan := tables ++ (if a.stagingBases.isNone then reads.flatMap (fun x => spanPlan x.2.1 x.2.2) else [])
      let (ready, _, s1) := gather r c.cid plan s
      if ready = false then s1
      else match s1.rings[r].find c.cid with
        | none => s1
        | some c1 =>
          let (data, bad, s2) := reshardData (s.cmdKey r c) a reads ((planBeats c1 plan).drop tables.length) s1
          reshardWrite r e c1 a b sb data bad s2

def reshardAct (r : Ring) (c : Cmd) (s : State) : State :=
  match s.map? (c.f 0x10 1), s.map? (c.f 0x11 1) with
  | some a, some b =>
    let cast := a.tensors.any (fun x => b.tensors.any (fun y => x.id == y.id && x.dtype != y.dtype))
    let kind := if cast then some ProgKind.cast else none
    if !mapsCompatible a b then complete r c stRANGE 0x11 0x44 s
    else if a.stagingBases.isNone ∧ c.f 0x12 2 ≠ a.slots then complete r c stRANGE 0x12 0x43 s
    else if b.stagingBases.isNone ∧ c.f 0x14 2 ≠ b.slots then complete r c stRANGE 0x14 0x43 s
    else match fencedFor s kind none, holdForProg r c kind s with
    | some u, _ => pushEntry r c (faultOutc u) s
    | none, some s1 => s1
    | none, none => onEngine r c (firstDesc a (slotBases a [])) (firstDesc b (slotBases b [])) (fun e c s =>
      let p1 := if a.stagingBases.isNone then spanPlan (c.f 0x18 8) (8 * a.slots) else []
      let p2 := if b.stagingBases.isNone then spanPlan (c.f 0x20 8) (8 * b.slots) else []
      if !allGot c (p1 ++ p2) ∧ (gather r c.cid (p1 ++ p2) s).1 = false then (gather r c.cid (p1 ++ p2) s).2.2
      else
        let s1 := if allGot c (p1 ++ p2) then s else (gather r c.cid (p1 ++ p2) s).2.2
        match s1.rings[r].find c.cid with
        | none => s1
        | some c1 =>
          let gs := planBeats c1 (p1 ++ p2)
          let bs := zeroFailed gs
          match tableBad gs with
          | some o => pushEntry r c1 o s1
          | none => reshardMove r e c1 a b (p1 ++ p2) (slotBases a (tableOf (c.f 0x18 8) a.slots (bs.take p1.length)))
              (slotBases b (tableOf (c.f 0x20 8) b.slots (bs.drop p1.length))) s1) s
  | _, _ => s

def execReshard (r : Ring) (s : State) : Host.Outcome State Fault Refusal :=
  .next (sweepEngines (headStep r 0x14 (reshardAct r) s))

/-! ### PAGE_COPY (R11, R265, 1.2.1) -/

/-- Waiting BAR2 writes land in their order, up to the first that still meets a frozen page (R265). -/
def landBar2 : Nat → State → State
  | 0, s => s
  | k + 1, s =>
    match s.link.bar2Wait with
    | [] => s
    | (a, bs) :: rest =>
      if s.mustCopy (a / winUnit) ∨ s.mustCopy ((a + bs.length - 1) / winUnit) then s
      else landBar2 k (storeBytes a bs false { s with link := { s.link with bar2Wait := rest } })

/-- PAGE_COPY: a frozen page a write waits for is copied into a pool block (R265), which it waits for while the pool has
none free (R294), or while a forced halt holds PAGEMAP (Table 21-5); the waiting BAR2 writes land. -/
def execPageCopy (page : Nat) (fail : Bool) (s : State) : Host.Outcome State Fault Refusal :=
  .next (if s.pw.rdy = false ∨ s.pw.phase ≠ .ready then s
    else
      let s1 := if s.mustCopy page ∧ s.poolFreeBlocks ≠ 0 ∧ s.heldRes 3 = false then copyPage page fail s else s
      landBar2 s1.link.bar2Wait.length s1)

end Sys2Proof.Machine
end

