-- ==== Sys2Proof/Machine/SloeCmds.lean ====
section
/-! DEFINITION. The commands of Sloe (12): DIGEST_VERIFY, SLOE_DIGEST_COMPLETE, SR_SAVE and SR_RESTORE. -/

namespace Sys2Proof.Machine

/-! ### DIGEST_VERIFY (R243, R247 to R249) -/

/-- COMMAND lanes the tenant owns (R226). -/
def State.commandLanes (s : State) (t : Tenant) : List Lane :=
  (List.finRange 16).filter (fun l => let x := s.ma.lanes[l]; x.owned && !x.keep && x.owner == t && x.role == .command)

/-- The digest algorithm a command names (Table 6-5). -/
def Cmd.alg (c : Cmd) : Alg := (algOf (c.f 0x11 1)).getD .sha256

/-- Table 12-4, then the image a SPACE 3 message names (R247). -/
def digestCheck (s : State) (t : Tenant) (c : Cmd) : Option Outc :=
  let k := s.ma.keys[ix 31 (c.f 0x13 1)]
  let keyed := c.f 0x13 1 != 0xFF
  if keyed && k.keep then some { status := stREFUSED_SECURE, d0 := 0x33 }
  else if keyed && !k.loaded then some { status := stREFUSED, d0 := 0x30 }
  else if keyed && k.alg != c.alg then some { status := stREFUSED, d0 := 0x31 }
  else if c.f 0x10 1 = 3 then
    match s.image? t (BitVec.ofNat 32 (c.f 0x14 4)) with
    | none => some { status := stRANGE, d0 := 0x14 }
    | some i =>
      if !i.sealed_ || i.copyOnly || !(i.inStage || i.durable) then some { status := stRANGE, d0 := 0x14 }
      else if 4096 * i.total < c.f 0x20 8 then
        some { status := stRANGE, d0 := 0x20, d1 := min (4096 * i.total) 0xFFFFFFFF }
      else none
  else none

/-- The beats DIGEST_VERIFY reads of host or peer memory: EXPECT in COMPARE mode, and a SPACE 0 message. -/
def expectPlan (c : Cmd) : List Nat := if c.f 0x12 1 = 1 then spanPlan (c.f 0x28 8) (digestLen c.alg) else []
def messagePlan (c : Cmd) : List Nat := if c.f 0x10 1 = 0 then spanPlan (c.f 0x18 8) (c.f 0x20 8) else []

/-- A message's bytes, its failing addresses, whether it is tainted, and its length as declared. -/
structure DigestSrc where
  bytes : List Byte := []
  bad : Bad := {}
  tainted : Bool := false
  deriving DecidableEq, Repr

/-- Bytes `off .. off + n - 1` of beats, zero in poisoned beats. -/
def cutMessage (bs : List Beat) (off n : Nat) : List Byte := ((sloeBytes bs).drop off).take n

/-- The message of the SPACE the command names (R247). -/
def digestSource (r : Ring) (c : Cmd) (s : State) : DigestSrc × State :=
  let n := c.f 0x20 8
  let src := c.f 0x18 8
  let own := some (r, c.cid)
  match c.f 0x10 1 with
  | 0 =>
    let pe := (expectPlan c).length
    let gs := (planBeats c (expectPlan c ++ messagePlan c)).drop pe
    let (bs, s1) := beatsOf gs s
    ({ bytes := cutMessage bs (src % 64) n, bad := badOf gs, tainted := bs.any (·.psn) }, snoopRun (.hostLink r) (plain bs) own s1)
  | 1 =>
    let (gs, bs, s1) := stagingReads (s.cmdKey r c) (spanPlan src n) s
    ({ bytes := cutMessage bs (src % 64) n, bad := badOf gs, tainted := bs.any (·.psn) }, s1)
  | 2 =>
    let secs := (List.range (ceilDiv n 4096)).map (fun i => s.readSec (src + i))
    let bs := (secs.flatMap Sec.beats).take (ceilDiv n 64)
    let bad := secs.zipIdx.foldl (fun (b : Bad) p => b.add (src + p.2) (popCount p.1.psn)) {}
    ({ bytes := cutMessage bs 0 n, bad := bad, tainted := bs.any (·.psn) },
     snoopRun .vaultRead (secs.flatMap (fun x => packed (packedFlag x) x)) own s)
  | _ =>
    match s.image? (s.ringTenant r) (BitVec.ofNat 32 (c.f 0x14 4)) with
    | none => ({}, s)
    | some i =>
      let secs := s.imageSecs i
      let bs := secs.flatMap Sec.beats
      let p := poisonOf secs
      let dirty := i.tainted || bs.any (·.psn)
      ({ bytes := sloeBytes bs, bad := if dirty then { first := some (i.lba + p.1), n := p.2 } else {}, tainted := dirty },
       if i.inStage then s else snoopRun .vaultRead (tapSecs (flaggedSecs secs) (zipIx secs)) own s)

/-- The message of a DIGEST_VERIFY, as its context starts it: the key states are copied (R241). -/
def digestMsg (s : State) (r : Ring) (c : Cmd) : SloeMsg :=
  let k := s.ma.keys[ix 31 (c.f 0x13 1)]
  let keyed := c.f 0x13 1 != 0xFF
  { alg := c.alg, compare := c.f 0x12 1 == 1, declared := c.f 0x20 8, cid := some c.cid, ring := r
    resAddr := c.f 0x30 8, cached := keyed, keySlot := if keyed then BitVec.ofNat 5 (c.f 0x13 1) else 0
    inner := if keyed then some (k.inner, k.outer) else none }

/-- A context is taken (R229): it runs, SLOE_LAST names it, and a key slot used is a side effect (R138). -/
def takeCtx (r : Ring) (c : Cmd) (l : Lane) (x : Ctx) (s : State) : State :=
  let m := digestMsg s r c
  let s1 := s.onCtx l x (fun y => { y with
    digest := 0, state := 1, alg := algBits m.alg, compare := m.compare, cached := m.cached, tainted := false
    trunc := false, short := false, keyFail := false, keySlot := m.keySlot, cmpEq := false, cmpNeN := false
    len := 0, ovf := 0, msg := some m })
  let s2 := s1.onRing r (fun y => { y with sloeLast := some (l, x) })
  modCmd r c.cid (fun d => { stopWaiting s.now d with units := 16 * l.val + x.val + 1, effect := d.effect || m.cached }) s2

/-- The context a DIGEST_VERIFY holds. -/
def ctxOf (c : Cmd) : Lane × Ctx := (ix 15 ((c.units - 1) / 16), ix 15 ((c.units - 1) % 16))

/-- Every beat the command waits for has come: the expected value and the whole message stand in the context,
and the command leaves the head (R114, R248). -/
def feedDigest (r : Ring) (c : Cmd) (s : State) : State :=
  let (l, x) := ctxOf c
  let pe := expectPlan c
  let ge := (planBeats c (pe ++ messagePlan c)).take pe.length
  let (be, s1) := beatsOf ge s
  let s1 := if be = [] then s1 else snoopRun (.hostLink r) (plain be) (some (r, c.cid)) s1
  let (src, s2) := digestSource r c s1
  let eb := badOf ge
  let s3 := s2.onCtx l x (fun y => { y with msg := y.msg.map (fun m => { m with
    bytes := src.bytes, tainted := src.tainted, ended := true
    expect := ((beatBytes be).toList.drop (c.f 0x28 8 % 64)).take (digestLen c.alg), expectBad := eb.n != 0 }) })
  leaveHead r c.cid (modCmd r c.cid (fun d => { d with
    plan := [], got := [], tainted := d.tainted || src.tainted
    badFirst := eb.first.orElse (fun _ => src.bad.first), badBeats := eb.n + src.bad.n
    badCause := if eb.timeout || src.bad.timeout then some .timeout else none }) s3)

/-- DIGEST_VERIFYs past the head whose reads have all come. -/
def digestReady (r : Ring) (s : State) : State :=
  (s.rings[r].past.filter (fun c => c.op == 0x18 && c.units != 0 && c.got != [])).foldl (fun s c =>
    match s.rings[r].find c.cid with
    | some d => if allGot d (expectPlan d ++ messagePlan d) then feedDigest r d s else s
    | none => s) s

/-- The reads of a DIGEST_VERIFY that holds a context: EXPECT, then the message (R248); it leaves the head once they are
issued (R114). -/
def digestReads (r : Ring) (c : Cmd) (s : State) : State :=
  match gather r c.cid (expectPlan c ++ messagePlan c) s with
  | (ready, issued, s2) =>
    if ready then (match s2.rings[r].find c.cid with | some d => feedDigest r d s2 | none => s2)
    else if issued then leaveHead r c.cid s2 else s2

/-- DIGEST_VERIFY at the head: its checks, a free context of a COMMAND lane of its tenant, then its reads. -/
def digestAct (r : Ring) (c : Cmd) (s : State) : State :=
  if c.units ≠ 0 then digestReads r c s
  else
    let t := s.ringTenant r
    match vaultGate s c, digestCheck s t c with
    | some o, _ => pushEntry r c o s
    | none, some o => pushEntry r c o s
    | none, none =>
      let lanes := s.commandLanes t
      match lanes.filter (fun l => !s.ma.lanes[l].fenced) with
      | [] => pushEntry r c (faultOutc (36 + ((lanes.head?).map (·.val)).getD 0)) s
      | live =>
        match live.findSome? (fun l => (freeCtx s.ma.lanes[l]).map (fun x => (l, x))) with
        | none => delayCmd r c.cid 7 0 s
        | some (l, x) =>
          let s1 := takeCtx r c l x s
          match s1.rings[r].find c.cid with
          | some d => digestReads r d s1
          | none => s1

def execDigestVerify (r : Ring) (s : State) : Host.Outcome State Fault Refusal := .next (headStep r 0x18 (digestAct r) s)

/-! ### SLOE_DIGEST_COMPLETE (R231 to R239, R245, R248, R249) -/

/-- What RES_ADDR receives (R248). -/
def resRecord (m : SloeMsg) (o : MsgOut) (pair : Bool × Bool) : List Byte :=
  if m.compare then
    toLE 8 (pair.1.toNat + 2 * pair.2.toNat + 4 * m.tainted.toNat + 8 * o.trunc.toNat + 16 * o.short.toNat)
  else o.digest

/-- A DIGEST_VERIFY completes once its result, and any RES_ADDR write, is done (R129, R248, R249). Its caller has had that
write judged. -/
def finishDigest (r : Ring) (c : Cmd) (l : Lane) (x : Ctx) (m : SloeMsg) (s : State) : State :=
  let o := msgOut m
  let slot := s.ma.lanes[l].ctx[x]
  let pair := (slot.cmpEq, slot.cmpNeN)
  let k := s.cmdKey r c
  let fate := s.fate k m.resAddr true true
  let why := if m.resAddr = 0 then none else match fate with | .go .. => none | .fail w => some w | .wait => some .atsFail
  let s1 := if m.resAddr = 0 then s else match fate with
    | .go xa t => emit (.hostWrite r.val xa (resRecord m o pair) false t) s
    | .fail w => takeDenials k true (keyFlt k m.resAddr w true s)
    | .wait => s
  let first := c.badFirst.orElse (fun _ => why.map (fun _ => m.resAddr))
  let n := c.badBeats + (if why.isSome then 1 else 0)
  let d0 := if m.compare then pair.1.toNat + 2 * pair.2.toNat else natLE (o.digest.take 8)
  pushEntry r c (
    if c.badCause = some .timeout then { status := stTIMEOUT, d0 := first.getD 0, d1 := min n 0xFFFFFFFF, tainted := m.tainted }
    else if m.tainted || n != 0 then
      { status := stPOISONED, d0 := first.getD 0, d1 := min n 0xFFFFFFFF, tainted := m.tainted }
    else if o.trunc then { status := stTRUNC, d0 := m.declared, d1 := min o.ovf 0xFFFFFFFF }
    else { status := stOK, d0 := d0, d1 := 16 * l.val + x.val }) s1

/-- The DIGEST_VERIFY a message belongs to, while its RES_ADDR write has no answer of the ATPU yet (R94). -/
def resWaits (s : State) (m : SloeMsg) : Option Key :=
  if m.snoop.isSome ∨ m.resAddr = 0 then none
  else match m.cid.bind (fun cid => s.rings[m.ring].find cid) with
    | none => none
    | some d => if s.fate (s.cmdKey m.ring d) m.resAddr true true = .wait then some (s.cmdKey m.ring d) else none

/-- The message may be finalised: it has ended, or its declared length has come (R232, R233). -/
def mayFinalise (m : SloeMsg) : Bool :=
  !m.parked && !m.finalised && (m.ended || (m.declared != 0 && decide (m.declared ≤ m.done + m.bytes.length)))

/-- SLOE_DIGEST_COMPLETE: a lane that owes its self-test runs it before a compare; one that fails it and its
retry is fenced (R238). -/
def execSloeDigestComplete (l : Lane) (c : Ctx) (glitch : Option (Bool × Bool)) (selfTestOk : Bool) (s : State) :
    Host.Outcome State Fault Refusal :=
  .next (if s.pw.rdy = false ∨ s.pw.phase ≠ .ready ∨ s.ma.lanes[l].fenced then s
    else match s.ma.lanes[l].ctx[c].msg with
      | none => s
      | some m =>
        if mayFinalise m = false then s
        else match resWaits s m with
        | some k => askTranslation k m.resAddr true s
        | none =>
        if m.compare ∧ s.ma.lanes[l].selfTest ∧ selfTestOk = false then fenceLane l 1 s
        else
          let s0 := if m.compare then s.onLane l (fun x => { x with selfTest := false }) else s
          let s1 := writeResult l c m glitch s0
          resumeUnits (drainTap l (match m.cid with
          | none => s1
          | some cid =>
            if m.snoop.isSome then s1
            else match s1.rings[m.ring].find cid with
            | some d => finishDigest m.ring d l c m s1
            | none => s1)))

/-! ### SLOE_SR (R250, R251) -/

/-- SR_CTL.RESULT codes (Table 12-7). -/
def srSet (l : Lane) (c : Ctx) (res : BitVec 4) (s : State) : State :=
  { s with ma := { s.ma with srLane := l, srCtx := c, srResult := res } }

/-- A write of SR_CTL by the owning tenant of the lane it names (R74, R78, R250). -/
def srDecide (s : State) (l : Lane) (op : Nat) : ExpRes := decideWrite s (.srCtl l) (some s.ma.lanes[l].owner) op true true

/-- Why a save or a restore of a context fails before its data is looked at (R251). -/
def srCheck (s : State) (l : Lane) (c : Ctx) : Option (BitVec 4) :=
  if s.ma.lanes[l].keep then some 2
  else match s.ma.lanes[l].ctx[c].msg with
    | none => some 3
    | some m => if m.cached then some 2 else if m.parked = false then some 3 else none

/-- Bytes of a block of the algorithm. -/
def blockOf (a : Alg) : Nat := (shaPar a).block

/-- The chaining value after the blocks a parked message holds. -/
def parkedChain (m : SloeMsg) : List Nat := shaAbsorb m.alg ((m.chain.map unpackChain).getD (shaInit m.alg)) m.bytes

/-- SR_STATE: chaining words in FIPS order, each little-endian (Table 12-7). -/
def chainImage (a : Alg) (h : List Nat) : BitVec 512 :=
  ofBytes 512 (h.flatMap (fun w => toLE (match a with | .sha256 => 4 | _ => 8) w))

def imageChain (a : Alg) (v : BitVec 512) : List Nat :=
  let n := match a with | .sha256 => 4 | _ => 8
  (List.range 8).map (fun i => (v.toNat / 2 ^ (8 * n * i)) % 2 ^ (8 * n))

/-- SR_SAVE: the parked context's chaining value and count go to SR_STATE and SR_LEN. -/
def execSrSave (l : Lane) (c : Ctx) (s : State) : Host.Outcome State Fault Refusal :=
  .next (if s.pw.rdy = false then s
    else if srDecide s l 1 ≠ .applied then setExp (srDecide s l 1) s
    else match srCheck s l c, s.ma.lanes[l].ctx[c].msg with
      | some e, _ => setExp .applied (srSet l c e s)
      | none, some m =>
        if m.bytes.length % blockOf m.alg ≠ 0 then setExp .applied (srSet l c 1 s)
        else
          let s1 := srSet l c 0 s
          setExp .applied { s1 with ma := { s1.ma with
            srLen := BitVec.ofNat 64 (m.done + m.bytes.length), srState := chainImage m.alg (parkedChain m) } }
      | none, none => s)

/-- SR_RESTORE: SR_STATE and SR_LEN are loaded into the parked context. -/
def execSrRestore (l : Lane) (c : Ctx) (s : State) : Host.Outcome State Fault Refusal :=
  .next (if s.pw.rdy = false then s
    else if srDecide s l 2 ≠ .applied then setExp (srDecide s l 2) s
    else match srCheck s l c, s.ma.lanes[l].ctx[c].msg with
      | some e, _ => setExp .applied (srSet l c e s)
      | none, some m =>
        if m.bytes.length % blockOf m.alg ≠ 0 then setExp .applied (srSet l c 1 s)
        else if s.ma.srLen.toNat % blockOf m.alg ≠ 0 then setExp .applied (srSet l c 4 s)
        else setExp .applied (srSet l c 0 (s.onCtx l c (fun y => { y with msg := some { m with
          bytes := [], done := s.ma.srLen.toNat, chain := some (packChain (imageChain m.alg s.ma.srState)) } })))
      | none, none => s)

end Sys2Proof.Machine
end

