-- ==== Sys2Proof/Machine/LinkCmds.lean ====
section
/-! DEFINITION. Host-link commands (05, 17): BAR2 accesses, read completions and timeouts, translations, link training,
capacity, MSI-X, configuration requests. -/

namespace Sys2Proof.Machine

/-- A write of the staging window table through its row. -/
def execStagingWindowWrite (w : Win) (k : Fin 4) (v : Word) (s : State) : Host.Outcome State Fault Refusal :=
  .next (if s.pw.rdy = false then s else windowWrite w k v s)

/-- SVC_ENT_WRITE (R342). -/
def execSvcEntWrite (q : Req) (k : Res) (v : Word) (s : State) : Host.Outcome State Fault Refusal :=
  .next (if s.pw.rdy = false then s else svcWrite q k v s)

/-! ### BAR2 (R82, R83, R265, R297) -/

/-- An inbound access of `n` bytes at a staging offset is admitted (R83): every byte in one valid window that grants the
kind, to the requester the window names or to the host bridge. -/
def admitted (s : State) (off n : Nat) (rid : BitVec 16) (host write : Bool) : Bool :=
  s.link.wins.toList.any (fun w => w.valid && decide (w.pages.1 * winUnit ≤ off ∧ off + n ≤ w.pages.2 * winUnit)
    && (if write then w.inW else w.inR) && (rid &&& w.ridMask == w.rid &&& w.ridMask || (host && w.hostOk)))

/-- The fault record of an inbound access (R99); its TENANT and RING bits, which the spec does not give, are free. -/
def inboundFault (off : Nat) (cause : Cause) (write : Bool) (rid : BitVec 16) (s : State) : State :=
  let (x, s1) := draw s
  fltRecord off cause (ix 7 (fld x 0 3).toNat) true (fld x 3 4).toNat write rid.toNat s1

/-- The access finds the engine's BAR2: ready, and inside the BAR. An access in NAP wakes the engine (R28, R44). -/
def bar2There (s : State) (addr n : Nat) : Bool :=
  s.pw.rdy && s.pw.phase == .ready && decide (addr + n ≤ 2 ^ (30 + s.link.bar2Log2))

/-- The staging offset a BAR2 address maps to (R82). -/
def bar2Off (s : State) (addr : Nat) : Nat := s.link.bar2Index.toNat * 2 ^ (30 + s.link.bar2Log2) + addr

/-- Beats of a read found uncorrectable twice are poisoned in place and counted (R297). -/
def findBad (beats : List Nat) (s : State) : State :=
  beats.foldl (fun s b => if s.st.memBad.contains b then s
    else markBad true b { s with st := { s.st with ue := satAdd s.st.ue 1 } }) s

/-- Bytes of `n` staging bytes from `off`; those of a poisoned beat are free values (R173). -/
def readThrough (off n : Nat) (s : State) : List Byte × State :=
  let (bs, s1) := (spanPlan off n).foldl (fun (acc : List Byte × State) a =>
    let b := acc.2.beat (a / 64)
    let (d, t) := if b.psn then drawBeat acc.2 else (b.data, acc.2)
    (acc.1 ++ bytesLE 64 d, t)) (([] : List Byte), s)
  ((bs.drop (off % 64)).take n, s1)

/-- BAR2_READ: `ue` are the beats of the access, from its first, that stay uncorrectable after the retry (R83). -/
def execBar2Read (rid : BitVec 16) (host : Bool) (addr len : Nat) (ue : List Nat) (s : State) :
    Host.Outcome State Fault Refusal :=
  .next (if bar2There s addr len = false then emit (.unsupported addr) s
    else
      let s0 := wakeNap s
      let off := bar2Off s addr
      if admitted s0 off len rid host false = false then
        emit (.completerAbort addr) (inboundFault off .window false rid s0)
      else
        let plan := spanPlan off len
        let s1 := findBad ((ue.filter (fun i => decide (i < plan.length))).map (fun i => off / 64 + i)) s0
        let bad := (List.range plan.length).filter (fun i => s1.st.memBad.contains (off / 64 + i))
        let (bs, s2) := readThrough off len s1
        emit (.bar2Data addr bs bad) s2)

/-- BAR2_WRITE: discarded and logged when it is not admitted, or when it carries EP (R83, 5.1.1); it waits on a frozen
page, in order with the writes behind it (R265). -/
def execBar2Write (rid : BitVec 16) (host : Bool) (addr : Nat) (data : List Byte) (ep : Bool) (s : State) :
    Host.Outcome State Fault Refusal :=
  .next (if bar2There s addr data.length = false then emit (.unsupported addr) s
    else
      let s0 := wakeNap s
      let off := bar2Off s addr
      if admitted s0 off data.length rid host true = false then emit (.aer addr) (inboundFault off .window true rid s0)
      else if ep then emit (.aer addr) (inboundFault off .link true rid s0)
      else
        let s1 := { s0 with link := { s0.link with bar2Wait := s0.link.bar2Wait ++ [(off, data)] } }
        landBar2 s1.link.bar2Wait.length s1)

/-! ### Read completions (R88, R81, R96) -/

/-- The read goes to the addresses of an invalidation under the PASID it names. -/
def invHits (i : Option (BitVec 20) × Nat × Nat) (q : ReadReq) : Bool :=
  (match i.1 with | some p => q.key.pasid == p | none => true)
    && decide (q.addr < i.2.1 + i.2.2 ∧ i.2.1 < q.addr + 64 * q.beats)

/-- Orchard lines whose translation an invalidation covers (R180). -/
def dropInv (i : Option (BitVec 20) × Nat × Nat) (s : State) : State :=
  { s with ma := { s.ma with lines := s.ma.lines.filter (fun l =>
      !(!l.staging && (match i.1 with | some p => l.pasid == p | none => true)
        && decide (512 * l.va < i.2.1 + i.2.2 ∧ i.2.1 < 512 * l.va + 512))) } }

/-- Invalidations are answered once the accesses issued under them have all completed (R96). -/
def settleInv (s : State) : State :=
  s.link.atsInv.foldl (fun s i =>
    if s.link.reads.any (fun q => q.stale && invHits i q) then s
    else emit .atsInvDone { s with link := { s.link with atsInv := s.link.atsInv.filter (· != i) } }) s

/-- After beats or an answer of the ATPU have come: commands past the head whose reads are complete go on, wheels and
engines read ahead, invalidations are answered. -/
def afterRead (s : State) : State :=
  settleInv (pumpWheels ((List.finRange 16).foldl (fun s r => digestReady r (stageReady r s)) s))

/-- READ_COMPLETION: beats by tag; Unsupported Request, Completer Abort or EP come as cause LINK and through AER
(5.1.1). The hold-up sequence does no such work (R36). -/
def execReadCompletion (tag : Nat) (got : List Got) (s : State) : Host.Outcome State Fault Refusal :=
  .next (if s.pw.phase = .holdUp then s
    else match s.link.reads.find? (fun q => q.tag == tag && q.tagged) with
    | none => s
    | some q =>
      let s1 := if (got.take q.beats).contains (.bad .link) then emit (.aer q.addr) s else s
      afterRead (completeRead tag got s1))

/-- The lower bound of a programmed Completion Timeout range, in µs (PRESUMED, LOG 109: the ranges A to D of PCI
Express); none for the default range. -/
def timeoutLow (range : Nat) : Option Nat :=
  match range with
  | 0x1 => some 50
  | 0x2 => some 1000
  | 0x5 => some 16000
  | 0x6 => some 65000
  | 0x9 => some 260000
  | 0xA => some 1000000
  | 0xD => some 4000000
  | 0xE => some 17000000
  | _ => none

/-- The point of the completion timeout: 40 ms ± 4 ms, or the lower bound plus at most 10 %, the same every time for a
given range (R81). -/
def timeoutPoint (range : Nat) : Nat :=
  match timeoutLow range with
  | some lo => lo + Config.freeTimeout range % (lo / 10 + 1)
  | none => 36000 + Config.freeTimeout range % 8001

/-- COMPLETION_TIMEOUT: the beats still owed are poisoned under TIMEOUT and the tag is free (R81, Table 5-9). -/
def execCompletionTimeout (tag : Nat) (s : State) : Host.Outcome State Fault Refusal :=
  .next (if s.pw.phase = .holdUp then s
    else match s.link.reads.find? (fun q => q.tag == tag && q.tagged) with
    | none => s
    | some q => afterRead (completeRead tag (List.replicate q.beats (.bad .timeout))
        (advanceTo (q.since + timeoutPoint s.link.cto) s)))

/-! ### Translations (R94 to R96) -/

/-- The translation a grant brings: 4 KiB to 1 GiB around the page asked for (R94). -/
def grantEnt (q : AtsReq) (log2 xaddr : Nat) (read write : Bool) : AtcEnt :=
  let n := min 30 (max 12 log2)
  { tenant := q.key.tenant, pasid := q.key.pasid, addr := q.addr / 2 ^ n * 2 ^ n, log2 := n
    xaddr := xaddr / 2 ^ n * 2 ^ n, read := read, write := write }

/-- A translation joins the cache of 8,192 entries, the oldest leaving a full one. -/
def holdTranslation (e : AtcEnt) (s : State) : State :=
  { s with link := { s.link with atc := (if 8192 ≤ s.link.atc.length then s.link.atc.drop 1 else s.link.atc) ++ [e] } }

/-- The request's access fails its check (R95). -/
def denyRequest (q : AtsReq) (c : Cause) (s : State) : State :=
  { s with link := { s.link with atsBad := s.link.atsBad ++ [(q.key, q.addr, q.write, c)] } }

/-- ATS_TRANSLATION_COMPLETION: a grant joins the translation cache; a refusal, an absent page or a grant without the
access kind fails the waiting access (R95). The answer to a request that an invalidation overtook is dropped (R96). -/
def execAtsTranslationCompletion (req : Nat) (a : AtsReply) (s : State) : Host.Outcome State Fault Refusal :=
  .next (if s.pw.phase = .holdUp then s
    else match s.link.atsWait.find? (fun q => q.id == req) with
    | none => s
    | some q =>
      let s1 := { s with link := { s.link with atsWait := s.link.atsWait.filter (fun x => x.id != req) } }
      if q.stale then s1
      else afterRead (match a with
        | .fail => denyRequest q .atsFail s1
        | .notPresent => denyRequest q .notPresent s1
        | .grant log2 xaddr read write =>
          let s2 := holdTranslation (grantEnt q log2 xaddr read write) s1
          if q.write then (if write then s2 else denyRequest q .noAccess s2)
          else (if read then s2 else denyRequest q .noAccess s2)))

/-- ATS_INVALIDATION: the translations go with the failures known of the pages, requests under way are asked anew,
Orchard lines go, and it completes once every access issued under the translations has (R96, R180). -/
def execAtsInvalidation (pasid : Option (BitVec 20)) (addr len : Nat) (s : State) : Host.Outcome State Fault Refusal :=
  .next (if s.link.atsEn = false ∨ s.pw.phase = .holdUp then s
    else
      let i := (pasid, addr, len)
      let mine := fun (p : Option (BitVec 20)) (lo n : Nat) =>
        (match pasid with | some x => p == x | none => true) && decide (lo < addr + len ∧ addr < lo + n)
      settleInv (pumpWheels (dropInv i { s with link := { s.link with
        atc := s.link.atc.filter (fun e => !mine e.pasid e.addr (2 ^ e.log2))
        atsWait := s.link.atsWait.map (fun q => { q with stale := q.stale || mine q.key.pasid q.addr 4096 })
        atsBad := s.link.atsBad.filter (fun x => !mine x.1.pasid x.2.1 4096)
        reads := s.link.reads.map (fun q => { q with stale := q.stale || invHits i q })
        atsInv := s.link.atsInv ++ [i] } })))

/-! ### Link and capacity (R80, R338, R348, Table 2-13) -/

/-- The mixes of rate, width, FLIT mode and tag width a link may train to (Tables 5-2 and 5-7; DEDUCED, LOG 113). -/
def linkMix (rate width : BitVec 4) (flit : Bool) (tagw : BitVec 2) : Bool :=
  decide (1 ≤ rate.toNat ∧ rate.toNat ≤ 6 ∧ width.toNat ≤ 4 ∧ tagw.toNat ≤ 2)
    && (rate != 6 || flit) && (decide (4 ≤ rate.toNat) || !flit) && (tagw != 2 || flit)

/-- LINK_RETRAIN: the negotiated rate, width, FLIT mode and tag width; live capacity changes at once (R80). A mix that
cannot be trained to changes nothing (DESIGN CHOICE, LOG 117). -/
def execLinkRetrain (rate width : BitVec 4) (flit : Bool) (tagw : BitVec 2) (s : State) : Host.Outcome State Fault Refusal :=
  .next (match s.pw.phase with
    | .off | .vaux | .deep | .holdUp => s
    | _ =>
      if linkMix rate width flit tagw = false then s
      else
        let s1 := { s with link := { s.link with rate := rate, width := width, flit := flit, tagw := tagw } }
        if s.boot.up = false then s1 else pumpWheels (recap (reportLink s1)))

/-- LINK_MARGIN: 0 the PCIe link, 1 and 2 the Pair ports (Table 2-13); the link does not retrain. -/
def execLinkMargin (which : Fin 3) (s : State) : Host.Outcome State Fault Refusal :=
  .next (if s.boot.up = false ∨ s.pw.phase = .holdUp then s else raiseEvent 0x0302 0xFF (BitVec.ofNat 32 which.val) 0 s)

/-- CAPACITY_CHANGE: the ONFI channels in service and thermal derating, inputs of Table 17-2 that no other row moves. -/
def execCapacityChange (onfi : BitVec 16) (derated : Bool) (s : State) : Host.Outcome State Fault Refusal :=
  .next (if s.boot.up = false ∨ s.pw.phase = .holdUp then s
    else refreshView (recap { s with st := { s.st with onfi := onfi }, pw := { s.pw with derated := derated } }))

/-- BREACH_END: T ≤ L has held for 1 ms (R348). -/
def execBreachEnd (k : Res) (s : State) : Host.Outcome State Fault Refusal :=
  .next (match s.adm[k].okSince with
    | some t => if s.adm[k].breach ∧ s.pw.phase ≠ .holdUp then endBreach k (advanceTo (t + 1000) s) else s
    | none => s)

/-! ### MSI-X (R89) -/

/-- Messages that were held by a mask and are free now: each is sent once if its source is still pending. -/
def msixFlush (s : State) : State :=
  if s.link.msixEn = false ∨ s.link.msixMask then s
  else (List.finRange 18).foldl (fun s v =>
    let x := s.link.msix[v]
    if x.pend && !x.mask then
      let s1 := { s with link := { s.link with msix := modAt s.link.msix v (fun x => { x with pend := false }) } }
      if s1.vecPending v then msixFire v s1 else s1
    else s) s

/-- MSIX_UNMASK. -/
def execMsixUnmask (v : Vec) (s : State) : Host.Outcome State Fault Refusal :=
  .next (if s.pw.phase = .holdUp then s
    else msixFlush { s with link := { s.link with msix := modAt s.link.msix v (fun x => { x with mask := false }) } })

/-- MSIX_REPEAT: while the source stays pending the message goes again 1.0 ms after the last (R89). -/
def execMsixRepeat (v : Vec) (s : State) : Host.Outcome State Fault Refusal :=
  .next (if s.vecPending v ∧ s.link.msixEn ∧ s.pw.phase ≠ .holdUp then msixFire v (advanceTo (s.link.msix[v].sent + 1000) s)
    else s)

/-! ### Configuration requests (Table 3-2, R79, R82, R89) -/

/-- What the capability structures show for an option of Table 5-2: a number for a size, a count or a width, 1 or 0 for
supported or not. An option not listed is advertised as unsupported (R79). -/
def optionValue (o : PcieOption) : Nat :=
  match o with
  | .maxPayload => 512
  | .tagWidth => 14
  | .pasidWidth => 20
  | .atsQueueDepth => 32
  | .atsUnit => 4096
  | .timeoutRanges => 0b1111
  | .msixVectors => 18
  | .bar2Sizes => 0b111111111
  | .aer | .aspmL1 | .dllReporting | .surpriseDown => 1
  | .executePerm | .privilegedMode | .pri | .srIov | .timeoutDisable | .aspmL0s | .l1Substates | .l0p | .msi
  | .interruptPin | .unlisted => 0

/-- The answer to a read of a configuration register. Where the registers lie and what they hold is the PCI Express
specification's; a read returns a free value (DESIGN CHOICE, LOG 68), but for the Interrupt Pin byte of 0x3C, which reads
0 (Table 5-2). -/
def configData (reg : Nat) (s : State) : State :=
  let (x, s1) := (Config.freeReply s.freeIx, { s with freeIx := s.freeIx + 1 })
  emit (.cfgData reg (if reg = 0x3C then x &&& 0xFFFF00FF else x)) s1

/-- What a configuration request changes. -/
def configure (q : CfgReq) (s : State) : State :=
  match q with
  | .read reg => configData reg s
  | .option o => emit (.cfgOption o (optionValue o)) s
  | .bar2Resize n => if 8 < n then s else { s with link := { s.link with bar2Log2 := n, bar2Index := 0 } }
  | .msixEnable on mask => msixFlush { s with link := { s.link with msixEn := on, msixMask := mask } }
  | .msixVector v addr data mask => msixFlush { s with link := { s.link with
      msix := modAt s.link.msix v (fun x => { x with addr := addr, data := data, mask := mask }) } }
  | .atsEnable on =>
    let s1 := { s with link := { s.link with atsEn := on } }
    afterRead (if on then s1 else { s1 with link := { s1.link with atc := [], atsWait := [], atsBad := [] } })
  | .pasidEnable on => pumpWheels { s with link := { s.link with pasidEn := on } }
  | .maxReadRequest n => { s with link := { s.link with maxRead := n } }
  | .timeoutRange r => { s with link := { s.link with cto := r } }
  | .other => emit (.unsupported 0) s

/-- CONFIGURATION_REQUEST: Request Retry Status before t0 + 100 ms; none is answered while the link is down. -/
def execConfigurationRequest (q : CfgReq) (s : State) : Host.Outcome State Fault Refusal :=
  .next (match s.pw.phase with
    | .off | .vaux | .deep | .inReset | .waitRelease | .holdUp | .thermalHold => s
    | .bringUp | .recovery =>
      if s.boot.up = false ∨ s.now < s.wd.since + 100000 then emit .cfgRetry s else configure q s
    | .ready => configure q s)

end Sys2Proof.Machine
end

