-- ==== Sys2Proof/Machine/PairCmds.lean ====
section
/-! DEFINITION. The commands of the Pair link (16): ports, peer table, received packets, transmission and
timers, and the ring commands PAIR_SYNC and PAIR_TAKEOVER. -/

namespace Sys2Proof.Machine

/-! ### Ports and neighbours (R315, R316) -/

def execPairPortUp (p : PPort) (s : State) : Host.Outcome State Fault Refusal :=
  .next (if s.pw.mainOn = false ∨ s.pw.phase = .deep ∨ s.pw.phase = .holdUp ∨ s.pair.ports[p].mgmtOff then s
    else recap (refreshSessions (s.onPort p (fun x => { x with up := true }))))

def execPairPortDown (p : PPort) (s : State) : Host.Outcome State Fault Refusal :=
  .next (if s.pw.phase = .holdUp then s else recap (s.onPort p (fun x => { x with up := false })))

/-- One neighbour learned or replaced. -/
def learn {α β : Type} [BEq α] (k : α) (v : β) (l : List (α × β)) : List (α × β) :=
  (k, v) :: l.filter (fun p => !(p.1 == k))

/-- ARP and Neighbor Discovery: answered for the port's own addresses, used to resolve peers (R315). -/
def execNeighbourMessage (p : PPort) (m : Neighbour) (s : State) : Host.Outcome State Fault Refusal :=
  let x := s.pair.ports[p]
  let own := bytesBE 6 (Config.mac p.val)
  .next (if x.up = false ∨ s.pw.rdy = false then s
    else match m with
      | .arpRequest ip asker mac =>
        if ip = x.ip4 ∧ ip ≠ 0 then
          emit (.eth p.val "arpReply" (own ++ bytesLE 4 ip ++ bytesBE 6 mac ++ bytesLE 4 asker))
            (s.onPort p (fun x => { x with neigh4 := learn asker mac x.neigh4 }))
        else s
      | .arpReply ip mac => s.onPort p (fun x => { x with neigh4 := learn ip mac x.neigh4 })
      | .ndSolicit ip asker mac =>
        if ip = x.ip6 ∧ ip ≠ 0 then
          emit (.eth p.val "ndAdvert" (own ++ bytesLE 16 ip ++ bytesBE 6 mac ++ bytesLE 16 asker))
            (s.onPort p (fun x => { x with neigh6 := learn asker mac x.neigh6 }))
        else s
      | .ndAdvert ip mac => s.onPort p (fun x => { x with neigh6 := learn ip mac x.neigh6 }))

/-- ICMP echo: answered on IPv4 and IPv6 with the same payload (R315). -/
def execIcmpEcho (p : PPort) (v6 : Bool) (src dst : BitVec 128) (payload : List Byte) (s : State) :
    Host.Outcome State Fault Refusal :=
  let x := s.pair.ports[p]
  let mine := if v6 then dst == x.ip6 && x.ip6 != 0 else fld dst 0 32 == x.ip4 && x.ip4 != 0
  .next (if x.up = false ∨ s.pw.rdy = false ∨ mine = false then s
    else emit (.eth p.val "icmpEchoReply" (bytesLE 16 dst ++ bytesLE 16 src ++ payload)) s)

/-- FRAME_DROPPED: a frame fails the acceptance of R317. -/
def execFrameDropped (e : Option Peer) (s : State) : Host.Outcome State Fault Refusal :=
  .next (if s.pw.rdy = false ∨ s.pair.ports.toList.all (fun p => !p.up) then s
    else countDrop (match e with | some e => if s.pair.peers[e].cfg.valid then some e else none | none => none) s)

/-! ### The peer table (R318) -/

/-- The entry with one word rewritten (Table 16-3). -/
def peerWord (c : PeerCfg) (word : Nat) (v : Word) : PeerCfg :=
  let addr := fun (i : Nat) =>
    BitVec.ofNat 128 ((c.addr &&& ~~~ (BitVec.ofNat 128 (0xFFFFFFFF * 2 ^ (32 * i)))).toNat + v.toNat * 2 ^ (32 * i))
  match word with
  | 0 => { c with valid := bit v 31, tenant := ix 7 (fld v 28 3).toNat, buddy := bit v 27, ward := bit v 26
                  take := bit v 25, drain := bit v 24, v6 := bit v 23, vlanEn := bit v 22
                  dscp := fld v 16 6, liveMs := fld v 0 16 }
  | 1 => { c with fwdLo := fld v 25 7, fwdN := fld v 17 8, remBase := fld v 10 7 }
  | 2 => { c with vid := fld v 0 12 }
  | 3 => { c with engineId := BitVec.ofNat 64 ((c.engineId.toNat / 2 ^ 32) * 2 ^ 32 + v.toNat) }
  | 4 => { c with engineId := BitVec.ofNat 64 (c.engineId.toNat % 2 ^ 32 + v.toNat * 2 ^ 32) }
  | 5 => { c with addr := addr 0 }
  | 6 => { c with addr := addr 1 }
  | 7 => { c with addr := addr 2 }
  | 8 => { c with addr := addr 3 }
  | _ => c

/-- A VALID entry is free of the faults of R318. -/
def peerOk (s : State) (e : Peer) (c : PeerCfg) : Bool :=
  !c.valid ||
  (decide (10 ≤ c.liveMs.toNat ∧ c.liveMs.toNat ≤ 10000) && decide (c.fwdLo.toNat + c.fwdN.toNat ≤ 128)
    && decide (c.remBase.toNat + c.fwdN.toNat ≤ 128) && c.engineId != Config.engineId
    && (List.finRange 4).all (fun f => f == e || !s.pair.peers[f].cfg.valid || s.pair.peers[f].cfg.engineId != c.engineId))

/-- BYE names the copies that are drained. -/
def byePayload (s : State) (e : Peer) : List Byte := byeBytes (((s.copiesOf e).filter (·.drained)).map (·.step))

/-- A write of a peer entry's word (R318). -/
def peerWrite (e : Peer) (word : Nat) (v : Word) (s : State) : State :=
  let old := s.pair.peers[e].cfg
  let c := peerWord old word v
  if s.cfg.loading then setExp .busy s
  else if 9 ≤ word then setExp .applied s
  else if peerOk s e c = false then setExp .range s
  else
    let s0 := setExp .applied (s.onPeer e (fun p => { p with cfg := c }))
    let s1 := if c.valid && c.drain && !c.ward then flagWarn 6 e.val s0 else s0
    if word = 0 ∧ { old with liveMs := c.liveMs } = c then s1
    else
      let said := if old.valid && !c.valid && decide (s.pair.peers[e].sess ≠ .down) then pairSend e 0x04 (byePayload s e) s1 else s1
      let ended := endSignals e (endXfers e 0x6A (fun _ => true) said)
      let freed := if c.valid then ended
        else (ended.copiesOf e).foldl (fun s x => releaseCopy e x.step s) ended
      refreshSessions (freed.onPeer e (fun p => { freshPsns p with sess := .down, fencedOut := false, peerNonce := none }))

def execPeerEntryWrite (e : Peer) (word : Nat) (v : Word) (s : State) : Host.Outcome State Fault Refusal :=
  .next (if s.pw.rdy = false then s else peerWrite e word v s)

/-! ### Session packets (R319 to R322) -/

/-- A HELLO or HELLO_ACK whose nonce differs from the one the peer used before reopens the session. -/
def meetNonce (e : Peer) (nonce : Word) (s : State) : State :=
  let s1 := match s.pair.peers[e].peerNonce with
    | some n => if n = nonce then s else peerReopened e s
    | none => s
  s1.onPeer e (fun p => { p with peerNonce := some nonce })

def execHello (x : PairRx) (nonce epoch : Word) (holds : List HoldRec) (s : State) :
    Host.Outcome State Fault Refusal :=
  .next (match pairAccept x (pairFrame (.hello x nonce epoch holds)) s with
    | (none, s1) => s1
    | (some e, s1) =>
      let s2 := meetNonce e nonce s1
      becomeUp e holds (pairSend e 0x02 (helloPayload s2 e) s2))

def execHelloAck (x : PairRx) (nonce epoch : Word) (holds : List HoldRec) (s : State) :
    Host.Outcome State Fault Refusal :=
  .next (match pairAccept x (pairFrame (.helloAck x nonce epoch holds)) s with
    | (none, s1) => s1
    | (some e, s1) => becomeUp e holds (meetNonce e nonce s1))

def execHeartbeat (x : PairRx) (s : State) : Host.Outcome State Fault Refusal := .next (pairAccept x (pairFrame (.heartbeat x)) s).2

/-- BYE: GONE, transfers end with 0x67, and PAIRED goes from every image not listed as drained (16.4.1). -/
def byeIn (e : Peer) (drained : List Dword) (s : State) : State :=
  let p := s.pair.peers[e]
  let s1 := endXfers e 0x67 (fun _ => true) (s.onPeer e (fun p => { p with sess := .gone }))
  let s2 := if p.cfg.buddy then
      { s1 with st := { s1.st with images := s1.st.images.map (fun i =>
        if i.tenant = p.cfg.tenant ∧ drained.contains i.step = false then { i with paired := false } else i) } }
    else s1
  raiseEvent 0x0802 0xFF (BitVec.ofNat 32 e.val) 0 s2

def execBye (x : PairRx) (drained : List Dword) (s : State) : Host.Outcome State Fault Refusal :=
  .next (match pairAccept x (pairFrame (.bye x drained)) s with
    | (none, s1) => s1
    | (some e, s1) => byeIn e drained s1)

/-! ### Transmission and acknowledgement (R324) -/

/-- The packets before the first unsent one, that one, and those after it. -/
def splitUnsent : List PairPkt → List PairPkt → Option (List PairPkt × PairPkt × List PairPkt)
  | _, [] => none
  | acc, k :: ks => if k.sent then splitUnsent (acc ++ [k]) ks else some (acc, k, ks)

/-- PAIR_TRANSMIT: the next queued reliable packet is sent while fewer than 4,096 are in flight. -/
def execPairTransmit (e : Peer) (s : State) : Host.Outcome State Fault Refusal :=
  let p := s.pair.peers[e]
  .next (if s.pw.phase = .holdUp ∨ p.sess ≠ .up ∨ 4096 ≤ p.inFlight then s
    else match splitUnsent [] p.out with
      | some (b, k, a) => pairRelease e k b a s
      | none => s)

/-- PAIR_SIGNAL_FORWARD: a forwarded signal is sent once every DATA packet sent earlier is acknowledged. -/
def execPairSignalForward (e : Peer) (s : State) : Host.Outcome State Fault Refusal :=
  let p := s.pair.peers[e]
  .next (if s.pw.phase = .holdUp ∨ p.sess ≠ .up ∨ 4096 ≤ p.inFlight ∨ p.out.any (fun k => k.sent && k.ty == 0x13) then s
    else match p.fwd with
      | [] => s
      | (c, add) :: rest =>
        let s1 := s.onPeer e (fun p => { p with fwd := rest, sigSeq := p.sigSeq + 1, sigWait := p.sigWait ++ [p.sigSeq] })
        pairRelease e { ty := 0x20, payload := signalPayload c add p.sigSeq }
          (p.out.filter (·.sent)) (p.out.filter (fun k => !k.sent)) s1)

def execAckTimer (e : Peer) (s : State) : Host.Outcome State Fault Refusal :=
  .next (if s.pw.phase = .holdUp ∨ s.pair.peers[e].unacked = 0 ∨ s.pair.peers[e].sess = .down then s else sendAck e s)

/-- A packet sent again; a DATA packet counts for its transfer (Table 16-8). -/
def resendPkt (e : Peer) (k : PairPkt) (s : State) : State :=
  let s1 := s.onPeer e (fun p => { p with
    retx := satAdd p.retx 1
    out := p.out.map (fun q => if q.sent ∧ q.psn = k.psn then { q with tries := q.tries + 1, sentAt := s.now } else q)
    xfers := p.xfers.map (fun t => if k.ty = 0x13 ∧ t.sending ∧ bytesBE 4 t.xfer = k.payload.take 4 then
      { t with retx := t.retx + 1 } else t) })
  pairEmit e k.ty k.psn k.payload s1

/-- The retransmission interval: 200 µs, doubling up to 12.8 ms. -/
def retxAfter (tries : Nat) : Nat := min 12800 (200 * 2 ^ tries)

/-- RETRANSMIT_TIMER; a packet unacknowledged after LIVE_MS makes the session LOST. -/
def execRetransmitTimer (e : Peer) (psn : Word) (s : State) : Host.Outcome State Fault Refusal :=
  let p := s.pair.peers[e]
  .next (match p.out.find? (fun k => k.sent && k.psn == psn) with
    | none => s
    | some k =>
      if s.pw.phase = .holdUp ∨ p.sess ≠ .up then s
      else
        let s1 := advanceTo (k.sentAt + retxAfter k.tries) s
        if k.since + 1000 * p.cfg.liveMs.toNat ≤ s1.now then loseSession e s1 else resendPkt e k s1)

/-- Whether an ACK's bitmap shows a PSN received. -/
def ackBit (base : Word) (got : BitVec 512) (psn : Word) : Bool :=
  let d := (psn - base).toNat
  decide (d < 512) && got.getLsbD (d / 8 * 8 + (7 - d % 8))

/-- ACK: packets below BASE_PSN or shown received are released; one shown missing while a PSN at least 8
higher is received is sent again. -/
def ackIn (e : Peer) (base : Word) (got : BitVec 512) (s : State) : State :=
  let s1 := s.onPeer e (fun p => { p with
    out := p.out.filter (fun k => !(k.sent && (psnLt k.psn base || ackBit base got k.psn))) })
  let high := fun (psn : Word) => (List.range 512).any (fun d =>
    ackBit base got (base + BitVec.ofNat 32 d) && !psnLt (base + BitVec.ofNat 32 d) (psn + 8))
  (s1.pair.peers[e].out.filter (fun k => k.sent && decide ((k.psn - base).toNat < 512) && high k.psn)).foldl
    (fun s k => resendPkt e k s) s1

def execAck (x : PairRx) (base : Word) (got : BitVec 512) (s : State) : Host.Outcome State Fault Refusal :=
  .next (match pairAccept x (pairFrame (.ack x base got)) s with
    | (none, s1) => s1
    | (some e, s1) => ackIn e base got s1)

/-! ### Timers of the session (R319, R320, R325) -/

/-- HEARTBEAT_TIMER: none goes to a peer whose last packet carried DOZE. -/
def execHeartbeatTimer (e : Peer) (s : State) : Host.Outcome State Fault Refusal :=
  let p := s.pair.peers[e]
  .next (if s.pw.phase = .holdUp ∨ p.sess ≠ .up ∨ p.doze then s
    else pairSend e 0x03 [] (advanceTo (p.lastTx + 100 * p.cfg.liveMs.toNat) s))

def execHelloTimer (e : Peer) (s : State) : Host.Outcome State Fault Refusal :=
  let p := s.pair.peers[e]
  .next (if s.pw.phase ≠ .holdUp ∧ (p.sess = .opening ∨ p.sess = .lost) then
      pairSend e 0x01 (helloPayload s e) (advanceTo (p.lastTx + 100000) s) else s)

/-- PAIR_LOST: an engine in NAP does not run its liveness timers (R320). -/
def execPairLost (e : Peer) (s : State) : Host.Outcome State Fault Refusal :=
  let p := s.pair.peers[e]
  .next (if s.pw.phase = .holdUp ∨ p.sess ≠ .up ∨ s.pw.pstate = .nap then s
    else loseSession e (advanceTo (p.lastRx + 1000 * p.cfg.liveMs.toNat) s))

/-- PAIR_SESSION_TIMEOUT: a pairing or fetch that still waits for a session LIVE_MS after it began
completes REFUSED with reason 0x60. -/
def execPairSessionTimeout (e : Peer) (s : State) : Host.Outcome State Fault Refusal :=
  let p := s.pair.peers[e]
  .next (match p.xfers.find? (fun t => !t.opened) with
    | none => s
    | some t => if s.pw.phase = .holdUp ∨ p.sess = .up then s
      else endXfer e t 0x60 (advanceTo (t.since + 1000 * p.cfg.liveMs.toNat) s))

/-! ### Reliable packets, delivered in PSN order -/

/-- OFFER (R327): the buddy's checks of Table 16-7, or the reply to a FETCH of ours. -/
def offerIn (e : Peer) (xfer img : Word) (step : Dword) (total : Nat) (alg : Alg) (kind : Bool) (root : BitVec 512)
    (s : State) : State :=
  let p := s.pair.peers[e]
  let refuse := fun (why : Nat) => pairQueue e 0x12 (refusePayload xfer why) s
  let held := s.copiesOf e
  if kind then
    match p.xferOf xfer false with
    | some t =>
      if t.owner.isNone ∨ t.accepted ∨ t.total ≠ 0 ∨ total = 0 then s
      else
        let t1 := { t with total := total, alg := alg, root := root }
        fetchAccept e t1 (modXfer e xfer false (fun _ => t1) s)
    | none => s
  else if (p.xferOf xfer false).isSome then s
  else if s.st.op.st = 1 ∧ s.st.op.kind = 1 then refuse 0x6C
  else if p.cfg.ward = false ∨ p.fencedOut then refuse 0x62
  else match held.find? (fun c => c.step == step && c.root == root) with
  | some c => pairQueue e 0x14 (heldPayload xfer c.tainted step) s
  | none =>
    if s.rxLane.isNone then refuse 0x69
    else if 2 ≤ held.length ∧ held.all (fun c => decide (step.toNat < c.step.toNat)) then refuse 0x68
    else if held.any (fun c => c.step == step) then refuse 0x63
    else if s.poolFreeBlocks < ceilDiv total 512 ∨ (p.cfg.drain ∧ areaFits s total = false) then refuse 0x61
    else
      let s1 := if 2 ≤ held.length then
          match held.foldl (fun b c => match b with
            | none => some c
            | some x => if c.step.toNat < x.step.toNat then some c else some x) (none : Option Copy) with
          | some c => releaseCopy e c.step s
          | none => s
        else s
      pairQueue e 0x11 (bytesBE 4 xfer) (s1.onPeer e (fun p => { p with xfers := p.xfers ++
        [{ xfer := xfer, sending := false, step := step, img := img, tenant := p.cfg.tenant, total := total
           root := root, alg := alg, opened := true, accepted := true, ownerId := p.cfg.engineId, since := s.now }] }))

def acceptIn (e : Peer) (xfer : Word) (s : State) : State :=
  match s.pair.peers[e].xferOf xfer true with
  | some t => if t.accepted then s
    else
      let order := sendOrder t.whole
      let sent := order.flatMap (fun p => (List.range p.2).map (fun i => (p.1 + i, (t.sec? (p.1 + i)).getD {})))
      let s1 := modXfer e xfer true (fun t => { t with accepted := true }) s
      queueData e t order (if (snoopsOn s .pairTx).isEmpty then s1
        else snoopRun .pairTx (tapSecs (flaggedSecs t.whole) sent) t.owner s1)
  | none => s

def refuseIn (e : Peer) (xfer : Word) (reason : Byte) (s : State) : State :=
  match s.pair.peers[e].xferOf xfer true with
  | some t => endXfer e t reason.toNat s
  | none => match s.pair.peers[e].xferOf xfer false with
    | some t => endXfer e t reason.toNat s
    | none => s

/-- A DATA packet carries sectors of a chunk asked for again. -/
def isResent (t : Transfer) (sector : Nat) : Bool :=
  t.resent != [] && (match openImage t.whole with
    | some o => t.resent.any (fun i => match o.chunks[i]? with
      | some c => decide (c.off ≤ sector ∧ sector < c.off + c.nsec)
      | none => false)
    | none => false)

/-- Sectors received pass the receive tap of the Pair link (Table 12-2). -/
def snoopRx (t : Transfer) (new : List (Nat × Sec)) (s : State) : State :=
  if (snoopsOn s .pairRx).isEmpty then s else snoopFeed .pairRx (tapSecs (flaggedSecs t.whole) new) t.owner s

def dataIn (e : Peer) (xfer : Word) (sector : Nat) (secs : List Sec) (s : State) : State :=
  match s.pair.peers[e].xferOf xfer false with
  | some t =>
    if t.accepted = false ∨ t.total < sector + secs.length ∨ 2 < secs.length then s
    else
      let new := secs.zipIdx.map (fun p => (sector + p.2, p.1))
      let t1 := { t with
        secs := t.secs.filter (fun p => p.1 < sector || sector + secs.length ≤ p.1) ++ new
        retx := t.retx + (if isResent t sector then 1 else 0) }
      rxSettle e xfer (snoopRx t1 new (modXfer e xfer false (fun _ => t1) s))
  | none => s

/-- HELD (R329, Table 16-8). -/
def heldIn (e : Peer) (xfer : Word) (tainted : Bool) (step : Dword) (s : State) : State :=
  match s.pair.peers[e].xferOf xfer true with
  | none => s
  | some t =>
    let s1 := dropXfer e xfer true s
    if t.fetchReply then s1
    else
      let s2 := s1.onPeer e (fun p => { p with lastHeld := if p.lastHeld.toNat < step.toNat then step else p.lastHeld })
      if tainted then
        pairOutcome t.owner { status := stPOISONED, d0 := (poisonOf t.whole).1, d1 := (poisonOf t.whole).2, tainted := true } s2
      else
        pairOutcome t.owner { status := stOK, d0 := s2.pair.peers[e].cfg.engineId.toNat, d1 := min t.retx 0xFFFFFFFF }
          (modImage t.tenant t.img (fun i => { i with paired := true }) s2)

def resendIn (e : Peer) (xfer : Word) (sector count : Nat) (s : State) : State :=
  match s.pair.peers[e].xferOf xfer true with
  | some t => if t.accepted ∧ sector + count ≤ t.total then queueData e t (packetRun sector count) s else s
  | none => s

/-- A SIGNAL from the peer (R333): the first failed check decides its SIG_ACK. -/
def signalIn (e : Peer) (cairn : Byte) (add : Word) (seq : Dword) (s : State) : State :=
  let t := s.pair.peers[e].cfg.tenant
  let c : Cairn := ix 127 cairn.toNat
  let (st, s1) : Nat × State :=
    if s.cfg.loaded = false then (0x0C, s)
    else if 127 < cairn.toNat then (0x05, s)
    else if s.cairns[c].owner ≠ t then (0x04, blockSignal c 7 e.val s)
    else if add = 0 ∨ bit add 31 then (0x05, s)
    else (0x00, resumeUnits (applySignal c 7 e.val add s))
  pairQueue e 0x21 (sigAckPayload seq st) s1

/-- SIG_ACK ends a forwarded signal; one other than OK is counted and raised (R333). -/
def sigAckIn (e : Peer) (seq : Dword) (status : Byte) (s : State) : State :=
  if s.pair.peers[e].sigWait.contains seq then
    let s1 := s.onPeer e (fun p => { p with sigWait := p.sigWait.filter (· != seq) })
    if status = 0 then s1
    else raiseEvent 0x0805 0xFF (BitVec.ofNat 32 e.val) (BitVec.ofNat 32 status.toNat)
      (s1.onPeer e (fun p => { p with sigRej := satAdd p.sigRej 1 }))
  else s

/-- A ward is fenced out: its OFFER transfers end with reason 0x62 and PAIR_FENCED is raised (R334). -/
def fenceWard (o : Peer) (s : State) : State :=
  if s.pair.peers[o].fencedOut then s
  else
    let s1 := s.onPeer o (fun p => { p with fencedOut := true })
    let s2 := (s1.pair.peers[o].xfers.filter (fun t => !t.sending && t.owner.isNone)).foldl
      (fun s t => refuseXfer o t 0x62 s) s1
    raiseEvent 0x0806 0xFF (BitVec.ofNat 32 o.val) 0 s2

/-- FETCH (R334): served with an OFFER of KIND 1 that carries the FETCH's number, or refused. -/
def fetchIn (e : Peer) (xfer : Word) (owner step : Dword) (s : State) : State :=
  let p := s.pair.peers[e]
  let refuse := fun (why : Nat) (s : State) => pairQueue e 0x12 (refusePayload xfer why) s
  let oe := (List.finRange 4).find? (fun f => s.pair.peers[f].cfg.valid && s.pair.peers[f].cfg.engineId == owner)
  if p.cfg.take = false then refuse 0x6B s
  else match oe with
  | none => refuse 0x65 s
  | some o =>
    if s.pair.peers[o].cfg.tenant ≠ p.cfg.tenant then refuse 0x6B s
    else
      let s1 := if o = e then s else fenceWard o s
      match (s1.copiesOf o).find? (fun c => c.step == step) with
      | none => refuse 0x65 s1
      | some c =>
        let t : Transfer := { xfer := xfer, sending := true, step := step, img := c.img, tenant := p.cfg.tenant
                              total := c.total, root := c.root, alg := c.alg, fetchReply := true, opened := true
                              ownerId := owner, secs := zipIx c.secs, since := s.now }
        pairQueue e 0x10 (offerPayload t) (s1.onPeer e (fun p => { p with xfers := p.xfers ++ [t] }))

/-- One reliable packet handed to the protocol. -/
def deliver (e : Peer) (i : Instr) (s : State) : State :=
  match i with
  | .offer _ xfer img step total alg kind root => offerIn e xfer img step total alg kind root s
  | .accept _ xfer => acceptIn e xfer s
  | .refuse _ xfer reason => refuseIn e xfer reason s
  | .data _ xfer sector secs => dataIn e xfer sector secs s
  | .held _ xfer tainted step => heldIn e xfer tainted step s
  | .resend _ xfer sector count => resendIn e xfer sector count s
  | .pairSignalReceive _ cairn add seq => signalIn e cairn add seq s
  | .sigAck _ seq status => sigAckIn e seq status s
  | .fetch _ xfer owner step => fetchIn e xfer owner step s
  | _ => s

/-- Packets received ahead whose turn has come. -/
def pumpAhead (e : Peer) : Nat → State → State
  | 0, s => s
  | fuel + 1, s =>
    let p := s.pair.peers[e]
    match p.rxAhead.find? (fun q => q.1 == p.rxPsn) with
    | none => s
    | some (n, i) =>
      pumpAhead e fuel (deliver e i (s.onPeer e (fun p => { p with
        rxPsn := p.rxPsn + 1, rxAhead := p.rxAhead.filter (fun q => q.1 != n) })))

/-- A reliable packet arrives (R324): duplicates are discarded, later ones wait their turn; ACK follows the
32nd packet since the last one. -/
def reliable (x : PairRx) (i : Instr) (s : State) : State :=
  match pairAccept x (pairFrame i) s with
  | (none, s1) => s1
  | (some e, s1) =>
    let p := s1.pair.peers[e]
    let s2 := s1.onPeer e (fun p => { p with unacked := p.unacked + 1 })
    let s3 :=
      if x.psn = p.rxPsn then
        pumpAhead e p.rxAhead.length (deliver e i (s2.onPeer e (fun p => { p with rxPsn := p.rxPsn + 1 })))
      else if psnLt x.psn p.rxPsn || p.rxAhead.any (fun q => q.1 == x.psn) then s2
      else s2.onPeer e (fun p => { p with rxAhead := p.rxAhead ++ [(x.psn, i)] })
    if 32 ≤ s3.pair.peers[e].unacked then sendAck e s3 else s3

def execOffer (x : PairRx) (xfer img : Word) (step : Dword) (total : Nat) (alg : Alg) (kind : Bool)
    (root : BitVec 512) (s : State) : Host.Outcome State Fault Refusal :=
  .next (reliable x (.offer x xfer img step total alg kind root) s)

def execAccept (x : PairRx) (xfer : Word) (s : State) : Host.Outcome State Fault Refusal :=
  .next (reliable x (.accept x xfer) s)

def execRefuse (x : PairRx) (xfer : Word) (reason : Byte) (s : State) : Host.Outcome State Fault Refusal :=
  .next (reliable x (.refuse x xfer reason) s)

def execData (x : PairRx) (xfer : Word) (sector : Nat) (secs : List Sec) (s : State) : Host.Outcome State Fault Refusal :=
  .next (reliable x (.data x xfer sector secs) s)

def execHeld (x : PairRx) (xfer : Word) (tainted : Bool) (step : Dword) (s : State) : Host.Outcome State Fault Refusal :=
  .next (reliable x (.held x xfer tainted step) s)

def execResend (x : PairRx) (xfer : Word) (sector count : Nat) (s : State) : Host.Outcome State Fault Refusal :=
  .next (reliable x (.resend x xfer sector count) s)

def execPairSignalReceive (x : PairRx) (cairn : Byte) (add : Word) (seq : Dword) (s : State) :
    Host.Outcome State Fault Refusal := .next (reliable x (.pairSignalReceive x cairn add seq) s)

def execSigAck (x : PairRx) (seq : Dword) (status : Byte) (s : State) : Host.Outcome State Fault Refusal :=
  .next (reliable x (.sigAck x seq status) s)

def execFetch (x : PairRx) (xfer : Word) (owner step : Dword) (s : State) : Host.Outcome State Fault Refusal :=
  .next (reliable x (.fetch x xfer owner step) s)

/-! ### PAIR_SYNC and PAIR_TAKEOVER (R325, R335) -/

/-- PAIR_SYNC: its checks in their order, then the pairing; its outcome writes one FINAL entry (R329). -/
def pairSyncAct (r : Ring) (c : Cmd) (s : State) : State :=
  match s.image? (s.ringTenant r) (BitVec.ofNat 32 (c.f 0x18 4)) with
  | none => complete r c stRANGE 0x18 0x40 s
  | some i =>
    if BitVec.ofNat 64 (c.f 0x10 8) ≠ i.step then complete r c stRANGE 0x10 0x45 s
    else if i.sealed_ = false then complete r c stREFUSED 0x66 0 s
    else beginPairing (ix 3 (c.f 0x1C 1)) r c.cid i (leaveHead r c.cid s)

def execPairSync (r : Ring) (s : State) : Host.Outcome State Fault Refusal := .next (headStep r 0x20 (pairSyncAct r) s)

/-- PAIR_TAKEOVER: its checks, then FETCH; the rest runs past the head as packets arrive (R335). -/
def pairTakeoverAct (r : Ring) (c : Cmd) (s : State) : State :=
  match vaultGate s c with
  | some o => pushEntry r c o s
  | none =>
    let t := s.ringTenant r
    if (s.image? t (BitVec.ofNat 32 (c.f 0x18 4))).isSome then complete r c stREFUSED 0x48 0 s
    else if s.rxLane.isNone then complete r c stREFUSED 0x69 0 s
    else
      let tr : Transfer := { xfer := 0, sending := false, step := BitVec.ofNat 64 (c.f 0x10 8), img := 0, tenant := t
                             owner := some (r, c.cid), ownerId := BitVec.ofNat 64 (c.f 0x20 8) }
      beginXfer (ix 3 (c.f 0x1C 1)) tr (leaveHead r c.cid s)

def execPairTakeover (r : Ring) (s : State) : Host.Outcome State Fault Refusal :=
  .next (settleFetches (headStep r 0x21 (pairTakeoverAct r) s))

end Sys2Proof.Machine
end

