-- ==== Sys2Proof/Machine/UnitCmds.lean ====
section
/-! DEFINITION. Commands of units (09, 10, 18, 19): the Orchard's invalidation, DRAIN boundaries, suspend and scans, gates
and holds, placement moves, and internal faults. -/

namespace Sys2Proof.Machine

/-! ### Orchard and DRAIN (R180, R183) -/

/-- A write of ORC_CTL.INV: set bits begin an invalidation. -/
def orcInvWrite (mask : BitVec 8) (s : State) : State := { s with ma := { s.ma with orcInv := s.ma.orcInv ||| mask } }

def execOrcInv (mask : BitVec 8) (s : State) : Host.Outcome State Fault Refusal :=
  .next (if s.pw.rdy = false then s else orcInvWrite mask s)

/-- ORC_INV_DONE: the tenant's host and peer lines are gone and its bit reads 0. -/
def execOrcInvDone (t : Tenant) (s : State) : Host.Outcome State Fault Refusal :=
  .next (if bit s.ma.orcInv t.val ∧ s.pw.phase ≠ .holdUp then
      { s with ma := { s.ma with
        orcInv := setBit s.ma.orcInv t.val false
        lines := s.ma.lines.filter (fun l => l.staging || l.tenant != t) } }
    else s)

/-- Both conditions of R183: the consumer has taken the end mark; every output wheel of the crag has passed its own for the
layer, so that the writes before it have been made. A crag whose program is not given PE by PE has no outputs under way
(LOG 11). -/
def drained (s : State) (w : Wheel) : Bool :=
  let x := s.ma.wheels[w]
  (!s.hasPes x.crag || portFree s x) && s.ma.wheels.toList.all (fun y => !(y.en && y.output && y.crag == x.crag) || !s.hasPes x.crag ||
    (decide (x.layers ≤ y.layers) && y.marks.isEmpty))

/-- DRAIN_RELEASE: both conditions of R183 hold, and the next stream may fill. -/
def execDrainRelease (w : Wheel) (s : State) : Host.Outcome State Fault Refusal :=
  .next (if s.pw.rdy ∧ s.ma.wheels[w].drainHold ∧ drained s w
    then pumpWheels (s.onWheel w (fun x => { x with drainHold := false })) else s)

/-! ### Suspend and scan (R198 to R201, R404) -/

/-- RESULT for a write to a crag that is MOVING, FENCED or KEEP (R201), or whose scan is BUSY (21.3.1). -/
def CragSt.closed (x : CragSt) : Option (BitVec 4) :=
  if x.keep then some 7 else if x.moving || x.fenced || x.scanBusy then some 1 else none

def setScanRes (n : Crag) (v : BitVec 4) (s : State) : State := s.onCrag n (fun x => { x with scanRes := v })

/-- The crag stops or resumes; wheels go on delivering to one that resumes (R198). -/
def setSuspend (n : Crag) (on : Bool) (s : State) : State := pumpWheels (s.onCrag n (fun x => { x with suspended := on }))

/-- Whether the whole scan image lies inside the crag's tenant's windows (R201). -/
def scanFits (s : State) (n : Crag) : Bool :=
  inWindows s s.ma.crags[n].tenant (s.ma.crags[n].scanAddr.toNat * 4096) scanLen

/-- A scan starts, or RESULT says why not (R199, R201). -/
def startScan (n : Crag) (op : BitVec 2) (debug : Bool) (s : State) : State :=
  if s.ma.crags[n].suspended = false then setScanRes n 2 s
  else if debug = false ∧ scanFits s n = false then setScanRes n 3 s
  else s.onCrag n (fun x => { x with scanBusy := true, scanOp := op, scanDebug := debug })

/-- The outcome of a write of SUSPEND by the owning tenant (R201); none where the crag's state answers it. -/
def decideSuspend (s : State) (n : Crag) (on : Bool) : ExpRes :=
  decideWrite s (.suspend n) (some s.ma.crags[n].tenant) (if on then 1 else 0) true true

def decideScan (s : State) (n : Crag) (op : BitVec 2) : ExpRes :=
  decideWrite s (.scanOp n) (some s.ma.crags[n].tenant) op.toNat true true

/-- A write that the crag's state answers with RESULT, or that R74 decides. -/
def cragWrite (n : Crag) (x : ExpRes) (f : State → State) (s : State) : State :=
  match s.ma.crags[n].closed with
  | some v => if s.cfg.loading then setExp .busy s else setScanRes n v s
  | none => underExp x f s

/-- SUSPEND (R198). -/
def execSuspend (n : Crag) (on : Bool) (s : State) : Host.Outcome State Fault Refusal :=
  .next (if s.pw.rdy = false then s else cragWrite n (decideSuspend s n on) (setSuspend n on) s)

/-- SCAN_OP = 0b01. -/
def execScanOut (n : Crag) (s : State) : Host.Outcome State Fault Refusal :=
  .next (if s.pw.rdy = false then s else cragWrite n (decideScan s n 1) (startScan n 1 false) s)

/-- SCAN_OP = 0b10. -/
def execScanIn (n : Crag) (s : State) : Host.Outcome State Fault Refusal :=
  .next (if s.pw.rdy = false then s else cragWrite n (decideScan s n 2) (startScan n 2 false) s)

/-- Bytes `lo` to `hi - 1` are zero. -/
def zeroSpan (bs : Array Byte) (lo hi : Nat) : Bool := (List.range (hi - lo)).all (fun i => (bs[lo + i]?).getD 0 == 0)

/-- The structural limits of Tables 10-4 and 10-5 that have an encoding: reserved bytes are zero and queue counts are at
most 8. -/
def scanStructOk (bs : Array Byte) : Bool :=
  zeroSpan bs 0x11 0x3C && zeroSpan bs 0x240 0x1000 && zeroSpan bs 0x9000 0x10000 && zeroSpan bs 0x11C200 scanLen
    && (List.range 64).all (fun p =>
      let a := 0x1000 + 512 * p
      zeroSpan bs (a + 0x110) (a + 0x200) && (List.range 4).all (fun q =>
        let b := ((bs[a + 0xF0 + q / 2]?).getD 0).toNat
        decide ((if q % 2 = 0 then b % 16 else b / 16) ≤ 8)))

/-- The pending wait a scan image holds for PE `p`; `sum` and classification are kept, and the distance to come is that to
TARGET now (8.3.1; DEDUCED, LOG 121). None where it is satisfied. -/
def waitFrom (s : State) (n : Crag) (bs : Array Byte) (p : Nat) : Option UnitWait :=
  let f := fun (o k : Nat) => natLE ((List.range k).map (fun i => (bs[waitOff p + o + i]?).getD 0))
  if f 1 1 % 128 = 0 then none
  else
    let c : Cairn := ix 127 (f 0 1)
    let w : UnitWait := { unit := .crag n, cairn := c, target := BitVec.ofNat 32 (f 4 4)
                          mode := if f 1 1 % 128 = 1 then .sleep else .headStall, left := none, sum := BitVec.ofNat 32 (f 8 4) }
    if 128 ≤ f 1 1 then some w
    else match classify w.target s.cairns[c].value with
      | .ahead d => some { w with left := some d }
      | _ => none

/-- The limits of Table 10-5 on what PE `p` holds: a wait's mode is one of Table 10-5's and its cairn the tenant's; loop
counters, position and loop form are the program's (where it is given PE by PE). -/
def scanPeOk (s : State) (n : Crag) (bs : Array Byte) (p : Pe) : Bool :=
  let f := fun (o k : Nat) => natLE ((List.range k).map (fun i => (bs[peBase p + o + i]?).getD 0))
  let wait := f 0xF5 1 % 128 == 0 || (decide (f 0xF5 1 % 128 ≤ 2 ∧ f 0xF4 1 < 128) && s.cairns[ix 127 (f 0xF4 1)].owner == s.ma.crags[n].tenant)
  wait && (match s.programOn n with
    | none => true
    | some g => match g.pes.find? (fun x => x.pe == p) with
      | none => true
      | some x => decide (f 0xE0 4 < max 1 x.body.length) && BitVec.ofNat 8 (f 0xE4 1) == readByte g.initial (peBase p + 0xE4)
          && (List.range 4).all (fun k => decide (f (0xD0 + 4 * k) 4 ≤ x.bounds.getD k 0)))

/-- RESULT of the first pass of a scan-in over an image (R199, R200). `bad` says a beat of it was read poisoned, `progBad`
that a limit without an encoding in Table 10-5 is broken. -/
def scanInResult (s : State) (n : Crag) (image : List Byte) (bad progBad : Bool) : BitVec 4 :=
  let f := fun (o k : Nat) => natLE ((image.drop o).take k)
  if f 0 4 ≠ 0x314E4353 ∨ f 4 2 ≠ 1 ∨ f 8 8 ≠ s.cfg.loadId.toNat ∨ f 7 1 ≠ s.ma.crags[n].prog.toNat then 4
  else if bad ∨ crc32c (image.take 0x3C ++ [0, 0, 0, 0] ++ image.drop 0x40) ≠ f 0x3C 4 then 5
  else if scanStructOk image.toArray = false ∨ !(List.finRange 64).all (scanPeOk s n image.toArray) ∨ progBad then 6
  else 0

/-- Beats of a scan image land in staging memory, each under the tenant's windows (R84, R85). -/
def writeScan (n : Crag) (image : List Byte) (s : State) : State :=
  let a := s.ma.crags[n].scanAddr.toNat * 4096
  (toBeats image).zipIdx.foldl (fun s p =>
    if inWindows s s.ma.crags[n].tenant (a + 64 * p.2) 64 then storeBeat (a / 64 + p.2) { data := p.1 } s
    else
      let (x, s1) := draw s
      fltRecord (a + 64 * p.2) .window s.ma.crags[n].tenant false (fld x 0 4).toNat true (fld x 4 20).toNat s1) s

/-- Pages a scan image covers. -/
def scanPages (s : State) (n : Crag) : List Nat :=
  let a := s.ma.crags[n].scanAddr.toNat * 4096
  (List.range ((a + scanLen - 1) / winUnit + 1 - a / winUnit)).map (fun i => a / winUnit + i)

/-- A scan-out ends: its image is written, once frozen pages under it are copied (R265). -/
def endScanOut (n : Crag) (s : State) : State :=
  let x := s.ma.crags[n]
  let image := scanImage s n 1
  let done := fun (s : State) => s.onCrag n (fun x => { x with scanBusy := false, scanRes := 0 })
  if x.scanDebug then done { s with ma := { s.ma with debugBuf := cellsOf image } }
  else match copyPages (scanPages s n) s with
    | none => copySome (scanPages s n) s
    | some s1 => done (writeScan n image s1)

/-- The image a scan-in reads, and whether a beat of it is poisoned or outside the tenant's windows. -/
def scanSource (s : State) (n : Crag) : List Byte × Bool :=
  let x := s.ma.crags[n]
  let a := x.scanAddr.toNat * 4096
  if x.scanDebug then (readBytes s.ma.debugBuf 0 scanLen, false)
  else (readBytes s.st.mem a scanLen, (List.range (scanLen / 64)).any (fun i =>
    s.st.memBad.contains (a / 64 + i) || !inWindows s x.tenant (a + 64 * i) 64))

/-- A scan-in ends (R199): an image that fails the first pass leaves the crag; one that changed between the passes
returns it to its program's initial state. -/
def endScanIn (n : Crag) (raced progBad : Bool) (s : State) : State :=
  let (image, bad) := scanSource s n
  let v := scanInResult s n image bad progBad
  let s1 := s.onCrag n (fun x => { x with scanBusy := false, scanRes := v })
  if v ≠ 0 then s1
  else
    let s2 := { s1 with ma := { s1.ma with waits := s1.ma.waits.filter (fun w => w.unit != SigUnit.crag n) } }
    if raced then
      let init := ((s.programOn n).map (·.initial)).getD []
      s2.onCrag n (fun x => { x with
        scanRes := 9, body := init, undefinedSince := none, written := [], rest := x.used, restSince := s.now, step := none })
    else
      let bs := image.toArray
      let s3 := { s2 with ma := { s2.ma with waits := s2.ma.waits ++ (List.range 64).filterMap (waitFrom s n bs) } }
      noteRest n (s3.onCrag n (fun x => { x with
        body := (cellsOf image).filter (fun c => decide (0x40 ≤ c.1) && (waitAt c.1).isNone), undefinedSince := none, written := [] }))

/-- SCAN_COMPLETE: `fault` says the scan failed its one retry (10.5.1). -/
def execScanComplete (n : Crag) (fault raced progBad : Bool) (s : State) : Host.Outcome State Fault Refusal :=
  let x := s.ma.crags[n]
  .next (if x.scanBusy = false ∨ s.pw.rdy = false then s
    else if fault then fenceCrag n 1 (s.onCrag n (fun x => { x with scanBusy := false, scanRes := 8 }))
    else if x.scanOp = 1 then endScanOut n s
    else endScanIn n raced progBad s)

/-! ### Gates and holds (R202, R355 to R357) -/

/-- The Keep claims the unit. -/
def keepUnit (s : State) : KeepUnit → Bool
  | .crag n => s.ma.crags[n].keep | .lane l => s.ma.lanes[l].keep | .slot k => s.ma.keys[k].keep

/-- The unit counts as used (R202, R355). -/
def usedUnit (s : State) : KeepUnit → Bool
  | .crag n => s.ma.crags[n].used
  | .lane l => s.ma.lanes[l].owned
  | .slot k => s.ma.keys[k].given.isSome || s.ma.keys[k].loaded

/-- The unit's gate bits: clock and power. A key slot has a power bit only. -/
def gateBits (s : State) : KeepUnit → Bool × Bool
  | .crag n => (s.ma.crags[n].clkGate, s.ma.crags[n].pwrGate)
  | .lane l => (bit s.cfg.laneGate l.val, bit s.cfg.laneGate (16 + l.val))
  | .slot k => (false, bit s.cfg.slotGate k.val)

/-- The gate bits rewritten. -/
def setGateBits (u : KeepUnit) (g : Bool × Bool) (s : State) : State :=
  match u with
  | .crag n => s.onCrag n (fun x => { x with clkGate := g.1, pwrGate := g.2 })
  | .lane l => { s with cfg := { s.cfg with laneGate := setBit (setBit s.cfg.laneGate l.val g.1) (16 + l.val) g.2 } }
  | .slot k => { s with cfg := { s.cfg with slotGate := setBit s.cfg.slotGate k.val g.2 } }

/-- The outcome field of the unit (Table 18-4). -/
def setOutcome (u : KeepUnit) (v : BitVec 2) (s : State) : State :=
  match u with
  | .crag n => s.onCrag n (fun x => { x with gate := v })
  | .lane l => { s with cfg := { s.cfg with laneSt := s.cfg.laneSt.set l v } }
  | .slot k => { s with cfg := { s.cfg with slotSt := s.cfg.slotSt.set k v } }

/-- The unit's clock and power follow its gate bits. -/
def cutUnit (u : KeepUnit) (s : State) : State :=
  let g := gateBits s u
  match u with
  | .crag _ => s
  | .lane l => s.onLane l (fun x => { x with clkOff := g.1, pwrOff := g.2 })
  | .slot k => s.onKey k (fun x => { x with off := g.2 })

/-- A hold on the unit is open. -/
def heldUnit (s : State) (u : KeepUnit) : Bool := s.cfg.holds.any (fun h => h.1 == u)

/-- The unit's hold ends. -/
def endHold (u : KeepUnit) (s : State) : State := { s with cfg := { s.cfg with holds := s.cfg.holds.filter (fun h => h.1 != u) } }

/-- A write of the unit's gate bits would cut a used unit: GUARANTEE (R202, R355). -/
def gateRefused (s : State) (u : KeepUnit) (g : Bool × Bool) : Bool :=
  let o := gateBits s u
  !keepUnit s u && usedUnit s u && ((g.1 && !o.1) || (g.2 && !o.2))

/-- An admitted write of the unit's gate bits: a cut, or a hold of a claimed unit begun, kept or cancelled (R355,
R356). -/
def gateUnit (u : KeepUnit) (g : Bool × Bool) (s : State) : State :=
  if g = gateBits s u then s
  else
    let s1 := setGateBits u g s
    if keepUnit s u = false then cutUnit u (setOutcome u 0 s1)
    else if g = (false, false) then setOutcome u 0 (endHold u s1)
    else if heldUnit s u then s1
    else setOutcome u 1 { s1 with cfg := { s1.cfg with holds := s1.cfg.holds ++ [(u, s.now)] } }

/-- A write of a gate register: all of its units, or none (R74). -/
def gateWrite (gs : List (KeepUnit × (Bool × Bool))) (s : State) : State :=
  if gs.any (fun p => gateRefused s p.1 p.2) then setExp .guarantee s
  else refreshView (setExp .applied (gs.foldl (fun s p => gateUnit p.1 p.2 s) s))

/-- CLK_GATE of a crag. -/
def execClkGate (n : Crag) (on : Bool) (s : State) : Host.Outcome State Fault Refusal :=
  .next (if s.pw.rdy = false then s else gateWrite [(.crag n, (on, s.ma.crags[n].pwrGate))] s)

/-- PWR_GATE of a crag. -/
def execPwrGate (n : Crag) (on : Bool) (s : State) : Host.Outcome State Fault Refusal :=
  .next (if s.pw.rdy = false then s else gateWrite [(.crag n, (s.ma.crags[n].clkGate, on))] s)

/-- A write of LANE_GATE: clock bits 15:0, power bits 31:16. -/
def laneGateWrite (v : Word) (s : State) : State :=
  gateWrite ((List.finRange 16).map (fun l => (KeepUnit.lane l, (bit v l.val, bit v (16 + l.val))))) s

/-- A write of SLOT_GATE. -/
def slotGateWrite (v : Word) (s : State) : State :=
  gateWrite ((List.finRange 32).map (fun k => (KeepUnit.slot k, (false, bit v k.val)))) s

def execLaneGate (v : Word) (s : State) : Host.Outcome State Fault Refusal :=
  .next (if s.pw.rdy = false then s else laneGateWrite v s)

def execSlotGate (v : Word) (s : State) : Host.Outcome State Fault Refusal :=
  .next (if s.pw.rdy = false then s else slotGateWrite v s)

/-- The claim on a unit ends and it is zeroised (R356, R358): unclaimed, and unused until the next load. -/
def releaseClaim (u : KeepUnit) (s : State) : State :=
  match u with
  | .crag n => (zeroCrag n s).onCrag n (fun x => { x with keep := false })
  | .lane l => (zeroLane l s).onLane l (fun x => { x with keep := false, role := .idle, owned := false, snoops := [] })
  | .slot k => (zeroKey k s).onKey k (fun x => { x with keep := false, given := none })

/-- KEEP_CLAIM_RELEASE: the Keep releases a held unit, zeroises it, and the cut takes effect; a loaded slot is never
released (R357). `readBackFails` counts failed read-backs: the second fences the unit (R359). -/
def execKeepClaimRelease (u : KeepUnit) (readBackFails : Nat) (s : State) : Host.Outcome State Fault Refusal :=
  let loaded : Bool := match u with | .slot k => s.ma.keys[k].loaded | _ => false
  .next (if s.pw.rdy = false ∨ heldUnit s u = false ∨ loaded then s
    else
      let s1 := cutUnit u (setOutcome u 0 (endHold u (releaseClaim u s)))
      refreshView (if 2 ≤ readBackFails then zeroFail u s1 else s1))

/-- KEEP_HOLD_REFUSED: 100 ms have passed since the hold began (R356). -/
def execKeepHoldRefused (u : KeepUnit) (s : State) : Host.Outcome State Fault Refusal :=
  .next (match (if s.pw.phase = .holdUp then none else s.cfg.holds.find? (fun h => h.1 == u)) with
    | none => s
    | some h =>
      raiseEvent 0x0A01 (BitVec.ofNat 8 (keepNum u)) 0 0
        (advanceTo (h.2 + 100000) (setOutcome u 2 (setGateBits u (false, false) (endHold u s)))))

/-! ### Placement moves (R41, R203 to R206, R368) -/

/-- What sets a move off: 16 corrected errors within 1 s; above 100 °C for 100 ms with the destination 10 °C cooler; or the
crag's mark (R41, Table 18-8; DEDUCED, LOG 118). The loop runs only while PLACE_EN is 1. -/
def moveCause (s : State) (src : Crag) : MoveWhy → Bool
  | .errors => s.pw.placeEn && decide (16 ≤ ((s.ma.crags[src].ceAt).filter (fun t => decide (s.now < t + 1000000))).length)
  | .heat a b ms => s.pw.placeEn && decide (100 < a.toNat ∧ 100 ≤ ms ∧ b.toNat + 10 ≤ a.toNat)
  | .offline => s.cfg.mgmtOff.contains src.val

/-- The step boundary a crag at rest stands at (R203): that of a SNAP_BEGIN, by its number, or 100 µs of rest with no command
that uses the crag at a head, by its time. -/
def stepBoundary (s : State) (n : Crag) : Option Nat :=
  let x := s.ma.crags[n]
  match x.step with
  | some k => some (2 * k)
  | none =>
    if s.rings.toList.zipIdx.any (fun p => p.1.queue.any (fun c => c.started && s.usesCrag n (ix 15 p.2) c)) then none
    else some (2 * (x.restSince + 100) + 1)

/-- A move that may be made (R41, R203): the program's crag at a step boundary at which fewer than four have moved, a nearest
eligible destination, a cause. Of several equally near crags the command names one (DESIGN CHOICE, LOG 87). -/
def mayMove (s : State) (src dst : Crag) (why : MoveWhy) : Bool :=
  let x := s.ma.crags[src]
  moveCause s src why && x.used && !x.keep && !x.fenced && !x.suspended && s.atRest src && s.eligible dst
    && (match stepBoundary s src with | some k => decide (kvGet 0 s.ma.moves k < 4) | none => false)
    && !(List.finRange 32).any (fun m => s.eligible m && decide (hops src m < hops src dst))

/-- The move's time and its place among those of its boundary are kept; what the sensors read shows in CRG_TEMP. -/
def noteMove (src dst : Crag) (why : MoveWhy) (s : State) : State :=
  match stepBoundary s src with
  | none => s
  | some k =>
    let s1 := { s with ma := { s.ma with moves := kvSet 0 k (kvGet 0 s.ma.moves k + 1) s.ma.moves } }
    let s2 := if k % 2 = 1 then advanceTo (k / 2) s1 else s1
    match why with
    | .heat a b _ => (s2.onCrag src (fun x => { x with temp := a })).onCrag dst (fun x => { x with temp := b })
    | _ => s2

/-- The program, with all a scan holds, goes on on the destination (Table 10-7). -/
def moveProgram (src dst : Crag) (s : State) : State :=
  let x := s.ma.crags[src]
  let s1 := rebind src dst (setPlace x.prog (BitVec.ofNat 8 dst.val) (s.onCrag dst (fun y => { y with
    used := true, prog := x.prog, tenant := x.tenant, body := x.body, rest := x.rest, restSince := x.restSince
    step := x.step, undefinedSince := x.undefinedSince, written := x.written })))
  let s2 := { s1 with ma := { s1.ma with waits := s1.ma.waits.map (fun w =>
    if w.unit = .crag src then { w with unit := .crag dst } else w) } }
  (unplace src s2).onCrag src (fun y => { y with lastMove := some s.now })

/-- PLACEMENT_MOVE: one move of R204, or the fence of R205 or R206 that ends it. The loop is the Steward's (R406). -/
def execPlacementMove (src dst : Crag) (why : MoveWhy) (res : MoveRes) (s : State) : Host.Outcome State Fault Refusal :=
  .next (if s.pw.rdy = false ∨ s.pw.phase ≠ .ready ∨ s.dbg.halted ∨ s.wd.stewardDead ∨ mayMove s src dst why = false then s
    else
      let prog := BitVec.ofNat 32 s.ma.crags[src].prog.toNat
      let u := BitVec.ofNat 8 dst.val
      let s1 := noteMove src dst why s
      match res with
      | .ok => pumpWheels (refreshView (raiseEvent 0x0501 u prog (BitVec.ofNat 32 src.val) (moveProgram src dst s1)))
      | .destinationFails => raiseEvent 0x0502 u prog 0 (fenceCrag dst 1 s1)
      | .sourceFails => fenceCrag src 1 s1)

/-! ### Internal faults (R381 to R386, R296, R297) -/

/-- FLT_CORR of a unit. -/
def corrOf (s : State) (u : Nat) : Word := ((s.wd.corr.find? (fun p => p.1 == u)).map (·.2)).getD 0

/-- A transient fault is counted. -/
def countCorr (u : Nat) (s : State) : State :=
  { s with wd := { s.wd with corr := (u, satAdd (corrOf s u) 1) :: s.wd.corr.filter (fun p => p.1 != u) } }

/-- Whether a started command has work in the unit (R381). -/
def worksIn (s : State) (u : Nat) (r : Ring) (c : Cmd) : Bool :=
  c.started &&
  if u < 32 then s.usesCrag (ix 31 u) r c
  else if u < 36 then s.engineOf r c.cid == some (ix 3 (u - 32))
  else if u < 52 then s.ma.lanes[ix 15 (u - 36)].ctx.toList.any (fun x => match x.msg with
    | some m => m.cid == some c.cid
    | none => false)
  else if u < 60 then (needs s c).contains 0
  else if u < 76 then (needs s c).contains 5 || (needs s c).contains 6
  else if 128 ≤ u ∧ u < 192 then onWheelCmd s (ix 63 (u - 128)) c
  else false

/-- CORRECTED stands in the next entry of every command with work in the unit. -/
def markCorrected (u : Nat) (s : State) : State :=
  { s with rings := mapBank (fun k x =>
      let f := fun (c : Cmd) => if worksIn s u (ix 15 k) c then { c with corrected := true } else c
      { x with queue := x.queue.map f, past := x.past.map f }) s.rings }

/-- The place of a channel among those trained at bring-up (R296). -/
def channelPlace (s : State) (n : Nat) : Nat := ((List.range n).filter (fun i => !bit s.boot.chLost i)).length

/-- Beats of a sector, `pos` sectors into its block, that lie on the channel (R296): 256-byte chunks in turn over the
channels. -/
def lostBeats (channels place pos : Nat) : BitVec 64 :=
  (List.range 64).foldl (fun m b => if (16 * pos + b / 4) % channels = place then setBit m b true else m) 0

/-- A staging channel is lost (R296): every beat on it reads poisoned until rewritten, in window pages and in pool
blocks alike; where a sector lies in its block is a free value. -/
def loseChannel (n : Fin 8) (s : State) : State :=
  if bit s.st.chInUse n.val = false then s
  else
    let c := popCount (~~~s.boot.chLost)
    let p := channelPlace s n.val
    let ws := s.link.wins.toList.filter (·.valid)
    let beats := ws.flatMap (fun w => (List.range (32768 * w.size.toNat)).filterMap (fun i =>
      if i % 32768 / 4 % c = p then some (32768 * w.base.toNat + i) else none))
    let hit := fun (k : Nat) (x : Sec) => { x with psn := x.psn ||| lostBeats c p (Config.freePlace (s.freeIx + k) % 512) }
    let secs := fun (l : List Sec) => l.zipIdx.map (fun q => hit q.2 q.1)
    let s1 : State := { s with
     freeIx := s.freeIx + 1
     st := { s.st with
      chInUse := setBit s.st.chInUse n.val false, chFailed := setBit s.st.chFailed n.val true
      memBad := beats.foldl (fun l b => nIns b l) s.st.memBad
      staged := s.st.staged.map (fun g => { g with sec := hit 0 g.sec })
      images := s.st.images.map (fun i => { i with
        secs := secs i.secs, ranges := i.ranges.map (fun g => { g with
          chunks := g.chunks.map (fun x => { x with secs := secs x.secs }) }) })
      copies := s.st.copies.map (fun x => { x with secs := secs x.secs }) }
     ma := { s.ma with lines := s.ma.lines.filter (fun l => !l.staging) } }
    refreshView (recap (raiseEvent 0x0202 0xFF (BitVec.ofNat 32 n.val) 0 s1))

/-- A staged sector whose program is in flight on an ONFI channel (a free value, LOG 106). -/
def Staged.onChannel (g : Staged) (n : Fin 16) : Bool := match g.inUnit with | some u => Config.freeOnfi u % 16 == n.val | none => false

/-- An ONFI channel is fenced: commands with programs in flight on it complete DISCARDED, their sectors go to other channels,
capacity falls (R143, Table 19-3). -/
def loseOnfi (n : Fin 16) (why : Nat) (s : State) : State :=
  if bit s.st.onfi n.val = false then s
  else
    let s1 := { s with st := { s.st with onfi := setBit s.st.onfi n.val false } }
    let s2 := discardWork (60 + n.val) (fun _ c => s.st.staged.any (fun g => g.cid == c.cid && g.onChannel n)) s1
    let s3 := { s2 with st := { s2.st with staged := s2.st.staged.map (fun g => if g.onChannel n then { g with inUnit := none } else g) } }
    refreshView (recap (raiseEvent 0x0601 (BitVec.ofNat 8 (60 + n.val)) 0 (BitVec.ofNat 32 why) s3))

/-- A unit's logic is lost: fenced as Table 19-3 says for its kind. -/
def fenceUnit (u why : Nat) (s : State) : State :=
  if u < 32 then fenceCrag (ix 31 u) why s
  else if u < 36 then fenceRowan (ix 3 (u - 32)) why s
  else if u < 52 then fenceLane (ix 15 (u - 36)) why s
  else if u < 60 then loseChannel (ix 7 (u - 52)) s
  else if u < 76 then loseOnfi (ix 15 (u - 60)) why s
  else if u < 78 then recap (s.onPort (ix 1 (u - 76)) (fun x => { x with up := false }))
  else if 128 ≤ u ∧ u < 192 then fenceWheel (ix 63 (u - 128)) why s
  else s

/-- A retry of the unit's logic succeeded: 4,096 within 1 s fence it (R384). -/
def countStorm (u : Nat) (s : State) : State :=
  let l := (u, s.now) :: s.wd.storm.filter (fun p => decide (s.now < p.2 + 1000000))
  let s1 := { s with wd := { s.wd with storm := l } }
  if 4096 ≤ (l.filter (fun p => p.1 == u)).length then fenceUnit u 2 s1 else s1

/-- A word of crag store (0 to 262,143) or an accumulator entry above is marked poisoned in what a scan holds (R197). -/
def poisonWord (n : Crag) (w : Nat) (s : State) : State :=
  let (a, k) := if w < 262144 then (0x110000, w) else (0x11C000, (w - 262144) % 4096)
  s.onCrag n (fun x => { x with
    ue := satAdd x.ue 1, body := writeByte (a + k / 8) (setBit (x.byte (a + k / 8)) (k % 8) true) x.body })

/-- A lasting failure (R382, R386). -/
def lastingFault (u : Nat) (at_ : FaultAt) (s : State) : State :=
  match at_ with
  | .logic => fenceUnit u 1 s
  | .channel n => loseChannel n s
  | .onfi n => loseOnfi n 1 s
  | .steward => { s with wd := { s.wd with stewardDead := true } }
  | .stagingBeat b =>
    if s.st.memBad.contains b then s else markBad true b { s with st := { s.st with ue := satAdd s.st.ue 1 } }
  | .cragWord w => if u < 32 then poisonWord (ix 31 u) w s else s

/-- INTERNAL_FAULT: a unit's operation failed; its one retry succeeded or did not. A unit fenced already changes nothing
(19.4.1). -/
def execInternalFault (u : BitVec 8) (at_ : FaultAt) (retryOk : Bool) (s : State) : Host.Outcome State Fault Refusal :=
  let n := u.toNat
  .next (if s.pw.rdy = false ∨ s.pw.phase ≠ .ready then s
    else match at_ with
      | .steward => lastingFault n at_ s
      | _ =>
        if retryOk = false then pumpWheels (lastingFault n at_ s)
        else if 0xC0 ≤ n then s
        else
          let s1 := markCorrected n (countCorr n s)
          match at_ with
          | .stagingBeat _ => s1
          | .cragWord _ => if n < 32 then s1.onCrag (ix 31 n) (fun x => { x with
              ce := satAdd x.ce 1, ceAt := s.now :: x.ceAt.filter (fun t => decide (s.now < t + 1000000)) }) else s1
          | _ => countStorm n (if 32 ≤ n ∧ n < 36 then s1.onRowan (ix 3 (n - 32)) (fun y => { y with corr := satAdd y.corr 1 }) else s1))

end Sys2Proof.Machine
end

