-- ==== Sys2Proof/Machine/MgmtCmds.lean ====
section
/-! DEFINITION. The management path (18.2, 18.5, 18.6): the endpoint's addresses, PLDM requests, firmware update, the
Keep's key messages, and the reconciliation of the two views of the units. -/

namespace Sys2Proof.Machine

/-! ### Which requests are served (R362, R57, 18.5.1) -/

/-- What a request needs of the engine. -/
inductive MgmtNeed where
  | always | monitoring | update | control | dataPath
  deriving DecidableEq, Repr

/-- The endpoint answers while 3.3 Vaux is there. -/
def reply (kind : String) (bytes : List Byte) (s : State) : State := emit (.mgmt kind bytes) s

/-- A reply whose contents the referenced standards give. -/
def replyFree (kind : String) (s : State) : State :=
  reply kind (bytesLE 4 (Config.freeReply s.freeIx)) { s with freeIx := s.freeIx + 1 }

/-- A request served or turned away: in DEEP only what R362 lists, any other asserting WAKE_N; in recovery mode firmware
update and monitoring only (R57); in the hold-up sequence monitoring only (R36). A request that acts on the engine is not ready before RDY; one that needs the data
path wakes an engine in NAP. -/
def serveRequest (need : MgmtNeed) (f : State → State) (s : State) : State :=
  if s.pw.vauxOn = false then s
  else if need = .always then f s
  else if s.pw.phase = .deep then
    reply "ERROR_NOT_READY" [] (emit (.pin "WAKE_N" true) { s with pw := { s.pw with wakeN := true } })
  else if s.pw.phase = .holdUp ∧ need ≠ .monitoring then reply "ERROR_NOT_READY" [] s
  else if need = .control ∨ need = .dataPath then
    if s.pw.rdy ∧ s.pw.phase = .ready then f (if need = .dataPath then wakeNap s else s) else reply "ERROR_NOT_READY" [] s
  else f s

/-! ### The endpoint's addresses (R361) -/

def execSetEndpointId (eid : Byte) (s : State) : Host.Outcome State Fault Refusal :=
  .next (serveRequest .always (fun s => reply "SetEndpointId" [eid] { s with mg := { s.mg with eid := eid } }) s)

/-- I3C_DYNAMIC_ADDRESS: MCTP over I3C from here on. -/
def execI3cDynamicAddress (a : BitVec 7) (s : State) : Host.Outcome State Fault Refusal :=
  .next (if s.pw.vauxOn then alertPin { s with mg := { s.mg with i3c := some a } } else s)

/-- RSTDAA: back to SMBus at the static address. -/
def execRstdaa (s : State) : Host.Outcome State Fault Refusal :=
  .next (if s.pw.vauxOn then alertPin { s with mg := { s.mg with i3c := none } } else s)

/-! ### PLDM base, FRU data and PDRs, whose contents the DMTF standards give (R360, R362) -/

def execPldmBaseRequest (cmd : Byte) (s : State) : Host.Outcome State Fault Refusal :=
  .next (serveRequest .always (fun s => replyFree "PLDM base" (reply "PLDM base command" [cmd] s)) s)

def execFruDataRequest (cmd : Byte) (s : State) : Host.Outcome State Fault Refusal :=
  .next (serveRequest .always (fun s => replyFree "FRU data" (reply "FRU data command" [cmd] s)) s)

def execGetPdr (handle : Word) (s : State) : Host.Outcome State Fault Refusal :=
  .next (serveRequest .always (fun s => replyFree "PDR" (reply "PDR handle" (bytesLE 4 handle) s)) s)

/-! ### Views (R365 to R367) -/

/-- The Steward runs: neither halted nor dead, and the engine is ready. -/
def State.stewardRuns (s : State) : Bool := s.pw.rdy && s.pw.phase == .ready && !s.dbg.halted && !s.wd.stewardDead

/-- The management path's view is stale (R366, 18.5.1). -/
def State.viewStale (s : State) : Bool := s.cfg.stale || !s.stewardRuns

/-- VIEW_ACK: the endpoint holds the table of a generation (R365); skew ends when the two match (R366). -/
def execViewAck (gen : BitVec 16) (s : State) : Host.Outcome State Fault Refusal :=
  .next (match s.mg.sent.find? (fun p => p.1 == gen) with
    | none => s
    | some p =>
      let later := (s.mg.sent.dropWhile (fun q => q.1 != gen)).drop 1
      let same := gen == s.cfg.dpGen
      { s with mg := { s.mg with view := p.2, sent := later }
               cfg := { s.cfg with
                 mgGen := gen, skew := s.cfg.skew && !same, stale := s.cfg.stale && !same } })

/-- VIEW_SKEW: the generations have differed for 2 ms (R366); not raised while the Steward does not run. -/
def execViewSkew (s : State) : Host.Outcome State Fault Refusal :=
  .next (if s.stewardRuns = false ∨ s.cfg.dpGen = s.cfg.mgGen ∨ s.cfg.skew then s
    else raiseEvent 0x0A03 0xFF (BitVec.ofNat 32 s.cfg.dpGen.toNat) (BitVec.ofNat 32 s.cfg.mgGen.toNat)
      { s with cfg := { s.cfg with skew := true, stale := true } })

/-! ### Sensors and effecters (R362, R363, R368) -/

/-- What a sensor needs. -/
def sensorNeed : Sensor → MgmtNeed
  | .inletTemp | .supplyMain | .supplyAux | .powerState | .auxPower => .always
  | .unitState _ | .viewState | .other => .monitoring

/-- A sensor's reading. Unit sensors read STALE with the view (R366); readings of the board, and the codes of state sets,
are free values. -/
def readSensor (k : Sensor) (s : State) : State :=
  match k with
  | .auxPower => reply "AUX_PWR_ABSENT" [if s.pw.aux = .absent then 1 else 0] s
  | .viewState => reply (if s.viewStale then "VIEW STALE" else "VIEW") [] s
  | .unitState u => if s.viewStale then reply "UNIT STALE" [] s else
      match s.mg.view[u]? with
      | some b => reply "UNIT" [b] s
      | none => reply "ERROR_INVALID_DATA" [] s
  | .inletTemp | .supplyMain | .supplyAux | .powerState | .other => replyFree "sensor" s

def execSensorReading (k : Sensor) (s : State) : Host.Outcome State Fault Refusal :=
  .next (serveRequest (sensorNeed k) (readSensor k) s)

/-- SET_POWER_CAP (R363). -/
def execSetPowerCap (watts : Nat) (s : State) : Host.Outcome State Fault Refusal :=
  .next (serveRequest .control (fun s =>
    if watts < 120 ∨ 240 < watts then reply "ERROR_INVALID_DATA" [] s
    else reply "SUCCESS" [] { s with pw := { s.pw with mgmtCap := BitVec.ofNat 8 watts } }) s)

/-- Another Rowan engine than `e` is unmarked and not fenced. -/
def otherEngine (s : State) (e : Eng) : Bool :=
  (List.finRange 4).any (fun f => f != e && !s.ma.rowan[f].fenced && !s.cfg.mgmtOff.contains (32 + f.val))

/-- OFFLINE is refused for the unit (Table 18-8). -/
def offlineRefused (s : State) (u : Nat) : Bool :=
  if u < 32 then s.ma.crags[ix 31 u].keep
  else if u < 36 then !otherEngine s (ix 3 (u - 32))
  else if u < 52 then s.ma.lanes[ix 15 (u - 36)].keep || s.ma.lanes[ix 15 (u - 36)].role != .idle
  else decide (u < 76 ∨ 78 ≤ u)

/-- What follows a mark (Table 18-8). -/
def markedOffline (u : Nat) (s : State) : State :=
  if u < 32 then
    let x := s.ma.crags[ix 31 u]
    if x.used && (nearest s (ix 31 u) (fun _ => true)).isNone
    then raiseEvent 0x0503 0xFF (BitVec.ofNat 32 x.prog.toNat) 0 s else s
  else if u < 36 then requeue (ix 3 (u - 32)) 1 s
  else if 76 ≤ u ∧ u < 78 then recap (s.onPort (ix 1 (u - 76)) (fun x => { x with mgmtOff := true, up := false }))
  else s

/-- UNIT_OFFLINE (R368). -/
def execUnitOffline (u : Nat) (s : State) : Host.Outcome State Fault Refusal :=
  .next (serveRequest .dataPath (fun s =>
    if s.cfg.mgmtOff.contains u then reply "SUCCESS" [] s
    else if offlineRefused s u then reply "ERROR_INVALID_DATA" [] s
    else reply "SUCCESS" [] (refreshView (markedOffline u { s with cfg := { s.cfg with mgmtOff := nIns u s.cfg.mgmtOff } }))) s)

/-- UNIT_ONLINE (R368): refused while the view is stale. A Pair port returns when its link trains. -/
def execUnitOnline (u : Nat) (s : State) : Host.Outcome State Fault Refusal :=
  .next (serveRequest .dataPath (fun s =>
    if s.viewStale ∨ 78 ≤ u then reply "ERROR_INVALID_DATA" [] s
    else
      let s1 := { s with cfg := { s.cfg with mgmtOff := nDel u s.cfg.mgmtOff } }
      let s2 := if 76 ≤ u then s1.onPort (ix 1 (u - 76)) (fun x => { x with mgmtOff := false }) else s1
      reply "SUCCESS" [] (assignXfers s2.ma.xferWait.length (refreshView (recap s2)))) s)

/-! ### Events (R363) -/

def execSetEventReceiver (on : Bool) (s : State) : Host.Outcome State Fault Refusal :=
  .next (serveRequest .monitoring (fun s => reply "SUCCESS" [] { s with mg := { s.mg with receiver := on } }) s)

/-- POLL_FOR_PLATFORM_EVENT_MESSAGE: the oldest waiting event. -/
def execPollForPlatformEventMessage (s : State) : Host.Outcome State Fault Refusal :=
  .next (serveRequest .monitoring (fun s => match s.mg.waiting with
    | [] => reply "no event" [] s
    | e :: rest => alertPin (reply "event" e.bytes { s with mg := { s.mg with waiting := rest } })) s)

/-! ### Firmware update (R364, R59, 3.4.1) -/

/-- REQUEST_UPDATE: refused while a trial is open, a load is in progress, or an update is under way. -/
def execRequestUpdate (s : State) : Host.Outcome State Fault Refusal :=
  .next (serveRequest .update (fun s =>
    if s.boot.trial ∨ s.cfg.loading ∨ s.boot.update ≠ .idle then reply "RETRY_REQUEST_UPDATE" [] s
    else reply "SUCCESS" [] { s with boot := { s.boot with update := .receiving, updImage := [] } }) s)

/-- FIRMWARE_UPDATE_DATA: bytes of the image reach the slot that is not ACTIVE, which is INCOMPLETE from then on. -/
def execFirmwareUpdateData (off : Nat) (bytes : List Byte) (s : State) : Host.Outcome State Fault Refusal :=
  .next (serveRequest .update (fun s =>
    if s.boot.update ≠ .receiving then reply "ERROR" [] s
    else { s with boot := { modSlot s.boot.updateB (fun y => { y with st := 4 }) s.boot with
      updImage := writeBytes off bytes s.boot.updImage } }) s)

/-- VERIFY_COMPLETE: the Keep verifies the image; a bad signature or an SVN below the floor leaves the slot INCOMPLETE. -/
def execVerifyComplete (sigOk : Bool) (svn : BitVec 16) (ver : Word) (s : State) : Host.Outcome State Fault Refusal :=
  .next (serveRequest .update (fun s =>
    if s.boot.update ≠ .receiving then reply "ERROR" [] s
    else if sigOk && decide (s.boot.svnFloor.toNat ≤ svn.toNat) then
      reply "SUCCESS" [] { s with boot := { modSlot s.boot.updateB (fun y => { y with st := 4, svn := svn, ver := ver }) s.boot with
        update := .verified } }
    else reply "VERIFICATION_FAILED" [] { s with boot := { modSlot s.boot.updateB (fun y => { y with st := 4 }) s.boot with
        update := .idle, updImage := [] } }) s)

/-- ACTIVATE_FIRMWARE: the slot is PENDING, to be tried at the next reset. -/
def execActivateFirmware (s : State) : Host.Outcome State Fault Refusal :=
  .next (serveRequest .update (fun s =>
    if s.boot.update ≠ .verified then reply "ERROR" [] s
    else reply "SUCCESS" [] { s with boot := { modSlot s.boot.updateB (fun y => { y with st := 3 }) s.boot with
      update := .idle, updImage := [] } }) s)

/-! ### Key messages (R353, R354, Table 18-3) -/

/-- SPDM_SECURED_SESSION: a session qualifies for key messages with mutual authentication, a chain to Sireiga's root and
the key-provisioning usage. -/
def execSpdmSecuredSession (mutualOk certOk usageOk : Bool) (s : State) : Host.Outcome State Fault Refusal :=
  .next (serveRequest .control (fun s => reply "SPDM session" []
    { s with cfg := { s.cfg with spdm := true, spdmKey := mutualOk && certOk && usageOk } }) s)

/-- A key message inside a qualifying session. -/
def underSession (f : State → State) (s : State) : State := if s.cfg.spdmKey then f s else reply "SPDM ERROR SessionRequired" [] s

/-- ALG of a KEY_LOAD. -/
def keyAlg (n : Nat) : Alg := match n with | 0 => .sha256 | 1 => .sha384 | _ => .sha512

/-- KEY_LOAD: the inner and outer states of the key; the key itself is not kept (R241). -/
def execKeyLoad (slot alg tenant : Nat) (label : BitVec 16) (key : List Byte) (s : State) : Host.Outcome State Fault Refusal :=
  .next (serveRequest .dataPath (underSession (fun s =>
    let k : KSlot := ix 31 slot
    let x := s.ma.keys[k]
    if 31 < slot ∨ 2 < alg ∨ 7 < tenant ∨ key.length < 1 ∨ 256 < key.length ∨ x.keep ∨
        (x.given.isSome ∧ x.given ≠ some (ix 7 tenant)) then
      reply "SPDM ERROR InvalidRequest" [] s
    else reply "KEY_LOAD" [] (s.onKey k (fun y => { y with
      loaded := true, alg := keyAlg alg, owner := ix 7 tenant, label := label
      inner := hmacPad (keyAlg alg) 0x36 key, outer := hmacPad (keyAlg alg) 0x5C key })))) s)

/-- KEY_ZERO: the slot is zeroised before the response; a second failed read-back fences it (R358, R359). -/
def execKeyZero (slot : Nat) (readBackFails : Nat) (s : State) : Host.Outcome State Fault Refusal :=
  .next (serveRequest .dataPath (underSession (fun s =>
    let k : KSlot := ix 31 slot
    if 31 < slot ∨ s.ma.keys[k].keep then reply "SPDM ERROR InvalidRequest" [] s
    else
      let s1 := zeroKey k s
      reply "KEY_ZERO" [] (if 2 ≤ readBackFails then zeroFail (.slot k) s1 else s1))) s)

/-- SLOE_KEY_ST of a slot (12.9). OWNER is the tenant the bit-stream gives the slot to, also while it is EMPTY (R242,
R349); of a slot it gives to none, the tenant its key was loaded for. -/
def keySt (x : KeySt) : Word :=
  at32 (b1 x.loaded) 30 ||| at32 (algBits x.alg) 28 ||| at32 (b1 x.keep) 27 ||| at32 (BitVec.ofNat 3 (x.given.getD x.owner).val) 24
    ||| at32 x.label 0

/-- KEY_LIST. -/
def execKeyList (s : State) : Host.Outcome State Fault Refusal :=
  .next (serveRequest .control (underSession (fun s =>
    reply "KEY_LIST" (s.ma.keys.toList.flatMap (fun x => bytesLE 4 (keySt x))) s)) s)

end Sys2Proof.Machine
end

