-- ==== Sys2Proof/Machine/ResetCmds.lean ====
section
/-! DEFINITION. How commands are stopped (7.5, 19.3): ABORT_TAG, RING_RESET, RING_RESET_END and STALL. -/

namespace Sys2Proof.Machine

/-! ### ABORT_TAG (R138, R139) -/

/-- The answer of an ABORT_TAG latched before: the caught target's entry first, then its own. A RESET_ONLY
ring answers REFUSED with FOUND as TAG mode would show it: bit 16 of DETAIL0 over TARGET_TAG, DETAIL1 0, where Table 7-5
gives REFUSED a reason code and no place for FOUND (DESIGN CHOICE, LOG 98). -/
def answerAbort (r : Ring) (a : AbortRec) (s : State) : State :=
  let tag := a.cmd.f 0x10 2
  let d0 := tag + (if a.found then 65536 else 0)
  let d1 := if a.found then a.targetNo else 0
  if a.reject then complete r a.cmd stREFUSED 0 0 s
  else if a.resetOnly then complete r a.cmd stREFUSED d0 0 s
  else match a.caught with
    | some d => complete r a.cmd stCAUGHT d0 d1 (complete r d stCAUGHT 0 0 s)
    | none => complete r a.cmd stMISSED d0 d1 s

/-- ABORT_TAG: the ring's oldest unanswered abort is answered. -/
def execAbortTag (r : Ring) (s : State) : Host.Outcome State Fault Refusal :=
  .next (if s.pw.rdy = false ∨ s.pw.phase ≠ .ready ∨ s.rings[r].inReset then s
    else match s.rings[r].aborts with
      | [] => s
      | a :: rest => answerAbort r a (s.onRing r (fun x => { x with aborts := rest })))

/-! ### Ring resets (R140 to R142, R112) -/

/-- DETAIL0's reason: 2 RESET, 3 STALL (Table 7-5). -/
def reasonOf (stall : Bool) : Nat := if stall then 3 else 2

/-- Stage entries of a command that wait unwritten. -/
def waitingStages (x : RingSt) (cid : Nat) : List Nat := (x.waiting.filter (·.cid == cid)).map (fun e => e.stage.toNat)

/-- What a stopped command reports: one DISCARDED entry, or one for every stage a SNAP_SEAL that has written some
of its entries has not reported (R140, R141). -/
def dyingCmd (s : State) (r : Ring) (x : RingSt) (stall : Bool) (c : Cmd) : Dying :=
  let written := (sealOwed c).filter (fun k => bit c.stages k && !(waitingStages x c.cid).contains k)
  { entry := entryOf (stopWaiting s.now { c with corrected := c.corrected })
      { status := stDISCARDED, d0 := reasonOf stall, d1 := min (doneUnits s r c) 0xFFFFFFFF, rst := true }
    stages := if c.op = 0x12 ∧ written ≠ [] then (sealOwed c).filter (fun k => !written.contains k) else [0] }

/-- A command whose last entry still waits is discarded in its place (R142): with one entry where it has written none, or
with one for every stage not yet written (R140, R141). -/
def dyingEntry (x : RingSt) (stall : Bool) (e : Entry) : Dying :=
  { entry := { e with status := stDISCARDED, stage := 0, d0 := BitVec.ofNat 64 (reasonOf stall), d1 := BitVec.ofNat 32 e.done, rst := true
                      tainted := false, more := false, last := true }
    stages := if e.stage ≠ 0 ∧ (waitingStages x e.cid).length < e.owed then waitingStages x e.cid else [0] }

/-- Insertion by latch order. -/
def insDying (d : Dying) : List Dying → List Dying
  | [] => [d]
  | y :: l => if d.entry.cid ≤ y.entry.cid then d :: y :: l else y :: insDying d l

/-- Every command the ring holds without its last entry, in latch order. -/
def dyingOf (s : State) (r : Ring) (stall : Bool) : List Dying :=
  let x := s.rings[r]
  let cmds := x.queue ++ x.past ++ x.aborts.flatMap (fun a => a.cmd :: a.caught.toList)
  (cmds.map (dyingCmd s r x stall) ++ (x.waiting.filter (·.last)).map (dyingEntry x stall)).foldr insDying []

/-- Staged sectors of stopped commands not yet in a program unit are given up; one that superseded a sector
already acknowledged goes on draining (R141, R298). -/
def releaseStaged (r : Ring) (dead : List Nat) (staged : List Staged) : List Staged :=
  staged.filterMap (fun g =>
    if g.src = .ring r ∧ !g.acked ∧ g.inUnit.isNone ∧ dead.contains g.cid then
      (if g.stands.any (fun i => !dead.contains i) then some { g with acked := true } else none)
    else some g)

/-- Work of one stopped command elsewhere in the engine ends: Sloe contexts (R230), transfers of the Pair link
(16.4.1), and a Vault operation goes on without it (19.3.1). -/
def stopElsewhere (cid : Nat) (s : State) : State :=
  let s1 := dropCmdXfers cid (abortContexts cid s)
  match s1.st.op.owner with
  | some (_, i) => if i = cid then { s1 with st := { s1.st with op := { s1.st.op with owner := none, resumed := true } } } else s1
  | none => s1

/-- One DISCARDED entry, written only while a free entry exists. On a ring whose entry write failed before, or whose
entry address fails its check, none is written and no further fault is raised (DESIGN CHOICE, LOG 97). -/
def writeIfFree (r : Ring) (e : Entry) (s : State) : Bool × State :=
  let x := s.rings[r]
  match s.fate (s.ringKey r) x.entryAddr true false with
  | .go .. =>
    if x.depth.toNat ≤ x.unconsumed ∨ x.faulted then (false, if e.last then leaveScopes e.cid false s else s)
    else (true, writeEntry r e s)
  | _ => (false, if e.last then leaveScopes e.cid false s else s)

/-- The entries of one stopped command; answers whether its last entry was written. -/
def writeDying (r : Ring) (d : Dying) (s : State) : Bool × State :=
  let n := d.stages.length
  d.stages.zipIdx.foldl (fun (acc : Bool × State) p =>
    writeIfFree r { d.entry with stage := BitVec.ofNat 8 p.1, more := decide (p.2 + 1 < n), last := decide (p.2 + 1 = n) } acc.2)
    (false, s)

/-- The DISCARDED entries of a reset, and RNG_RST's counts (R140, R142). Discarded commands leave the uncovered
set. -/
def writeDiscards (r : Ring) (s : State) : State :=
  let ds := s.rings[r].dying
  let dead := ds.map (·.entry.cid)
  let (lost, s1) := ds.foldl (fun (acc : Nat × State) d =>
    let (ok, t) := writeDying r d acc.2
    (acc.1 + (if ok then 0 else 1), t)) (0, s)
  s1.onRing r (fun x => { x with
    dying := [], uncovered := x.uncovered.filter (fun p => !dead.contains p.1), stallFrom := none
    discarded := satAdd x.discarded ds.length, unreported := satAdd x.unreported lost })

/-- A started program of a stopped command is still running (R118, R140 step 3). -/
def programsRun (s : State) (r : Ring) : Bool :=
  s.st.staged.any (fun g => g.src == .ring r && g.inUnit.isSome &&
    s.rings[r].dying.any (fun d => d.entry.cid == g.cid || g.stands.contains d.entry.cid))

/-- The DISCARDED entries wait for the translation of their addresses, which is asked for (R94). -/
def entriesWait (r : Ring) (s : State) : Bool :=
  let x := s.rings[r]
  !x.dying.isEmpty && decide (x.unconsumed < x.depth.toNat) && !x.faulted
    && (s.fate (s.ringKey r) x.entryAddr true false == .wait)

/-- The DISCARDED entries are written now, or once what they wait for has come. -/
def tryDiscards (r : Ring) (s : State) : State :=
  if programsRun s r then s
  else if entriesWait r s then askTranslation (s.ringKey r) s.rings[r].entryAddr true s
  else writeDiscards r s

/-- A ring reset begins: READY reads 0, every command stops, reads in flight are dropped, and the DISCARDED
entries are written once no started program of theirs is outstanding (R140). -/
def beginReset (r : Ring) (stall : Bool) (s : State) : State :=
  let ds := dyingOf s r stall
  let dead := ds.map (·.entry.cid)
  let load := s.rings[r].queue.any (fun c => c.op == 0x40)
  let s1 := s.onRing r (fun x => { x with
    inReset := true, resetCause := if stall then 2 else 1, rstCause := if stall then 2 else 1
    dying := ds, queue := [], past := [], aborts := [], waiting := [], unreported := 0, discarded := 0, stallFrom := none })
  let s2 := { s1 with
    st := { s1.st with staged := releaseStaged r dead s1.st.staged }
    link := { s1.link with
      reads := s1.link.reads.map (fun q =>
      if q.key.ring == r && (match q.what with | .cmd .. => true | _ => false) then { q with what := .dropped } else q)
      atsBad := s1.link.atsBad.filter (fun x => x.1.ring != r) } }
  let s3 := dead.foldl (fun s cid => stopElsewhere cid s) s2
  let s4 := if load then endLoad s3 else s3
  settleFlushes (tryDiscards r s4)

/-- RING_RESET: a write of RNG_CTL with RESET = 1 (R140); it acts during a load too, with EXP_RESULT BUSY. -/
def execRingReset (r : Ring) (s : State) : Host.Outcome State Fault Refusal :=
  .next (if s.pw.rdy = false ∨ s.pw.phase ≠ .ready then s
    else
      let s1 := setExp (if s.cfg.loading then .busy else .applied) s
      if s.rings[r].inReset then s1 else beginReset r false s1)

/-- RING_RESET_END: with no started program outstanding the entries still owed are written, a pending set-up
takes effect after them, a stall of failed entry writes is cleared, and RESET reads 0 (R112, R140, R142). -/
def execRingResetEnd (r : Ring) (s : State) : Host.Outcome State Fault Refusal :=
  .next (if s.pw.phase = .holdUp ∨ s.rings[r].inReset = false ∨ programsRun s r then s
    else if entriesWait r s then askTranslation (s.ringKey r) s.rings[r].entryAddr true s
    else
      let s1 := if s.rings[r].dying = [] then s else writeDiscards r s
      s1.onRing r (fun x => { x.applySetup with inReset := false, faulted := false }))

/-! ### STALL (R378, R379) -/

/-- The oldest command of the ring without its last entry: TAG and opcode. -/
def oldestOf (s : State) (r : Ring) : Nat × Nat :=
  match dyingOf s r true with
  | d :: _ => (d.entry.tag.toNat, d.entry.opcode.toNat)
  | [] => (0, 0)

/-- STALL: the ring's stall channel reaches its window: STALL is raised and the ring is reset with reason STALL. -/
def execStall (r : Ring) (s : State) : Host.Outcome State Fault Refusal :=
  .next (match s.rings[r].stallFrom with
    | none => s
    | some t =>
      if s.pw.rdy = false ∨ s.pw.phase ≠ .ready ∨ s.rings[r].inReset ∨ s.rings[r].busy = false then s
      else
        let s1 := advanceTo (t + 1000 * s.rings[r].stallWin.toNat) s
        let (tag, op) := oldestOf s1 r
        beginReset r true (raiseEvent 0x0305 (ringUnit r) (BitVec.ofNat 32 tag) (BitVec.ofNat 32 op)
          (s1.onRing r (fun x => { x with fires := satAdd x.fires 1 }))))

end Sys2Proof.Machine
end

