-- ==== Sys2Proof/Machine/WatchCmds.lean ====
section
/-! DEFINITION. The system watchdog (19.1, 19.2): WDT_TOKEN, WDT_WARN and WATCHDOG_EXPIRY. -/

namespace Sys2Proof.Machine

/-- The watchdog counts, and its expiry has an effect: from t0 on, but not in recovery mode, which is served, and not
during the hold-up sequence (R369, R57, R377). -/
def State.watched (s : State) : Bool := s.pw.phase == .bringUp || s.pw.phase == .ready

/-- An expiry (R375, R376): `arg` is 0 for a window and 1 for wrong tokens. Before RDY it is a bring-up failure, and the
third in a row marks the slot FAILED (R59). -/
def expire (arg : Word) (s : State) : State :=
  if s.watched = false then s
  else
    let early := !s.pw.rdy
    let cause : BitVec 4 := if early && s.boot.trial then 8 else 4
    let fails := s.boot.fails + 1
    let s1 := emit .linkDown (tableReset .bringUp cause arg true true 3 s)
    if early = false then s1
    else if 3 ≤ fails.toNat then
      { s1 with boot := { modSlot s1.boot.bootB (fun y => { y with st := 5 }) s1.boot with fails := 3 } }
    else { s1 with boot := { s1.boot with fails := fails } }

/-- The token that serves the watchdog now (R370). -/
def Watch.token (w : Watch) : Word := (w.challenge ^^^ w.salt).rotateLeft 11 + w.seq

/-- A service: a new window of the length WINDOW_S now gives, and a new challenge (R370, R373). -/
def serve (s : State) : State :=
  let (c, s1) := draw s
  { s1 with wd := { s1.wd with
    since := s1.now, window := 1000 * s1.wd.windowS.toNat, seq := s1.wd.seq + 1, challenge := c
    badTok := false, warn := false } }

/-- A write of WDT_TOKEN; before RDY it counts for nothing (R44, R371). -/
def tokenWrite (v : Word) (s : State) : State :=
  if s.pw.rdy = false ∨ s.pw.phase ≠ .ready then s
  else if v = s.wd.token then serve s
  else if s.wd.badTok then expire 1 s
  else raiseEvent 0x0B02 0xFF 0 0 { s with wd := { s.wd with badTok := true } }

def execWdtToken (v : Word) (s : State) : Host.Outcome State Fault Refusal := .next (tokenWrite v s)

/-- WDT_WARN: three quarters of the window have passed without service (R374). -/
def execWdtWarn (s : State) : Host.Outcome State Fault Refusal :=
  .next (if s.watched = false ∨ s.wd.warn then s
    else
      let s1 := advanceTo (s.wd.since + 750 * s.wd.window) s
      let left := s1.wd.window - (s1.now - s1.wd.since) / 1000
      raiseEvent 0x0B01 0xFF (BitVec.ofNat 32 left) 0 { s1 with wd := { s1.wd with warn := true } })

/-- WATCHDOG_EXPIRY: the window has passed without service. -/
def execWatchdogExpiry (s : State) : Host.Outcome State Fault Refusal :=
  .next (if s.watched then expire 0 (advanceTo (s.wd.since + 1000 * s.wd.window) s) else s)

end Sys2Proof.Machine
end

