-- ==== Sys2Proof/Machine/Flags.lean ====
section
/-! DEFINITION. What every register of BAR0 reads as (22, and the register tables of the owning chapters), and what
reading it clears. Offsets are those of Tables 22-2 and 22-4 to 22-6. -/

namespace Sys2Proof.Machine

/-! ### Images -/

/-- A register image from its fields, each a value and its lowest bit. -/
def img (fs : List (Nat × Nat)) : Word := BitVec.ofNat 32 (fs.foldl (fun n f => n + f.1 * 2 ^ f.2) 0)

def bN (b : Bool) : Nat := if b then 1 else 0

/-- Word `i` of a wide value, byte 0 lowest. -/
def wordOf {w : Nat} (x : BitVec w) (i : Nat) : Word := fld x (32 * i) 32

/-- Word `i` of a byte string. -/
def wordAt (bs : List Byte) (i : Nat) : Word := ofBytes 32 ((bs.drop (4 * i)).take 4)

/-- The value of an accepted write that waits for its idle point (R75). -/
def State.pendOf (s : State) (f : FieldId) : Option Nat := (s.cfg.pend.find? (fun p => p.1 == f)).map (·.2)

/-! ### Global block (22.3, 3.3, 3.4, 4.4, 4.5, 18, 20.3, 21) -/

/-- DEV_STATUS.BUSY_CAUSE (R418). -/
def Power.busyCause (p : Power) : Nat :=
  if p.busy = false then 0
  else match (List.range 8).find? (fun c => c != 0 && bit p.causes c) with
    | some c => c
    | none => p.lastCause.toNat

def devStatus (s : State) : Word := img [(s.pw.busyCause, 20), (bN s.pw.busy, 1), (bN s.pw.rdy, 0)]

/-- BOOT_STATUS (Table 3-8). -/
def bootStatus (b : Boot) : Word :=
  img [(b.cause.toNat, 28), (bN b.bootB, 26), (bN b.trial, 25), (bN b.fallback, 24), (b.slotA.st.toNat, 21)
    , (b.slotB.st.toNat, 18), (b.retSrc.toNat, 16), (bN b.powerLoss, 15), (bN b.journalRebuild, 14), (bN b.recovery, 13)
    , (b.fails.toNat, 8), (b.chLost.toNat, 0)]

/-- RET_STATUS (Table 3-6). -/
def retStatus (s : State) : Word :=
  let b := s.boot
  img [(b.commits.toNat, 12), (bN (decide (1000000 ≤ b.commits.toNat)), 3), (bN b.retRej, 2), (bN b.factoryDone, 1)
    , (bN s.retPending, 0)]

/-- CFG_STATUS.EXP_PEND: an accepted write has not yet taken effect (R75, R112, R355, R373, R380). -/
def State.expPend (s : State) : Bool :=
  !s.cfg.pend.isEmpty || !s.cfg.holds.isEmpty
    || s.rings.toList.any (fun x => x.setup.isSome || (x.stallFrom.isSome && x.stallWin != x.stallMs))
    || (s.pw.rdy && s.wd.window != 1000 * s.wd.windowS.toNat)

/-- CFG_STATUS (Table 4-10). -/
def cfgStatus (s : State) : Word :=
  img [(bN s.cfg.loaded, 31), (bN s.cfg.loading, 30), (s.cfg.loadErr.toNat, 24), (s.cfg.expResult.toNat, 18)
    , (bN s.expPend, 17), (s.cfg.loadCount.toNat, 0)]

/-- CFG_EXP (Table 4-13). -/
def cfgExp (c : Cfg) : Word := img [(c.lockout.toNat, 24), (c.unlocked.toNat, 16), (c.nonce.toNat, 0)]

/-- CFG_WARN (Table 20-6). -/
def cfgWarn (c : Cfg) : Word := img [(min c.warnItems.length 0xFFFF, 16), (c.warnKind.toNat, 0)]

/-- DBG_STATUS (Table 21-4). -/
def dbgStatus (d : Debug) : Word :=
  img [(bN (d.level != 0), 31), (d.level.toNat, 29), (bN d.live, 28), (bN d.halted, 27), (bN d.forced, 26)
    , (bN d.haltPend, 25), (bN d.authBusy, 24), (d.authFails.toNat, 22), (bN d.locked, 21), (d.heldRing.toNat, 16)
    , (d.held.toNat, 0)]

/-- The 8 bytes of a DBG_LOG record (R401). -/
def DbgRec.bytes (x : DbgRec) : List Byte := [x.kind, x.level, 0, 0] ++ bytesLE 4 x.stamp

/-- TNT_ENT word `i` (Table 18-2). -/
def tntWord (x : TenantEnt) (i : Nat) : Word :=
  if i = 0 then img [(bN x.valid, 31), (x.rings.toNat, 0)] else img [(x.extLen.toNat, 16), (x.extBase.toNat, 0)]

/-- Outcome fields, two bits each (Table 18-4). -/
def stWord (xs : List (BitVec 2)) : Word := img (xs.zipIdx.map (fun p => (p.1.toNat, 2 * p.2)))

/-- KEEP_STATUS (Table 18-6). -/
def keepStatus (s : State) : Word :=
  img [(bN s.boot.zeroOk, 31), (bN s.boot.zeroUnv, 30), (bN s.cfg.claimFenced, 29), (bN s.cfg.spdmKey, 28)
    , ((s.ma.keys.toList.filter (·.loaded)).length, 16), ((s.ma.crags.toList.filter (·.keep)).length, 8)
    , ((s.ma.lanes.toList.filter (·.keep)).length, 0)]

/-- HL_STATUS (Table 5-7). -/
def hlStatus (s : State) : Word :=
  img [(s.poolFree, 20), (s.link.tagw.toNat, 18), (bN s.link.atsEn, 17), (bN s.link.pasidEn, 16), (bN s.link.degraded, 15)
    , (bN s.link.flit, 14), (s.link.width.toNat, 4), (s.link.rate.toNat, 0)]

def devId : Word := img [(0x32, 16), (Config.stepping.toNat, 8)]

def fwSvn (b : Boot) : Word := img [(b.svnFloor.toNat, 16), ((b.slot b.bootB).svn.toNat, 0)]

/-- A word of the global block (Table 22-6). -/
def globalWord (s : State) (o : Nat) : Word :=
  if o = 0x00 then devId
  else if o = 0x04 then s.fwVer
  else if o = 0x08 then fwSvn s.boot
  else if o = 0x0C then s.boot.epoch
  else if o = 0x10 then wordOf Config.engineId 0
  else if o = 0x14 then wordOf Config.engineId 1
  else if o = 0x18 then devStatus s
  else if o = 0x1C then img [(s.cfg.scratch.toNat, 0)]
  else if o = 0x20 then s.attnSum
  else if o = 0x30 then bootStatus s.boot
  else if o = 0x38 then retStatus s
  else if o = 0x40 then cfgStatus s
  else if o = 0x44 then cfgExp s.cfg
  else if o = 0x48 then cfgWarn s.cfg
  else if 0x60 ≤ o ∧ o < 0x90 then wordOf s.cfg.digest ((o - 0x60) / 4)
  else if o = 0xC0 then dbgStatus s.dbg
  else if 0x100 ≤ o ∧ o < 0x180 then wordAt (s.dbg.log.toList.flatMap DbgRec.bytes) ((o - 0x100) / 4)
  else if 0x200 ≤ o ∧ o < 0x220 then wordAt s.cfg.placeMap.toList ((o - 0x200) / 4)
  else if 0x300 ≤ o ∧ o < 0x340 then tntWord s.tenants[ix 7 ((o - 0x300) / 8)] (o / 4 % 2)
  else if o = 0x400 then s.cfg.laneGate
  else if o = 0x404 then stWord s.cfg.laneSt.toList
  else if o = 0x408 then s.cfg.slotGate
  else if o = 0x40C then stWord (s.cfg.slotSt.toList.take 16)
  else if o = 0x410 then stWord (s.cfg.slotSt.toList.drop 16)
  else if o = 0x420 then keepStatus s
  else if 0x500 ≤ o ∧ o < 0x550 then wordAt s.cfg.unitView.toList ((o - 0x500) / 4)
  else if o = 0x580 then img [(s.cfg.dpGen.toNat, 16), (s.cfg.mgGen.toNat, 0)]
  else if o = 0x584 then img [(bN s.viewStale, 1), (bN s.cfg.skew, 0)]
  else if o = 0x600 then hlStatus s
  else if o = 0x604 then img [(s.link.bar2Index.toNat, 0)]
  else if o = 0x700 then s.cfg.badacc
  else 0

/-! ### Ring pages (Tables 22-4, 5-6, 6-2, 6-7, 6-8, 7-7, 7-8) -/

/-- RNG_CTL. -/
def rngCtl (s : State) (r : Ring) : Word :=
  let x := s.rings[r]
  img [(bN x.inReset, 31), ((s.ringTenant r).val, 28), (bN x.resetOnly, 1), (bN x.durable, 0)]

/-- RNG_TAG. -/
def rngTag (s : State) (r : Ring) : Word := img [(s.rings[r].tagCap.toNat, 16), (s.inUse r, 0)]

/-- RNG_PASID (Table 6-9). -/
def rngPasid (x : RingSt) : Word := img [(bN x.pasidV, 31), (x.pasid.toNat, 0)]

/-- The 32 bytes of a DEFER_LOG record (Table 7-6). -/
def DeferRec.bytes (d : DeferRec) : List Byte :=
  bytesLE 8 d.lba ++ bytesLE 4 d.count ++ bytesLE 2 d.tag ++ [d.cause, 0] ++ bytesLE 8 d.ctx ++ bytesLE 4 d.rseq
    ++ [0, 0, 0, 0]

/-- Word at a ring page's offset. -/
def ringWord (s : State) (r : Ring) (o : Nat) : Word :=
  let x := s.rings[r]
  let p := x.setup.getD (x.baseLo, x.baseHi, x.depth)
  if o < 0x40 then wordOf x.trb (o / 4)
  else if o = 0x44 then img [(256 - x.queue.length, 16), (bN x.lost, 1), (bN (s.readyBit r), 0)]
  else if o = 0x48 then x.lostCnt
  else if o = 0x100 then rngCtl s r
  else if o = 0x104 then rngTag s r
  else if o = 0x108 then img [(p.1.toNat, 12)]
  else if o = 0x10C then p.2.1
  else if o = 0x110 then img [(p.2.2.toNat, 0)]
  else if o = 0x114 then img [(x.head.toNat, 0)]
  else if o = 0x118 then img [(x.tail.toNat, 0)]
  else if o = 0x11C then img [(x.ovf.toNat, 16), (x.dHead.toNat, 8), (x.dTail.toNat, 0)]
  else if o = 0x120 then img [(x.rstCause.toNat, 28), (x.unreported.toNat, 9), (x.discarded.toNat, 0)]
  else if o = 0x124 then x.stallCap
  else if o = 0x128 then x.stallPool
  else if o = 0x12C then x.served
  else if o = 0x130 then x.delayedCnt
  else if o = 0x134 then x.refusedCnt
  else if 0x800 ≤ o then wordAt x.log[ix 63 ((o - 0x800) / 32)].bytes (o / 4 % 8)
  else 0

/-- What reading it clears. -/
def ringClear (r : Ring) (o : Nat) (s : State) : State :=
  s.onRing r (fun x =>
    if o = 0x44 then { x with lost := false }
    else if o = 0x48 then { x with lostCnt := 0 }
    else if o = 0x11C then { x with ovf := 0 }
    else if o = 0x124 then { x with stallCap := 0 }
    else if o = 0x128 then { x with stallPool := 0 }
    else if o = 0x12C then { x with served := 0 }
    else if o = 0x130 then { x with delayedCnt := 0 }
    else if o = 0x134 then { x with refusedCnt := 0 }
    else x)

/-! ### Cairns (Tables 8-6, 8-7) -/

/-- Pending waits on a cairn: the distances left of ring heads and units. -/
def waitsLeft (s : State) (c : Cairn) : List Nat :=
  (List.finRange 16).filterMap (fun r => match s.rings[r].queue with
    | w :: _ => if w.op = 6 ∧ w.f 0x10 1 = c.val then w.remaining else none
    | [] => none)
  ++ s.ma.waits.filterMap (fun w => if w.cairn = c then w.left else none)

/-- CRN_WAITERS. -/
def crnWaiters (s : State) (c : Cairn) : Word :=
  let rings := (List.finRange 16).filter (fun r => match s.rings[r].queue with
    | w :: _ => w.op == 6 && w.f 0x10 1 == c.val && w.remaining.isSome
    | [] => false)
  let units := fun (m : WaitMode) => (((s.ma.waits.filter (fun w => w.cairn == c && w.mode == m)).map (·.unit)).eraseDups).length
  img [(rings.length, 24), (units .sleep, 16), (units .headStall, 8)]

/-- CRN_CFG. -/
def crnCfg (x : CairnSt) : Word :=
  img [(bN x.pubEn, 31), (bN x.pubFlt, 30), (x.monMode.toNat, 28), (x.pubRing.val, 16), (x.owner.val, 0)]

/-- A word of a cairn record. -/
def cairnWord (s : State) (c : Cairn) (o : Nat) : Word :=
  let x := s.cairns[c]
  if o = 0x00 then (if s.cfg.loaded then x.value else 0)
  else if o = 0x04 then (if s.cfg.loaded then x.value ^^^ 0xFFFFFFFF else 0)
  else if o = 0x08 then crnCfg x
  else if o = 0x0C then x.monTarget
  else if o = 0x10 then img [(x.pubLo.toNat, 3)]
  else if o = 0x14 then x.pubHi
  else if o = 0x18 then x.xblock
  else if o = 0x1C then x.sigRej
  else if o = 0x20 then crnWaiters s c
  else if o = 0x24 then BitVec.ofNat 32 (match waitsLeft s c with | d :: ds => ds.foldl min d | [] => 0)
  else if o = 0x28 then img [(x.lastKind.toNat, 28), (x.lastId.toNat, 20)]
  else if o = 0x2C then x.lastAdd
  else if o = 0x30 then x.sigCount
  else if o = 0x34 then img [(x.blkKind.toNat, 28), (x.blkId.toNat, 20)]
  else 0

/-- A word of a tenant's signal page (R159). -/
def pageWord (s : State) (t : Tenant) (o : Nat) : Word :=
  let x := s.cairns[ix 127 (o / 8)]
  if 0x400 ≤ o ∨ s.cfg.loaded = false ∨ x.owner ≠ t then 0 else if o % 8 = 0 then x.value else x.value ^^^ 0xFFFFFFFF

/-- A word of the cairn block (Table 22-2). -/
def cairnBlock (s : State) (o : Nat) : Word :=
  if o < 0x2000 then cairnWord s (ix 127 (o / 0x40)) (o % 0x40)
  else if o < 0xA000 then pageWord s (ix 7 ((o - 0x2000) / 0x1000)) (o % 0x1000)
  else if o < 0xA010 then
    img ((List.range 32).map (fun b => (bN s.cairns[ix 127 (32 * ((o - 0xA000) / 4) + b)].monPend, b)))
  else 0

def cairnClear (o : Nat) (s : State) : State :=
  if 0x2000 ≤ o then s
  else s.onCairn (ix 127 (o / 0x40)) (fun x =>
    if o % 0x40 = 0x18 then { x with xblock := 0 } else if o % 0x40 = 0x1C then { x with sigRej := 0 } else x)

/-! ### Wheels and Orchard (Tables 9-2, 9-3, 9-5) -/

/-- A word of a wheel's record; a pending DEPTH reads back (R75). -/
def wheelWord (s : State) (w : Wheel) (o : Nat) : Word :=
  let x := s.ma.wheels[w]
  let depth := (s.pendOf (.depth w)).getD x.depth.toNat
  if o = 0x00 then img [(bN x.en, 31), (bN x.output, 30), (x.tenant.val, 27), (depth, 16), (x.pfTags.toNat, 8), (bN x.orc, 7)
    , (x.port.toNat, 5), (x.crag.val, 0)]
  else if o = 0x04 then img [((x.slot (x.slotNo x.taken)).toNat, 28), ((x.slot (x.slotNo x.inOrder)).toNat, 24), (x.occ, 16)
    , (min 255 (s.inflight w), 8), (bN (match x.streams with | st :: _ => st.drain | [] => false), 7), (bN x.boundary, 6)
    , (bN x.stallTag, 5), (bN x.stallSlot, 4), (bN x.fenced, 3)]
  else if o = 0x08 then x.beats
  else if o = 0x0C then x.poison
  else if o = 0x10 then x.cTag
  else if o = 0x14 then x.cSlot
  else if o = 0x18 then x.cEmpty
  else 0

def wheelBlock (s : State) (o : Nat) : Word :=
  if o < 0x1000 then wheelWord s (ix 63 (o / 0x40)) (o % 0x40)
  else if o = 0x1000 then img [(s.ma.orcInv.toNat, 0)]
  else if o = 0x1010 then s.ma.orcHit
  else if o = 0x1014 then s.ma.orcMiss
  else if o = 0x1018 then s.ma.orcMerge
  else if o = 0x101C then s.ma.orcPoison
  else 0

def wheelClear (o : Nat) (s : State) : State :=
  if o < 0x1000 then s.onWheel (ix 63 (o / 0x40)) (fun x =>
    let p := o % 0x40
    if p = 0x0C then { x with poison := 0 }
    else if p = 0x10 then { x with cTag := 0 }
    else if p = 0x14 then { x with cSlot := 0 }
    else if p = 0x18 then { x with cEmpty := 0 }
    else x)
  else { s with ma :=
    if o = 0x1010 then { s.ma with orcHit := 0 }
    else if o = 0x1014 then { s.ma with orcMiss := 0 }
    else if o = 0x1018 then { s.ma with orcMerge := 0 }
    else if o = 0x101C then { s.ma with orcPoison := 0 }
    else s.ma }

/-! ### Rowan (Tables 11-3, 11-5) -/

/-- The 128 bytes of a descriptor. -/
def descBytes (d : Desc) : List Byte :=
  let pad := fun (n : Nat) (l : List Nat) => (List.range 8).flatMap (fun i => toLE n (l.getD i 0))
  toLE 8 d.base ++ toLE 1 d.space.val ++ toLE 1 d.esize.val ++ toLE 1 d.ext.length
    ++ toLE 1 (bN d.rev + 2 * bN d.gdim.isSome) ++ toLE 1 (d.xdim.getD 0xFF) ++ toLE 1 (d.gdim.getD 0xFF)
    ++ toLE 1 d.isize.val ++ toLE 1 d.isrc.val ++ toLE 4 d.rot ++ toLE 4 d.bound ++ toLE 8 d.ibase
    ++ pad 4 d.ext ++ (List.range 8).flatMap (fun i => bytesLE 8 (BitVec.ofInt 64 (d.stride.getD i 0)))

/-- A word of an engine's record: the current transfer is the head of its queue. -/
def rowanWord (s : State) (e : Eng) (o : Nat) : Word :=
  let x := s.ma.rowan[e]
  let cur : Option XferSec := if x.st = 0 ∨ x.st = 4 then none else (x.queue.head?).map (·.x)
  let ring : Nat := (cur.map (·.ring.val)).getD 0
  let tenant : Nat := (cur.map (fun c => (s.ringTenant c.ring).val)).getD 0
  if o = 0x00 then img [(x.st.toNat, 29), (bN x.crossed, 28), (x.queue.length, 24), (ring, 20), (tenant, 17)]
  else if o = 0x04 then x.elems
  else if o = 0x08 then x.elemFlt
  else if o = 0x0C then x.idxRej
  else if o = 0x10 then x.idxPos
  else if o = 0x14 then x.stall
  else if o = 0x18 then x.corr
  else if 0x80 ≤ o ∧ o < 0x100 then (cur.map (fun c => wordAt (descBytes c.rd) ((o - 0x80) / 4))).getD 0
  else if 0x100 ≤ o ∧ o < 0x180 then (cur.map (fun c => wordAt (descBytes c.wd) ((o - 0x100) / 4))).getD 0
  else 0

def rowanClear (o : Nat) (s : State) : State :=
  s.onRowan (ix 3 (o / 0x200)) (fun x =>
    let p := o % 0x200
    if p = 0x08 then { x with elemFlt := 0 }
    else if p = 0x0C then { x with idxRej := 0 }
    else if p = 0x14 then { x with stall := 0 }
    else if p = 0x18 then { x with corr := 0 }
    else x)

/-! ### Sloe (Tables 12-5 to 12-7) -/

/-- A word of a lane's record; of a claimed lane only SLOE_LANE_ST reads (R352). -/
def laneWord (x : LaneSt) (o : Nat) : Word :=
  let role := match x.role with | .idle => 0 | .snoop => 1 | .command => 2
  if o = 0x00 then img ([(x.owner.val, 29), (bN x.keep, 28), (role, 26), (bN x.fenced, 25)]
    ++ x.ctx.toList.zipIdx.map (fun p => (bN p.1.msg.isSome, p.2)))
  else if x.keep then 0
  else if o = 0x04 then x.bytes
  else if o = 0x08 then x.truncCnt
  else if o = 0x0C then x.taintCnt
  else if o = 0x10 then x.glitchCnt
  else if o = 0x14 then x.tapStall
  else if 0x40 ≤ o ∧ o < 0x80 then wordOf x.expect ((o - 0x40) / 4)
  else 0

/-- A word of a result slot; the digest of a COMPARE message reads 0 (R236). -/
def slotWord (x : CtxSt) (o : Nat) : Word :=
  if o < 0x40 then (if x.compare then 0 else wordOf x.digest (o / 4))
  else if o = 0x40 then img [(x.state.toNat, 30), (x.alg.toNat, 28), (bN x.compare, 27), (bN x.cached, 26), (bN x.tainted, 25)
    , (bN x.trunc, 24), (bN x.short, 23), (bN x.keyFail, 22), (x.keySlot.toNat, 0)]
  else if o = 0x44 then img [(bN x.cmpNeN, 1), (bN x.cmpEq, 0)]
  else if o = 0x48 then wordOf x.len 0
  else if o = 0x4C then wordOf x.len 1
  else if o = 0x50 then x.ovf
  else 0

/-- A word of the Sloe block (Table 22-2). -/
def sloeBlock (s : State) (o : Nat) : Word :=
  if o < 0x1000 then laneWord s.ma.lanes[ix 15 (o / 0x100)] (o % 0x100)
  else if o < 0x9000 then
    let l := s.ma.lanes[ix 15 ((o - 0x1000) / 0x800)]
    if l.keep then 0 else slotWord l.ctx[ix 15 (o % 0x800 / 0x80)] (o % 0x80)
  else if o < 0x9100 then (if o % 8 = 0 then keySt s.ma.keys[ix 31 ((o - 0x9000) / 8)] else 0)
  else if o = 0xA000 then img [(s.ma.srLane.val, 28), (s.ma.srCtx.val, 24), (s.ma.srResult.toNat, 0)]
  else if o = 0xA010 then wordOf s.ma.srLen 0
  else if o = 0xA014 then wordOf s.ma.srLen 1
  else if 0xA020 ≤ o ∧ o < 0xA060 then wordOf s.ma.srState ((o - 0xA020) / 4)
  else if 0xA100 ≤ o ∧ o < 0xA140 then
    match s.rings[ix 15 ((o - 0xA100) / 4)].sloeLast with
    | some (l, c) => img [(1, 31), (l.val, 4), (c.val, 0)]
    | none => 0
  else 0

def sloeClear (o : Nat) (s : State) : State :=
  if 0x1000 ≤ o then s
  else s.onLane (ix 15 (o / 0x100)) (fun x =>
    let p := o % 0x100
    if x.keep then x
    else if p = 0x08 then { x with truncCnt := 0 }
    else if p = 0x0C then { x with taintCnt := 0 }
    else if p = 0x10 then { x with glitchCnt := 0 }
    else if p = 0x14 then { x with tapStall := 0 }
    else x)

/-! ### Watchdog (Table 19-6) -/

/-- ms until expiry. -/
def State.remain (s : State) : Nat := min 0xFFFF (s.wd.window - (s.now - s.wd.since) / 1000)

def wdtStatus (s : State) : Word := img [(s.remain, 16), (bN s.wd.badTok, 2), (bN s.wd.bringUp, 1), (bN s.wd.warn, 0)]

/-- A number below 0xC0 that names a unit (R385). -/
def faultUnit (u : Nat) : Bool := decide (u < 78 ∨ (0x80 ≤ u ∧ u < 0xC0))

/-- A word of the watchdog block. -/
def watchBlock (s : State) (o : Nat) : Word :=
  if o = 0x00 then img [(s.wd.windowS.toNat, 0)]
  else if o = 0x04 then wdtStatus s
  else if o = 0x08 then s.wd.challenge
  else if o = 0x10 then s.wd.seq
  else if 0x100 ≤ o ∧ o < 0x140 then img [(s.rings[ix 15 ((o - 0x100) / 4)].stallMs.toNat, 0)]
  else if 0x140 ≤ o ∧ o < 0x180 then
    let x := s.rings[ix 15 ((o - 0x140) / 4)]
    img [(bN x.stallFrom.isSome, 31), (x.fires.toNat, 0)]
  else if o = 0x200 then img [(s.wd.eHead.toNat, 16), (s.wd.eTail.toNat, 0)]
  else if o = 0x204 then s.wd.eOvf
  else if o = 0x208 then s.wd.eSupp
  else if 0x1000 ≤ o ∧ o < 0x2000 then wordAt s.wd.log[ix 255 ((o - 0x1000) / 16)].bytes (o / 4 % 4)
  else if 0x2000 ≤ o ∧ o < 0x2300 then (if faultUnit ((o - 0x2000) / 4) then corrOf s ((o - 0x2000) / 4) else 0)
  else 0

def watchClear (o : Nat) (s : State) : State :=
  if 0x140 ≤ o ∧ o < 0x180 then s.onRing (ix 15 ((o - 0x140) / 4)) (fun x => { x with fires := 0 })
  else if o = 0x204 then { s with wd := { s.wd with eOvf := 0 } }
  else if o = 0x208 then { s with wd := { s.wd with eSupp := 0 } }
  else if 0x2000 ≤ o ∧ o < 0x2300 then
    { s with wd := { s.wd with corr := s.wd.corr.filter (fun p => p.1 != (o - 0x2000) / 4) } }
  else s

/-! ### Admission (Tables 17-3 to 17-5) -/

/-- Table 17-3: CLASS, WEIGHT, AMOUNT. -/
def svcEntWord (e : SvcEnt) : Word :=
  let cls := match e.cls with | .guaranteed => 0 | .elastic => 1 | .background => 2
  img [(cls, 30), (e.weight.toNat, 16), (e.amount.toNat, 0)]

def admBreach (a : Arb) : Word := img [(bN a.breach, 31), (a.frac.toNat, 0)]

/-- A word of the admission block. -/
def admBlock (s : State) (o : Nat) : Word :=
  let k := o % 0x40 / 4
  if o < 0x40 then (if k < 7 then img [(s.adm[ix 6 k].live.toNat, 0)] else 0)
  else if o < 0x80 then (if k < 7 then img [(min 0xFFFF s.adm[ix 6 k].total, 0)] else 0)
  else if o < 0xC0 then (if k < 7 then admBreach s.adm[ix 6 k] else 0)
  else if 0x100 ≤ o ∧ o < 0x1100 then
    (if k < 7 then svcEntWord s.adm[ix 6 k].ent[ix 63 ((o - 0x100) / 0x40)] else 0)
  else if 0x1100 ≤ o ∧ o < 0x1140 then
    let x := s.rings[ix 15 ((o - 0x1100) / 4)]
    img [(x.lastRes.toNat, 16), (x.lastCause.toNat, 0)]
  else 0

/-! ### Power and clocks (Tables 2-9, 2-10) -/

/-- CLK_PWR_CTL; accepted writes that wait read back (R75). -/
def clkPwrCtl (s : State) : Word :=
  img [(s.pw.capW.toNat, 24), (bN s.pw.placeEn, 8), ((s.pendOf .stepCeil).getD s.pw.stepCeil.toNat, 4), (s.pw.stateReq.toNat, 0)]

/-- CLK_PWR_STATUS. USER and MGMT name the limit that sets CAP_EFF below the module's 240 W. -/
def clkPwrStatus (s : State) : Word :=
  let p := s.pw
  let st := match p.pstate with | .active => 0 | .idle => 1 | .nap => 2
  img [(s.capEff, 24), (bN p.brake, 23), (bN p.therm95, 22), (bN (p.aux == .w150), 21)
    , (bN (p.mgmtCap.toNat == s.capEff && p.mgmtCap != 240), 20), (bN (p.capW.toNat == s.capEff && p.capW != 240), 19)
    , (p.memStep.toNat, 16), (p.arrayV.toNat, 8), (p.step.toNat, 6), (bN p.holdupOk, 5), (bN p.reqPend, 4)
    , (bN p.writeRej, 3), (st, 0)]

def powerBlock (s : State) (o : Nat) : Word := if o = 0 then clkPwrCtl s else if o = 4 then clkPwrStatus s else 0

/-! ### Pair link (Tables 22-5, 16-3) -/

/-- PAIR_LCL of a port. -/
def portWord (x : PortSt) (p o : Nat) : Word :=
  if o = 0x00 ∨ o = 0x04 then wordAt (bytesBE 6 (Config.mac p)) (o / 4)
  else if o = 0x08 then x.ip4
  else if o = 0x0C then x.gw4
  else if o = 0x10 then x.prefix_
  else if o = 0x14 then img [(bN x.up, 0)]
  else if 0x20 ≤ o ∧ o < 0x30 then wordOf x.ip6 ((o - 0x20) / 4)
  else if 0x30 ≤ o ∧ o < 0x40 then wordOf x.gw6 ((o - 0x30) / 4)
  else 0

/-- PAIR_PEER word `i` (Table 16-3). -/
def peerEntWord (c : PeerCfg) (i : Nat) : Word :=
  if i = 0 then img [(bN c.valid, 31), (c.tenant.val, 28), (bN c.buddy, 27), (bN c.ward, 26), (bN c.take, 25), (bN c.drain, 24)
    , (bN c.v6, 23), (bN c.vlanEn, 22), (c.dscp.toNat, 16), (c.liveMs.toNat, 0)]
  else if i = 1 then img [(c.fwdLo.toNat, 25), (c.fwdN.toNat, 17), (c.remBase.toNat, 10)]
  else if i = 2 then img [(c.vid.toNat, 0)]
  else if i = 3 then wordOf c.engineId 0
  else if i = 4 then wordOf c.engineId 1
  else if i < 9 then wordOf c.addr (i - 5)
  else 0

/-- PAIR_ENT_ST of an entry. -/
def peerStWord (p : PeerSt) (o : Nat) : Word :=
  let st := match p.sess with | .down => 0 | .opening => 1 | .up => 2 | .lost => 3 | .gone => 4
  if o = 0x00 then img [(st, 0)]
  else if o = 0x04 then p.rxDrop
  else if o = 0x08 then wordOf p.lastHeld 0
  else if o = 0x0C then wordOf p.lastHeld 1
  else if o = 0x10 then p.retx
  else if o = 0x14 then p.sigOvf
  else if o = 0x18 then p.sigRej
  else p.hidden

/-- A word of the Pair link block. -/
def pairBlock (s : State) (o : Nat) : Word :=
  if o < 0x100 then portWord s.pair.ports[ix 1 (o / 0x80)] (o / 0x80) (o % 0x80)
  else if o < 0x200 then peerEntWord s.pair.peers[ix 3 ((o - 0x100) / 0x40)].cfg (o % 0x40 / 4)
  else if o < 0x280 then peerStWord s.pair.peers[ix 3 ((o - 0x200) / 0x20)] (o % 0x20)
  else if o = 0x300 then s.pair.rxOther
  else 0

def pairClear (o : Nat) (s : State) : State :=
  if o = 0x300 then { s with pair := { s.pair with rxOther := 0 } }
  else if 0x200 ≤ o ∧ o < 0x280 then s.onPeer (ix 3 ((o - 0x200) / 0x20)) (fun p =>
    let q := o % 0x20
    if q = 0x04 then { p with rxDrop := 0 }
    else if q = 0x10 then { p with retx := 0 }
    else if q = 0x14 then { p with sigOvf := 0 }
    else if q = 0x18 then { p with sigRej := 0 }
    else if q = 0x1C then { p with hidden := 0 }
    else p)
  else s

/-! ### Vault and ATPU (Tables 15-6, 14-9, 5-5) -/

/-- VLT_STATUS. -/
def vltStatus (x : Store) : Word := img [(bN x.roMode, 31), (bN x.spareLow, 30), (sparePct x.spare, 0)]

/-- VLT_OP. -/
def vltOp (x : VltOp) : Word :=
  img [(x.st.toNat, 30), (x.kind.toNat, 28), (bN x.action, 27), (bN x.bg, 26), (bN x.scope, 25), (bN x.resumed, 24)]

/-- A word of the Vault block. -/
def vaultBlock (s : State) (o : Nat) : Word :=
  if o = 0x00 then img [(s.poolFreeBlocks, 0)]
  else if o = 0x04 then img [(s.st.chInUse.toNat, 0)]
  else if o = 0x08 then s.st.ce
  else if o = 0x0C then s.st.ue
  else if o = 0x10 then vltStatus s.st
  else if o = 0x14 then vltOp s.st.op
  else if o = 0x18 then BitVec.ofNat 32 s.st.op.done
  else if o = 0x1C then BitVec.ofNat 32 s.st.op.total
  else if o = 0x20 then s.st.unreadable
  else if o = 0x24 then s.st.retired
  else if o = 0x28 then s.st.readRetry
  else if o = 0x2C then img [(s.poolTotal, 0)]
  else if o = 0x100 then s.st.secOk
  else if o = 0x104 then s.st.missing
  else if o = 0x108 then s.st.falseMark
  else if o = 0x10C then s.st.recovered
  else if o = 0x110 then s.st.poisonSec
  else if o = 0x114 then s.st.stale
  else 0

def vaultClear (o : Nat) (s : State) : State :=
  { s with st :=
    if o = 0x08 then { s.st with ce := 0 }
    else if o = 0x0C then { s.st with ue := 0 }
    else if o = 0x20 then { s.st with unreadable := 0 }
    else if o = 0x28 then { s.st with readRetry := 0 }
    else if o = 0x104 then { s.st with missing := 0 }
    else if o = 0x108 then { s.st with falseMark := 0 }
    else if o = 0x10C then { s.st with recovered := 0 }
    else if o = 0x110 then { s.st with poisonSec := 0 }
    else if o = 0x114 then { s.st with stale := 0 }
    else s.st }

/-- A staging window entry's word (Table 5-5). -/
def winWord (w : WinEnt) (i : Nat) : Word :=
  if i = 0 then img [(bN w.valid, 31), (w.tenant.val, 28), (bN w.inR, 27), (bN w.inW, 26), (bN w.hostOk, 25), (w.base.toNat, 0)]
  else if i = 1 then img [(w.size.toNat, 0)]
  else if i = 2 then img [(w.ridMask.toNat, 16), (w.rid.toNat, 0)]
  else 0

/-- A word of the ATPU block. -/
def atpuBlock (s : State) (o : Nat) : Word :=
  if o < 0x40 then rngPasid s.rings[ix 15 (o / 4)]
  else if 0x100 ≤ o ∧ o < 0x500 then winWord s.link.wins[ix 63 ((o - 0x100) / 0x10)] (o / 4 % 4)
  else if o = 0x600 then s.link.fltCnt
  else if 0x610 ≤ o ∧ o < 0x620 then wordOf s.link.fltLast ((o - 0x610) / 4)
  else 0

def atpuClear (o : Nat) (s : State) : State := if o = 0x600 then { s with link := { s.link with fltCnt := 0 } } else s

/-! ### Crag windows (Table 10-6, R416) -/

/-- The array is power-gated under the crag: NAP, or PWR_GATE. -/
def State.cragOff (s : State) (n : Crag) : Bool := s.pw.pstate == .nap || s.ma.crags[n].pwrGate

/-- CRG_STATUS.STATE. -/
def cragState (s : State) (n : Crag) : Nat :=
  let x := s.ma.crags[n]
  if x.keep then 7
  else if x.fenced then 5
  else if x.moving then 4
  else if x.suspended then 3
  else if x.clkGate || x.pwrGate then 6
  else if x.used = false then 0
  else if s.asleep (.crag n) then 2
  else if s.atRest n then 0
  else 1

/-- A word of a crag's window; of a claimed crag only CRG_STATUS reads (R352). -/
def cragWord (s : State) (n : Crag) (o : Nat) : Word :=
  let x := s.ma.crags[n]
  if o = 0x00 then img [(cragState s n, 29), (bN (x.used && s.atRest n), 28), (x.gate.toNat, 22), (x.prog.toNat, 8), (x.tenant.val, 5)]
  else if x.keep then 0
  else if o = 0x04 then img [(bN x.pwrGate, 3), (bN x.clkGate, 2), (bN x.suspended, 0)]
  else if o = 0x08 then x.scanAddr
  else if o = 0x0C then img [(bN x.scanBusy, 31), (x.scanRes.toNat, 0)]
  else if o = 0x10 then x.ce
  else if o = 0x14 then x.ue
  else if o = 0x18 then x.fire
  else if o = 0x1C then x.stall
  else if o = 0x20 then x.pad
  else if o = 0x24 then (if s.cragOff n then 0 else img [(x.temp.toNat, 0)])
  else 0

/-- While the array is power-gated the counters keep the values of the cut. -/
def cragClear (n : Crag) (o : Nat) (s : State) : State :=
  if s.cragOff n then s
  else s.onCrag n (fun x =>
    if x.keep then x
    else if o = 0x10 then { x with ce := 0 }
    else if o = 0x14 then { x with ue := 0 }
    else if o = 0x1C then { x with stall := 0 }
    else if o = 0x20 then { x with pad := 0 }
    else x)

/-! ### The whole of BAR0 (R409, R410, R44) -/

/-- Blocks of Table 22-2 and the offset in the block. -/
def blockOff (off : Nat) : Nat × Nat := (off / 0x10000, off % 0x10000)

/-- The word at an aligned BAR0 offset, as a read would return it now; reserved space reads as 0. -/
def regWord (s : State) (off : Nat) : Word :=
  let b := off / 0x10000
  let o := off % 0x10000
  if b = 0 then globalWord s o
  else if b = 6 then watchBlock s o
  else if s.pw.rdy = false then 0
  else if b = 1 then ringWord s (ix 15 (o / 0x1000)) (o % 0x1000)
  else if b = 2 then cairnBlock s o
  else if b = 3 then wheelBlock s o
  else if b = 4 then (if o < 0x800 then rowanWord s (ix 3 (o / 0x200)) (o % 0x200) else 0)
  else if b = 5 then sloeBlock s o
  else if b = 7 then admBlock s o
  else if b = 8 then powerBlock s o
  else if b = 9 then pairBlock s o
  else if b = 10 then vaultBlock s o
  else if b = 11 then atpuBlock s o
  else if 16 ≤ b ∧ b < 48 then cragWord s (ix 31 (b - 16)) o
  else 0

/-- What a read of the word clears (R412). -/
def clearWord (off : Nat) (s : State) : State :=
  let b := off / 0x10000
  let o := off % 0x10000
  if b = 0 then
    (if o = 0x38 then { s with boot := { s.boot with retRej := false } }
     else if o = 0x700 then { s with cfg := { s.cfg with badacc := 0 } }
     else s)
  else if b = 6 then watchClear o s
  else if s.pw.rdy = false then s
  else if b = 1 then ringClear (ix 15 (o / 0x1000)) (o % 0x1000) s
  else if b = 2 then cairnClear o s
  else if b = 3 then wheelClear o s
  else if b = 4 then (if o < 0x800 then rowanClear o s else s)
  else if b = 5 then sloeClear o s
  else if b = 8 then (if o = 4 then { s with pw := { s.pw with writeRej := false } } else s)
  else if b = 9 then pairClear o s
  else if b = 10 then vaultClear o s
  else if b = 11 then atpuClear o s
  else if 16 ≤ b ∧ b < 48 then cragClear (ix 31 (b - 16)) o s
  else s

/-- A read of one word, with what it clears (R412). -/
def readWord (off : Nat) (s : State) : Word × State := (regWord s off, clearWord off s)

/-- A read of `n` words in ascending order (R411): the value, word 0 lowest. -/
def readWords : Nat → Nat → State → Nat × State
  | 0, _, s => (0, s)
  | n + 1, off, s =>
    let (v, s1) := readWord off s
    let (rest, s2) := readWords n (off + 4) s1
    (v.toNat + 2 ^ 32 * rest, s2)

/-- The offset lies in a ring's TRB bytes. -/
def inTrb (off : Nat) : Bool := off / 0x10000 == 1 && decide (off % 0x1000 < 0x40)

/-- BAR0 answers: the host link is up and the engine is not in DEEP, powered down or in the hold-up sequence (R36,
R416). -/
def State.bar0Up (s : State) : Bool :=
  match s.pw.phase with
  | .bringUp | .ready | .recovery | .thermalHold => true
  | .inReset => bit s.pw.causes 6
  | _ => false

end Sys2Proof.Machine
end

