-- ==== Sys2Proof/Machine/PowerCmds.lean ====
section
/-! DEFINITION. Power and clock commands (02): STATE_REQ writes, NAP_ENTRY, IDLE_ENTRY, the power brake, the thermal
thresholds, supplies, the clock loops, and the RB_N pin. -/

namespace Sys2Proof.Machine

/-! ### Power states (R28) -/

/-- A write of STATE_REQ: NAP stays pending until the engine is quiescent; ACTIVE and AUTO cancel it and leave NAP;
ACTIVE leaves IDLE too. -/
def stateReq (v : BitVec 2) (s : State) : State :=
  let s1 := { s with pw := { s.pw with stateReq := v, reqPend := v == 2 && s.pw.pstate != .nap } }
  if v = 2 then s1
  else if v = 0 ∨ s.pw.pstate = .nap then wake s1 else s1

/-- A write of the field through its register. -/
def stateReqWrite (v : BitVec 2) (s : State) : State :=
  if s.pw.rdy = false then s else if s.cfg.loading then setExp .busy s else setExp .applied (stateReq v s)

def execStateReqNap (s : State) : Host.Outcome State Fault Refusal := .next (stateReqWrite 2 s)
def execStateReqActive (s : State) : Host.Outcome State Fault Refusal := .next (stateReqWrite 0 s)
def execStateReqAuto (s : State) : Host.Outcome State Fault Refusal := .next (stateReqWrite 1 s)

/-- NAP_ENTRY: a pending request is granted once the engine is quiescent. -/
def execNapEntry (s : State) : Host.Outcome State Fault Refusal :=
  .next (if s.pw.rdy ∧ s.pw.phase = .ready ∧ s.pw.reqPend ∧ s.quiescent
    then { s with pw := { s.pw with pstate := .nap, reqPend := false } } else s)

/-- IDLE_ENTRY: under AUTO, with no crag at work, CLK_ARRAY is gated. The row comes when 10 µs have passed so. -/
def execIdleEntry (s : State) : Host.Outcome State Fault Refusal :=
  .next (if s.pw.rdy ∧ s.pw.phase = .ready ∧ s.pw.stateReq = 1 ∧ s.pw.pstate = .active ∧ !s.cragWork
    then { s with pw := { s.pw with pstate := .idle } } else s)

/-! ### Limits (R27, R34, R38, R40, R429) -/

/-- PWRBRK_N_ASSERT: 100 W and the QUARTER memory rate step. -/
def execPwrbrkNAssert (s : State) : Host.Outcome State Fault Refusal :=
  .next (if s.pw.brake then s
    else recap { s with pw := { s.pw with brake := true, memBase := s.pw.memStep, memStep := 2 } })

/-- PWRBRK_N_DEASSERT: the previous limit and memory rate step return. -/
def execPwrbrkNDeassert (s : State) : Host.Outcome State Fault Refusal :=
  .next (if s.pw.brake then recap { s with pw := { s.pw with brake := false, memStep := s.pw.memBase } } else s)

/-- DVFS_EVAL: the fastest step that meets CAP_EFF, and the memory rate step where even 0.4 GHz does not (R40, R429);
under PWRBRK_N the memory rate step stays QUARTER. -/
def execDvfsEval (m : PowerMeas) (s : State) : Host.Outcome State Fault Refusal :=
  .next (if s.pw.rdy = false ∨ s.pw.phase ≠ .ready ∨ s.pw.pstate = .nap then s
    else
      let cap : BitVec 2 := if m.meets16 then 0 else if m.meets08 then 1 else 2
      let mem : BitVec 2 := if s.pw.brake then 2 else if m.meets04 then 0 else if m.meetsHalf then 1 else 2
      recap (askStep { s with pw := { s.pw with capStep := cap, memStep := mem } }))

/-- AVS_ADJUST: the rail moves towards what the monitors need, within 0.65 to 0.85 V and 10 mV/µs over 10 µs; a need
above 0.85 V limits CLK_ARRAY one step lower and raises AVS_LIMIT (Table 2-13). -/
def execAvsAdjust (mv : Nat) (s : State) : Host.Outcome State Fault Refusal :=
  .next (if s.pw.rdy = false ∨ s.pw.phase ≠ .ready ∨ s.pw.pstate = .nap then s
    else
      let want := min 170 (max 130 (ceilDiv mv 5))
      let v := s.pw.arrayV.toNat
      let new := if want < v then max want (v - 20) else min want (v + 20)
      let s1 := { s with pw := { s.pw with arrayV := BitVec.ofNat 8 new } }
      if mv ≤ 850 then s1
      else
        let lim := BitVec.ofNat 2 (min 2 (s.pw.step.toNat + 1))
        raiseEvent 0x0104 0xFF (BitVec.ofNat 32 lim.toNat) 0 (askStep { s1 with pw := { s1.pw with avsStep := lim } }))

/-- The rail's target for a step, inside the range of Table 2-13 (a free value, LOG 100). -/
def railFor (w : BitVec 2) : BitVec 8 := BitVec.ofNat 8 (min 170 (max 130 (Config.stepRail w)))

/-- The divider switches to the requested step. -/
def switchDivider (w : BitVec 2) (p : Power) : Power := { p with step := w, stepWant := none }

/-- The rail moves to the target of a step. -/
def moveRail (w : BitVec 2) (p : Power) : Power := { p with arrayV := railFor w }

/-- A step change (R38): to a faster step the rail moves first, to a slower one the divider switches first. -/
def changeStep (w : BitVec 2) (p : Power) : Power :=
  if w.toNat < p.step.toNat then switchDivider w (moveRail w p) else moveRail w (switchDivider w p)

/-- CLK_STEP_CHANGE: the requested step takes effect once no scan is in progress; a placement move is one step of this
model (R38). -/
def execClkStepChange (s : State) : Host.Outcome State Fault Refusal :=
  .next (match (if s.pw.phase = .holdUp then none else s.pw.stepWant) with
    | none => s
    | some w => if s.scanning then s else { s with pw := changeStep w s.pw })

/-- One threshold of Table 2-7: crossed upward at `t`, ended at 5 °C below. -/
def overTemp (t degC : Nat) (was : Bool) : Bool := if t ≤ degC then true else if degC + 5 ≤ t then false else was

/-- THERMAL_THRESHOLD (R27): crossing 95 °C or 105 °C upward raises THERM; 105 °C drives THERM_N; 115 °C starts the
hold-up sequence, after which the engine is held until the hot-spot is below 95 °C. -/
def execThermalThreshold (degC : Nat) (s : State) : Host.Outcome State Fault Refusal :=
  let a := overTemp 95 degC s.pw.therm95
  let b := overTemp 105 degC s.pw.therm105
  let c := decide (115 ≤ degC) || s.pw.therm115 && decide (95 ≤ degC)
  let s1 := { s with pw := { s.pw with hotspot := degC, therm95 := a, therm105 := b, therm115 := c, thermN := b } }
  let s2 := if b = s.pw.thermN then s1 else emit (.pin "THERM_N" b) s1
  let s3 := if a && !s.pw.therm95 && s.live then raiseEvent 0x0105 0xFF 95 (BitVec.ofNat 32 degC) s2 else s2
  let s4 := if b && !s.pw.therm105 && s.live then raiseEvent 0x0105 0xFF 105 (BitVec.ofNat 32 degC) s3 else s3
  .next (if s.pw.phase = .thermalHold then
      (if degC < 95 then { s4 with pw := { s4.pw with phase := .bringUp, causes := 2 } } else s4)
    else if c ∧ s.live then beginHoldUp 6 s4
    else if s.live then refreshView (askStep s4) else s4)

/-! ### Supplies and clock (R20, R26, R36, R37, 2.6.1) -/

/-- SUPPLY_RANGE (Tables 2-5 and 2-6): outside the recommended range the event is raised, and 12 V main below 10.8 V
starts the hold-up sequence; beyond the absolute maximum the module may be damaged and no effect is given. -/
def execSupplyRange (which : Supply) (mv : Int) (s : State) : Host.Outcome State Fault Refusal :=
  let (lo, hi, alo, ahi, arg) : Int × Int × Int × Int × Nat := match which with
    | .main => (11040, 12960, -500, 14000, 0)
    | .aux => (3000, 3600, -300, 4000, 1)
  if mv < alo ∨ ahi < mv then .fault .beyondRatings
  else .next (
    let s1 := if (mv < lo ∨ hi < mv) ∧ s.live
      then raiseEvent 0x0101 0xFF (BitVec.ofNat 32 arg) (BitVec.ofInt 32 mv) s else s
    if which = .main ∧ mv < 10800 ∧ s.live then
      beginHoldUp 0 { s1 with pw := { s1.pw with mainOn := false }, boot := { s1.boot with mainLost := true } }
    else s1)

/-- CLK_FAIL: the hold-up sequence runs on main power; the event is recorded at the next bring-up (2.6.1, R390). -/
def execClkFail (s : State) : Host.Outcome State Fault Refusal :=
  .next (if s.live then
      beginHoldUp 0 { s with pw := { s.pw with clkFailed := true }, boot := { s.boot with clkFailSeen := true } }
    else s)

/-- HOLDUP_BANK_CHECK (R37): a weak bank has the journal written through from now on; a healthy one lets a bring-up that
waited for it leave busy. -/
def execHoldupBankCheck (mJ : Nat) (s : State) : Host.Outcome State Fault Refusal :=
  .next (if s.live = false ∨ s.boot.up = false then s
    else
      let s1 := checkBank mJ s
      if s1.pw.holdupOk then (if s1.pw.rdy then busyOff 1 s1 else s1) else commitTail s1)

/-- AUX_CONNECTOR_SENSE (R20, 2.1.1): the limit of Table 2-2 changes; with no 12 V there RB_N is busy with cause 6. -/
def execAuxConnectorSense (a : AuxInd) (s : State) : Host.Outcome State Fault Refusal :=
  let s1 := { s with pw := { s.pw with aux := a } }
  .next (if s.live then askStep (if a = .absent then busyOn 6 s1 else busyOff 6 s1)
    else if s.pw.phase = .inReset ∧ a ≠ .absent then { s1 with pw := { s1.pw with causes := 2 } }
    else s1)

/-! ### RB_N (R22, R24) -/

/-- RB_N_ATTENTION_PULSE: one pulse announces everything pending; none while RB_N is busy. -/
def execRbNAttentionPulse (s : State) : Host.Outcome State Fault Refusal :=
  .next (if s.pw.busy ∨ s.attnSum = 0 then s else emit .rbPulse { s with pw := { s.pw with pulsed := true } })

/-- RB_N_PULSE_REPEAT: the pulse comes again while the summary stays non-zero. -/
def execRbNPulseRepeat (s : State) : Host.Outcome State Fault Refusal :=
  .next (if s.pw.busy ∨ s.pw.pulsed = false then s
    else if s.attnSum = 0 then { s with pw := { s.pw with pulsed := false } }
    else emit .rbPulse (advanceTo (s.now + 1000) s))

/-- RB_N_BUSY_END: with no cause left and 100 µs of busy passed, RB_N is released. -/
def execRbNBusyEnd (s : State) : Host.Outcome State Fault Refusal :=
  .next (if s.pw.busy = false ∨ s.pw.causes ≠ 0 then s
    else
      let s1 := advanceTo (s.pw.busySince + 100) s
      emit (.rbBusy false) { s1 with pw := { s1.pw with busy := false, pulsed := false } })

end Sys2Proof.Machine
end

