-- ==== Sys2Proof/Machine/RegCmds.lean ====
section
/-! DEFINITION. Register commands (04, 22): the EXPERT operations, writes and reads of BAR0 by the register map,
ADMIN_QUERY. A field of a register of several fields that is written with its current value is not written. -/

namespace Sys2Proof.Machine

/-! ### EXPERT (R75 to R78) -/

/-- The open arm ends: NONCE reads 0. -/
def closeArm (s : State) : State := { s with cfg := { s.cfg with arm := none, nonce := 0 } }

/-- An arm of the tenant is open (R76). -/
def State.armed (s : State) (t : Tenant) : Bool := s.cfg.arm == some t && decide (s.now < s.cfg.armAt + 1000)

/-- OP 1 with VALUE 0x5E7A: a new non-zero NONCE for 1 ms; any other arm ends. -/
def expertArm (t : Tenant) (v : BitVec 16) (s : State) : State :=
  if v ≠ 0x5E7A then s
  else
    let (x, s1) := draw s
    let n : BitVec 16 := fld x 0 16
    { s1 with cfg := { s1.cfg with arm := some t, armAt := s1.now, nonce := if n = 0 then 1 else n } }

/-- The tenant's unlock code; 0 where no bit-stream gives one (R76, R77). -/
def State.unlockCode (s : State) (t : Tenant) : BitVec 16 :=
  if s.cfg.loaded then ((s.cfg.bs.tenants.find? (fun x => x.tenant == t)).map (·.unlock)).getD 0 else 0

/-- A failed unlock; the third in a row locks the tenant out (R77). -/
def failUnlock (t : Tenant) (s : State) : State :=
  let n := s.cfg.fails[t] + 1
  let s1 := { s with cfg := { s.cfg with fails := s.cfg.fails.set t n } }
  if n < 3 ∨ bit s.cfg.lockout t.val then s1
  else raiseEvent 0x0205 0xFF (BitVec.ofNat 32 t.val) 0 { s1 with cfg := { s1.cfg with lockout := setBit s1.cfg.lockout t.val true } }

/-- OP 2: the code XOR NONCE within the arm's 1 ms unlocks. The arm ends either way. -/
def expertUnlock (t : Tenant) (v : BitVec 16) (s : State) : State :=
  let code := s.unlockCode t
  let s1 := closeArm s
  if s.armed t ∧ code ≠ 0 ∧ v = code ^^^ s.cfg.nonce ∧ bit s.cfg.lockout t.val = false then
    { s1 with cfg := { s1.cfg with unlocked := setBit s1.cfg.unlocked t.val true, fails := s1.cfg.fails.set t 0 } }
  else failUnlock t s1

/-- OP 3 with VALUE 0: back to BASIC. -/
def expertLock (t : Tenant) (v : BitVec 16) (s : State) : State :=
  if v ≠ 0 then s else { s with cfg := { s.cfg with unlocked := setBit s.cfg.unlocked t.val false } }

def execExpertArm (t : Tenant) (v : BitVec 16) (s : State) : Host.Outcome State Fault Refusal :=
  .next (if s.pw.rdy = false then s else expertArm t v s)

def execExpertUnlock (t : Tenant) (v : BitVec 16) (s : State) : Host.Outcome State Fault Refusal :=
  .next (if s.pw.rdy = false then s else expertUnlock t v s)

def execExpertLock (t : Tenant) (v : BitVec 16) (s : State) : Host.Outcome State Fault Refusal :=
  .next (if s.pw.rdy = false then s else expertLock t v s)

/-- EXPERT_ARM_EXPIRE: the arm's 1 ms has passed. -/
def execExpertArmExpire (s : State) : Host.Outcome State Fault Refusal :=
  .next (if s.cfg.arm.isNone then s else closeArm (advanceTo (s.cfg.armAt + 1000) s))

/-- The value written replaces whatever waited for the same field (R75). -/
def setPend (f : FieldId) (v : Option Nat) (s : State) : State :=
  let rest := s.cfg.pend.filter (fun p => p.1 != f)
  { s with cfg := { s.cfg with pend := match v with | some n => rest ++ [(f, n)] | none => rest } }

/-- DEPTH takes effect (R167). -/
def applyDepth (w : Wheel) (n : Nat) (s : State) : State :=
  pumpWheels (s.onWheel w (fun x => { x with depth := BitVec.ofNat 5 n }))

/-- STEP_CEIL takes effect: the step it allows is asked for (R38, R40). -/
def applyCeil (n : Nat) (s : State) : State := askStep { s with pw := { s.pw with stepCeil := BitVec.ofNat 2 n } }

/-- EXPERT_WRITE_TAKES_EFFECT: the field's resource is at its idle point: an empty wheel for DEPTH, no scan for
STEP_CEIL. -/
def execExpertWriteTakesEffect (f : FieldId) (s : State) : Host.Outcome State Fault Refusal :=
  .next (if s.pw.phase = .holdUp then s
    else match f, s.pendOf f with
    | .depth w, some n => if s.wheelIdle w then applyDepth w n (setPend f none s) else s
    | .stepCeil, some n => if s.scanning then s else applyCeil n (setPend f none s)
    | _, _ => s)

/-! ### Writes, block by block -/

/-- The state a command leaves. -/
def after (o : Host.Outcome State Fault Refusal) (s : State) : State :=
  match o with | .next t => t | _ => s

/-- One more record of DBG_LOG (R401). -/
def dbgLog (kind : Byte) (s : State) : State :=
  { s with dbg := { s.dbg with
    log := modAt s.dbg.log (ix 15 (s.dbg.logN % 16)) (fun _ => { kind := kind, level := (s.dbg.level).zeroExtend 8, stamp := s.stamp })
    logN := s.dbg.logN + 1 } }

/-- DEV_CTL (R76, R419). -/
def devCtlWrite (v : Word) (s : State) : State :=
  if fld v 8 24 = 0 then { s with cfg := { s.cfg with scratch := fld v 0 8 } }
  else
    let t : Tenant := ix 7 (fld v 28 3).toNat
    match (fld v 24 4).toNat with
    | 1 => expertArm t (fld v 8 16) s
    | 2 => expertUnlock t (fld v 8 16) s
    | 3 => expertLock t (fld v 8 16) s
    | _ => s

/-- The global block (Table 22-6). Before RDY only RET_CTL accepts a write (R44). -/
def globalWrite (o : Nat) (v : Word) (s : State) : State :=
  if o = 0x34 then after (execFactoryResetCommand v s) s
  else if s.pw.rdy = false then s
  else if o = 0x1C then devCtlWrite v s
  else if o = 0x400 then laneGateWrite v s
  else if o = 0x408 then slotGateWrite v s
  else if o = 0x604 then bar2WinWrite v s
  else s

/-- WMODE and AMODE (R74, R111). -/
def rngCtlDecide (s : State) (r : Ring) (v : Word) : ExpRes :=
  let x := s.rings[r]
  firstRefusal ((if s.cfg.loading then [.busy] else [])
    ++ (if bit v 0 = x.durable then [] else [decideWrite s (.wmode r) none (bN (bit v 0)) true true])
    ++ (if bit v 1 = x.resetOnly then [] else [decideWrite s (.amode r) none (bN (bit v 1)) true true]))

/-- RNG_CTL: all of its fields or none (R74); during a load RESET alone acts (6.3.1). -/
def rngCtlWrite (r : Ring) (v : Word) (s : State) : State :=
  let reset := fun (s : State) => if bit v 31 then after (execRingReset r s) s else s
  match rngCtlDecide s r v with
  | .applied => setExp .applied (reset (s.onRing r (fun y => { y with durable := bit v 0, resetOnly := bit v 1 })))
  | .busy => setExp .busy (reset s)
  | x => setExp x s

/-- TAG_CAP (R93): in force at once. -/
def tagCapWrite (r : Ring) (v : Word) (s : State) : State :=
  let n : BitVec 10 := fld v 16 10
  let x := if s.cfg.loading then .busy else if n = s.rings[r].tagCap then .applied
    else decideWrite s (.tagCap r) none n.toNat true (decide (16 ≤ n.toNat ∧ n.toNat ≤ 512))
  underExp x (fun s => pumpWheels (s.onRing r (fun y => { y with tagCap := n }))) s

/-- A ring page (Table 22-4) beyond its TRB bytes. -/
def ringWrite (r : Ring) (o : Nat) (v : Word) (s : State) : State :=
  if o = 0x40 then after (execTrbGo r v s) s
  else if o = 0x100 then rngCtlWrite r v s
  else if o = 0x104 then tagCapWrite r v s
  else if o = 0x108 then cplSetup r .baseLo v s
  else if o = 0x10C then cplSetup r .baseHi v s
  else if o = 0x110 then cplSetup r .depth v s
  else if o = 0x114 then cplHead r v s
  else if o = 0x11C then deferHead r v s
  else s

/-- A REACH monitor against the cairn's value: refused out of range, hit at once when reached, else counting down
(R162). -/
def setReach (c : Cairn) (target : Word) (f : CairnSt → CairnSt) (s : State) : State :=
  match classify target s.cairns[c].value with
  | .outOfRange => setExp .range s
  | .satisfied => setExp .applied (announcing 17 (fun s => s.onCairn c (fun x => monHit (f x))) s)
  | .ahead d => setExp .applied (s.onCairn c (fun x => { f x with monLeft := d }))

/-- CRN_CFG (R161, R162). -/
def crnCfgWrite (c : Cairn) (v : Word) (s : State) : State :=
  let x := s.cairns[c]
  let ring : Ring := ix 15 (fld v 16 4).toNat
  let f := fun (x : CairnSt) => { x with
    pubEn := bit v 31, pubFlt := x.pubFlt && !bit v 30, monMode := fld v 28 2, pubRing := ring
    pubOwed := x.pubOwed && bit v 31 }
  if fld v 28 2 = 3 ∨ (bit v 31 ∧ s.ringTenant ring ≠ x.owner) then setExp .range s
  else if fld v 28 2 = 2 then setReach c x.monTarget f s
  else setExp .applied (s.onCairn c f)

/-- A cairn record (Table 8-7); every write is refused during a load (R163). -/
def cairnWrite (c : Cairn) (o : Nat) (v : Word) (s : State) : State :=
  if s.cfg.loading then setExp .busy s
  else if o = 0x08 then crnCfgWrite c v s
  else if o = 0x0C then
    let f := fun (x : CairnSt) => { x with monTarget := v }
    if s.cairns[c].monMode = 2 then setReach c v f s else setExp .applied (s.onCairn c f)
  else if o = 0x10 then setExp .applied (s.onCairn c (fun x => { x with pubLo := fld v 3 29 }))
  else if o = 0x14 then setExp .applied (s.onCairn c (fun x => { x with pubHi := v }))
  else s

/-- The cairn block beyond the signal pages: records and CRN_MON_PEND (W1C). -/
def cairnBlockWrite (o : Nat) (v : Word) (s : State) : State :=
  if o < 0x2000 then cairnWrite (ix 127 (o / 0x40)) (o % 0x40) v s
  else if 0xA000 ≤ o ∧ o < 0xA010 then
    { s with cairns := mapBank (fun i x =>
      if i / 32 = (o - 0xA000) / 4 ∧ bit v (i % 32) then { x with monPend := false } else x) s.cairns }
  else s

/-- WHL_CFG (R167): DEPTH waits for the wheel's idle point, PF_TAGS acts at once and is ignored on an output wheel. -/
def wheelCfgWrite (w : Wheel) (v : Word) (s : State) : State :=
  let x := s.ma.wheels[w]
  let d := (fld v 16 5).toNat
  let p := (fld v 8 8).toNat
  let newD := d != (s.pendOf (.depth w)).getD x.depth.toNat
  let newP := p != x.pfTags.toNat
  let owner := some x.tenant
  let res := if s.cfg.loading then ExpRes.busy
    else if x.en = false then .closed
    else firstRefusal ((if newD then [decideWrite s (.depth w) owner d (decide (3 ≤ d)) (decide (d ≤ 16))] else [])
      ++ (if newP then [decideWrite s (.pfTags w) owner p true (x.output || decide (8 ≤ p ∧ p ≤ min 128 (8 * d)))] else []))
  underExp res (fun s =>
    let s1 := if newP then s.onWheel w (fun x => { x with pfTags := fld v 8 8 }) else s
    let s2 := if newP && x.output && p != 0 then flagWarn 1 w.val s1 else s1
    pumpWheels (if newD = false then s2
      else if s.wheelIdle w then applyDepth w d (setPend (.depth w) none s2)
      else if d = x.depth.toNat then setPend (.depth w) none s2
      else setPend (.depth w) (some d) s2)) s

/-- The wheel block. -/
def wheelBlockWrite (o : Nat) (v : Word) (s : State) : State :=
  if o < 0x1000 then (if o % 0x40 = 0 then wheelCfgWrite (ix 63 (o / 0x40)) v s else s)
  else if o = 0x1000 then orcInvWrite (fld v 0 8) s
  else s

/-- A 32-bit word of a wide register replaced. -/
def putWord {w : Nat} (x : BitVec w) (i : Nat) (v : Word) : BitVec w :=
  (x &&& ~~~ (BitVec.ofNat w (0xFFFFFFFF * 2 ^ (32 * i)))) ||| BitVec.ofNat w (v.toNat * 2 ^ (32 * i))

/-- SR_CTL (R250): OP 1 saves, OP 2 restores; any other OP only selects. -/
def srCtlWrite (v : Word) (s : State) : State :=
  let l : Lane := ix 15 (fld v 28 4).toNat
  let c : Ctx := ix 15 (fld v 24 4).toNat
  match (fld v 22 2).toNat with
  | 1 => after (execSrSave l c s) s
  | 2 => after (execSrRestore l c s) s
  | op => underExp (srDecide s l op) (fun s => { s with ma := { s.ma with srLane := l, srCtx := c } }) s

/-- The Sloe block: expected values of lanes that are not claimed (R352), and SLOE_SR. -/
def sloeBlockWrite (o : Nat) (v : Word) (s : State) : State :=
  if o < 0x1000 then
    (if 0x40 ≤ o % 0x100 ∧ o % 0x100 < 0x80 then
      s.onLane (ix 15 (o / 0x100)) (fun x => if x.keep then x else { x with expect := putWord x.expect ((o % 0x100 - 0x40) / 4) v })
    else s)
  else if o = 0xA000 then srCtlWrite v s
  else if o = 0xA010 ∨ o = 0xA014 then { s with ma := { s.ma with srLen := putWord s.ma.srLen ((o - 0xA010) / 4) v } }
  else if 0xA020 ≤ o ∧ o < 0xA060 then { s with ma := { s.ma with srState := putWord s.ma.srState ((o - 0xA020) / 4) v } }
  else s

/-- WINDOW_S (R373). -/
def windowSWrite (v : Word) (s : State) : State :=
  let n : BitVec 6 := fld v 0 6
  if 1 ≤ n.toNat ∧ n.toNat ≤ 60 then setExp .applied { s with wd := { s.wd with windowS := n } } else setExp .range s

/-- WINDOW_MS (R380): it takes effect at the channel's next restart. -/
def stallMsWrite (r : Ring) (v : Word) (s : State) : State :=
  let n : BitVec 16 := fld v 0 16
  let x := if s.cfg.loading then .busy else if n = s.rings[r].stallMs then .applied
    else decideWrite s (.stallMs r) none n.toNat true (decide (1 ≤ n.toNat ∧ n.toNat ≤ 60000))
  underExp x (fun s => s.onRing r (fun y => { y with stallMs := n })) s

/-- The watchdog block; a token written through the debug port is logged (R408). -/
def watchBlockWrite (dbg : Bool) (o : Nat) (v : Word) (s : State) : State :=
  if s.pw.rdy = false then s
  else if o = 0x00 then windowSWrite v s
  else if o = 0x0C then tokenWrite v (if dbg then dbgLog 9 s else s)
  else if 0x100 ≤ o ∧ o < 0x140 then stallMsWrite (ix 15 ((o - 0x100) / 4)) v s
  else if o = 0x200 then evtHead v s
  else s

/-- The admission block. -/
def admBlockWrite (o : Nat) (v : Word) (s : State) : State :=
  if 0x100 ≤ o ∧ o < 0x1100 ∧ o % 0x40 / 4 < 7 then svcWrite (ix 63 ((o - 0x100) / 0x40)) (ix 6 (o % 0x40 / 4)) v s else s

/-- CLK_PWR_CTL: R35's refusals, which set WRITE_REJ, and R74 for the EXPERT fields; all fields or none. A load refuses
every write of the register, which holds fields that OPEN governs (R73). -/
def clkCtlWrite (v : Word) (s : State) : State :=
  let cap := (fld v 24 8).toNat
  let place := bit v 8
  let ceil := (fld v 4 2).toNat
  let req : BitVec 2 := fld v 0 2
  let below := decide (ceil ≠ 3) && s.cfg.loaded && decide (s.cfg.bs.limits.minStep < ceil)
  let newCeil := ceil != (s.pendOf .stepCeil).getD s.pw.stepCeil.toNat
  let xCeil := if newCeil then decideWrite s .stepCeil (some 0) ceil (!below) (ceil != 3) else .applied
  let xPlace := if place = s.pw.placeEn then .applied else decideWrite s .placeEn (some 0) (bN place) true true
  let capBad := decide (cap < 120 ∨ 240 < cap)
  let x := firstRefusal [if s.cfg.loading then .busy else .applied, xCeil, xPlace, if capBad ∨ req = 3 then .range else .applied]
  let rej := capBad || req == 3 || (newCeil && (ceil == 3 || below))
  let s0 := if rej then { s with pw := { s.pw with writeRej := true } } else s
  underExp x (fun s =>
    let s1 := { s with pw := { s.pw with capW := fld v 24 8, placeEn := place } }
    let s2 := if newCeil = false then s1
      else if s.scanning then setPend .stepCeil (some ceil) s1
      else applyCeil ceil (setPend .stepCeil none s1)
    if req = s.pw.stateReq then s2 else stateReq req s2) s0

/-- PAIR_LCL of a port (Table 22-5). -/
def portWrite (p : PPort) (o : Nat) (v : Word) (s : State) : State :=
  s.onPort p (fun x =>
    if o = 0x08 then { x with ip4 := v }
    else if o = 0x0C then { x with gw4 := v }
    else if o = 0x10 then { x with prefix_ := v &&& 0xFFFF }
    else if 0x20 ≤ o ∧ o < 0x30 then { x with ip6 := putWord x.ip6 ((o - 0x20) / 4) v }
    else if 0x30 ≤ o ∧ o < 0x40 then { x with gw6 := putWord x.gw6 ((o - 0x30) / 4) v }
    else x)

/-- The Pair link block. -/
def pairBlockWrite (o : Nat) (v : Word) (s : State) : State :=
  if o < 0x100 then portWrite (ix 1 (o / 0x80)) (o % 0x80) v s
  else if o < 0x200 then peerWrite (ix 3 ((o - 0x100) / 0x40)) (o % 0x40 / 4) v s
  else s

/-- RNG_PASID (R110, 6.3.1). -/
def pasidWrite (r : Ring) (v : Word) (s : State) : State :=
  if s.cfg.loading then setExp .busy s
  else setExp .applied (s.onRing r (fun x => { x with pasidV := bit v 31, pasid := fld v 0 20 }))

/-- The ATPU block. -/
def atpuBlockWrite (o : Nat) (v : Word) (s : State) : State :=
  if o < 0x40 then pasidWrite (ix 15 (o / 4)) v s
  else if 0x100 ≤ o ∧ o < 0x500 then windowWrite (ix 63 ((o - 0x100) / 0x10)) (ix 3 (o / 4 % 4)) v s
  else s

/-- CRG_CTL of a crag (R198, R201, R202, R404): gate bits, SUSPEND and SCAN_OP, all or none. Through the debug port
SUSPEND and SCAN_OP need neither EXPERT level nor OPEN, and a scan uses the debug buffer. -/
def cragCtlWrite (dbg : Bool) (n : Crag) (v : Word) (s : State) : State :=
  let c := s.ma.crags[n]
  let gates := [(KeepUnit.crag n, (bit v 2, bit v 3))]
  let op : BitVec 2 := fld v 4 2
  let scan := op == 1 || op == 2
  let sus := bit v 0 != c.suspended
  if s.cragOff n ∨ (sus = false ∧ scan = false) then gateWrite gates s
  else
    let xs := (if sus ∧ dbg = false then [decideSuspend s n (bit v 0)] else [])
      ++ (if scan ∧ dbg = false then [decideScan s n op] else [])
    let x := if s.cfg.loading then ExpRes.busy
      else if gates.any (fun p => gateRefused s p.1 p.2) then .guarantee else firstRefusal xs
    cragWrite n x (fun s =>
      let s1 := gateWrite gates s
      let s2 := if sus then setSuspend n (bit v 0) s1 else s1
      if scan then startScan n op dbg s2 else s2) s

/-- A crag's window; writes to a claimed crag have no effect but for its gates (R352), and so for one that is
power-gated (R416). -/
def cragWindowWrite (dbg : Bool) (n : Crag) (o : Nat) (v : Word) (s : State) : State :=
  if o = 0x04 then cragCtlWrite dbg n v s
  else if o = 0x08 ∧ s.ma.crags[n].keep = false ∧ s.cragOff n = false then s.onCrag n (fun x => { x with scanAddr := v })
  else s

/-! ### The whole of BAR0 (R409 to R412, R44) -/

/-- A write of one aligned word outside the TRB bytes and the signal pages. -/
def writeWord (dbg : Bool) (off : Nat) (v : Word) (s : State) : State :=
  let b := off / 0x10000
  let o := off % 0x10000
  if b = 0 then globalWrite o v s
  else if s.pw.rdy = false then s
  else if b = 1 then ringWrite (ix 15 (o / 0x1000)) (o % 0x1000) v s
  else if b = 2 then cairnBlockWrite o v s
  else if b = 3 then wheelBlockWrite o v s
  else if b = 5 then sloeBlockWrite o v s
  else if b = 6 then watchBlockWrite dbg o v s
  else if b = 7 then admBlockWrite o v s
  else if b = 8 then (if o = 0 then clkCtlWrite v s else s)
  else if b = 9 then pairBlockWrite o v s
  else if b = 11 then atpuBlockWrite o v s
  else if 16 ≤ b ∧ b < 48 then cragWindowWrite dbg (ix 31 (b - 16)) o v s
  else s

/-- TRB bytes written (R103). -/
def trbWrite (r : Ring) (o size : Nat) (v : BitVec 512) (s : State) : State :=
  let mask : BitVec 512 := BitVec.ofNat 512 ((2 ^ (8 * size) - 1) * 2 ^ (8 * o))
  s.onRing r (fun x => { x with trb := (x.trb &&& ~~~ mask) ||| ((v <<< (8 * o)) &&& mask) })

/-- The offset lies in a tenant's signal page. -/
def inPage (off : Nat) : Bool := off / 0x10000 == 2 && decide (0x2000 ≤ off % 0x10000 ∧ off % 0x10000 < 0xA000)

/-- A write of `size` bytes to a signal page (R153). -/
def pageStore (off size : Nat) (v : Word) (s : State) : State :=
  resumeUnits (pageWrite (ix 7 ((off % 0x10000 - 0x2000) / 0x1000)) (off % 0x1000) size v s)

/-- An access that acts as aligned 4-byte words (R411). -/
def wordShape (off size : Nat) : Bool :=
  ((size == 4 || size == 8) && off % size == 0) || (decide (8 < size) && size % 4 == 0 && off % 4 == 0)

/-- A naturally aligned access of TRB bytes (R103, R411). -/
def trbShape (off size : Nat) : Bool := [1, 2, 4, 8, 16, 32, 64].contains size && off % size == 0

/-- An access of a kind R411 does not accept is counted, unless R44 keeps its block shut. -/
def badAccess (off : Nat) (s : State) : State :=
  if s.pw.rdy ∨ off / 0x10000 = 0 ∨ off / 0x10000 = 6 then { s with cfg := { s.cfg with badacc := satAdd s.cfg.badacc 1 } } else s

/-- The words of a write, in ascending order. -/
def writeWords (dbg : Bool) : Nat → Nat → BitVec 512 → State → State
  | 0, _, _, s => s
  | n + 1, off, v, s =>
    let w : Word := fld v 0 32
    let s1 := if inPage off then (if s.pw.rdy then pageStore off 4 w s else s) else writeWord dbg off w s
    writeWords dbg n (off + 4) (v >>> 32) s1

/-- A write access to BAR0. -/
def storeAt (dbg : Bool) (off size : Nat) (v : BitVec 512) (s : State) : State :=
  if s.bar0Up = false then s
  else if inTrb off then
    (if s.pw.rdy && trbShape off size then trbWrite (ix 15 (off % 0x10000 / 0x1000)) (off % 0x1000) size v s else s)
  else if inPage off && s.pw.rdy && (size == 8 || !wordShape off size) then
    let s1 := pageStore off size (fld v 0 32) s
    if wordShape off size then s1 else badAccess off s1
  else if wordShape off size then writeWords dbg (size / 4) off v s
  else badAccess off s

/-- A read access of BAR0: the value, and the state after its side effects. -/
def loadAt (off size : Nat) (s : State) : BitVec 512 × State :=
  if inTrb off then
    (if s.pw.rdy && trbShape off size then
      (BitVec.ofNat 512 (s.rings[ix 15 (off % 0x10000 / 0x1000)].trb.toNat / 2 ^ (8 * (off % 0x1000)) % 2 ^ (8 * size)), s)
     else (0, s))
  else if wordShape off size then
    let (v, s1) := readWords (size / 4) off s
    (BitVec.ofNat 512 v, s1)
  else (0, badAccess off s)

/-- REGISTER_WRITE: a host write of any register, by the register map. -/
def execRegisterWrite (off size : Nat) (v : BitVec 512) (s : State) : Host.Outcome State Fault Refusal :=
  .next (storeAt false off size v s)

/-- READ_TO_CLEAR: a host read of any register; RC fields it covers are cleared. -/
def execReadToClear (off size : Nat) (s : State) : Host.Outcome State Fault Refusal :=
  .next (if s.bar0Up = false then s
    else
      let (v, s1) := loadAt off size s
      emit (.bar0Data off v) s1)

/-- BAR0_BADACC: an access outside the TRB bytes that R411 does not accept, byte enables included. A write of that kind
to a signal page is rejected there too (R153). -/
def execBar0Badacc (write : Bool) (off size : Nat) (s : State) : Host.Outcome State Fault Refusal :=
  .next (if s.bar0Up = false ∨ inTrb off then s
    else
      let s1 := if write && inPage off && s.pw.rdy then pageStore off (if size = 4 then 3 else size) 0 s else s
      let s2 := badAccess off s1
      if write then s2 else emit (.bar0Data off 0) s2)

/-! ### ADMIN_QUERY (R421 to R423) -/

/-- Images of a tenant in the order of R423: descending STEP, then ascending IMG_ID. -/
def insImage (i : Image) : List Image → List Image
  | [] => [i]
  | j :: l => if j.step.toNat < i.step.toNat ∨ (j.step = i.step ∧ i.img.toNat ≤ j.img.toNat) then i :: j :: l
              else j :: insImage i l

/-- The 32 bytes of an image record. -/
def imageRecord (i : Image) : List Byte :=
  bytesLE 4 i.img ++ toLE 1 ((i.map.map (·.val)).getD 0xFF)
    ++ toLE 1 (bN i.sealed_ + 2 * bN i.inStage + 4 * bN i.durable + 8 * bN i.paired + 16 * bN i.tainted + 32 * bN i.copyOnly)
    ++ [0, 0] ++ bytesLE 8 i.step ++ toLE 8 (if i.durable then i.lba else 0) ++ toLE 8 i.total

/-- Words as bytes. -/
def wordBytes (ws : List Word) : List Byte := ws.flatMap (fun w => bytesLE 4 w)

/-- Zero bytes up to an offset. -/
def padTo (n : Nat) (bs : List Byte) : List Byte := bs ++ List.replicate (n - bs.length) 0

/-- Page 0. -/
def page0 (s : State) : List Byte :=
  let slotVer := fun (x : FwSlot) => if x.st = 0 then (0 : Word) else x.ver
  let a := wordBytes [devId, s.fwVer, fwSvn s.boot, s.boot.epoch] ++ bytesLE 8 Config.engineId
    ++ wordBytes [bootStatus s.boot, retStatus s, slotVer s.boot.slotA, slotVer s.boot.slotB]
  padTo 0x40 (padTo 0x30 (a ++ bytesBE 6 (Config.mac 0)) ++ bytesBE 6 (Config.mac 1)) ++ Config.serial

/-- Images of tenant `t`, in order. -/
def imagesOf (s : State) (t : Tenant) : List Image := (s.st.images.filter (fun i => i.tenant == t)).foldr insImage []

/-- Page 1 for tenant `t`: at most 124 images are listed. -/
def page1 (s : State) (t : Tenant) : List Byte :=
  let is := imagesOf s t
  let id := if s.cfg.loaded then s.cfg.loadId else 0
  padTo 0x80 (bytesLE 48 s.cfg.digest ++ bytesLE 48 s.boot.record.digest ++ bytesLE 8 id
    ++ toLE 4 is.length ++ toLE 4 (min 124 is.length)) ++ (is.take 124).flatMap imageRecord

/-- Page 2 for tenant `t`. -/
def page2 (s : State) (t : Tenant) : List Byte :=
  let tn := fun (u : Tenant) => if t = 0 ∨ u = t then wordBytes [tntWord s.tenants[u] 0, tntWord s.tenants[u] 1]
    else List.replicate 8 0
  let rg := fun (r : Ring) => if t = 0 ∨ s.ringTenant r = t then
      wordBytes [rngCtl s r, rngTag s r, img [(s.rings[r].stallMs.toNat, 0)], rngPasid s.rings[r]]
    else List.replicate 16 0
  (List.finRange 8).flatMap tn ++ (List.finRange 16).flatMap rg
    ++ wordBytes [img [(s.wd.windowS.toNat, 0)], clkPwrCtl s, img [(s.pw.mgmtCap.toNat, 0)]]

/-- Page 3. -/
def page3 (s : State) : List Byte :=
  let row := fun (f : Res → Word) => padTo 0x20 (wordBytes ((List.finRange 7).map f))
  let ports := img (s.pair.ports.toList.zipIdx.map (fun p => (bN p.1.up, p.2)))
  row (fun k => img [(s.adm[k].live.toNat, 0)]) ++ row (fun k => img [(min 0xFFFF s.adm[k].total, 0)])
    ++ row (fun k => admBreach s.adm[k])
    ++ wordBytes [clkPwrStatus s, hlStatus s, img [(s.poolFreeBlocks, 0)], img [(s.st.chInUse.toNat, 0)]
      , img [(s.st.onfi.toNat, 0)], ports, vltStatus s.st]

/-- A page for tenant `t`, 4,096 bytes. -/
def adminPage (s : State) (t : Tenant) (page : Nat) : List Byte :=
  padTo 4096 (match page with | 0 => page0 s | 1 => page1 s t | 2 => page2 s t | _ => page3 s)

/-- ADMIN_QUERY at the head. -/
def adminAct (r : Ring) (c : Cmd) (s : State) : State :=
  let page := c.f 0x10 1
  let t := s.ringTenant r
  let dest := c.f 0x18 8
  withWrites (s.cmdKey r c) (hostPages ((List.range 64).map (fun i => dest + 64 * i))) (fun s =>
    let beats := (toBeats (adminPage s t page)).map (fun d => ({ data := d } : Beat))
    let (bad, s1) := hostWrites (s.cmdKey r c) dest beats 4096 {} (effectOf r c.cid s)
    match s1.rings[r].find c.cid with
    | some c1 => pushEntry r c1 (bad.outc page (if page = 1 then min 124 (imagesOf s t).length else 0)) s1
    | none => s1) s

def execAdminQuery (r : Ring) (s : State) : Host.Outcome State Fault Refusal :=
  .next (headStep r 0x4F (adminAct r) s)

end Sys2Proof.Machine
end

