-- ==== Sys2Proof/Machine/DebugCmds.lean ====
section
/-! DEFINITION. Debug access (21): the TAP's instructions, DBG_XFER accesses in their three spaces, authorisation, the
inspect alias, and halting the Steward. -/

namespace Sys2Proof.Machine

/-! ### The TAP (R398) -/

/-- An instruction is shifted in: the TAP runs from 3.3 Vaux, in every power state. -/
def tapSelect (code : Byte) (f : State → State) (s : State) : State :=
  if s.pw.vauxOn = false then s else f { s with dbg := { s.dbg with ir := code } }

/-- TAP_IDCODE. -/
def execTapIdcode (s : State) : Host.Outcome State Fault Refusal :=
  .next (tapSelect 0x01 (emit (.tdo 0x1B320B9F)) s)

/-- TAP_SAMPLE_PRELOAD: the boundary register takes the sideband pins. The spec gives its cells no order, so what it
takes is a free value. -/
def execTapSamplePreload (s : State) : Host.Outcome State Fault Refusal :=
  .next (tapSelect 0x02 (fun s =>
    let (x, s1) := draw s
    emit (.tdo (x.zeroExtend 72)) { s1 with dbg := { s1.dbg with boundary := x } }) s)

/-- TAP_EXTEST: the sideband pins are driven from the boundary register. -/
def execTapExtest (boundary : Word) (s : State) : Host.Outcome State Fault Refusal :=
  .next (tapSelect 0x00 (fun s => emit (.pin "EXTEST" true) { s with dbg := { s.dbg with boundary := boundary } }) s)

/-- TAP_BYPASS: any code that names no other register selects the bypass register. -/
def execTapBypass (code : Byte) (s : State) : Host.Outcome State Fault Refusal :=
  .next (if code = 0x00 ∨ code = 0x01 ∨ code = 0x02 ∨ code = 0x21 then s else tapSelect code (emit (.tdo 0)) s)

/-! ### DBG_XFER (Table 21-3) -/

/-- STATUS codes. -/
inductive DbgSt where
  | ok | denied | addr | unpowered | busy
  deriving DecidableEq, Repr

def DbgSt.code : DbgSt → BitVec 4
  | .ok => 0 | .denied => 2 | .addr => 3 | .unpowered => 4 | .busy => 5

/-- What Capture-DR shows of the previous access. -/
def capture72 (d : Debug) : BitVec 72 :=
  BitVec.ofNat 72 (d.op.toNat + d.status.toNat % 4 * 4 + d.status.toNat / 4 * 16 + d.addr.toNat * 2 ^ 8 + d.data.toNat * 2 ^ 40)

/-- DBG_XFER works from t0 + 15 ms in every state but DEEP, where it answers UNPOWERED. -/
def State.dbgWorks (s : State) : Bool :=
  match s.pw.phase with
  | .bringUp => s.boot.up
  | .ready | .recovery | .deep => true
  | _ => false

/-- An access's answer; what DATA shows after one that reads nothing is a free value. -/
def dbgDone (op : BitVec 2) (addr : Nat) (st : DbgSt) (data : Option Word) (s : State) : State :=
  let (x, s1) := match data with | some v => (v, s) | none => draw s
  { s1 with dbg := { s1.dbg with op := op, status := st.code, addr := BitVec.ofNat 32 addr, data := x } }

/-- One DBG_XFER access: the capture of the previous one leaves, then this one runs. -/
def dbgXfer (op : BitVec 2) (addr : Nat) (f : State → DbgSt × Option Word × State) (s : State) : State :=
  if s.pw.vauxOn = false ∨ s.dbgWorks = false then s
  else
    let s1 := tapSelect 0x21 (fun s => emit (.tdo (capture72 s.dbg)) s) s
    if s1.pw.phase = .deep then dbgDone op addr .unpowered none s1
    else
      let (st, v, s2) := f s1
      dbgDone op addr st v s2

/-! ### Sessions (R399, R400) -/

/-- The Steward goes on where it stopped: held resources are released, and what waited for them runs (R407). -/
def resumeSteward (s : State) : State :=
  if s.dbg.halted = false then s
  else
    let s1 := dbgLog 8 { s with dbg := { s.dbg with halted := false, forced := false, held := 0, heldRing := 0, winWait := [] } }
    pumpWheels (s.dbg.winWait.foldl (fun s x => windowApply x.1 x.2.1 x.2.2 s) s1)

/-- LIVE_READ takes a value; a change is logged (R403). -/
def setLive (on : Bool) (s : State) : State :=
  if s.dbg.live = on then s else dbgLog (if on then 4 else 5) { s with dbg := { s.dbg with live := on } }

/-- The session ends: LIVE_READ and HALT clear and the level returns to NONE (R400). -/
def endSession (s : State) : State :=
  let s1 := dbgLog 2 (setLive false (resumeSteward { s with dbg := { s.dbg with haltPend := false } }))
  { s1 with dbg := { s1.dbg with level := 0 } }

/-- AUTH starts the Keep's verification; a new nonce is drawn (R399). -/
def startAuth (s : State) : State :=
  let (a, s1) := draw s
  let (b, s2) := draw s1
  let (c, s3) := draw s2
  let (d, s4) := draw s3
  { s4 with dbg := { s4.dbg with authBusy := true, nonce := d ++ c ++ b ++ a } }

/-- HALT takes a value: a request to halt, its cancellation, or a resume (R405, R407, 21.4.1). -/
def setHalt (on : Bool) (s : State) : State :=
  if on then (if s.dbg.halted then s else { s with dbg := { s.dbg with haltPend := true } })
  else resumeSteward { s with dbg := { s.dbg with haltPend := false } }

/-- A write of DBG_CTL: below CONTROL LIVE_READ and HALT cannot be set, at NONE only AUTH is reachable. -/
def dbgCtlWrite (v : Word) (s : State) : DbgSt × State :=
  let auth := bit v 31
  if s.dbg.level = 0 then
    (if auth = false then (.denied, s) else if s.dbg.authBusy then (.busy, s) else (.ok, startAuth s))
  else if s.dbg.level = 1 ∧ (bit v 1 ∨ bit v 0) then (.denied, s)
  else if auth ∧ s.dbg.authBusy then (.busy, s)
  else
    let s1 := if bit v 30 then endSession s
      else if s.dbg.level = 2 then setHalt (bit v 0) (setLive (bit v 1) s) else s
    (.ok, if auth then startAuth s1 else s1)

/-- The token's fields and the Keep's verdicts admit the session (R399). -/
def tokenOk (s : State) (certOk sigOk : Bool) : Bool :=
  let f := fun (o n : Nat) => natLE (readBytes s.dbg.token o n)
  certOk && sigOk && f 0 8 == Config.engineId.toNat && (f 8 1 == 1 || f 8 1 == 2) && f 12 4 == s.boot.epoch.toNat
    && decide (f 16 4 ≤ 2048)

/-- DBG_AUTH_COMPLETE: the session takes LEVEL, or a failure is counted; the third locks the port until a reset. -/
def execDbgAuthComplete (certOk sigOk : Bool) (s : State) : Host.Outcome State Fault Refusal :=
  .next (if s.dbg.authBusy = false ∨ s.pw.phase = .holdUp then s
    else
      let s1 := { s with dbg := { s.dbg with authBusy := false } }
      if tokenOk s certOk sigOk && !s.dbg.locked then
        dbgLog 1 { s1 with dbg := { s1.dbg with level := BitVec.ofNat 2 (readByte s.dbg.token 8).toNat } }
      else
        let n : BitVec 2 := if s.dbg.authFails = 3 then 3 else s.dbg.authFails + 1
        dbgLog 3 { s1 with dbg := { s1.dbg with authFails := n, locked := s.dbg.locked || n == 3 } })

/-! ### The three spaces (R402, R403, Tables 21-4, 21-6) -/

/-- A READ of SPACE 0: the inspect alias, or a live read; the salt reads at CONTROL (R371). -/
def readSpace0 (addr : Nat) (s : State) : DbgSt × Option Word × State :=
  if s.dbg.level = 0 then (.denied, none, s)
  else if addr % 4 ≠ 0 ∨ 0x4000000 ≤ addr then (.addr, none, s)
  else
    let v : Word := if addr = 0x60014 then (if s.dbg.level = 2 then s.wd.salt else 0) else regWord s addr
    (.ok, some v, if s.dbg.live then (loadAt addr 4 s).2 else s)

/-- A WRITE of SPACE 0: a host write, at CONTROL. -/
def writeSpace0 (addr : Nat) (v : Word) (s : State) : DbgSt × Option Word × State :=
  if s.dbg.level ≠ 2 then (.denied, none, s)
  else if addr % 4 ≠ 0 ∨ 0x4000000 ≤ addr then (.addr, none, s)
  else (.ok, none, storeAt true addr 4 (v.zeroExtend 512) s)

/-- A READ of a debug register. -/
def readSpace1 (addr : Nat) (s : State) : DbgSt × Option Word × State :=
  let d := s.dbg
  if addr = 0x00 then (.ok, some (img [(bN d.authBusy, 31), (bN d.live, 1), (bN (d.halted || d.haltPend), 0)]), s)
  else if addr = 0x04 then (.ok, some (dbgStatus d), s)
  else if 0x10 ≤ addr ∧ addr < 0x20 ∧ addr % 4 = 0 then (.ok, some (wordOf d.nonce ((addr - 0x10) / 4)), s)
  else if d.level = 0 then (.denied, none, s)
  else if 0x20 ≤ addr ∧ addr < 0x30 ∧ addr % 4 = 0 then
    let c := s.ma.captures[ix 3 ((addr - 0x20) / 4)]
    (.ok, some (img [(bN c.valid, 31), (if c.valid then c.num % 2 ^ 31 else 0, 0)]), s)
  else (.addr, none, s)

/-- A WRITE of a debug register: DBG_CTL is the one that takes it. -/
def writeSpace1 (addr : Nat) (v : Word) (s : State) : DbgSt × Option Word × State :=
  if addr = 0x00 then
    let (st, s1) := dbgCtlWrite v s
    (st, none, s1)
  else if addr = 0x04 ∨ (0x10 ≤ addr ∧ addr < 0x20 ∧ addr % 4 = 0) then (.ok, none, s)
  else if s.dbg.level = 0 then (.denied, none, s)
  else if 0x20 ≤ addr ∧ addr < 0x30 ∧ addr % 4 = 0 then (.ok, none, s)
  else (.addr, none, s)

/-- The word of a buffer held as bytes. -/
def bufWord (m : List Host.Cell) (o : Nat) : Word := ofBytes 32 (readBytes m o 4)

/-- A READ of SPACE 2. -/
def readSpace2 (addr : Nat) (s : State) : DbgSt × Option Word × State :=
  let i := (addr - 0x1000000) / 0x200000
  let o := (addr - 0x1000000) % 0x200000
  if addr < 0x1000 ∨ s.dbg.level = 0 then (.denied, none, s)
  else if addr % 4 ≠ 0 then (.addr, none, s)
  else if 0x100000 ≤ addr ∧ addr < 0x100000 + scanLen then (.ok, some (bufWord s.ma.debugBuf (addr - 0x100000)), s)
  else if 0x1000000 ≤ addr ∧ i < 4 ∧ o < scanLen then (.ok, some (bufWord s.ma.captures[ix 3 i].image o), s)
  else (.addr, none, s)

/-- A WRITE of SPACE 2: the token buffer at any level, the debug buffer at CONTROL. -/
def writeSpace2 (addr : Nat) (v : Word) (s : State) : DbgSt × Option Word × State :=
  if addr < 0x1000 then
    (if addr % 4 = 0 then (.ok, none, { s with dbg := { s.dbg with token := writeBytes addr (bytesLE 4 v) s.dbg.token } })
     else (.addr, none, s))
  else if s.dbg.level = 0 then (.denied, none, s)
  else if addr % 4 ≠ 0 then (.addr, none, s)
  else if 0x100000 ≤ addr ∧ addr < 0x100000 + scanLen then
    (if s.dbg.level = 2 then
      (.ok, none, { s with ma := { s.ma with debugBuf := writeBytes (addr - 0x100000) (bytesLE 4 v) s.ma.debugBuf } })
     else (.denied, none, s))
  else if 0x1000000 ≤ addr ∧ (addr - 0x1000000) / 0x200000 < 4 ∧ (addr - 0x1000000) % 0x200000 < scanLen then (.denied, none, s)
  else (.addr, none, s)

/-- DBG_READ. -/
def execDbgRead (space : Fin 3) (addr : Nat) (s : State) : Host.Outcome State Fault Refusal :=
  .next (dbgXfer 1 addr (fun s => match space.val with
    | 0 => readSpace0 addr s
    | 1 => readSpace1 addr s
    | _ => readSpace2 addr s) s)

/-- A WRITE. -/
def dbgStore (space addr : Nat) (v : Word) (s : State) : State :=
  dbgXfer 2 addr (fun s => match space with
    | 0 => writeSpace0 addr v s
    | 1 => writeSpace1 addr v s
    | _ => writeSpace2 addr v s) s

def execDbgWrite (space : Fin 3) (addr : Nat) (v : Word) (s : State) : Host.Outcome State Fault Refusal :=
  .next (dbgStore space.val addr v s)

/-- DBG_NOP: no access; the previous result leaves at Capture-DR and stands. -/
def execDbgNop (s : State) : Host.Outcome State Fault Refusal :=
  .next (if s.pw.vauxOn = false ∨ s.dbgWorks = false then s
    else
      let s1 := tapSelect 0x21 (fun s => emit (.tdo (capture72 s.dbg)) s) s
      { s1 with dbg := { s1.dbg with op := 0 } })

/-! ### Commands that are writes of DBG_CTL -/

/-- DBG_CTL's RW fields as they stand. -/
def ctlNow (d : Debug) : Word := img [(bN d.live, 1), (bN (d.halted || d.haltPend), 0)]

/-- DBG_AUTH. -/
def execDbgAuth (s : State) : Host.Outcome State Fault Refusal := .next (dbgStore 1 0 (setBit (ctlNow s.dbg) 31 true) s)

/-- DBG_END. -/
def execDbgEnd (s : State) : Host.Outcome State Fault Refusal := .next (dbgStore 1 0 (setBit (ctlNow s.dbg) 30 true) s)

/-- LIVE_READ. -/
def execLiveRead (on : Bool) (s : State) : Host.Outcome State Fault Refusal :=
  .next (dbgStore 1 0 (setBit (ctlNow s.dbg) 1 on) s)

/-- HALT. -/
def execHalt (s : State) : Host.Outcome State Fault Refusal := .next (dbgStore 1 0 (setBit (ctlNow s.dbg) 0 true) s)

/-- RESUME. -/
def execResume (s : State) : Host.Outcome State Fault Refusal := .next (dbgStore 1 0 (setBit (ctlNow s.dbg) 0 false) s)

/-! ### The halt itself (R405) -/

/-- STEWARD_HALTED: a deferred halt reaches its boundary. -/
def execStewardHalted (s : State) : Host.Outcome State Fault Refusal :=
  .next (if s.dbg.haltPend = false ∨ s.pw.phase = .holdUp then s
    else dbgLog 6 { s with dbg := { s.dbg with haltPend := false, halted := true } })

/-- HALT_FORCED: 4,096 CLK_CTL cycles have passed; the resources still held are marked. -/
def execHaltForced (held : BitVec 6) (r : Ring) (s : State) : Host.Outcome State Fault Refusal :=
  .next (if s.dbg.haltPend = false ∨ s.pw.phase = .holdUp then s
    else dbgLog 7 { s with dbg := { s.dbg with
      haltPend := false, halted := true, forced := true, held := held
      heldRing := if bit held 0 then BitVec.ofNat 4 r.val else 0 } })

end Sys2Proof.Machine
end

