-- ==== Sys2Proof/Machine/RowanCmds.lean ====
section
/-! DEFINITION. The transfers a bit-stream defines for the standalone Rowan engines (11): pre-pass, gather and scatter,
and ROWAN_TRANSFER. -/

namespace Sys2Proof.Machine

/-! ### Whose transfer it is (Table 11-2, R223) -/

/-- The wheels a transfer reads or writes. -/
def xferWheels (x : XferSec) : List Wheel :=
  (if x.rd.space = 2 then [ix 63 x.rd.base] else []) ++ (if x.wd.space = 2 then [ix 63 x.wd.base] else [])

/-- The command that drives a transfer of the bit-stream: the started one of its ring whose program reads or fills the
transfer's wheel. A transfer between two memories has none (DESIGN CHOICE, LOG 110). -/
def xferCmd (s : State) (x : XferSec) : Option Cmd :=
  (s.rings[x.ring].queue ++ s.rings[x.ring].past).find? (fun c =>
    c.started && (xferWheels x).any (fun w => s.usesCrag s.ma.wheels[w].crag x.ring c))

/-- The key of a transfer's accesses: its ring's tenant, with the PASID of the driving command or ring (R223). -/
def xferKey (s : State) (x : XferSec) : Key :=
  match xferCmd s x with | some c => s.cmdKey x.ring c | none => s.ringKey x.ring

/-- The TRB offset of the field that supplies a command's descriptors (R214): SRC or MAP. -/
def supplier (c : Cmd) : Nat :=
  match c.op with | 0x11 => 0x18 | 0x13 => 0x1C | _ => 0x10

/-- Failed beats of a transfer stand on the command it serves (R176, R224). -/
def blameXfer (x : XferSec) (b : Bad) (s : State) : State :=
  match xferCmd s x with
  | none => s
  | some c => if b.n = 0 then s else modCmd x.ring c.cid (fun c => { c with
      tainted := true, badBeats := c.badBeats + b.n, badFirst := c.badFirst.orElse (fun _ => b.first)
      badCause := if b.timeout then some .timeout else c.badCause.orElse (fun _ => some .link) }) s

/-! ### Reads of host and peer memory (R91, R223) -/

/-- The beat at a position of an engine's plan has come, or its read is in flight. -/
def State.xferAsked (s : State) (e : Eng) (i : Nat) : Bool :=
  s.ma.rowan[e].got.any (fun p => p.1 == i) || s.link.reads.any (fun q => match q.what with
    | .xfer n f => n == e && decide (f ≤ i ∧ i < f + q.beats)
    | _ => false)

/-- Beats whose check fails come back failed at once, each logged; one without a translation asks for it (R94, R99). -/
def judgeXfer (e : Eng) (k : Key) (plan : List Nat) (s : State) : State :=
  plan.zipIdx.foldl (fun s p =>
    if s.xferAsked e p.2 then s
    else match s.fate k p.1 false true with
      | .fail w => keyFlt k p.1 w false (s.onRowan e (fun y => { y with got := y.got ++ [(p.2, .bad w)] }))
      | .wait => askTranslation k p.1 false s
      | .go .. => s) s

/-- An engine short of a tag (R92, Table 11-5): it counts with its ring, and the command it serves is DELAYED. -/
def stallXfer (e : Eng) (x : XferSec) (cap : Bool) (s : State) : State :=
  let s1 := s.onRowan e (fun y => { y with stall := satAdd y.stall 1 })
  match xferCmd s x with
  | some c => stallForTag x.ring c.cid cap s1
  | none => s1.onRing x.ring (fun y =>
      if cap then { y with stallCap := satAdd y.stallCap 1 } else { y with stallPool := satAdd y.stallPool 1 })

/-- The reads of an engine leave as far as its ring's cap and the pool allow (R91). -/
def issueXfer (e : Eng) (x : XferSec) (k : Key) (plan : List Nat) : Nat → State → State
  | 0, s => s
  | fuel + 1, s =>
    match plan.zipIdx.filter (fun p => !s.xferAsked e p.2 &&
        (match s.fate k p.1 false true with | .go .. => true | _ => false)) with
    | [] => s
    | (a, i) :: rest => match tagStall s x.ring with
      | some cap => stallXfer e x cap s
      | none => issueXfer e x k plan fuel
          (sendRead k (.xfer e i) a (readRun (min 512 s.link.maxRead) ((a, i) :: rest)) false s)

/-- The reads of a plan, as far as they go; the beats once every one is there. -/
def xferGather (e : Eng) (x : XferSec) (plan : List Nat) (s : State) : Option (List (Nat × Got)) × State :=
  let k := xferKey s x
  let s0 := if s.ma.rowan[e].plan = plan then s else s.onRowan e (fun y => { y with plan := plan, got := [] })
  let s1 := takeDenials k false (issueXfer e x k plan (plan.length + 1) (judgeXfer e k plan s0))
  let got := s1.ma.rowan[e].got
  if plan.zipIdx.all (fun p => got.any (fun g => g.1 == p.2)) then
    (some (plan.zipIdx.map (fun p => (p.1, ((got.find? (fun g => g.1 == p.2)).map (·.2)).getD (.bad .link)))), s1)
  else (none, s1)

/-! ### The pre-pass (R218 to R220) -/

/-- What a pre-pass comes to. -/
inductive PrePass where
  | wait | poisoned (addr : Nat) | rejected (pos reason : Nat) | done (idx : List Nat)
  deriving DecidableEq, Repr

/-- An index tensor's beats, judged: poison anywhere stops it; every entry is checked. -/
def judgeIndex (d : Desc) (scatter : Bool) (bs : List (Nat × Beat)) : PrePass :=
  match bs.find? (fun p => p.2.psn) with
  | some p => .poisoned p.1
  | none =>
    let n := d.ext.getD (d.gdim.getD 0) 0
    let isize := 2 ^ d.isize.val
    let idx := indexOf isize n ((bs.flatMap (fun p => bytesLE 64 p.2.data)).drop (d.ibase % 64))
    match badIndex d.bound scatter idx with
    | some (p, why) => .rejected p why
    | none => .done idx

/-- The pre-pass of one indexed side: a STATIC table was checked by gensar; a RUNTIME tensor is read once, under the
ring's checks (R219). -/
def prePass (e : Eng) (x : XferSec) (d : Desc) (scatter : Bool) (s : State) : PrePass × State :=
  match d.gdim with
  | none => (.done [], s)
  | some k =>
    let plan := spanPlan d.ibase (2 ^ d.isize.val * d.ext.getD k 0)
    match d.isrc.val with
    | 0 => (.done (s.cfg.bs.indexTables.getD d.ibase []), s)
    | 1 => match xferGather e x plan s with
      | (none, s1) => (.wait, s1)
      | (some gs, s1) => (judgeIndex d scatter (gs.map (fun g => (g.1,
          (match g.2 with | .ok b => { data := b } | .bad _ => { psn := true } : Beat)))), s1)
    | _ =>
      let (_, bs, s1) := stagingReads (xferKey s x) plan s
      (judgeIndex d scatter (plan.zip bs), s1)

/-! ### Reading elements (R212, R223, R224) -/

/-- An element on its way: its bytes, whether its read failed, and whether it carries poison. -/
structure Moved where
  bytes : List Byte
  failed : Bool := false
  psn : Bool := false
  deriving DecidableEq, Repr

/-- Elements of a staging side; a failed one is zero, a poisoned one undefined (R173, R224). -/
def readStaging (k : Key) (size : Nat) (addrs : List Nat) (s : State) : List Moved × State :=
  addrs.foldl (fun (acc : List Moved × State) a =>
    let s := acc.2
    if inWindows s k.tenant a size then
      if (spanPlan a size).any (fun b => s.st.memBad.contains (b / 64)) then
        let (d, s1) := drawBeat s
        (acc.1 ++ [{ bytes := bytesLE size d, psn := true }], s1)
      else (acc.1 ++ [{ bytes := readBytes s.st.mem a size }], s)
    else (acc.1 ++ [{ bytes := List.replicate size 0, failed := true, psn := true }], keyFlt k a .window false s)) ([], s)

/-- Elements of a host or peer side, from the beats its reads brought. -/
def cutHost (size : Nat) (addrs : List Nat) (gs : List (Nat × Got)) : List Moved :=
  addrs.map (fun a =>
    let bs := (spanPlan a size).map (fun b => ((gs.find? (fun p => p.1 == b)).map (·.2)).getD (.bad .link))
    if bs.any (fun g => match g with | .bad _ => true | .ok _ => false) then
      { bytes := List.replicate size 0, failed := true, psn := true }
    else { bytes := ((bs.flatMap (fun g => match g with | .ok d => bytesLE 64 d | .bad _ => [])).drop (a % 64)).take size })

/-- Elements of a wheel side: a beat's mark applies to every element of it (11.7.1). -/
def cutWheel (size n : Nat) (bs : List Beat) : List Moved :=
  let bytes := (bs.flatMap (fun b => bytesLE 64 b.data)).toArray
  let marks := (bs.map (·.psn)).toArray
  (List.range n).map (fun i =>
    { bytes := (List.range size).map (fun j => (bytes[size * i + j]?).getD 0), psn := (marks[size * i / 64]?).getD false })

/-- The read side of a transfer; none while beats are still to come. -/
def readSide (e : Eng) (x : XferSec) (idx : List Nat) (s : State) : Option (List Moved) × State :=
  let n := Desc.count x.rd
  let size := Desc.size x.rd
  let addrs := (List.range n).map (elemAddr x.rd (if x.rd.gdim.isSome then idx else []))
  match x.rd.space.val with
  | 0 => match xferGather e x ((addrs.flatMap (fun a => spanPlan a size)).eraseDups) s with
    | (some gs, s1) => (some (cutHost size addrs gs), s1)
    | (none, s1) => (none, s1)
  | 1 => let (els, s1) := readStaging (xferKey s x) size addrs s; (some els, s1)
  | _ =>
    let s1 := pumpWheels s
    let bs := s1.ma.rowan[e].inp
    if ceilDiv (n * size) 64 ≤ bs.length then (some (cutWheel size n bs), s1) else (none, s1)

/-- The failing addresses of a read side, beat by beat (R129, R176). -/
def readBad (x : XferSec) (idx : List Nat) (els : List Moved) : Bad :=
  if x.rd.space = 2 then {}
  else
    let bad := (els.zipIdx.filter (fun p => p.1.psn)).map (fun p => elemAddr x.rd (if x.rd.gdim.isSome then idx else []) p.2)
    { first := bad.head?, n := ((bad.map (· / 64)).eraseDups).length }

/-! ### Writing elements and leaving the engine -/

/-- The transfer leaves its engine: the next one moves up; its signal is applied with `ok` (R210). -/
def leaveEngine (e : Eng) (x : XferSec) (ok : Bool) (s : State) : State :=
  let t := s.ringTenant x.ring
  let s1 := s.onRowan e (·.next)
  let s2 := match x.signal with
    | some (c, add) => if ok then signalFrom t c 4 e.val add s1 else s1
    | none => s1
  resumeUnits (assignXfers s2.ma.xferWait.length s2)

/-- A refused or poisoned pre-pass: no data moves, the count rises, and the command that drives the transfer completes
with its streams dropped (R214, R220). -/
def rejectXfer (e : Eng) (x : XferSec) (o : Cmd → Outc) (s : State) : State :=
  let s1 := s.onRowan e (fun y => { y with idxRej := satAdd y.idxRej 1 })
  let s2 := match xferCmd s1 x with
    | some c => removeStreams c.cid (leaveEngines c.cid (pushEntry x.ring c (o c) s1))
    | none => s1
  leaveEngine e x false s2

/-- The elements reach a memory side in tile and run order (R216); none while a frozen page waits for its copy (R265) or
a page for its translation (R94). -/
def writeMemory (e : Eng) (x : XferSec) (idx : List Nat) (els : List Moved) (s : State) : Option (Bad × State) × State :=
  let staging := x.wd.space == 1
  let k := xferKey s x
  let runs := tileWrites x.wd.ext (contiguous x.wd)
    (els.zipIdx.map (fun p => (elemAddr x.wd (if x.wd.gdim.isSome then idx else []) p.2, p.1.bytes, p.1.psn)))
  let put := fun (s : State) =>
    let (b, lost, s1) := writeElems k staging (Desc.size x.wd) (x.rd.space == 2) runs {} s
    some (b, s1.onRowan e (fun y => { y with elemFlt := satAdd y.elemFlt lost }))
  if staging then
    match copyPages (elemPages runs) s with
    | none => (none, s)
    | some s1 => (put s1, s1)
  else match writesJudged k (hostPages (runs.map (·.1))) s with
    | (false, s1) => (none, s1)
    | (true, s1) => ((put s1).map (fun p => (p.1, takeDenials k true p.2)), s1)

/-- A transfer that writes a wheel leaves once its beats have all entered it. -/
def settleFill (e : Eng) (x : XferSec) (s : State) : State :=
  let s1 := pumpWheels s
  if s1.ma.rowan[e].out = [] then leaveEngine e x true s1
  else s1.onRowan e (fun y => { y with stall := satAdd y.stall 1 })

/-- The transfer at the head of an engine whose wait is over and whose indices are known runs (R210, R212, R223, R224);
Sloe takes the elements between its sides (Table 12-2). -/
def runXfer (e : Eng) (x : XferSec) (idx : List Nat) (s : State) : State :=
  if s.ma.rowan[e].moved then settleFill e x s
  else match readSide e x idx s with
    | (none, s1) => s1
    | (some els, s1) =>
      if tapFull s1 [.rowan e] then countTapStall [.rowan e] s1
      else
        let bad := (els.zipIdx.filter (fun p => p.1.psn)).map (fun p => p.2 * Desc.size x.rd / 64)
        let beats := elementBeats (els.flatMap (·.bytes)) bad
        let own := (xferCmd s1 x).map (fun c => (x.ring, c.cid))
        let count := fun (s : State) => countElems e els.length (els.filter (·.failed)).length
          (blameXfer x (readBad x idx els) (snoopRun (.rowan e) beats own s))
        if x.wd.space.val = 2 then
          settleFill e x ((count s1).onRowan e (fun y => { y with moved := true, out := beats.map (·.1) }))
        else match writeMemory e x idx els s1 with
          | (none, s2) => s2
          | (some (b, s2), _) => leaveEngine e x true (blameXfer x b (count s2))

/-- The pre-pass of a transfer, then the transfer (R219, R220). -/
def prePassThenRun (e : Eng) (x : XferSec) (s : State) : State :=
  let (d, scatter) := if x.wd.gdim.isSome then (x.wd, true) else (x.rd, false)
  match prePass e x d scatter s with
  | (.wait, s1) => s1.onRowan e (fun y => { y with st := 2 })
  | (.poisoned a, s1) => rejectXfer e x (fun _ => { status := stPOISONED, d0 := a, d1 := 1, tainted := true }) s1
  | (.rejected p why, s1) => rejectXfer e x (fun c => { status := stRANGE, d0 := supplier c, d1 := why })
      (s1.onRowan e (fun y => { y with idxPos := BitVec.ofNat 32 p }))
  | (.done idx, s1) => runXfer e x idx (s1.onRowan e (fun y => { y with
      st := 1, index := idx, crossed := crossed x, plan := [], got := [] }))

/-- The wait a transfer carries is presented once, before its first access (R210, R157). -/
def presentWait (e : Eng) (w : Cairn × Word × WaitMode) (s : State) : State :=
  let s1 := s.onRowan e (fun y => { y with queue := match y.queue with
    | x :: rest => { x with presented := true } :: rest
    | [] => [] })
  let hold := fun (left : Option Nat) => { s1 with ma := { s1.ma with waits := s1.ma.waits ++
    [{ unit := .rowan e, cairn := w.1, target := w.2.1, mode := w.2.2, left := left }] } }
  match classify w.2.1 s.cairns[w.1].value with
  | .satisfied => s1
  | .ahead d => hold (some d)
  | .outOfRange => raiseEvent 0x0403 (BitVec.ofNat 8 (32 + e.val)) (BitVec.ofNat 32 w.1.val) w.2.1 (hold none)

/-- ROWAN_TRANSFER: a transfer of the bit-stream at the head of an engine's queue goes as far as its wait, its index
tensor, its tags and its wheels let it (R209, R210). A command's transfers run with their command. -/
def execRowanTransfer (e : Eng) (s : State) : Host.Outcome State Fault Refusal :=
  .next (match s.ma.rowan[e].queue with
    | [] => s
    | j :: _ =>
      if s.pw.rdy = false ∨ s.pw.phase ≠ .ready ∨ s.cfg.loaded = false ∨ s.ma.rowan[e].fenced ∨ j.own.isSome then s
      else
        let s0 := wake s
        let s1 := match j.x.wait with
          | some w => if j.presented then s0 else presentWait e w s0
          | none => s0
        if s1.ma.waits.any (fun w => w.unit == .rowan e) then s1.onRowan e (fun y => { y with st := 3 })
        else if s1.ma.rowan[e].st = 1 then runXfer e j.x s1.ma.rowan[e].index s1
        else prePassThenRun e j.x s1)

end Sys2Proof.Machine
end

