-- ==== Sys2Proof/Machine/Dispatch.lean ====
section
/-! DEFINITION. The dispatch of the commands: one arm per constructor of Instr, in the order of the opcode table. -/

namespace Sys2Proof.Machine

def exec (i : Instr) (s : State) : Host.Outcome State Fault Refusal :=
  match i with
  | .trbGo r v => Sys2Proof.Machine.execTrbGo r v s
  | .writeSectors r => Sys2Proof.Machine.execWriteSectors r s
  | .readSectors r => Sys2Proof.Machine.execReadSectors r s
  | .flush r => Sys2Proof.Machine.execFlush r s
  | .fence r => Sys2Proof.Machine.execFence r s
  | .signal r => Sys2Proof.Machine.execSignal r s
  | .wait r => Sys2Proof.Machine.execWait r s
  | .snapBegin r => Sys2Proof.Machine.execSnapBegin r s
  | .snapRange r => Sys2Proof.Machine.execSnapRange r s
  | .snapSeal r => Sys2Proof.Machine.execSnapSeal r s
  | .imageDurable t img => Sys2Proof.Machine.execImageDurable t img s
  | .restore r => Sys2Proof.Machine.execRestore r s
  | .reshard r => Sys2Proof.Machine.execReshard r s
  | .digestVerify r => Sys2Proof.Machine.execDigestVerify r s
  | .pairSync r => Sys2Proof.Machine.execPairSync r s
  | .pairTakeover r => Sys2Proof.Machine.execPairTakeover r s
  | .abortTag r => Sys2Proof.Machine.execAbortTag r s
  | .loadBitstream r g => Sys2Proof.Machine.execLoadBitstream r g s
  | .sanitise r => Sys2Proof.Machine.execSanitise r s
  | .format r => Sys2Proof.Machine.execFormat r s
  | .adminQuery r => Sys2Proof.Machine.execAdminQuery r s
  | .completionEntryWrite r => Sys2Proof.Machine.execCompletionEntryWrite r s
  | .cplHeadWrite r v => Sys2Proof.Machine.execCplHeadWrite r v s
  | .cplRingSetup r reg v => Sys2Proof.Machine.execCplRingSetup r reg v s
  | .cplRingSetupTakesEffect r => Sys2Proof.Machine.execCplRingSetupTakesEffect r s
  | .ringReset r => Sys2Proof.Machine.execRingReset r s
  | .ringResetEnd r => Sys2Proof.Machine.execRingResetEnd r s
  | .deferHeadWrite r v => Sys2Proof.Machine.execDeferHeadWrite r v s
  | .evtHeadWrite v => Sys2Proof.Machine.execEvtHeadWrite v s
  | .readToClear off size => Sys2Proof.Machine.execReadToClear off size s
  | .registerWrite off size v => Sys2Proof.Machine.execRegisterWrite off size v s
  | .expertWriteTakesEffect f => Sys2Proof.Machine.execExpertWriteTakesEffect f s
  | .bar0Badacc write off size => Sys2Proof.Machine.execBar0Badacc write off size s
  | .expertArm t v => Sys2Proof.Machine.execExpertArm t v s
  | .expertUnlock t v => Sys2Proof.Machine.execExpertUnlock t v s
  | .expertLock t v => Sys2Proof.Machine.execExpertLock t v s
  | .expertArmExpire => Sys2Proof.Machine.execExpertArmExpire s
  | .stateReqNap => Sys2Proof.Machine.execStateReqNap s
  | .stateReqActive => Sys2Proof.Machine.execStateReqActive s
  | .stateReqAuto => Sys2Proof.Machine.execStateReqAuto s
  | .napEntry => Sys2Proof.Machine.execNapEntry s
  | .idleEntry => Sys2Proof.Machine.execIdleEntry s
  | .factoryResetCommand v => Sys2Proof.Machine.execFactoryResetCommand v s
  | .retainedCommit => Sys2Proof.Machine.execRetainedCommit s
  | .stagingWindowWrite w k v => Sys2Proof.Machine.execStagingWindowWrite w k v s
  | .bar2Read rid host addr len ue => Sys2Proof.Machine.execBar2Read rid host addr len ue s
  | .bar2Write rid host addr data ep => Sys2Proof.Machine.execBar2Write rid host addr data ep s
  | .pageCopy page fail => Sys2Proof.Machine.execPageCopy page fail s
  | .signalPageAdd t off size v => Sys2Proof.Machine.execSignalPageAdd t off size v s
  | .unitSignal u c add => Sys2Proof.Machine.execUnitSignal u c add s
  | .unitWait u c target m => Sys2Proof.Machine.execUnitWait u c target m s
  | .cairnPublication c => Sys2Proof.Machine.execCairnPublication c s
  | .orcInv mask => Sys2Proof.Machine.execOrcInv mask s
  | .orcInvDone t => Sys2Proof.Machine.execOrcInvDone t s
  | .readCompletion tag got => Sys2Proof.Machine.execReadCompletion tag got s
  | .completionTimeout tag => Sys2Proof.Machine.execCompletionTimeout tag s
  | .atsTranslationCompletion req a => Sys2Proof.Machine.execAtsTranslationCompletion req a s
  | .atsInvalidation pasid addr len => Sys2Proof.Machine.execAtsInvalidation pasid addr len s
  | .linkRetrain rate width flit tagw => Sys2Proof.Machine.execLinkRetrain rate width flit tagw s
  | .capacityChange onfi derated => Sys2Proof.Machine.execCapacityChange onfi derated s
  | .breachEnd k => Sys2Proof.Machine.execBreachEnd k s
  | .svcEntWrite q k v => Sys2Proof.Machine.execSvcEntWrite q k v s
  | .drainRelease w => Sys2Proof.Machine.execDrainRelease w s
  | .rowanTransfer e => Sys2Proof.Machine.execRowanTransfer e s
  | .sloeDigestComplete l c glitch selfTestOk => Sys2Proof.Machine.execSloeDigestComplete l c glitch selfTestOk s
  | .sectorProgrammed u res => Sys2Proof.Machine.execSectorProgrammed u res s
  | .programUnitStart src => Sys2Proof.Machine.execProgramUnitStart src s
  | .vaultOpUnitDone retired => Sys2Proof.Machine.execVaultOpUnitDone retired s
  | .vaultOpDone => Sys2Proof.Machine.execVaultOpDone s
  | .backgroundErase blocks => Sys2Proof.Machine.execBackgroundErase blocks s
  | .patrolScrub a res => Sys2Proof.Machine.execPatrolScrub a res s
  | .internalFault u at_ retryOk => Sys2Proof.Machine.execInternalFault u at_ retryOk s
  | .placementMove src dst why res => Sys2Proof.Machine.execPlacementMove src dst why res s
  | .clkStepChange => Sys2Proof.Machine.execClkStepChange s
  | .dvfsEval m => Sys2Proof.Machine.execDvfsEval m s
  | .avsAdjust mv => Sys2Proof.Machine.execAvsAdjust mv s
  | .suspend n on => Sys2Proof.Machine.execSuspend n on s
  | .scanOut n => Sys2Proof.Machine.execScanOut n s
  | .scanIn n => Sys2Proof.Machine.execScanIn n s
  | .scanComplete n fault raced progBad => Sys2Proof.Machine.execScanComplete n fault raced progBad s
  | .clkGate n on => Sys2Proof.Machine.execClkGate n on s
  | .pwrGate n on => Sys2Proof.Machine.execPwrGate n on s
  | .laneGate v => Sys2Proof.Machine.execLaneGate v s
  | .slotGate v => Sys2Proof.Machine.execSlotGate v s
  | .keepClaimRelease u readBackFails => Sys2Proof.Machine.execKeepClaimRelease u readBackFails s
  | .keepHoldRefused u => Sys2Proof.Machine.execKeepHoldRefused u s
  | .srSave l c => Sys2Proof.Machine.execSrSave l c s
  | .srRestore l c => Sys2Proof.Machine.execSrRestore l c s
  | .wdtToken v => Sys2Proof.Machine.execWdtToken v s
  | .wdtWarn => Sys2Proof.Machine.execWdtWarn s
  | .watchdogExpiry => Sys2Proof.Machine.execWatchdogExpiry s
  | .stall r => Sys2Proof.Machine.execStall r s
  | .trialConfirm => Sys2Proof.Machine.execTrialConfirm s
  | .auxPowerUp maddr => Sys2Proof.Machine.execAuxPowerUp maddr s
  | .resetRelease b => Sys2Proof.Machine.execResetRelease b s
  | .rdy => Sys2Proof.Machine.execRdy s
  | .perstAssert p => Sys2Proof.Machine.execPerstAssert p s
  | .hotReset => Sys2Proof.Machine.execHotReset s
  | .flr => Sys2Proof.Machine.execFlr s
  | .mainPowerFail => Sys2Proof.Machine.execMainPowerFail s
  | .surpriseRemoval => Sys2Proof.Machine.execSurpriseRemoval s
  | .holdUpSequence zeroVerified journalKept => Sys2Proof.Machine.execHoldUpSequence zeroVerified journalKept s
  | .pmeTurnOff => Sys2Proof.Machine.execPmeTurnOff s
  | .pwrbrkNAssert => Sys2Proof.Machine.execPwrbrkNAssert s
  | .pwrbrkNDeassert => Sys2Proof.Machine.execPwrbrkNDeassert s
  | .thermalThreshold degC => Sys2Proof.Machine.execThermalThreshold degC s
  | .supplyRange which mv => Sys2Proof.Machine.execSupplyRange which mv s
  | .clkFail => Sys2Proof.Machine.execClkFail s
  | .holdupBankCheck mJ => Sys2Proof.Machine.execHoldupBankCheck mJ s
  | .rbNAttentionPulse => Sys2Proof.Machine.execRbNAttentionPulse s
  | .rbNPulseRepeat => Sys2Proof.Machine.execRbNPulseRepeat s
  | .rbNBusyEnd => Sys2Proof.Machine.execRbNBusyEnd s
  | .msixRepeat v => Sys2Proof.Machine.execMsixRepeat v s
  | .msixUnmask v => Sys2Proof.Machine.execMsixUnmask v s
  | .pairPortUp p => Sys2Proof.Machine.execPairPortUp p s
  | .pairPortDown p => Sys2Proof.Machine.execPairPortDown p s
  | .peerEntryWrite e word v => Sys2Proof.Machine.execPeerEntryWrite e word v s
  | .hello x nonce epoch holds => Sys2Proof.Machine.execHello x nonce epoch holds s
  | .helloAck x nonce epoch holds => Sys2Proof.Machine.execHelloAck x nonce epoch holds s
  | .heartbeat x => Sys2Proof.Machine.execHeartbeat x s
  | .bye x drained => Sys2Proof.Machine.execBye x drained s
  | .ack x base got => Sys2Proof.Machine.execAck x base got s
  | .offer x xfer img step total alg kind root => Sys2Proof.Machine.execOffer x xfer img step total alg kind root s
  | .accept x xfer => Sys2Proof.Machine.execAccept x xfer s
  | .refuse x xfer reason => Sys2Proof.Machine.execRefuse x xfer reason s
  | .data x xfer sector secs => Sys2Proof.Machine.execData x xfer sector secs s
  | .held x xfer tainted step => Sys2Proof.Machine.execHeld x xfer tainted step s
  | .resend x xfer sector count => Sys2Proof.Machine.execResend x xfer sector count s
  | .pairSignalReceive x cairn add seq => Sys2Proof.Machine.execPairSignalReceive x cairn add seq s
  | .sigAck x seq status => Sys2Proof.Machine.execSigAck x seq status s
  | .fetch x xfer owner step => Sys2Proof.Machine.execFetch x xfer owner step s
  | .frameDropped e => Sys2Proof.Machine.execFrameDropped e s
  | .neighbourMessage p m => Sys2Proof.Machine.execNeighbourMessage p m s
  | .icmpEcho p v6 src dst payload => Sys2Proof.Machine.execIcmpEcho p v6 src dst payload s
  | .pairTransmit e => Sys2Proof.Machine.execPairTransmit e s
  | .pairSignalForward e => Sys2Proof.Machine.execPairSignalForward e s
  | .ackTimer e => Sys2Proof.Machine.execAckTimer e s
  | .retransmitTimer e psn => Sys2Proof.Machine.execRetransmitTimer e psn s
  | .heartbeatTimer e => Sys2Proof.Machine.execHeartbeatTimer e s
  | .helloTimer e => Sys2Proof.Machine.execHelloTimer e s
  | .pairLost e => Sys2Proof.Machine.execPairLost e s
  | .pairSessionTimeout e => Sys2Proof.Machine.execPairSessionTimeout e s
  | .setEndpointId eid => Sys2Proof.Machine.execSetEndpointId eid s
  | .i3cDynamicAddress a => Sys2Proof.Machine.execI3cDynamicAddress a s
  | .rstdaa => Sys2Proof.Machine.execRstdaa s
  | .pldmBaseRequest cmd => Sys2Proof.Machine.execPldmBaseRequest cmd s
  | .fruDataRequest cmd => Sys2Proof.Machine.execFruDataRequest cmd s
  | .getPdr handle => Sys2Proof.Machine.execGetPdr handle s
  | .sensorReading k => Sys2Proof.Machine.execSensorReading k s
  | .setPowerCap watts => Sys2Proof.Machine.execSetPowerCap watts s
  | .unitOffline u => Sys2Proof.Machine.execUnitOffline u s
  | .unitOnline u => Sys2Proof.Machine.execUnitOnline u s
  | .setEventReceiver on => Sys2Proof.Machine.execSetEventReceiver on s
  | .pollForPlatformEventMessage => Sys2Proof.Machine.execPollForPlatformEventMessage s
  | .requestUpdate => Sys2Proof.Machine.execRequestUpdate s
  | .firmwareUpdateData off bytes => Sys2Proof.Machine.execFirmwareUpdateData off bytes s
  | .verifyComplete sigOk svn ver => Sys2Proof.Machine.execVerifyComplete sigOk svn ver s
  | .activateFirmware => Sys2Proof.Machine.execActivateFirmware s
  | .spdmSecuredSession mutualOk certOk usageOk => Sys2Proof.Machine.execSpdmSecuredSession mutualOk certOk usageOk s
  | .keyLoad slot alg tenant label key => Sys2Proof.Machine.execKeyLoad slot alg tenant label key s
  | .keyZero slot readBackFails => Sys2Proof.Machine.execKeyZero slot readBackFails s
  | .keyList => Sys2Proof.Machine.execKeyList s
  | .viewAck gen => Sys2Proof.Machine.execViewAck gen s
  | .viewSkew => Sys2Proof.Machine.execViewSkew s
  | .tapIdcode => Sys2Proof.Machine.execTapIdcode s
  | .tapSamplePreload => Sys2Proof.Machine.execTapSamplePreload s
  | .tapExtest boundary => Sys2Proof.Machine.execTapExtest boundary s
  | .tapBypass code => Sys2Proof.Machine.execTapBypass code s
  | .dbgRead space addr => Sys2Proof.Machine.execDbgRead space addr s
  | .dbgWrite space addr v => Sys2Proof.Machine.execDbgWrite space addr v s
  | .dbgNop => Sys2Proof.Machine.execDbgNop s
  | .dbgAuth => Sys2Proof.Machine.execDbgAuth s
  | .dbgAuthComplete certOk sigOk => Sys2Proof.Machine.execDbgAuthComplete certOk sigOk s
  | .dbgEnd => Sys2Proof.Machine.execDbgEnd s
  | .liveRead on => Sys2Proof.Machine.execLiveRead on s
  | .halt => Sys2Proof.Machine.execHalt s
  | .stewardHalted => Sys2Proof.Machine.execStewardHalted s
  | .haltForced held r => Sys2Proof.Machine.execHaltForced held r s
  | .resume => Sys2Proof.Machine.execResume s
  | .configurationRequest q => Sys2Proof.Machine.execConfigurationRequest q s
  | .linkMargin which => Sys2Proof.Machine.execLinkMargin which s
  | .mainPowerReturn => Sys2Proof.Machine.execMainPowerReturn s
  | .auxConnectorSense a => Sys2Proof.Machine.execAuxConnectorSense a s
  | .vaultReadDone lba res => Sys2Proof.Machine.execVaultReadDone lba res s

end Sys2Proof.Machine
end

