-- ==== Sys2Proof/Safety.lean ====
section
/-! DEFINITION. What a safe run is, and the named conditions and frames the statements use. -/

namespace Sys2Proof.Safety

open Sys2Proof Sys2Proof.Machine

/-- A step neither faults nor is refused. -/
def Runs (s : State) : Prop := ∃ t, step s = .next t

/-- Staging memory is in its canonical form. -/
abbrev MemoryOk (s : State) : Prop := Memory.wf s.st.mem = true

/-- The engine is past RDY and in no reset (R44). -/
abbrev Up (s : State) : Prop := s.pw.rdy = true ∧ s.pw.phase = .ready

/-- Command `c` of opcode `code` holds its ring's head, has passed nothing yet, and every check of Table 6-6 lets it
in. No message of it was snooped yet, and no beat moved for it failed. -/
abbrev Enters (s : State) (r : Ring) (c : Cmd) (code : Nat) : Prop :=
  headCmd s r = some c ∧ c.op = code ∧ s.rings[r].past.length < 64 ∧ c.started = false ∧ headCheck s r c = none
    ∧ c.trunc = none ∧ c.badBeats = 0

/-- Command `c` of opcode `code` holds its ring's head and its checks have passed. -/
abbrev Started (s : State) (r : Ring) (c : Cmd) (code : Nat) : Prop :=
  headCmd s r = some c ∧ c.op = code ∧ s.rings[r].past.length < 64 ∧ c.started = true ∧ c.trunc = none ∧ c.badBeats = 0

/-- From `s` to `t` one last entry of command `c` with this status and these details joins the entries ring `r` has
waiting. -/
abbrev Answered (s t : State) (r : Ring) (c : Cmd) (status : Byte) (d0 : Dword) (d1 : Word) : Prop :=
  ∃ e : Entry, t.rings[r].waiting = s.rings[r].waiting ++ [e] ∧ e.tag = c.tag ∧ e.status = status ∧ e.d0 = d0
    ∧ e.d1 = d1 ∧ e.last = true

/-- Staging memory, the Vault and the images stay: every byte of staging memory reads as before. -/
abbrev StoreKept (s t : State) : Prop := t.st = s.st ∧ ∀ a, readByte t.st.mem a = readByte s.st.mem a

/-- The registers of every other ring stay. -/
abbrev OtherRings (s t : State) (r : Ring) : Prop := ∀ q : Ring, q ≠ r → t.rings[q] = s.rings[q]

/-- The configuration, the crags, wheels, lanes and keys, and the tenant table stay. -/
abbrev ConfigKept (s t : State) : Prop := t.cfg = s.cfg ∧ t.ma = s.ma ∧ t.tenants = s.tenants ∧ t.boot = s.boot

/-- Nothing moves on the array: an enabled wheel is an input wheel between streams, no Rowan engine holds a transfer of the
bit-stream, no command has a read to issue, and no crag's program is given PE by PE. -/
structure ArrayAtRest (s : State) : Prop where
  wheels : ∀ w : Wheel, s.ma.wheels[w].en = true → s.ma.wheels[w].output = false ∧ s.ma.wheels[w].streams = []
    ∧ s.ma.wheels[w].held = [] ∧ s.ma.wheels[w].stallTag = false ∧ s.ma.wheels[w].stallSlot = false
  engines : ∀ e : Eng, ∀ j ∈ s.ma.rowan[e].queue, j.own.isSome = true
  reads : ∀ r : Ring, ∀ c ∈ s.rings[r].queue ++ s.rings[r].past, c.plan = []
  crags : ∀ n : Crag, s.hasPes n = false
  taps : ∀ l : Lane, s.ma.lanes[l].tapBuf = []

end Sys2Proof.Safety
end

