-- ==== Sys2Proof/Certificates/Slice0/Obligations.lean ====
section
/-! DEFINITION. The statements about the UZ32: what each command does, in which states it does it, and what it leaves
alone. `Pre.*` names the hypotheses of a clause, so that the tests can show a state that meets them. -/

open Sys2Proof Sys2Proof.Machine Sys2Proof.Safety

/-! ### The queue and the whole machine -/

/-- A step takes the command at the front of the queue and runs exec on the state with the queue's rest. The model's
choice (LOG 2): on an empty queue one microsecond passes and nothing else changes. -/
def Obligations.StepRunsFrontCommand : Prop :=
  (∀ (c : Instr) (rest : List Instr) (s : State), s.pending = c :: rest → step s = exec c { s with pending := rest })
  ∧ (∀ s : State, s.pending = [] → step s = .next { s with now := s.now + 1 })

/-- Invariant: every step keeps staging memory in its canonical form, whatever the command. -/
def Obligations.StagingMemoryStaysCanonical : Prop :=
  ∀ s t : State, MemoryOk s → step s = .next t → MemoryOk t

/-- Invariant: RDY reads 1 only in the running phase; every step keeps it, resets, hold-up and recovery included. -/
def Obligations.ReadyOnlyWhileRunning : Prop :=
  ∀ s t : State, (s.pw.rdy = true → s.pw.phase = .ready) → step s = .next t → (t.pw.rdy = true → t.pw.phase = .ready)

/-- What the spec gives for reset: RDY 0, RB_N busy for bring-up, no bit-stream loaded, no command held, the watchdog
in its bring-up window of 60 s, MONs off, every ring's write phase 1, DEPTH 0; and both invariants hold. -/
def Obligations.ResetMeetsInvariants : Prop :=
  State.reset.pw.rdy = false ∧ State.reset.pw.busy = true ∧ State.reset.pw.causes = 2 ∧ State.reset.cfg.loaded = false
    ∧ State.reset.wd.window = 60000 ∧ State.reset.wd.bringUp = true ∧ State.reset.pending = []
    ∧ (∀ r : Ring, State.reset.rings[r].queue = [] ∧ State.reset.rings[r].depth = 0 ∧ State.reset.rings[r].phase = true)
    ∧ MemoryOk State.reset ∧ (State.reset.pw.rdy = true → State.reset.pw.phase = .ready)

/-! ### Entering a ring and leaving it (06, 07) -/

abbrev Pre.trbGo (s : State) (r : Ring) (v : Word) : Prop :=
  s.pw.rdy = true ∧ bit v 0 = true ∧ s.readyBit r = true ∧ trbN s.rings[r].trb 0 1 ≠ 0x30

abbrev Pre.trbGoAbort (s : State) (r : Ring) (v : Word) : Prop :=
  s.pw.rdy = true ∧ bit v 0 = true ∧ s.readyBit r = true ∧ trbN s.rings[r].trb 0 1 = 0x30 ∧ s.rings[r].queue = []
    ∧ s.rings[r].past = [] ∧ s.rings[r].waiting = [] ∧ s.rings[r].aborts = []

/-- TRB_GO while READY is 1: the 64 TRB bytes, as they stand, join the end of the ring's queue; no other ring, no
cairn and no byte of memory changes. ABORT_TAG takes no queue entry (R109) and is stated apart. An ABORT_TAG latched
on a ring that holds nothing finds no target, and its record waits to be answered MISSED; it takes no queue entry. -/
def Obligations.TrbGoLatchesCommand : Prop :=
  (∀ (s : State) (r : Ring) (v : Word), Pre.trbGo s r v →
    ∃ t c, exec (.trbGo r v) s = .next t ∧ t.rings[r].queue = s.rings[r].queue ++ [c] ∧ c.trb = s.rings[r].trb
      ∧ c.cid = s.nextCid ∧ c.latchNo = s.rings[r].latches % 65536 ∧ t.nextCid = s.nextCid + 1
      ∧ t.rings[r].trb = s.rings[r].trb ∧ t.rings[r].waiting = s.rings[r].waiting
      ∧ OtherRings s t r ∧ t.cairns = s.cairns ∧ StoreKept s t)
  ∧ (∀ (s : State) (r : Ring) (v : Word), Pre.trbGoAbort s r v →
    ∃ t a, exec (.trbGo r v) s = .next t ∧ t.rings[r].aborts = [a] ∧ a.cmd.trb = s.rings[r].trb
      ∧ a.found = false ∧ a.caught = none ∧ a.reject = !wellFormedTrb s.rings[r].trb ∧ t.rings[r].queue = []
      ∧ OtherRings s t r ∧ StoreKept s t)

/-- R102: from RDY, GO = 1 while READY is 0 sets LOST and counts one in TRB_LOST, and nothing else changes; in NAP the
access also brings the engine back to ACTIVE first (R28). A write with GO = 0 changes nothing, and so does any write
before RDY (R44, R101). -/
def Obligations.LostTrbGoOnlyCounts : Prop :=
  ∀ (s : State) (r : Ring) (v : Word),
    (s.pw.rdy = true → bit v 0 = true → s.readyBit r = false → s.pw.pstate ≠ .nap → exec (.trbGo r v) s
      = .next (s.onRing r (fun x => { x with lost := true, lostCnt := satAdd x.lostCnt 1 })))
    ∧ (s.pw.rdy = true → bit v 0 = true → s.readyBit r = false → s.pw.pstate = .nap → exec (.trbGo r v) s
      = .next ((wake s).onRing r (fun x => { x with lost := true, lostCnt := satAdd x.lostCnt 1 })))
    ∧ (bit v 0 = false → exec (.trbGo r v) s = .next s)
    ∧ (s.pw.rdy = false → exec (.trbGo r v) s = .next s)

abbrev Pre.entry (s : State) (r : Ring) (e : Entry) (rest : List Entry) : Prop :=
  Up s ∧ s.rings[r].inReset = false ∧ s.rings[r].faulted = false ∧ s.rings[r].unconsumed < s.rings[r].depth.toNat
    ∧ s.rings[r].waiting = e :: rest

/-- COMPLETION_ENTRY_WRITE with a free entry: the oldest waiting entry is written at TAIL with PHASE equal to the
write phase, TAIL advances, at DEPTH it wraps to 0 and the write phase inverts; one more entry is unconsumed, the
counter of R132 that matches its SERVICE rises by one and the other two stay; no byte of staging memory and no cairn
changes. The write goes to the address the ATPU gives it: untranslated under the ring's PASID with ATS disabled, else
translated. An entry whose write fails its check is not written: it stays first of those that wait, the ring stalls,
and ATPU_FLT_CNT counts the failure (Table 5-8, R99); so does every write of a tenant other than 0 with no PASID (R97,
R110). One whose page has no answer yet waits, and its translation is asked for (R94). -/
def Obligations.CompletionEntriesFillTheRing : Prop :=
  (∀ (s : State) (r : Ring) (e : Entry) (rest : List Entry), Pre.entry s r e rest → s.hostDenied r = false →
    (s.link.atsEn = true → (s.translated (s.ringKey r) s.rings[r].entryAddr true).isSome = true) →
    ∃ t tail' xa p, exec (.completionEntryWrite r) s = .next t ∧ t.rings[r].waiting = rest
      ∧ BusOut.entry r.val xa (entryBits e s.rings[r].seq s.rings[r].phase s.rings[r].deferOwed) p ∈ t.bus
      ∧ (s.link.atsEn = false → xa = s.rings[r].entryAddr ∧ p.pasid = s.pasidOf r)
      ∧ t.rings[r].tail = tail'
      ∧ tail' = (if s.rings[r].tail.toNat + 1 = s.rings[r].depth.toNat then 0 else s.rings[r].tail + 1)
      ∧ t.rings[r].phase = (if s.rings[r].tail.toNat + 1 = s.rings[r].depth.toNat then !s.rings[r].phase
                            else s.rings[r].phase)
      ∧ t.rings[r].unconsumed = s.rings[r].unconsumed + 1 ∧ t.rings[r].seq = s.rings[r].seq + 1
      ∧ t.rings[r].served = (if e.service = 0 then satAdd s.rings[r].served 1 else s.rings[r].served)
      ∧ t.rings[r].delayedCnt = (if e.service = 1 then satAdd s.rings[r].delayedCnt 1 else s.rings[r].delayedCnt)
      ∧ t.rings[r].refusedCnt = (if e.service = 2 then satAdd s.rings[r].refusedCnt 1 else s.rings[r].refusedCnt)
      ∧ t.rings[r].trb = s.rings[r].trb ∧ t.rings[r].head = s.rings[r].head ∧ t.cairns = s.cairns ∧ StoreKept s t)
  ∧ (∀ (s : State) (r : Ring) (e : Entry) (rest : List Entry), Pre.entry s r e rest →
    (∀ c : Cause, s.fate (s.ringKey r) s.rings[r].entryAddr true false = .fail c →
      ∃ t, exec (.completionEntryWrite r) s = .next t ∧ t.rings[r].waiting = e :: rest
        ∧ t.rings[r].faulted = true ∧ t.rings[r].stalled = true ∧ t.rings[r].tail = s.rings[r].tail
        ∧ t.link.fltCnt = satAdd s.link.fltCnt 1 ∧ headCmd t r = none ∧ OtherRings s t r ∧ StoreKept s t)
    ∧ (s.hostDenied r = true → s.fate (s.ringKey r) s.rings[r].entryAddr true false = .fail .noPasid)
    ∧ (s.fate (s.ringKey r) s.rings[r].entryAddr true false = .wait →
      ∃ t, exec (.completionEntryWrite r) s = .next t ∧ t.rings = s.rings ∧ StoreKept s t
        ∧ ∃ q ∈ t.link.atsWait, q.key = s.ringKey r ∧ q.addr = pageOf s.rings[r].entryAddr ∧ q.write = true ∧ q.stale = false))

/-- CPL_RING_SETUP and CPL_RING_SETUP_TAKES_EFFECT (R112): a CPL_DEPTH that is neither 0 nor a power of two from 16 to
4,096 is refused with RANGE; a valid one waits, the depth in force unchanged; at the ring's idle point it takes effect
with HEAD and TAIL 0 and write phase 1. CPL_BASE words wait likewise. -/
def Obligations.RingSetupWaitsForIdlePoint : Prop :=
  ∀ (s : State) (r : Ring) (v : Word), s.pw.rdy = true → s.cfg.loading = false →
    (fld v 0 13 ≠ 0 → validDepth (fld v 0 13).toNat = false →
      exec (.cplRingSetup r .depth v) s = .next (setExp .range s))
    ∧ ((fld v 0 13 = 0 ∨ validDepth (fld v 0 13).toNat = true) →
      ∃ t, exec (.cplRingSetup r .depth v) s = .next t ∧ t.rings[r].depth = s.rings[r].depth
        ∧ t.rings[r].setup.map (·.2.2) = some (fld v 0 13) ∧ t.cfg.expResult = 0 ∧ OtherRings s t r ∧ StoreKept s t)
    ∧ (∃ t, exec (.cplRingSetup r .baseLo v) s = .next t ∧ t.rings[r].baseLo = s.rings[r].baseLo
        ∧ t.rings[r].setup.map (·.1) = some (fld v 12 20) ∧ OtherRings s t r)
    ∧ (∃ t, exec (.cplRingSetup r .baseHi v) s = .next t ∧ t.rings[r].baseHi = s.rings[r].baseHi
        ∧ t.rings[r].setup.map (·.2.1) = some v ∧ OtherRings s t r)
    ∧ (∀ lo hi d, s.rings[r].setup = some (lo, hi, d) → s.rings[r].idlePoint = true → s.rings[r].inReset = false →
      s.pw.phase ≠ .holdUp →
      ∃ t, exec (.cplRingSetupTakesEffect r) s = .next t ∧ t.rings[r].baseLo = lo ∧ t.rings[r].baseHi = hi
        ∧ t.rings[r].depth = d ∧ t.rings[r].head = 0 ∧ t.rings[r].tail = 0 ∧ t.rings[r].phase = true
        ∧ t.rings[r].setup = none ∧ t.rings[r].log = s.rings[r].log ∧ OtherRings s t r ∧ StoreKept s t)

/-- CPL_HEAD_WRITE (R113): an index that frees only written entries moves HEAD and frees them; one that would consume
an unwritten entry changes no ring and sets EXP_RESULT to RANGE, and so does one past DEPTH (the model's choice, LOG
94). DEFER_HEAD_WRITE and EVT_HEAD_WRITE (R134, R388): a write that would pass the tail is refused with RANGE and
moves nothing; any other moves the head and nothing else. -/
def Obligations.HeadsFreeOnlyWrittenEntries : Prop :=
  (∀ (s : State) (r : Ring) (v : Word), s.pw.rdy = true → s.cfg.loading = false → 0 < s.rings[r].depth.toNat →
    ((fld v 0 12).toNat < s.rings[r].depth.toNat →
      ((fld v 0 12).toNat + s.rings[r].depth.toNat - s.rings[r].head.toNat) % s.rings[r].depth.toNat
        ≤ s.rings[r].unconsumed →
      exec (.cplHeadWrite r v) s = .next (setExp .applied (s.onRing r (fun x => { x with
        head := fld v 0 12
        unconsumed := x.unconsumed
          - ((fld v 0 12).toNat + s.rings[r].depth.toNat - s.rings[r].head.toNat) % s.rings[r].depth.toNat }))))
    ∧ (s.rings[r].unconsumed
        < ((fld v 0 12).toNat + s.rings[r].depth.toNat - s.rings[r].head.toNat) % s.rings[r].depth.toNat
        ∨ s.rings[r].depth.toNat ≤ (fld v 0 12).toNat →
      exec (.cplHeadWrite r v) s = .next (setExp .range s)))
  ∧ (∀ (s : State) (r : Ring) (v : Word), s.pw.rdy = true →
    (s.cfg.loading = false → (s.rings[r].dTail - s.rings[r].dHead).toNat < (fld v 8 7 - s.rings[r].dHead).toNat →
      exec (.deferHeadWrite r v) s = .next (setExp .range s))
    ∧ (s.cfg.loading = false → (fld v 8 7 - s.rings[r].dHead).toNat ≤ (s.rings[r].dTail - s.rings[r].dHead).toNat →
      exec (.deferHeadWrite r v) s = .next (setExp .applied (s.onRing r (fun x => { x with dHead := fld v 8 7 }))))
    ∧ ((s.wd.eTail - s.wd.eHead).toNat < (fld v 16 9 - s.wd.eHead).toNat →
      exec (.evtHeadWrite v) s = .next (setExp .range s))
    ∧ ((fld v 16 9 - s.wd.eHead).toNat ≤ (s.wd.eTail - s.wd.eHead).toNat →
      exec (.evtHeadWrite v) s = .next (setExp .applied { s with wd := { s.wd with eHead := fld v 16 9 } })))

abbrev Pre.abort (s : State) (r : Ring) (a : AbortRec) (rest : List AbortRec) : Prop :=
  Up s ∧ s.rings[r].inReset = false ∧ s.rings[r].aborts = a :: rest ∧ a.cmd.op = 0x30
    ∧ a.cmd.trunc = none ∧ s.rings[r].find a.cmd.cid = none

/-- ABORT_TAG answered: REFUSED with FOUND as TAG mode would show it on a RESET_ONLY ring, the ring's commands
untouched (R139); in TAG mode MISSED where no target was caught, and CAUGHT, after the target's own entry, where one
was; a TRB that is no command is REFUSED. The record is gone and no other ring and no memory changes. What DETAIL0 and
DETAIL1 hold beside REFUSED on a RESET_ONLY ring is the model's choice (LOG 98). -/
def Obligations.AbortTagIsAnswered : Prop :=
  ∀ (s : State) (r : Ring) (a : AbortRec) (rest : List AbortRec), Pre.abort s r a rest →
    (a.reject = true → ∃ t, exec (.abortTag r) s = .next t ∧ Answered s t r a.cmd stREFUSED 0 0
      ∧ t.rings[r].queue = s.rings[r].queue ∧ t.rings[r].past = s.rings[r].past
      ∧ t.rings[r].aborts = rest ∧ OtherRings s t r ∧ StoreKept s t)
    ∧ (a.reject = false → a.resetOnly = true → ∃ t, exec (.abortTag r) s = .next t
      ∧ Answered s t r a.cmd stREFUSED (BitVec.ofNat 64 (a.cmd.f 0x10 2 + if a.found then 65536 else 0)) 0
      ∧ t.rings[r].queue = s.rings[r].queue ∧ t.rings[r].past = s.rings[r].past
      ∧ t.rings[r].aborts = rest ∧ OtherRings s t r ∧ StoreKept s t)
    ∧ (a.reject = false → a.resetOnly = false → a.caught = none → ∃ t, exec (.abortTag r) s = .next t
      ∧ Answered s t r a.cmd stMISSED (BitVec.ofNat 64 (a.cmd.f 0x10 2 + if a.found then 65536 else 0))
          (BitVec.ofNat 32 (if a.found then a.targetNo else 0))
      ∧ t.rings[r].aborts = rest ∧ OtherRings s t r ∧ StoreKept s t)
    ∧ (∀ d, a.reject = false → a.resetOnly = false → a.caught = some d → d.op ≠ 0x40 → d.trunc = none → s.rings[r].find d.cid = none →
      ∃ t e1 e2, exec (.abortTag r) s = .next t ∧ t.rings[r].waiting = s.rings[r].waiting ++ [e1, e2]
        ∧ e1.tag = d.tag ∧ e1.status = stCAUGHT ∧ e2.tag = a.cmd.tag ∧ e2.status = stCAUGHT
        ∧ t.rings[r].aborts = rest ∧ OtherRings s t r ∧ StoreKept s t)

abbrev Pre.ringReset (s : State) (r : Ring) : Prop :=
  Up s ∧ s.cfg.loading = false ∧ s.rings[r].inReset = false ∧ s.rings[r].queue = [] ∧ s.rings[r].past = []
    ∧ s.rings[r].aborts = [] ∧ s.rings[r].waiting = [] ∧ s.rings[r].dying = []
    ∧ (∀ q : Ring, s.rings[q].past.filter (fun c => c.op == 3) = [])

abbrev Pre.stall (s : State) (r : Ring) (from_ : Nat) (c : Cmd) : Prop :=
  Up s ∧ s.rings[r].inReset = false ∧ s.rings[r].stallFrom = some from_ ∧ s.rings[r].queue = [c] ∧ s.rings[r].past = []
    ∧ s.rings[r].aborts = [] ∧ s.rings[r].waiting = [] ∧ s.rings[r].unconsumed < s.rings[r].depth.toNat
    ∧ s.rings[r].faulted = false ∧ s.hostDenied r = false ∧ s.link.atsEn = false ∧ s.st.staged = [] ∧ c.op = 0x05
    ∧ (∀ e : Peer, s.pair.peers[e].xfers = [])

/-- RING_RESET of a ring that holds nothing: READY reads 0 at once, no command is discarded, HEAD, TAIL and the write
phase stay (R125, R141), no other ring changes, and memory stays. RING_RESET_END: the reset is over, a stall of failed
entry writes is cleared and READY's cause is gone. STALL (R378, R379): at the end of the stall window the timer has
fired once more, the ring is in reset with cause STALL, and its one held command was discarded and its entry written.
-/
def Obligations.RingResetsDiscard : Prop :=
  ((∀ (s : State) (r : Ring), Pre.ringReset s r →
    ∃ t, exec (.ringReset r) s = .next t ∧ t.rings[r].inReset = true ∧ t.readyBit r = false
      ∧ t.rings[r].discarded = 0 ∧ t.rings[r].unreported = 0 ∧ t.rings[r].rstCause = 1 ∧ t.cfg.expResult = 0
      ∧ t.rings[r].head = s.rings[r].head ∧ t.rings[r].tail = s.rings[r].tail ∧ t.rings[r].phase = s.rings[r].phase
      ∧ t.rings[r].log = s.rings[r].log ∧ OtherRings s t r ∧ t.cairns = s.cairns
      ∧ (∀ a, readByte t.st.mem a = readByte s.st.mem a) ∧ t.st.vault = s.st.vault)
  ∧ (∀ (s : State) (r : Ring), s.pw.phase ≠ .holdUp → s.rings[r].inReset = true → programsRun s r = false → s.rings[r].setup = none →
      s.rings[r].dying = [] →
      exec (.ringResetEnd r) s = .next (s.onRing r (fun x => { x with inReset := false, faulted := false }))))
  ∧ (∀ (s : State) (r : Ring) (from_ : Nat) (c : Cmd), Pre.stall s r from_ c →
    ∃ t, exec (.stall r) s = .next t ∧ t.rings[r].inReset = true ∧ t.rings[r].rstCause = 2
      ∧ t.rings[r].fires = satAdd s.rings[r].fires 1 ∧ t.rings[r].queue = []
      ∧ from_ + 1000 * s.rings[r].stallWin.toNat ≤ t.now
      ∧ t.rings[r].discarded = 1 ∧ t.rings[r].unreported = 0 ∧ (∀ a, readByte t.st.mem a = readByte s.st.mem a))

/-! ### Commands at the head of a ring (06 to 08) -/

/-- A command the checks of Table 6-6 refuse completes at once with the status of the first that fails, and its arm
does nothing else (R108). Stated of FLUSH, FENCE, WAIT and ABORT-free heads alike through headStep, which every ring
command of the table is. Check 1 of Table 6-6 comes first: a reserved bit or an opcode Table 6-4 lacks is REFUSED
whatever else is wrong; before a load, an opcode R46 does not admit is NOT_ADMITTED (check 2). A command whose needs
no resource must grant starts as soon as its checks pass: its arm acts on it in the same step (R114). -/
def Obligations.HeadChecksComeFirst : Prop :=
  (∀ (s : State) (r : Ring) (c : Cmd) (code : Nat) (act : Cmd → State → State) (o : Outc),
    headCmd s r = some c → c.op = code → s.rings[r].past.length < 64 → c.started = false → headCheck s r c = some o →
    c.op ≠ 0x40 → c.trunc = none → c.badBeats = 0 → s.rings[r].find c.cid = some c → o.more = false → o.status ≠ stDISCARDED →
    ∃ e, headStep r code act s = s.onRing r (fun x => { x.drop c.cid with waiting := x.waiting ++ [e] })
      ∧ e.tag = c.tag ∧ e.status = o.status ∧ e.last = true ∧ e.d0 = BitVec.ofNat 64 o.d0)
  ∧ (∀ (s : State) (r : Ring) (c : Cmd),
    (wellFormedTrb c.trb = false → (headCheck s r c).map (·.status) = some stREFUSED)
    ∧ (wellFormedTrb c.trb = true → s.cfg.loaded = false → preLoadOp c.op = false →
        (headCheck s r c).map (·.status) = some stNOT_ADMITTED)
    ∧ (∀ o, headCheck s r c = some o → o.status ≠ stOK))
  ∧ (∀ (s : State) (r : Ring) (c : Cmd) (code : Nat) (act : Cmd → State → State),
    Started s r c code → headStep r code act s = act c s)

abbrev Pre.flush (s : State) (r : Ring) (c : Cmd) : Prop :=
  Enters s r c 3 ∧ (∀ q : Ring, s.rings[q].past = []) ∧ c.f 0x10 1 = 0 ∧ s.rings[r].queue = [c] ∧ s.st.staged = []

abbrev Pre.fence (s : State) (r : Ring) (c : Cmd) : Prop :=
  Enters s r c 4 ∧ c.scopeWait = [] ∧ s.rings[r].find c.cid = some c

/-- FLUSH with every earlier WRITE_SECTORS of its scope programmed or failed completes OK and leaves the ring (R119,
R136). FENCE whose scope has completed (LEVEL 0): REFUSED when a command of the scope was not OK, the uncovered sets
unchanged; else OK (R121). The OK entry covers the scope: as it is written, which completes the FENCE (R127), the
scope leaves every uncovered set and nothing else does (R122). While its scope has not completed, FENCE changes no
entry and no uncovered set. -/
def Obligations.FlushAndFenceAnswerForScope : Prop :=
  (∀ (s : State) (r : Ring) (c : Cmd), Pre.flush s r c →
    ∃ t, exec (.flush r) s = .next t ∧ Answered s t r c stOK 0 0 ∧ t.rings[r].queue = [] ∧ t.rings[r].past = []
      ∧ OtherRings s t r ∧ StoreKept s t ∧ t.cairns = s.cairns)
  ∧ ((∀ (s : State) (r : Ring) (c : Cmd), Pre.fence s r c → c.f 0x11 1 = 0 →
    (c.scopeBad = true → ∃ t, exec (.fence r) s = .next t ∧ Answered s t r c stREFUSED 0 0
      ∧ (∀ q : Ring, t.rings[q].uncovered = s.rings[q].uncovered) ∧ OtherRings s t r ∧ StoreKept s t)
    ∧ (c.scopeBad = false → ∃ t e, exec (.fence r) s = .next t ∧ t.rings[r].waiting = s.rings[r].waiting ++ [e]
      ∧ e.tag = c.tag ∧ e.status = stOK ∧ e.last = true ∧ e.covers = c.scope
      ∧ (∀ q : Ring, t.rings[q].uncovered = s.rings[q].uncovered) ∧ OtherRings s t r ∧ StoreKept s t
      ∧ t.cairns = s.cairns))
  ∧ (∀ (s : State) (r : Ring) (c : Cmd), Started s r c 4 → c.scopeWait ≠ [] → exec (.fence r) s = .next s)
  ∧ (∀ (s : State) (r : Ring) (e : Entry) (rest : List Entry), Pre.entry s r e rest → s.hostDenied r = false →
    s.link.atsEn = false → e.status = stOK →
    ∃ t, exec (.completionEntryWrite r) s = .next t
      ∧ (∀ q : Ring, ∀ p ∈ t.rings[q].uncovered, p.1 ∉ e.covers ∧ p ∈ s.rings[q].uncovered)
      ∧ (∀ q : Ring, ∀ p ∈ s.rings[q].uncovered, p.1 ∉ e.covers → p ∈ t.rings[q].uncovered)))

abbrev Pre.signal (s : State) (r : Ring) (c : Cmd) : Prop := Enters s r c 5 ∧ s.rings[r].find c.cid = some c

/-- What a step leaves when the units it wakes have gone on; nothing more where the array was at rest. -/
abbrev GoesOn (s t : State) (o : Host.Outcome State Fault Refusal) : Prop :=
  o = .next (resumeUnits t) ∧ (ArrayAtRest s → o = .next t)

/-- SIGNAL (R123, R149, R151): while an earlier command of the ring is uncovered it completes UNFENCED and no cairn
changes; else VALUE rises by the whole ADD, modulo 2^32, no other cairn changes, and DETAIL0 holds the new VALUE.
Units it wakes go on after it. -/
def Obligations.SignalAddsAndReports : Prop :=
  ∀ (s : State) (r : Ring) (c : Cmd), Pre.signal s r c →
    ((∃ p ∈ s.rings[r].uncovered, p.1 < c.cid ∧ ∀ e ∈ s.rings[r].waiting, p.1 ∉ e.covers) →
      ∃ t, GoesOn s t (exec (.signal r) s) ∧ Answered s t r c stUNFENCED 0 0
      ∧ t.cairns = s.cairns ∧ OtherRings s t r ∧ StoreKept s t)
    ∧ ((∀ p ∈ s.rings[r].uncovered, c.cid ≤ p.1) → ∃ t v, GoesOn s t (exec (.signal r) s)
      ∧ v = s.cairns[ix 127 (c.f 0x10 1)].value + BitVec.ofNat 32 (c.f 0x14 4)
      ∧ t.cairns[ix 127 (c.f 0x10 1)].value = v ∧ Answered s t r c stOK (BitVec.ofNat 64 v.toNat) 0
      ∧ t.cairns[ix 127 (c.f 0x10 1)].sigCount = s.cairns[ix 127 (c.f 0x10 1)].sigCount + 1
      ∧ (∀ k : Cairn, k ≠ ix 127 (c.f 0x10 1) → t.cairns[k] = s.cairns[k]) ∧ StoreKept s t)

/-- R147: Table 8-2. With D = (TARGET − VALUE) mod 2^32 a wait is satisfied at D = 0, pending for D from 1 to 2^31 −
1, out of range from 2^31 to 2^31 + 2^30 − 1, and satisfied above. -/
def Obligations.WaitClassesOfTable : Prop :=
  ∀ (target value : Word),
    ((target - value).toNat = 0 → classify target value = .satisfied)
    ∧ (1 ≤ (target - value).toNat → (target - value).toNat ≤ 2 ^ 31 - 1 →
        classify target value = .ahead (target - value).toNat)
    ∧ (2 ^ 31 ≤ (target - value).toNat → (target - value).toNat ≤ 2 ^ 31 + 2 ^ 30 - 1 →
        classify target value = .outOfRange)
    ∧ (2 ^ 31 + 2 ^ 30 ≤ (target - value).toNat → classify target value = .satisfied)

abbrev Pre.wait (s : State) (r : Ring) (c : Cmd) : Prop :=
  Enters s r c 6 ∧ c.remaining = none ∧ s.rings[r].find c.cid = some c

abbrev Pre.pendingWait (s : State) (r : Ring) (c : Cmd) (d : Nat) (k : Cairn) : Prop :=
  s.pw.rdy = true ∧ (∃ rest, s.rings[r].queue = c :: rest) ∧ c.remaining = some d ∧ c.op = 6 ∧ c.f 0x10 1 = k.val
    ∧ c.trunc = none

/-- R156: a WAIT whose target is reached or passed completes OK at once with DETAIL0 = VALUE and DETAIL1 = 0; one out
of range completes RANGE with DETAIL0 = 0x14 and DETAIL1 = VALUE; one ahead holds the head with its distance, first of
its ring's commands, until a signal satisfies it: it then completes OK with DETAIL0 = VALUE after that signal and
DETAIL1 = 1, while a smaller add only shortens the distance. Classifying a WAIT changes no cairn and no memory. -/
def Obligations.WaitIsClassifiedAtHead : Prop :=
  (∀ (s : State) (r : Ring) (c : Cmd), Pre.wait s r c →
    (classify (BitVec.ofNat 32 (c.f 0x14 4)) s.cairns[ix 127 (c.f 0x10 1)].value = .satisfied →
      ∃ t, exec (.wait r) s = .next t
        ∧ Answered s t r c stOK (BitVec.ofNat 64 s.cairns[ix 127 (c.f 0x10 1)].value.toNat) 0
        ∧ t.cairns = s.cairns ∧ OtherRings s t r ∧ StoreKept s t)
    ∧ (classify (BitVec.ofNat 32 (c.f 0x14 4)) s.cairns[ix 127 (c.f 0x10 1)].value = .outOfRange →
      ∃ t, exec (.wait r) s = .next t ∧ Answered s t r c stRANGE 0x14 s.cairns[ix 127 (c.f 0x10 1)].value
        ∧ t.cairns = s.cairns ∧ OtherRings s t r ∧ StoreKept s t)
    ∧ (∀ d, classify (BitVec.ofNat 32 (c.f 0x14 4)) s.cairns[ix 127 (c.f 0x10 1)].value = .ahead d →
      ∃ t c', exec (.wait r) s = .next t ∧ t.rings[r].queue.head? = some c' ∧ c'.cid = c.cid ∧ c'.remaining = some d
        ∧ t.rings[r].waiting = s.rings[r].waiting ∧ t.cairns = s.cairns ∧ OtherRings s t r ∧ StoreKept s t))
  ∧ (∀ (s : State) (r : Ring) (c : Cmd) (d : Nat) (k : Cairn) (add : Word), Pre.pendingWait s r c d k →
    s.cfg.loaded = true → add ≠ 0 → bit add 31 = false →
    (d ≤ add.toNat → ∃ t, GoesOn s t (exec (.signalPageAdd s.cairns[k].owner (8 * k.val) 4 add) s)
      ∧ Answered s t r c stOK (BitVec.ofNat 64 (s.cairns[k].value + add).toNat) 1)
    ∧ (add.toNat < d → ∃ t c', GoesOn s t (exec (.signalPageAdd s.cairns[k].owner (8 * k.val) 4 add) s)
      ∧ t.rings[r].queue.head? = some c' ∧ c'.cid = c.cid ∧ c'.remaining = some (d - add.toNat)
      ∧ t.rings[r].waiting = s.rings[r].waiting))

/-- R155: a signal from any source (a ring, a signal page, a unit, the Pair link) to a cairn that its tenant does not
own never changes VALUE and increments XTENANT_BLOCK of that cairn, which saturates; a ring SIGNAL to it completes
FOREIGN. -/
def Obligations.ForeignSignalsAreBlocked : Prop :=
  (∀ (s : State) (t : Tenant) (c : Cairn) (kind id : Nat) (add : Word), s.cairns[c].owner ≠ t →
    (signalFrom t c kind id add s).cairns[c].value = s.cairns[c].value
      ∧ (signalFrom t c kind id add s).cairns[c].xblock = satAdd s.cairns[c].xblock 1
      ∧ (signalFrom t c kind id add s).st = s.st)
  ∧ (∀ (s : State) (t : Tenant) (c : Cairn) (v : Word), s.pw.rdy = true → s.cfg.loaded = true → v ≠ 0 →
      bit v 31 = false → s.cairns[c].owner ≠ t →
      exec (.signalPageAdd t (8 * c.val) 4 v) s = .next (resumeUnits (signalFrom t c 6 t.val v s)))
  ∧ (∀ (s : State) (u : SigUnit) (c : Cairn) (v : Word), s.unitRuns u = true → s.asleep u = false →
      s.pw.pstate = .active → v ≠ 0 → bit v 31 = false → s.cairns[c].owner ≠ s.unitTenant u →
      exec (.unitSignal u c v) s
        = .next (resumeUnits (signalFrom (s.unitTenant u) c (sigKind u) (sigId u) v s)))
  ∧ (∀ (s : State) (r : Ring) (c : Cmd), headCmd s r = some c → c.op = 5 → s.rings[r].past.length < 64 →
      c.started = false → wellFormedTrb c.trb = true → s.cfg.loaded = true → c.f 0x10 1 ≤ 127 → c.trunc = none →
      s.rings[r].find c.cid = some c → s.cairns[ix 127 (c.f 0x10 1)].owner ≠ s.ringTenant r →
      ∃ t, GoesOn s t (exec (.signal r) s) ∧ Answered s t r c stFOREIGN 0x10 0
        ∧ t.cairns[ix 127 (c.f 0x10 1)].value = s.cairns[ix 127 (c.f 0x10 1)].value
        ∧ t.cairns[ix 127 (c.f 0x10 1)].xblock = satAdd s.cairns[ix 127 (c.f 0x10 1)].xblock 1)

/-- Units (R147, R149, R157): a signal of a running unit to a cairn its tenant owns adds to it; a wait already reached
leaves the unit running and changes nothing; one ahead is held pending with its distance; one out of range is held
without a distance, so that no signal ever satisfies it. The signal pages (R153): from RDY, with a bit-stream loaded,
an aligned 4-byte write of an ADD from 1 to 2^31 − 1 to the add word of a cairn the page's tenant owns adds to VALUE;
a page write that breaks one of the other conditions changes no VALUE and counts one in SIG_REJ of the cairn it
covers. CAIRN_PUBLICATION (R161): an owed publication is written as VALUE and its complement, and nothing is owed any
more; the write leaves untranslated with ATS disabled, else under its translation, which is asked for first. One that
fails its check sets PUB_FLT, writes nothing, and is counted by the ATPU. -/
def Obligations.UnitsPagesAndPublications : Prop :=
  (∀ (s : State) (u : SigUnit) (c : Cairn) (v : Word) (m : WaitMode), s.unitRuns u = true → s.asleep u = false →
    s.pw.pstate = .active →
    (v ≠ 0 → bit v 31 = false → s.cairns[c].owner = s.unitTenant u →
      ∃ t, GoesOn s t (exec (.unitSignal u c v) s) ∧ t.cairns[c].value = s.cairns[c].value + v
        ∧ t.cairns[c].lastKind = BitVec.ofNat 4 (sigKind u) ∧ (∀ k : Cairn, k ≠ c → t.cairns[k] = s.cairns[k])
        ∧ StoreKept s t)
    ∧ (classify v s.cairns[c].value = .satisfied → exec (.unitWait u c v m) s = .next s)
    ∧ (∀ d, classify v s.cairns[c].value = .ahead d → exec (.unitWait u c v m) s = .next { s with ma := { s.ma with
        waits := s.ma.waits ++ [{ unit := u, cairn := c, target := v, mode := m, left := some d }] } })
    ∧ (classify v s.cairns[c].value = .outOfRange → ∃ t, exec (.unitWait u c v m) s = .next t
        ∧ t.ma.waits = s.ma.waits ++ [{ unit := u, cairn := c, target := v, mode := m, left := none }]
        ∧ t.cairns = s.cairns ∧ StoreKept s t))
  ∧ (∀ (s : State) (t : Tenant) (c : Cairn) (v : Word), s.pw.rdy = true →
    (s.cfg.loaded = true → v ≠ 0 → bit v 31 = false → s.cairns[c].owner = t →
      ∃ u, GoesOn s u (exec (.signalPageAdd t (8 * c.val) 4 v) s) ∧ u.cairns[c].value = s.cairns[c].value + v
        ∧ u.cairns[c].lastKind = 6 ∧ (∀ k : Cairn, k ≠ c → u.cairns[k] = s.cairns[k]) ∧ StoreKept s u)
    ∧ (∀ off size, (s.cfg.loaded = false ∨ v = 0 ∨ bit v 31 = true ∨ size ≠ 4 ∨ off ≠ 8 * c.val) →
      off / 8 = c.val → off < 0x400 →
      ∃ u, GoesOn s u (exec (.signalPageAdd t off size v) s) ∧ u.cairns[c].value = s.cairns[c].value
        ∧ u.cairns[c].sigRej = satAdd s.cairns[c].sigRej 1 ∧ (∀ k : Cairn, k ≠ c → u.cairns[k] = s.cairns[k])
        ∧ StoreKept s u))
  ∧ (∀ (s : State) (c : Cairn) (k : Key) (a : Nat), s.pw.rdy = true → s.cairns[c].pubEn = true → s.cairns[c].pubOwed = true →
    k = s.ringKey s.cairns[c].pubRing → a = s.cairns[c].pubHi.toNat * 2 ^ 32 + s.cairns[c].pubLo.toNat * 8 →
    (s.hostDenied s.cairns[c].pubRing = false → s.link.atsEn = false →
      exec (.cairnPublication c) s = .next (emit (.publication c.val a s.cairns[c].value (s.cairns[c].value ^^^ 0xFFFFFFFF)
        { pasid := k.pasid }) (s.onCairn c (fun x => { x with pubOwed := false }))))
    ∧ (∀ e, s.hostDenied s.cairns[c].pubRing = false → s.link.atsEn = true → s.translated k a true = some e →
      exec (.cairnPublication c) s = .next (emit (.publication c.val (e.xaddr + (a - e.addr)) s.cairns[c].value
        (s.cairns[c].value ^^^ 0xFFFFFFFF) { xlat := true }) (s.onCairn c (fun x => { x with pubOwed := false }))))
    ∧ (s.fate k a true false = .wait → exec (.cairnPublication c) s = .next (askTranslation k a true s))
    ∧ (∀ why, s.fate k a true false = .fail why → ∃ t, exec (.cairnPublication c) s = .next t ∧ t.cairns[c].pubFlt = true
        ∧ t.cairns[c].pubOwed = false ∧ t.cairns[c].value = s.cairns[c].value
        ∧ t.link.fltCnt = satAdd s.link.fltCnt 1 ∧ StoreKept s t))

/-! ### Events and attention (19.5, 02, 05) -/

/-- Raising an event: within 1 ms of the same CODE and UNIT it only counts in EVT_SUPP (R389); a full log only counts
it in EVT_OVF (R388); else its record stands at EVT_TAIL, with CODE, UNIT and arguments, and EVT_TAIL advances by one
(R387). Rings, cairns, memory, configuration and admission stay. -/
def Obligations.EventsAreLoggedAtTail : Prop :=
  ∀ (s : State) (code : Nat) (unit : Byte) (a0 a1 : Word),
    let t := raiseEvent code unit a0 a1 s
    (s.wd.recent.any (fun x => x.1 == BitVec.ofNat 16 code && x.2.1 == unit && decide (s.now < x.2.2 + 1000)) = true →
      t.wd.eSupp = satAdd s.wd.eSupp 1 ∧ t.wd.eTail = s.wd.eTail ∧ t.wd.log = s.wd.log)
    ∧ (s.wd.recent.any (fun x => x.1 == BitVec.ofNat 16 code && x.2.1 == unit && decide (s.now < x.2.2 + 1000)) = false →
      s.wd.eTail - s.wd.eHead = 256 → t.wd.eOvf = satAdd s.wd.eOvf 1 ∧ t.wd.eTail = s.wd.eTail ∧ t.wd.log = s.wd.log)
    ∧ (s.wd.recent.any (fun x => x.1 == BitVec.ofNat 16 code && x.2.1 == unit && decide (s.now < x.2.2 + 1000)) = false →
      s.wd.eTail - s.wd.eHead ≠ 256 → t.wd.eTail = s.wd.eTail + 1
        ∧ t.wd.log[ix 255 (s.wd.eTail.toNat % 256)].code = BitVec.ofNat 16 code
        ∧ t.wd.log[ix 255 (s.wd.eTail.toNat % 256)].unit = unit ∧ t.wd.log[ix 255 (s.wd.eTail.toNat % 256)].a0 = a0
        ∧ t.wd.log[ix 255 (s.wd.eTail.toNat % 256)].a1 = a1
        ∧ (BitVec.ofNat 16 code, unit, s.now) ∈ t.wd.recent
        ∧ (∀ i : Fin 256, i ≠ ix 255 (s.wd.eTail.toNat % 256) → t.wd.log[i] = s.wd.log[i]))
    ∧ t.rings = s.rings ∧ t.cairns = s.cairns ∧ StoreKept s t ∧ t.cfg = s.cfg ∧ t.adm = s.adm ∧ t.ma = s.ma

abbrev Pre.msix (s : State) (v : Vec) : Prop :=
  s.link.msixEn = true ∧ s.link.msixMask = false ∧ s.vecPending v = true ∧ s.pw.phase ≠ .holdUp

/-- MSIX_REPEAT sends an unmasked pending vector's message again 1 ms after it last went; MSIX_UNMASK of the one
vector with its Pending Bit set sends its message once and clears the bit (R89). RB_N (R22, R24): with something
pending and no cause of busy, one pulse announces it; it comes again while the attention summary stays non-zero; busy
ends only with no cause left, 100 µs or more after it began. -/
def Obligations.AttentionPulsesAndMessages : Prop :=
  (∀ (s : State) (v : Vec), Pre.msix s v →
    (s.link.msix[v].mask = false → ∃ t, exec (.msixRepeat v) s = .next t
      ∧ t.bus = s.bus ++ [.msix v.val s.link.msix[v].addr s.link.msix[v].data {}]
      ∧ t.now = max s.now (s.link.msix[v].sent + 1000) ∧ t.link.msix[v].sent = t.now
      ∧ (∀ w : Vec, w ≠ v → t.link.msix[w] = s.link.msix[w]) ∧ t.rings = s.rings ∧ t.wd = s.wd ∧ StoreKept s t)
    ∧ (s.link.msix[v].pend = true → (∀ w : Vec, w ≠ v → s.link.msix[w].pend = false) →
      ∃ t, exec (.msixUnmask v) s = .next t ∧ t.link.msix[v].mask = false ∧ t.link.msix[v].pend = false
        ∧ t.bus = s.bus ++ [.msix v.val s.link.msix[v].addr s.link.msix[v].data {}]
        ∧ t.rings = s.rings ∧ t.wd = s.wd ∧ StoreKept s t))
  ∧ (∀ s : State,
    (s.pw.busy = false → s.attnSum ≠ 0 → exec .rbNAttentionPulse s
      = .next (emit .rbPulse { s with pw := { s.pw with pulsed := true } }))
    ∧ (s.pw.busy = false → s.pw.pulsed = true → s.attnSum ≠ 0 → exec .rbNPulseRepeat s
      = .next (emit .rbPulse { s with now := s.now + 1000 }))
    ∧ (s.pw.busy = true → s.pw.causes = 0 → ∃ t, exec .rbNBusyEnd s = .next t ∧ t.pw.busy = false
        ∧ s.pw.busySince + 100 ≤ t.now ∧ t.bus = s.bus ++ [.rbBusy false] ∧ t.rings = s.rings ∧ StoreKept s t)
    ∧ (s.pw.busy = true → s.pw.causes ≠ 0 → exec .rbNBusyEnd s = .next s))

/-! ### Registers and EXPERT level (04, 22) -/

abbrev Pre.unlock (s : State) (t : Tenant) (v : BitVec 16) : Prop :=
  s.pw.rdy = true ∧ s.armed t = true ∧ s.unlockCode t ≠ 0 ∧ v = s.unlockCode t ^^^ s.cfg.nonce
    ∧ bit s.cfg.lockout t.val = false

/-- The TRB bytes of a ring take a 64-byte write and read back as last written (R103); XTENANT_BLOCK of a cairn record
reads its count and clears (R412), its VALUE untouched; a read of VALUE with a bit-stream loaded answers it and clears
nothing. BAR0_BADACC: an access R411 does not accept, outside the TRB bytes and the signal pages, counts one in the
saturating BAR0_BADACC and changes nothing else; a read of that kind answers 0. -/
def Obligations.RegistersReadBackAndClear : Prop :=
  ((∀ (s : State) (r : Ring) (v : BitVec 512), Up s →
    ∃ t, exec (.registerWrite (0x10000 + 0x1000 * r.val) 64 v) s = .next t ∧ t.rings[r].trb = v
      ∧ t.rings[r].queue = s.rings[r].queue ∧ OtherRings s t r ∧ t.cairns = s.cairns ∧ StoreKept s t
      ∧ exec (.readToClear (0x10000 + 0x1000 * r.val) 64) t
          = .next (emit (.bar0Data (0x10000 + 0x1000 * r.val) v) t))
  ∧ (∀ (s : State) (c : Cairn), Up s →
    ∃ t, exec (.readToClear (0x20000 + 0x40 * c.val + 0x18) 4) s = .next t
      ∧ t.bus = s.bus ++ [.bar0Data (0x20000 + 0x40 * c.val + 0x18) (BitVec.ofNat 512 s.cairns[c].xblock.toNat)]
      ∧ t.cairns[c].xblock = 0 ∧ t.cairns[c].value = s.cairns[c].value
      ∧ (∀ k : Cairn, k ≠ c → t.cairns[k] = s.cairns[k]) ∧ t.rings = s.rings ∧ StoreKept s t)
  ∧ (∀ (s : State) (c : Cairn), Up s → s.cfg.loaded = true →
    exec (.readToClear (0x20000 + 0x40 * c.val) 4) s
      = .next (emit (.bar0Data (0x20000 + 0x40 * c.val) (BitVec.ofNat 512 s.cairns[c].value.toNat)) s)))
  ∧ (∀ (s : State) (off size : Nat), Up s → inTrb off = false → inPage off = false →
    exec (.bar0Badacc true off size) s = .next { s with cfg := { s.cfg with badacc := satAdd s.cfg.badacc 1 } }
    ∧ exec (.bar0Badacc false off size) s
      = .next (emit (.bar0Data off 0) { s with cfg := { s.cfg with badacc := satAdd s.cfg.badacc 1 } }))

/-- What a step leaves when the array has gone on; nothing more where it was at rest. -/
abbrev ArrayGoesOn (s t : State) (o : Host.Outcome State Fault Refusal) : Prop :=
  o = .next (pumpWheels t) ∧ (ArrayAtRest s → o = .next t)

/-- EXPERT level (R76, R77): an arm draws a non-zero NONCE, whatever the draw; the code XOR NONCE within the arm's 1
ms unlocks that tenant and no other; any other unlock leaves every level, counts a failure and at the third locks out;
a lock ends the tenant's level only; the arm expires 1 ms after it began, NONCE reading 0. EXPERT_WRITE_TAKES_EFFECT
(R75): a DEPTH that waits takes effect on an idle wheel, a STEP_CEIL that waits with no scan in progress; the field
waits no more. -/
def Obligations.ExpertLevelGatesWrites : Prop :=
  (∀ (s : State) (t : Tenant) (v : BitVec 16), s.pw.rdy = true →
    (∃ u, exec (.expertArm t 0x5E7A) s = .next u ∧ u.cfg.arm = some t ∧ u.cfg.nonce ≠ 0 ∧ u.cfg.armAt = s.now
      ∧ u.cfg.unlocked = s.cfg.unlocked ∧ u.rings = s.rings ∧ StoreKept s u)
    ∧ (v ≠ 0x5E7A → exec (.expertArm t v) s = .next s)
    ∧ (Pre.unlock s t v → ∃ u, exec (.expertUnlock t v) s = .next u ∧ bit u.cfg.unlocked t.val = true
      ∧ u.cfg.fails[t] = 0 ∧ u.cfg.arm = none ∧ u.cfg.nonce = 0
      ∧ (∀ w : Tenant, w ≠ t → bit u.cfg.unlocked w.val = bit s.cfg.unlocked w.val) ∧ StoreKept s u)
    ∧ (¬ Pre.unlock s t v → ∃ u, exec (.expertUnlock t v) s = .next u ∧ u.cfg.unlocked = s.cfg.unlocked
      ∧ u.cfg.fails[t] = s.cfg.fails[t] + 1 ∧ (2 ≤ s.cfg.fails[t] → bit u.cfg.lockout t.val = true)
      ∧ u.cfg.arm = none ∧ StoreKept s u)
    ∧ (∃ u, exec (.expertLock t 0) s = .next u ∧ bit u.cfg.unlocked t.val = false
      ∧ (∀ w : Tenant, w ≠ t → bit u.cfg.unlocked w.val = bit s.cfg.unlocked w.val) ∧ StoreKept s u)
    ∧ (s.cfg.arm ≠ none → ∃ u, exec .expertArmExpire s = .next u ∧ u.cfg.arm = none ∧ u.cfg.nonce = 0
      ∧ s.cfg.armAt + 1000 ≤ u.now ∧ u.cfg.unlocked = s.cfg.unlocked ∧ StoreKept s u))
  ∧ (∀ (s : State) (n : Nat), s.pw.phase ≠ .holdUp →
    (∀ w : Wheel, s.pendOf (.depth w) = some n → s.wheelIdle w = true →
      ∃ t, ArrayGoesOn s t (exec (.expertWriteTakesEffect (.depth w)) s) ∧ t.ma.wheels[w].depth = BitVec.ofNat 5 n
        ∧ t.pendOf (.depth w) = none ∧ (∀ v : Wheel, v ≠ w → t.ma.wheels[v] = s.ma.wheels[v])
        ∧ t.rings = s.rings ∧ StoreKept s t)
    ∧ (s.pendOf .stepCeil = some n → s.scanning = false →
      ∃ t, exec (.expertWriteTakesEffect .stepCeil) s = .next t ∧ t.pw.stepCeil = BitVec.ofNat 2 n
        ∧ t.pendOf .stepCeil = none ∧ t.ma = s.ma ∧ t.rings = s.rings ∧ StoreKept s t))

/-! ### Host link, windows and BAR2 (05) -/

/-- Staging windows (R84, R293): a write the table may not hold (an empty or overlapping window, one past the system
area) sets RANGE and changes nothing; an accepted one changes that entry only; every byte whose page some window still
backs reads as before, and every byte of a page no window backs any more reads 0. -/
def Obligations.WindowWriteKeepsBackedBytes : Prop :=
  ∀ (s : State) (w : Win) (k : Fin 4) (v : Word), s.pw.rdy = true → s.heldRes 3 = false → MemoryOk s →
    let e := winWrite k v s.link.wins[w]
    let ws := s.link.wins.set w e
    (winBad w e ws.toList = true → exec (.stagingWindowWrite w k v) s = .next (setExp .range s))
    ∧ (winBad w e ws.toList = false → s.st.frozen = [] →
      backedPages (e :: s.link.wins.toList) - backedPages s.link.wins.toList ≤ s.poolFreeBlocks →
      ∃ t, exec (.stagingWindowWrite w k v) s = .next t ∧ t.link.wins = ws ∧ t.cfg.expResult = 0
        ∧ (∀ a, coversPage ws.toList (a / winUnit) = true → readByte t.st.mem a = readByte s.st.mem a)
        ∧ (∀ a, s.link.wins[w].valid = true → s.link.wins[w].pages.1 ≤ a / winUnit → a / winUnit < s.link.wins[w].pages.2 →
            coversPage ws.toList (a / winUnit) = false → readByte t.st.mem a = 0)
        ∧ MemoryOk t ∧ t.rings = s.rings ∧ t.cairns = s.cairns ∧ t.st.vault = s.st.vault)

abbrev Pre.bar2Write (s : State) (rid : BitVec 16) (host : Bool) (addr : Nat) (data : List Byte) : Prop :=
  bar2There s addr data.length = true ∧ admitted s (bar2Off s addr) data.length rid host true = true
    ∧ s.st.frozen = [] ∧ s.link.bar2Wait = [] ∧ data ≠ [] ∧ MemoryOk s

abbrev Pre.page (s : State) (page a : Nat) (data : List Byte) (f : Frozen) : Prop :=
  Up s ∧ s.st.frozen = [f] ∧ f.page = page ∧ f.copied = false ∧ s.poolFreeBlocks ≠ 0 ∧ s.heldRes 3 = false
    ∧ s.link.bar2Wait = [(a, data)] ∧ a / winUnit = page ∧ (a + data.length - 1) / winUnit = page ∧ data ≠ []

/-- BAR2_WRITE (R82, R83): an admitted write stores its bytes at BAR2_INDEX windows of BAR2 and the address, and every
other byte of staging memory reads as before; one no window admits stores nothing and is counted by the ATPU.
BAR2_READ (R83): an admitted read of beats without poison answers the bytes staging memory holds there and changes no
byte; one no window admits is answered Completer Abort and counted. PAGE_COPY (R10, R11, R265): the frozen page's
bytes are kept aside as they were, and only then does the write that waited land; bytes outside the write read as
before. -/
def Obligations.Bar2MovesAdmittedBytes : Prop :=
  (∀ (s : State) (rid : BitVec 16) (host : Bool) (addr : Nat) (data : List Byte),
    (Pre.bar2Write s rid host addr data → ∃ t, exec (.bar2Write rid host addr data false) s = .next t
      ∧ t.st.mem = writeBytes (bar2Off s addr) data s.st.mem
      ∧ (∀ i (h : i < data.length), readByte t.st.mem (bar2Off s addr + i) = data[i])
      ∧ (∀ a, a < bar2Off s addr ∨ bar2Off s addr + data.length ≤ a → readByte t.st.mem a = readByte s.st.mem a)
      ∧ t.link.bar2Wait = [] ∧ t.rings = s.rings ∧ t.cairns = s.cairns ∧ t.st.vault = s.st.vault)
    ∧ (bar2There s addr data.length = true → admitted s (bar2Off s addr) data.length rid host true = false →
      ∃ t, exec (.bar2Write rid host addr data false) s = .next t ∧ t.link.fltCnt = satAdd s.link.fltCnt 1
        ∧ BusOut.aer addr ∈ t.bus ∧ t.rings = s.rings ∧ StoreKept s t))
  ∧ (∀ (s : State) (rid : BitVec 16) (host : Bool) (addr len : Nat), bar2There s addr len = true →
    (admitted s (bar2Off s addr) len rid host false = true → s.st.memBad = [] →
      ∃ t, exec (.bar2Read rid host addr len []) s = .next t
        ∧ t.bus = s.bus ++ [.bar2Data addr (readBytes s.st.mem (bar2Off s addr) len) []]
        ∧ t.rings = s.rings ∧ t.cairns = s.cairns ∧ StoreKept s t)
    ∧ (admitted s (bar2Off s addr) len rid host false = false →
      ∃ t, exec (.bar2Read rid host addr len []) s = .next t ∧ BusOut.completerAbort addr ∈ t.bus
        ∧ t.link.fltCnt = satAdd s.link.fltCnt 1 ∧ t.rings = s.rings ∧ StoreKept s t))
  ∧ (∀ (s : State) (page a : Nat) (data : List Byte) (f : Frozen), MemoryOk s → Pre.page s page a data f →
    ∃ t, exec (.pageCopy page false) s = .next t ∧ t.link.bar2Wait = []
      ∧ (∀ b, b / winUnit = page → frozenByte t f.map b = readByte s.st.mem b)
      ∧ t.st.mem = writeBytes a data s.st.mem
      ∧ (∀ b, b < a ∨ a + data.length ≤ b → readByte t.st.mem b = readByte s.st.mem b)
      ∧ t.rings = s.rings ∧ t.cairns = s.cairns)

abbrev Pre.read (s : State) (tag : Nat) (q : ReadReq) (cid : Nat) (c : Cmd) : Prop :=
  s.pw.phase ≠ .holdUp ∧ s.link.reads = [q] ∧ q.tag = tag ∧ q.what = .cmd cid 0 ∧ q.orc = false
    ∧ s.rings[q.key.ring].queue = [c] ∧ s.rings[q.key.ring].past = [] ∧ c.cid = cid ∧ 0 < q.beats

/-- What a step leaves when the commands, wheels, engines and invalidations that waited for reads have gone on. -/
abbrev ReadsGoOn (t : State) (o : Host.Outcome State Fault Refusal) : Prop :=
  o = .next (afterRead t)
    ∧ (ArrayAtRest t → (∀ r : Ring, t.rings[r].past = []) → t.link.atsInv = [] → o = .next t)

/-- READ_COMPLETION and COMPLETION_TIMEOUT of a command's read (R88, R91, R81): the beats are placed by tag; after the
last one the tag is free; a timeout, never before its range's point, poisons every beat still owed with cause TIMEOUT
and is logged once a beat. What waited for the beats goes on. Translations (R94 to R96): a grant with the access asked
for joins the translations held, of 4 KiB to 1 GiB around the page, and no failure is noted; a refusal is noted for
the waiting access; the answer to a request an invalidation has overtaken is dropped; an invalidation takes every
translation it covers away, and with no read in flight it completes at once. What waited goes on.
CONFIGURATION_REQUEST: Request Retry Status while bring-up is younger than 100 ms, and nothing changes; from RDY a
request sets what it names and nothing else. What Table 5-2 fixes reads so: MPS 512, PASID width 20, ATS queue depth
32, 18 MSI-X vectors, no PRI, SR-IOV or MSI, no Interrupt Pin; any other register reads one value, whatever it is (the
model's: the contents are the PCI Express specification's). -/
def Obligations.LinkCompletionsAndTranslations : Prop :=
  (∀ (s : State) (tag : Nat) (q : ReadReq) (cid : Nat) (c : Cmd), Pre.read s tag q cid c →
    (∀ ds : List BeatBits, ds.length = q.beats → ∃ t c', ReadsGoOn t (exec (.readCompletion tag (ds.map .ok)) s)
      ∧ t.rings[q.key.ring].queue = [c'] ∧ c'.got = c.got ++ ds.zipIdx.map (fun p => (p.2, .ok p.1)) ∧ t.link.reads = []
      ∧ t.link.fltCnt = s.link.fltCnt ∧ OtherRings s t q.key.ring ∧ StoreKept s t)
    ∧ (∃ t c', ReadsGoOn t (exec (.completionTimeout tag) s) ∧ t.rings[q.key.ring].queue = [c'] ∧ t.link.reads = []
      ∧ c'.got = c.got ++ (List.range q.beats).map (fun i => (i, .bad .timeout))
      ∧ q.since + timeoutPoint s.link.cto ≤ t.now
      ∧ t.link.fltCnt = satAdd s.link.fltCnt q.beats ∧ OtherRings s t q.key.ring ∧ StoreKept s t))
  ∧ (∀ (s : State), s.pw.phase ≠ .holdUp →
    (∀ (q : AtsReq) (log2 xaddr : Nat), s.link.atsWait = [q] → s.link.atc = [] → q.stale = false →
      ∃ t e, ReadsGoOn t (exec (.atsTranslationCompletion q.id (.grant log2 xaddr true true)) s) ∧ t.link.atsWait = []
        ∧ t.link.atc = [e] ∧ e.tenant = q.key.tenant ∧ e.pasid = q.key.pasid ∧ e.read = true ∧ e.write = true
        ∧ 12 ≤ e.log2 ∧ e.log2 ≤ 30 ∧ e.addr ≤ q.addr ∧ q.addr < e.addr + 2 ^ e.log2 ∧ 2 ^ e.log2 ∣ e.xaddr
        ∧ t.link.atsBad = s.link.atsBad ∧ t.rings = s.rings ∧ StoreKept s t)
    ∧ (∀ (q : AtsReq), s.link.atsWait = [q] → q.stale = false →
      ∃ t, ReadsGoOn t (exec (.atsTranslationCompletion q.id .fail) s) ∧ t.link.atsWait = []
        ∧ t.link.atsBad = s.link.atsBad ++ [(q.key, q.addr, q.write, .atsFail)] ∧ t.link.atc = s.link.atc ∧ StoreKept s t)
    ∧ (∀ (q : AtsReq) (a : AtsReply), s.link.atsWait = [q] → q.stale = true →
      exec (.atsTranslationCompletion q.id a) s = .next { s with link := { s.link with atsWait := [] } })
    ∧ (∀ (addr len : Nat), s.link.atsEn = true → s.link.reads = [] → s.link.atsInv = [] → ArrayAtRest s →
      ∃ t, exec (.atsInvalidation none addr len) s = .next t ∧ t.link.atsInv = [] ∧ BusOut.atsInvDone ∈ t.bus
        ∧ (∀ e ∈ t.link.atc, e ∈ s.link.atc ∧ (addr + len ≤ e.addr ∨ e.addr + 2 ^ e.log2 ≤ addr))
        ∧ (∀ e ∈ s.link.atc, (addr + len ≤ e.addr ∨ e.addr + 2 ^ e.log2 ≤ addr) → e ∈ t.link.atc)
        ∧ (∀ q ∈ t.link.atsWait, q.addr < addr + len → addr < q.addr + 4096 → q.stale = true)
        ∧ t.rings = s.rings ∧ StoreKept s t))
  ∧ (∀ (s : State),
    (s.pw.phase = .bringUp → s.boot.up = true → s.now < s.wd.since + 100000 → ∀ q : CfgReq,
      exec (.configurationRequest q) s = .next (emit .cfgRetry s))
    ∧ (s.pw.phase = .ready →
      (∀ on, ArrayGoesOn s { s with link := { s.link with pasidEn := on } } (exec (.configurationRequest (.pasidEnable on)) s))
      ∧ (∀ n, exec (.configurationRequest (.maxReadRequest n)) s = .next { s with link := { s.link with maxRead := n } })
      ∧ (∀ n, exec (.configurationRequest (.timeoutRange n)) s = .next { s with link := { s.link with cto := n } })
      ∧ (∀ n, n ≤ 8 → exec (.configurationRequest (.bar2Resize n)) s
        = .next { s with link := { s.link with bar2Log2 := n, bar2Index := 0 } })
      ∧ (∀ o, ∃ v, exec (.configurationRequest (.option o)) s = .next (emit (.cfgOption o v) s)
        ∧ (o = .maxPayload → v = 512) ∧ (o = .pasidWidth → v = 20) ∧ (o = .atsQueueDepth → v = 32)
        ∧ (o = .msixVectors → v = 18) ∧ (o = .pri ∨ o = .srIov ∨ o = .msi ∨ o = .interruptPin → v = 0))
      ∧ (∀ reg, ∃ v t, exec (.configurationRequest (.read reg)) s = .next t ∧ t.bus = s.bus ++ [.cfgData reg v]
        ∧ (reg = 0x3C → fld v 8 8 = 0) ∧ t.link = s.link ∧ t.rings = s.rings ∧ StoreKept s t)))

/-- Capacity (R80, R338, R347): after a retrain or a change of ONFI channels or derating, every resource's live
capacity is that of its inputs; where the admission total exceeds it the resource is in breach with FRAC = 1024 L / T;
no guarantee entry changes. BREACH_END leaves BREACH 0 and FRAC 1024 at least 1 ms after T ≤ L began, and LINK_MARGIN
only announces itself. A retrain to a mix that Tables 5-2 and 5-7 do not allow changes nothing (the model's choice).
SVC_ENT_WRITE (R342): an AMOUNT that R342 admits replaces that entry's AMOUNT and no other entry's; one it does not
admit leaves every entry and sets EXP_RESULT. -/
def Obligations.CapacityIsAdmitted : Prop :=
  (∀ (s : State), s.boot.up = true → s.pw.phase = .ready →
    (∀ (onfi : BitVec 16) (derated : Bool), ∃ t, exec (.capacityChange onfi derated) s = .next t ∧ t.st.onfi = onfi
      ∧ t.pw.derated = derated ∧ (∀ k : Res, t.adm[k].live = satNat 16 (t.liveOf k) ∧ t.adm[k].ent = s.adm[k].ent
        ∧ (t.liveOf k < t.adm[k].total → t.adm[k].breach = true
            ∧ t.adm[k].frac = BitVec.ofNat 11 (fracOf (t.liveOf k) t.adm[k].total)))
      ∧ t.rings = s.rings ∧ (∀ a, readByte t.st.mem a = readByte s.st.mem a))
    ∧ (∀ (rate width : BitVec 4) (flit : Bool) (tagw : BitVec 2), linkMix rate width flit tagw = false →
      exec (.linkRetrain rate width flit tagw) s = .next s)
    ∧ (∀ (rate width : BitVec 4) (flit : Bool) (tagw : BitVec 2), linkMix rate width flit tagw = true →
      ∃ t, ArrayGoesOn s t (exec (.linkRetrain rate width flit tagw) s)
      ∧ t.link.rate = rate ∧ t.link.width = width ∧ t.link.flit = flit ∧ t.link.tagw = tagw
      ∧ (∀ k : Res, t.adm[k].live = satNat 16 (t.liveOf k) ∧ t.adm[k].ent = s.adm[k].ent
        ∧ (t.liveOf k < t.adm[k].total → t.adm[k].breach = true))
      ∧ t.rings = s.rings ∧ StoreKept s t)
    ∧ (∀ (k : Res) (t0 : Nat), s.adm[k].okSince = some t0 → s.adm[k].breach = true →
      ∃ t, exec (.breachEnd k) s = .next t ∧ t.adm[k].breach = false ∧ t.adm[k].frac = 1024 ∧ t0 + 1000 ≤ t.now
        ∧ (∀ j : Res, j ≠ k → t.adm[j] = s.adm[j]) ∧ t.rings = s.rings ∧ StoreKept s t)
    ∧ (∀ which, exec (.linkMargin which) s = .next (raiseEvent 0x0302 0xFF (BitVec.ofNat 32 which.val) 0 s)))
  ∧ (∀ (s : State) (q : Req) (k : Res) (v : Word), s.pw.rdy = true → s.cfg.loading = false →
    fld v 16 8 = s.adm[k].ent[q].weight → fld v 0 16 ≠ s.adm[k].ent[q].amount →
    (decideAmount s q k (fld v 0 16).toNat = .applied → ∃ t, exec (.svcEntWrite q k v) s = .next t
      ∧ t.adm[k].ent[q].amount = fld v 0 16 ∧ t.adm[k].ent[q].cls = s.adm[k].ent[q].cls
      ∧ (∀ p : Req, p ≠ q → t.adm[k].ent[p] = s.adm[k].ent[p]) ∧ (∀ j : Res, j ≠ k → t.adm[j] = s.adm[j])
      ∧ t.cfg.expResult = 0 ∧ t.rings = s.rings ∧ StoreKept s t)
    ∧ (decideAmount s q k (fld v 0 16).toNat ≠ .applied →
      exec (.svcEntWrite q k v) s = .next (setExp (decideAmount s q k (fld v 0 16).toNat) s)))

/-! ### Power, clocks and thermal (02) -/

/-- Power-state requests and entries (R28): NAP is requested and stays pending while the engine is not in NAP; ACTIVE
and AUTO cancel it; a pending request is granted only while the engine is quiescent; IDLE is entered under AUTO with
no crag at work. Nothing of rings, cairns or memory changes. A used crag's store after an exit from NAP is a free
value (R29): whatever the free values are, its program's initial state is what a scan holds elsewhere, and staging
memory keeps every byte. Stated of STATE_REQ ACTIVE out of NAP. -/
def Obligations.PowerStatesAndNap : Prop :=
  (∀ s : State, Up s → s.cfg.loading = false →
    (∃ t, exec .stateReqNap s = .next t ∧ t.pw.stateReq = 2 ∧ t.pw.reqPend = (s.pw.pstate != .nap)
      ∧ t.pw.pstate = s.pw.pstate ∧ t.cfg.expResult = 0 ∧ t.rings = s.rings ∧ t.cairns = s.cairns ∧ StoreKept s t)
    ∧ (∃ t, exec .stateReqActive s = .next t ∧ t.pw.stateReq = 0 ∧ t.pw.reqPend = false ∧ t.pw.pstate = .active
      ∧ t.rings = s.rings ∧ t.cairns = s.cairns ∧ StoreKept s t)
    ∧ (∃ t, exec .stateReqAuto s = .next t ∧ t.pw.stateReq = 1 ∧ t.pw.reqPend = false
      ∧ t.pw.pstate = (if s.pw.pstate = .nap then .active else s.pw.pstate)
      ∧ t.rings = s.rings ∧ t.cairns = s.cairns ∧ StoreKept s t)
    ∧ (s.pw.reqPend = true → s.quiescent = true → exec .napEntry s
      = .next { s with pw := { s.pw with pstate := .nap, reqPend := false } })
    ∧ (s.quiescent = false → exec .napEntry s = .next s)
    ∧ (s.pw.stateReq = 1 → s.pw.pstate = .active → s.cragWork = false → exec .idleEntry s
      = .next { s with pw := { s.pw with pstate := .idle } }))
  ∧ (∀ (s : State) (n : Crag) (p : ProgSec), Up s → s.cfg.loading = false → s.pw.pstate = .nap → s.programOn n = some p →
    ∃ t k, exec .stateReqActive s = .next t ∧ t.pw.pstate = .active ∧ t.ma.crags[n].body = p.initial
      ∧ t.ma.crags[n].undefinedSince = some k ∧ StoreKept s t
      ∧ (∀ o, scanStore o = true → t.ma.crags[n].byte o = Config.freeByte k o)
      ∧ (∀ o, scanStore o = false → t.ma.crags[n].byte o = readByte p.initial o))

/-- The clock (R38, R40, R429): a requested step takes effect only while no scan is in progress, and the rail stands
at the step's target (the model's: Config gives it, LOG 100); DVFS_EVAL takes the memory rate from its measurements
and asks for the slowest of the limits, and AVS_ADJUST moves the rail at most 0.1 V and within 0.65 to 0.85 V. The
power brake (R34, R429): asserted, CAP_EFF is at most 100 W and the memory rate step is QUARTER; deasserted, the
previous memory rate step and limit return. -/
def Obligations.ClockFollowsItsLimits : Prop :=
  (∀ (s : State), Up s →
    (∀ w, s.pw.stepWant = some w → s.scanning = false → ∃ t, exec .clkStepChange s = .next t ∧ t.pw.step = w
        ∧ t.pw.stepWant = none ∧ 130 ≤ t.pw.arrayV.toNat ∧ t.pw.arrayV.toNat ≤ 170 ∧ t.pw.memStep = s.pw.memStep
        ∧ t.rings = s.rings ∧ t.ma = s.ma ∧ t.cairns = s.cairns ∧ StoreKept s t)
    ∧ (s.scanning = true → exec .clkStepChange s = .next s)
    ∧ (∀ m : PowerMeas, s.pw.pstate ≠ .nap → ∃ t, exec (.dvfsEval m) s = .next t
        ∧ t.pw.memStep = (if s.pw.brake then 2 else if m.meets04 then 0 else if m.meetsHalf then 1 else 2)
        ∧ t.pw.capStep = (if m.meets16 then 0 else if m.meets08 then 1 else 2)
        ∧ t.pw.stepWant = (if BitVec.ofNat 2 t.pw.limit = s.pw.step then none else some (BitVec.ofNat 2 t.pw.limit))
        ∧ t.pw.step = s.pw.step ∧ t.rings = s.rings ∧ StoreKept s t)
    ∧ (∀ mv, s.pw.pstate ≠ .nap → 130 ≤ s.pw.arrayV.toNat → s.pw.arrayV.toNat ≤ 170 → ∃ t, exec (.avsAdjust mv) s = .next t
        ∧ 130 ≤ t.pw.arrayV.toNat ∧ t.pw.arrayV.toNat ≤ 170 ∧ t.pw.arrayV.toNat ≤ s.pw.arrayV.toNat + 20
        ∧ s.pw.arrayV.toNat ≤ t.pw.arrayV.toNat + 20 ∧ (mv ≤ 850 → t.pw.stepWant = s.pw.stepWant)
        ∧ t.rings = s.rings ∧ StoreKept s t))
  ∧ (∀ s : State, s.pw.brake = false →
    ∃ t u, exec .pwrbrkNAssert s = .next t ∧ t.capEff ≤ 100 ∧ t.pw.memStep = 2 ∧ t.pw.brake = true
      ∧ exec .pwrbrkNDeassert t = .next u ∧ u.pw.memStep = s.pw.memStep ∧ u.capEff = s.capEff ∧ u.pw.brake = false
      ∧ u.rings = s.rings ∧ StoreKept s u)

/-- The hold-up sequence has begun: no RDY, RB_N busy with cause 1, and the cause of the coming bring-up noted once. -/
abbrev HoldUpBegun (s t : State) (cause : BitVec 4) : Prop :=
  t.pw.phase = .holdUp ∧ t.pw.rdy = false ∧ t.pw.busy = true ∧ bit t.pw.causes 1 = true
    ∧ t.boot.nextCause = some (s.boot.nextCause.getD (cause, 0)) ∧ t.rings = s.rings ∧ t.cairns = s.cairns ∧ StoreKept s t

/-- What starts the hold-up sequence (R36, R27, R26, 2.6.1, R61): main power failure, 12 V main below 10.8 V, a
surprise removal, a hot spot of 115 °C and loss of the reference clock; the first cause of a reset stands (R51), and
memory is not touched yet. Below every threshold a temperature only sets the limits; a supply inside its range changes
nothing. -/
def Obligations.HoldUpBeginsOnPowerLoss : Prop :=
  ∀ (s : State), s.live = true →
    (∃ t, exec .mainPowerFail s = .next t ∧ HoldUpBegun s t 0 ∧ t.pw.mainOn = false)
    ∧ (∃ t, exec .surpriseRemoval s = .next t ∧ HoldUpBegun s t 0)
    ∧ (∃ t, exec .clkFail s = .next t ∧ HoldUpBegun s t 0 ∧ t.boot.clkFailSeen = true)
    ∧ (∃ t, exec (.thermalThreshold 115) s = .next t ∧ HoldUpBegun s t 6 ∧ t.pw.therm115 = true)
    ∧ (∃ t, exec (.supplyRange .main 10000) s = .next t ∧ HoldUpBegun s t 0 ∧ t.pw.mainOn = false)
    ∧ (∃ t, exec (.thermalThreshold 60) s = .next t ∧ t.pw.phase = s.pw.phase ∧ t.pw.therm95 = false ∧ t.pw.hotspot = 60
        ∧ t.rings = s.rings ∧ StoreKept s t)
    ∧ (∀ mv, 3000 ≤ mv → mv ≤ 3600 → exec (.supplyRange .aux mv) s = .next s)

/-- Every command completes in a next state, but for a supply beyond its absolute maximum rating (R26, Table 2-5).
R26: a supply beyond Table 2-5 stops the model; the spec says that it may damage the module and gives no effect. -/
def Obligations.OnlyBeyondRatingsStops : Prop :=
  (∀ (c : Instr) (s : State), (∃ t, exec c s = .next t) ∨ (∃ mv, (c = .supplyRange .main mv ∧ (mv < -500 ∨ 14000 < mv)
    ∨ c = .supplyRange .aux mv ∧ (mv < -300 ∨ 4000 < mv)) ∧ exec c s = .fault .beyondRatings))
  ∧ (∀ (s : State) (mv : Int),
    (mv < -500 ∨ 14000 < mv → exec (.supplyRange .main mv) s = .fault .beyondRatings)
    ∧ (mv < -300 ∨ 4000 < mv → exec (.supplyRange .aux mv) s = .fault .beyondRatings))

/-- HOLD_UP_SEQUENCE with nothing in flight and no claim (R36, R359, Table 2-11): every key slot is zeroised, rings
and configuration are at their reset values, the Vault keeps every sector, staging memory keeps none, a kept journal
is committed, and the engine is powered down, or waits on main power. The queue of commands stays. HOLDUP_BANK_CHECK
(R37): 1,400 mJ or more sets HOLDUP_OK, and after RDY ends bring-up's cause of busy; less clears it and commits the
journal tail, so that no mapping change is at risk. AUX_CONNECTOR_SENSE: no 12 V there holds RB_N busy with cause 6
(2.1.1). -/
def Obligations.HoldUpKeepsVaultLosesKeys : Prop :=
  (∀ (s : State) (zv : Bool), s.pw.phase = .holdUp → s.st.staged = [] → s.retPending = false →
    ∃ t, exec (.holdUpSequence zv true) s = .next t
      ∧ t.pw.phase = (if s.pw.mainOn = false then .off else if s.pw.therm115 then .thermalHold else .waitRelease)
      ∧ (∀ k : KSlot, t.ma.keys[k].loaded = false ∧ t.ma.keys[k].inner = [] ∧ t.ma.keys[k].outer = [])
      ∧ (∀ r : Ring, t.rings[r].queue = [] ∧ t.rings[r].waiting = []) ∧ t.cfg.loaded = false ∧ t.st.mem = []
      ∧ t.st.vault = s.st.vault ∧ t.st.baseVault = s.st.vault ∧ t.st.journal = 0 ∧ t.boot.zeroOk = zv
      ∧ t.boot.holdUpRan = true ∧ t.pending = s.pending)
  ∧ (∀ (s : State), s.live = true → s.boot.up = true →
    (∀ mJ, 1400 ≤ mJ → ∃ t, exec (.holdupBankCheck mJ) s = .next t ∧ t.pw.holdupOk = true
        ∧ (s.pw.rdy = true → bit t.pw.causes 1 = false) ∧ (s.pw.rdy = false → t.pw.causes = s.pw.causes)
        ∧ t.rings = s.rings ∧ t.ma = s.ma ∧ t.cairns = s.cairns ∧ StoreKept s t)
    ∧ (∀ mJ, mJ < 1400 → ∃ t, exec (.holdupBankCheck mJ) s = .next t ∧ t.pw.holdupOk = false ∧ t.st.journal = 0
        ∧ t.st.baseVault = s.st.vault ∧ t.st.vault = s.st.vault ∧ t.st.mem = s.st.mem ∧ t.rings = s.rings)
    ∧ (∃ t, exec (.auxConnectorSense .absent) s = .next t ∧ t.pw.aux = .absent ∧ t.pw.busy = true
        ∧ bit t.pw.causes 6 = true ∧ (∀ r : Ring, headCmd t r = none) ∧ t.rings = s.rings ∧ StoreKept s t))

/-! ### Resets, bring-up and the retained record (03) -/

/-- Rings, configuration and the data path are at their reset values, RDY is 0 and RB_N busy. -/
abbrev DataPathReset (s t : State) : Prop :=
  t.pw.rdy = false ∧ t.pw.busy = true ∧ (∀ r : Ring, t.rings[r].queue = [] ∧ t.rings[r].past = [] ∧ t.rings[r].waiting = []
    ∧ t.rings[r].depth = 0 ∧ t.rings[r].trb = 0 ∧ t.rings[r].rseq = s.rings[r].rseq)
    ∧ t.cfg.loaded = false ∧ t.cfg.unlocked = 0 ∧ (∀ c : Cairn, t.cairns[c].value = 0) ∧ t.st.mem = []
    ∧ t.pending = s.pending

/-- The resets of Table 3-3 that come from outside (R48, R49): each resets the data path and keeps the Vault; PERST
holds the engine in reset, a hot reset and an FLR go to bring-up, PME_Turn_Off to DEEP with its acknowledge sent; the
cause recorded for the next bring-up is the first one (R51). PERST, hot reset and FLR keep the key slots; the sequence
into DEEP zeroises them. -/
def Obligations.ResetsClearDataPath : Prop :=
  ∀ (s : State), s.live = true → s.st.staged = [] →
    (∀ p, ∃ t, exec (.perstAssert p) s = .next t ∧ t.pw.phase = .inReset ∧ DataPathReset s t ∧ t.st.vault = s.st.vault
      ∧ t.boot.nextCause = some (s.boot.nextCause.getD (1, 0)) ∧ (∀ k : KSlot, t.ma.keys[k].loaded = s.ma.keys[k].loaded))
    ∧ (∃ t, exec .hotReset s = .next t ∧ t.pw.phase = .bringUp ∧ DataPathReset s t ∧ t.st.vault = s.st.vault
      ∧ t.boot.nextCause = some (s.boot.nextCause.getD (2, 0)) ∧ (∀ k : KSlot, t.ma.keys[k].loaded = s.ma.keys[k].loaded))
    ∧ (∃ t, exec .flr s = .next t ∧ t.pw.phase = .bringUp ∧ DataPathReset s t ∧ t.st.vault = s.st.vault
      ∧ t.boot.nextCause = some (s.boot.nextCause.getD (3, 0)) ∧ (∀ k : KSlot, t.ma.keys[k].loaded = s.ma.keys[k].loaded))
    ∧ (∃ t, exec .pmeTurnOff s = .next t ∧ t.pw.phase = .deep ∧ DataPathReset s t ∧ t.st.vault = s.st.vault
      ∧ BusOut.pin "PME_TO_Ack" true ∈ t.bus ∧ t.boot.nextCause = some (s.boot.nextCause.getD (7, 0))
      ∧ (∀ k : KSlot, t.ma.keys[k].loaded = false))

abbrev Pre.release (s : State) (b : BootIn) : Prop :=
  s.pw.mainOn = true ∧ s.pw.vauxOn = true ∧ s.pw.phase = .inReset ∧ s.pw.aux ≠ .absent ∧ b.slotAOk = true
    ∧ b.slotBOk = true ∧ b.chFail = 0 ∧ s.st.chFailed = 0 ∧ b.bankmJ = 1725 ∧ b.badRecords = 0 ∧ s.boot.stored.head?.map (·.2) = some s.boot.record ∧ b.frstLow = false
    ∧ b.journalLost = false ∧ s.boot.journalLost = false ∧ s.boot.factoryCmd = false ∧ s.st.lostSectors = []
    ∧ s.st.tailSecs = [] ∧ s.boot.slotA.st = 2 ∧ s.boot.slotB.st = 0

/-- Bring-up from power to readiness (R43, R44, R51, R52, R369): 3.3 Vaux drives RB_N busy and samples MADDR; the
reset release runs the steps to just before RDY, the retained record live, the pending cause in RESET_CAUSE,
BOOT_EPOCH one higher; RDY ends bring-up as a cause of busy once HOLDUP_OK is 1 (R37), and the retained watchdog
window starts. Main power coming back alone never starts bring-up (2.5.1). -/
def Obligations.BringUpReachesReady : Prop :=
  (∀ (s : State) (m : BitVec 3), s.live = false → s.pw.phase ≠ .holdUp → ∃ t, exec (.auxPowerUp m) s = .next t
      ∧ t.pw.phase = .vaux ∧ t.pw.maddr = m ∧ t.pw.busy = true ∧ t.mg.eid = 0 ∧ StoreKept s t)
  ∧ (∀ s : State, s.pw.phase = .off → exec .mainPowerReturn s
      = .next { s with pw := { s.pw with mainOn := true, phase := .waitRelease } })
  ∧ (∀ (s : State) (b : BootIn), Pre.release s b → ∃ t, exec (.resetRelease b) s = .next t ∧ t.pw.phase = .bringUp
      ∧ t.boot.up = true ∧ t.boot.epoch = s.boot.epoch + 1 ∧ t.boot.cause = (s.boot.nextCause.getD (0, 0)).1
      ∧ t.boot.nextCause = none ∧ t.st.chInUse = 0xFF ∧ t.pw.holdupOk = true
      ∧ t.wd.windowS = s.boot.record.windowS ∧ t.tenants = s.boot.record.tenants ∧ t.boot.retSrc = 0
      ∧ (∀ r : Ring, t.rings[r].durable = s.boot.record.rings[r].durable
          ∧ t.rings[r].tagCap = s.boot.record.rings[r].tagCap)
      ∧ t.st.vault = s.st.vault)
  ∧ (∀ s : State, s.pw.phase = .bringUp → s.boot.up = true → s.pw.aux ≠ .absent → s.st.op.st ≠ 1 →
      s.pw.holdupOk = false → ∃ t, exec .rdy s = .next t ∧ Up t ∧ t.pw.causes = s.pw.causes ∧ t.pw.busy = s.pw.busy)
  ∧ (∀ s : State, s.pw.phase = .bringUp → s.boot.up = true → s.pw.aux ≠ .absent → s.st.op.st ≠ 1 → s.pw.holdupOk = true →
      ∃ t, exec .rdy s = .next t ∧ Up t ∧ t.wd.since = s.now ∧ t.wd.window = 1000 * s.wd.windowS.toNat
        ∧ t.wd.bringUp = false ∧ t.boot.fails = 0 ∧ bit t.pw.causes 1 = false ∧ t.rings = s.rings ∧ StoreKept s t)

/-- Slots and the record (R53, R56, R58): TRIAL_CONFIRM makes the trial slot ACTIVE, the old ACTIVE slot VALID and
raises the SVN floor to the trial slot's; a RET_CTL write R56 refuses sets RET_STATUS.REJ and changes nothing else; an
admitted one writes factory values as the new record and resets the data path; RETAINED_COMMIT leaves nothing pending.
-/
def Obligations.RecordAndSlotsCommit : Prop :=
  (∀ (s : State) (t0 : Nat), s.wd.confirmFrom = some t0 → s.boot.trial = true → s.boot.bootB = true → s.pw.phase = .ready →
      s.boot.slotA.st = 2 → ∃ t, exec .trialConfirm s = .next t ∧ t.boot.slotB.st = 2 ∧ t.boot.slotA.st = 1
        ∧ t.boot.svnFloor = s.boot.slotB.svn ∧ t.boot.trial = false
        ∧ t0 + 1000000 * s.wd.windowS.toNat ≤ t.now ∧ t.rings = s.rings ∧ StoreKept s t)
  ∧ (∀ (s : State) (v : Word), s.live = true → (fld v 16 16 ≠ 0xFAC7 ∨ bit v 0 = false ∨ s.st.op.st = 1 ∨ s.boot.update ≠ .idle) →
      exec (.factoryResetCommand v) s = .next { s with boot := { s.boot with retRej := true } })
  ∧ (∀ (s : State) (v : Word), s.live = true → retCtlRefused v s = false → s.st.staged = [] →
      ∃ t, exec (.factoryResetCommand v) s = .next t ∧ t.boot.record = {} ∧ t.pw.phase = .bringUp ∧ DataPathReset s t
        ∧ t.boot.nextCause = some (s.boot.nextCause.getD (5, 0)) ∧ t.st.vault = s.st.vault)
  ∧ (∀ (s : State), Up s → s.retPending = true → ∃ t, exec .retainedCommit s = .next t ∧ t.retPending = false
      ∧ t.boot.record = s.liveRecord ∧ t.boot.commits = satAdd s.boot.commits 1
      ∧ (∀ l, s.boot.lastRecord = some l → l + 1000000 ≤ t.now) ∧ t.rings = s.rings ∧ StoreKept s t)

/-! ### The watchdog (19) -/

/-- WDT_TOKEN (R370, R371, R376): the token that serves starts a new window of the length WINDOW_S gives, with a new
sequence number and whatever challenge is drawn; the first wrong token only sets BADTOK; the second in a row resets
the data path with cause 4. WDT_WARN comes once a window, three quarters into it, and announces itself;
WATCHDOG_EXPIRY comes at the window's end and resets the data path; before RDY it counts as a bring-up failure, and
the third marks the slot FAILED (R374 to R376, R59). -/
def Obligations.WatchdogServesWarnsExpires : Prop :=
  (∀ (s : State) (v : Word), Up s →
    (v = s.wd.token → ∃ t, exec (.wdtToken v) s = .next t ∧ t.wd.since = s.now ∧ t.wd.window = 1000 * s.wd.windowS.toNat
      ∧ t.wd.seq = s.wd.seq + 1 ∧ t.wd.badTok = false ∧ t.wd.warn = false ∧ t.rings = s.rings ∧ StoreKept s t)
    ∧ (v ≠ s.wd.token → s.wd.badTok = false → ∃ t, exec (.wdtToken v) s = .next t ∧ t.wd.badTok = true
      ∧ t.wd.since = s.wd.since ∧ t.wd.seq = s.wd.seq ∧ Up t ∧ t.rings = s.rings ∧ StoreKept s t)
    ∧ (v ≠ s.wd.token → s.wd.badTok = true → s.st.staged = [] → ∃ t, exec (.wdtToken v) s = .next t
      ∧ t.pw.phase = .bringUp ∧ DataPathReset s t ∧ t.boot.nextCause = some (s.boot.nextCause.getD (4, 1))
      ∧ t.st.vault = s.st.vault))
  ∧ (∀ s : State,
    (Up s → s.wd.warn = false → ∃ t, exec .wdtWarn s = .next t ∧ t.wd.warn = true
      ∧ s.wd.since + 750 * s.wd.window ≤ t.now ∧ t.wd.since = s.wd.since ∧ t.rings = s.rings ∧ StoreKept s t)
    ∧ (Up s → s.st.staged = [] → ∃ t, exec .watchdogExpiry s = .next t ∧ t.pw.phase = .bringUp ∧ DataPathReset s t
      ∧ s.wd.since + 1000 * s.wd.window ≤ t.now ∧ t.boot.nextCause = some (s.boot.nextCause.getD (4, 0))
      ∧ t.boot.fails = s.boot.fails ∧ t.st.vault = s.st.vault)
    ∧ (s.pw.phase = .bringUp → s.pw.rdy = false → s.boot.bootB = false → s.boot.trial = false → s.boot.update = .idle →
      s.boot.fails = 2 → s.st.staged = [] →
      ∃ t, exec .watchdogExpiry s = .next t ∧ t.boot.slotA.st = 5 ∧ t.boot.fails = 3 ∧ DataPathReset s t))

/-! ### Sectors, the drain and the Vault (06, 15) -/

/-- Byte `i` of a transfer of sectors from `lba` on, as a sector command sees the Vault. -/
def sectorByte (s : State) (lba i : Nat) : Byte := fld (s.visibleSec (lba + i / 4096)).data (8 * (i % 4096)) 8

abbrev Pre.writeSectors (s : State) (r : Ring) (c : Cmd) : Prop :=
  Started s r c 1 ∧ s.rings[r].queue = [c] ∧ (∀ q : Ring, s.rings[q].past = []) ∧ vaultGate s c = none ∧ c.f 0x24 1 = 1
    ∧ c.f 0x10 8 % 64 = 0 ∧ (∀ k < 64 * c.f 0x20 4, inWindows s (s.ringTenant r) (c.f 0x10 8 + 64 * k) 64 = true)
    ∧ s.st.memBad = [] ∧ s.st.staged = [] ∧ ceilDiv (c.f 0x20 4) 512 ≤ s.poolFreeBlocks

abbrev Pre.readSectors (s : State) (r : Ring) (c : Cmd) : Prop :=
  Started s r c 2 ∧ s.rings[r].find c.cid = some c ∧ vaultGate s c = none ∧ earlierWrite s r c = false
    ∧ c.f 0x24 1 = 1 ∧ c.f 0x10 8 % 64 = 0
    ∧ (∀ k < 64 * c.f 0x20 4, inWindows s (s.ringTenant r) (c.f 0x10 8 + 64 * k) 64 = true)
    ∧ (∀ i < c.f 0x20 4, (s.visibleSec (c.f 0x18 8 + i)).psn = 0) ∧ s.st.unread = [] ∧ s.st.frozen = [] ∧ snoopsOn s .vaultRead = []
    ∧ MemoryOk s

/-- WRITE_SECTORS from staging memory (R116, R117): every sector is staged at its LBA with the bytes its source held;
a BUFFERED command completes OK when staged, a DURABLE one leaves the head and completes later. Staging memory and the
Vault itself do not change. READ_SECTORS into staging memory (R116, R300): its DST gets, byte by byte, the newest
staged version of each sector or else the Vault's contents; every byte outside the COUNT sectors from DST reads as
before, and the command completes OK. -/
def Obligations.SectorCommandsMoveSectors : Prop :=
  (∀ (s : State) (r : Ring) (c : Cmd), Pre.writeSectors s r c →
    ∃ t, exec (.writeSectors r) s = .next t ∧ t.st.staged.length = c.f 0x20 4
      ∧ (∀ i < c.f 0x20 4, ∃ g, t.st.staged[i]? = some g ∧ g.lba = c.f 0x18 8 + i ∧ g.src = .ring r ∧ g.cid = c.cid
          ∧ g.acked = !c.durable ∧ g.sec.psn = 0
          ∧ ∀ j < 4096, fld g.sec.data (8 * j) 8 = readByte s.st.mem (c.f 0x10 8 + 4096 * i + j))
      ∧ (c.durable = false → Answered s t r c stOK 0 0 ∧ t.rings[r].past = [])
      ∧ (c.durable = true → t.rings[r].waiting = s.rings[r].waiting ∧ ∃ d, t.rings[r].past = [d] ∧ d.cid = c.cid)
      ∧ t.rings[r].queue = [] ∧ OtherRings s t r ∧ t.cairns = s.cairns ∧ t.st.vault = s.st.vault
      ∧ (∀ a, readByte t.st.mem a = readByte s.st.mem a))
  ∧ (∀ (s : State) (r : Ring) (c : Cmd), Pre.readSectors s r c →
    ∃ t, exec (.readSectors r) s = .next t ∧ Answered s t r c stOK 0 0
      ∧ (∀ i < 4096 * c.f 0x20 4, readByte t.st.mem (c.f 0x10 8 + i) = sectorByte s (c.f 0x18 8) i)
      ∧ (∀ a, a < c.f 0x10 8 ∨ c.f 0x10 8 + 4096 * c.f 0x20 4 ≤ a → readByte t.st.mem a = readByte s.st.mem a)
      ∧ t.st.vault = s.st.vault ∧ t.st.staged = s.st.staged ∧ OtherRings s t r ∧ t.cairns = s.cairns)

abbrev Pre.unitStart (s : State) (src : Source) : Prop :=
  Up s ∧ s.st.onfi ≠ 0 ∧ s.st.op.st ≠ 1 ∧ drainClosed s src = false ∧ maySource s src = true ∧ s.st.roMode = false
    ∧ s.st.staged.any (fun g => g.src == src && g.inUnit.isNone) = true

abbrev Pre.programmed (s : State) (u : Nat) (g : Staged) (r : Ring) : Prop :=
  s.heldRes 4 = false ∧ s.st.staged = [g] ∧ g.inUnit = some u ∧ g.src = .ring r ∧ g.stands = []
    ∧ (∀ q : Ring, q ≠ r → s.rings[q].past = [] ∧ s.rings[q].queue = []) ∧ s.rings[r].queue = []
    ∧ kvOk ({} : Sec) none s.st.vault = true

abbrev Pre.vaultCmd (s : State) (r : Ring) (c : Cmd) (code : Nat) : Prop :=
  Enters s r c code ∧ s.rings[r].queue = [c] ∧ (∀ q : Ring, s.rings[q].past = []) ∧ s.st.op.st ≠ 1 ∧ s.st.roMode = false

abbrev Pre.vaultUnit (s : State) : Prop :=
  Up s ∧ s.st.op.st = 1 ∧ s.st.op.done < s.st.op.total ∧ s.st.op.kind = 1 ∧ s.st.op.bg = false
    ∧ kvOk ({} : Sec) none s.st.vault = true

/-- SANITISE and FORMAT (R310 to R312): a SANITISE of another tenant than 0 is REFUSED with 0x50 and changes nothing
in the store; tenant 0's starts the operation, gives up every staged sector and image, and runs past the head; a
FORMAT of a tenant with an extent starts its operation over the extent's 64 MiB units; one of a tenant without an
extent completes OK at once. A SANITISE goes on (R313, R314): each unit done leaves its 16,384 LBAs reading as zero
without poison and every other LBA as it was; after the last unit the operation's outcome stands in VLT_OP, RB_N's
cause of busy ends, and a command that no longer owns it leaves an event in place of an entry. -/
def Obligations.VaultOperationsClearUnits : Prop :=
  (∀ (s : State) (r : Ring) (c : Cmd),
    (Pre.vaultCmd s r c 0x41 → s.ringTenant r ≠ 0 → ∃ t, exec (.sanitise r) s = .next t
      ∧ Answered s t r c stREFUSED 0x50 0 ∧ StoreKept s t ∧ OtherRings s t r)
    ∧ (Pre.vaultCmd s r c 0x41 → s.ringTenant r = 0 → s.st.images = [] → ∃ t, exec (.sanitise r) s = .next t
      ∧ t.st.op.st = 1 ∧ t.st.op.kind = 1 ∧ t.st.op.done = 0 ∧ t.st.op.total = wholeUnits ∧ t.st.staged = []
      ∧ t.st.images = [] ∧ t.rings[r].queue = [] ∧ t.rings[r].waiting = s.rings[r].waiting
      ∧ (c.f 0x11 1 = 0 → t.pw.busy = true ∧ bit t.pw.causes 3 = true) ∧ t.st.mem = s.st.mem ∧ OtherRings s t r)
    ∧ (Pre.vaultCmd s r c 0x42 → c.f 0x10 1 = 0 → (s.extent (s.ringTenant r)).2 ≠ 0 → ∃ t, exec (.format r) s = .next t
      ∧ t.st.op.st = 1 ∧ t.st.op.kind = 2 ∧ t.st.op.total = (s.extent (s.ringTenant r)).2 / 16384
      ∧ t.rings[r].queue = [] ∧ t.rings[r].waiting = s.rings[r].waiting ∧ t.st.mem = s.st.mem ∧ t.st.vault = s.st.vault
      ∧ OtherRings s t r)
    ∧ (Pre.vaultCmd s r c 0x42 → c.f 0x10 1 = 0 → (s.extent (s.ringTenant r)).2 = 0 → ∃ t, exec (.format r) s = .next t
      ∧ Answered s t r c stOK 0 0 ∧ StoreKept s t ∧ OtherRings s t r))
  ∧ ((∀ s : State, Pre.vaultUnit s → ∃ t, exec (.vaultOpUnitDone 0) s = .next t ∧ t.st.op.done = s.st.op.done + 1
      ∧ (∀ l, s.st.op.done * 16384 ≤ l → l < s.st.op.done * 16384 + 16384 → t.vaultSec l = {})
      ∧ (∀ l, l < s.st.op.done * 16384 ∨ s.st.op.done * 16384 + 16384 ≤ l → t.vaultSec l = s.vaultSec l)
      ∧ t.st.mem = s.st.mem ∧ t.cairns = s.cairns)
  ∧ (∀ s : State, s.pw.rdy = true → s.st.op.st = 1 → s.st.op.total ≤ s.st.op.done → s.st.op.owner = none →
      s.st.op.kind = 1 → s.st.op.bg = false →
      ∃ t, exec .vaultOpDone s = .next t ∧ t.st.op.st = (if s.st.op.bad = 0 then 2 else 3) ∧ bit t.pw.causes 3 = false
        ∧ t.rings = s.rings ∧ t.st.mem = s.st.mem ∧ t.st.vault = s.st.vault)
  ∧ (∀ (s : State) (r : Ring) (c : Cmd), s.pw.rdy = true → s.st.op.st = 1 → s.st.op.total ≤ s.st.op.done →
      s.st.op.owner = some (r, c.cid) → s.rings[r].find c.cid = some c → c.trunc = none → c.op = 0x41 → s.st.op.bad = 0 →
      ∃ t, exec .vaultOpDone s = .next t ∧ Answered s t r c stOK (BitVec.ofNat 64 s.st.op.done) 0 ∧ t.st.op.st = 2
        ∧ OtherRings s t r ∧ t.st.mem = s.st.mem ∧ t.st.vault = s.st.vault))

/-- The drain (R298, R301, R306, R117, R133): a program unit takes up to 32 sectors of its source in order and changes
nothing else; a sector programmed stands in the Vault and an unacknowledged write of it completes OK; a failed
acknowledged one leaves the Vault as it was, takes the ring's next RSEQ and flags the next entry. Upkeep of memory and
medium (R297, R305, R311): a clean scrub changes only where the scrub stands; a corrected beat counts one in STG_CE;
an uncorrectable window beat is poisoned in place and no byte changes; a retried read counts one, an unreadable sector
is counted and reads poisoned until rewritten; a background erase changes no LBA. -/
def Obligations.DrainAndUpkeepKeepSectors : Prop :=
  ((∀ (s : State) (src : Source), Pre.unitStart s src → exec (.programUnitStart src) s
    = .next { s with st := { s.st with staged := unitTake src s.st.nextUnit 32 s.st.staged, nextUnit := s.st.nextUnit + 1 } })
  ∧ (∀ (s : State) (u : Nat) (g : Staged) (r : Ring), Pre.programmed s u g r → g.acked = true → s.rings[r].past = [] →
    (g.sec.psn = 0 → ∃ t, exec (.sectorProgrammed u [.ok]) s = .next t ∧ t.vaultSec g.lba = g.sec ∧ t.st.staged = []
      ∧ (∀ l, l ≠ g.lba → t.vaultSec l = s.vaultSec l) ∧ t.st.mem = s.st.mem
      ∧ t.rings[r].waiting = s.rings[r].waiting ∧ t.rings[r].rseq = s.rings[r].rseq)
    ∧ (∃ t, exec (.sectorProgrammed u [.failed]) s = .next t ∧ t.st.vault = s.st.vault ∧ t.st.staged = []
      ∧ t.rings[r].rseq = (if s.rings[r].rseq = 0xFFFFFFFF then 1 else s.rings[r].rseq + 1)
      ∧ t.rings[r].deferOwed = true ∧ t.st.mem = s.st.mem ∧ t.rings[r].waiting = s.rings[r].waiting))
  ∧ (∀ (s : State) (u : Nat) (g : Staged) (r : Ring) (c : Cmd), Pre.programmed s u g r → g.acked = false →
    s.rings[r].past = [c] → c.cid = g.cid → c.op = 1 → c.effect = true → c.failedLba = [] → c.badBeats = 0 →
    c.badCause = none → c.trunc = none → g.sec.psn = 0 →
    ∃ t, exec (.sectorProgrammed u [.ok]) s = .next t ∧ Answered s t r c stOK 0 0 ∧ t.vaultSec g.lba = g.sec
      ∧ t.rings[r].past = [] ∧ t.st.staged = [] ∧ t.st.mem = s.st.mem))
  ∧ (∀ (s : State) (b lba n : Nat), s.pw.rdy = true →
    exec (.patrolScrub (.offset b) .clean) s = .next { s with st := { s.st with scrubAt := b } }
    ∧ exec (.patrolScrub (.offset b) .corrected) s = .next { s with st := { s.st with ce := satAdd s.st.ce 1, scrubAt := b } }
    ∧ (∃ t, exec (.patrolScrub (.offset b) .uncorrectable) s = .next t ∧ b ∈ t.st.memBad
        ∧ (∀ k ∈ s.st.memBad, k ∈ t.st.memBad) ∧ t.st.mem = s.st.mem ∧ t.rings = s.rings)
    ∧ exec (.vaultReadDone lba .retried) s = .next { s with st := { s.st with readRetry := satAdd s.st.readRetry 1 } }
    ∧ (∃ t, exec (.vaultReadDone lba .unreadable) s = .next t ∧ t.st.unreadable = satAdd s.st.unreadable 1
        ∧ (t.readSec lba).psn = BitVec.allOnes 64 ∧ t.st.vault = s.st.vault ∧ t.st.mem = s.st.mem ∧ t.rings = s.rings)
    ∧ (s.adm[(5 : Res)].breach = false → exec (.backgroundErase n) s
        = .next { s with st := { s.st with erase := s.st.erase - n } }))

/-! ### Snapshots, restores and digests (12, 13) -/

/-- No Sloe lane is set to snoop a stream, and no earlier write waits for its staging. -/
abbrev NothingListens (s : State) : Prop :=
  (∀ l : Lane, s.ma.lanes[l].snoops = []) ∧ (∀ q : Ring, ∀ d ∈ s.rings[q].past, d.op = 1 → d.effect = true)

/-- Every Rowan engine is idle, one of them serves, and no bit-stream transfer waits for one. -/
abbrev EnginesIdle (s : State) : Prop :=
  (∀ e : Eng, s.ma.rowan[e].queue = []) ∧ s.ma.xferWait = [] ∧ s.rowanFree.isSome = true

abbrev Pre.snapBegin (s : State) (r : Ring) (c : Cmd) (m : MapSec) : Prop :=
  Started s r c 0x10 ∧ s.rings[r].find c.cid = some c ∧ s.map? (c.f 0x1C 1) = some m ∧ s.st.op.st ≠ 1 ∧ s.st.roMode = false
    ∧ s.cfg.bs.limits.resident = m.stagingBases.isSome ∧ c.f 0x1E 2 = m.ranges.length
    ∧ (∀ i ∈ s.st.images, ¬(i.tenant = s.ringTenant r ∧ i.img = BitVec.ofNat 32 (c.f 0x18 4)))
    ∧ (∀ i ∈ s.st.images, i.map = some m.id → i.sealed_ = true)
    ∧ ceilDiv (worstSectors s.cfg.bs.limits.imgAlg m) 512 ≤ s.poolFreeBlocks
    ∧ ceilDiv (worstSectors s.cfg.bs.limits.imgAlg m) 512 ≤ s.poolTotal
    ∧ areaFits s (worstSectors s.cfg.bs.limits.imgAlg m) = true

/-- The bytes of a SNAP_RANGE are at hand: a RESIDENT map's lie in staging memory; of another map every beat of the range
has come to the command, none of them timed out, and no wheel of the packing program takes the range as its stream. -/
abbrev RangeAtHand (s : State) (r : Ring) (c : Cmd) (m : MapSec) (g : RangeSec) : Prop :=
  m.stagingBases.isSome = true ∨ (m.stagingBases = none ∧ cmdWheels s (s.ringTenant r) .pack = [] ∧ c.waitFrom = none
    ∧ c.f 0x18 8 + g.len ≤ 2 ^ 64 ∧ (rangeDescs m g (c.f 0x18 8)).all sideFits = true
    ∧ c.plan = spanPlan (c.f 0x18 8) g.len ∧ allGot c c.plan = true ∧ ∀ p ∈ c.got, p.2 ≠ .bad .timeout)

abbrev Pre.snapRange (s : State) (r : Ring) (c : Cmd) (i : Image) (x : ImgRange) (m : MapSec) (g : RangeSec) : Prop :=
  Started s r c 0x11 ∧ s.rings[r].queue = [c] ∧ s.st.op.st ≠ 1 ∧ ArrayAtRest (s.onRing r (fun y => { y with queue := [] }))
    ∧ EnginesIdle s ∧ NothingListens s ∧ s.image? (s.ringTenant r) (BitVec.ofNat 32 (c.f 0x10 4)) = some i ∧ i.sealed_ = false
    ∧ i.map.bind (fun k => s.map? k.val) = some m ∧ m.ranges[c.f 0x14 2]? = some g ∧ i.ranges[c.f 0x14 2]? = some x
    ∧ x.isIn = false ∧ c.f 0x20 8 = g.len ∧ RangeAtHand s r c m g
    ∧ (∀ w ∈ cmdWheels s (s.ringTenant r) .pack, s.ma.wheels[w].fenced = false)
    ∧ fencedFor s (some .pack) s.leafLane = none ∧ s.progHeld r c.cid .pack = false

/-- SNAP_BEGIN (R255, R259, R265), of a map whose ranges it counts right, with no OPEN image of the map, a fresh
IMAGE_ID, and room in the pool and in the image area: the image opens with none of its ranges in, the pages of the
map's slots are frozen, and the command completes OK with the share's bytes and the number of pages; no byte of
staging memory changes. SNAP_RANGE with its bytes at hand and the units it needs in service (R260, R261): the range is
in, its sectors join the drain, the command completes OK or POISONED, and no byte of staging memory changes. -/
def Obligations.SnapshotsTakeFrozenState : Prop :=
  (∀ (s : State) (r : Ring) (c : Cmd) (m : MapSec), Pre.snapBegin s r c m →
    ∃ t i, exec (.snapBegin r) s = .next t ∧ t.st.images = s.st.images ++ [i] ∧ i.tenant = s.ringTenant r
      ∧ i.img = BitVec.ofNat 32 (c.f 0x18 4) ∧ i.step = BitVec.ofNat 64 (c.f 0x10 8) ∧ i.map = some m.id
      ∧ i.sealed_ = false ∧ i.ranges.length = m.ranges.length ∧ (∀ g ∈ i.ranges, g.isIn = false)
      ∧ (∀ p ∈ slotPages m, ∃ f ∈ t.st.frozen, f.page = p ∧ f.map = m.id ∧ f.copied = false)
      ∧ Answered s t r c stOK (BitVec.ofNat 64 (shareBytes m)) (BitVec.ofNat 32 (slotPages m).length)
      ∧ OtherRings s t r ∧ t.cairns = s.cairns ∧ t.st.mem = s.st.mem ∧ t.st.vault = s.st.vault)
  ∧ (∀ (s : State) (r : Ring) (c : Cmd) (i : Image) (x : ImgRange) (m : MapSec) (g : RangeSec), Pre.snapRange s r c i x m g →
    ∃ t e, exec (.snapRange r) s = .next t
      ∧ ((t.image? i.tenant i.img).bind (fun x => (x.ranges[c.f 0x14 2]?).map (·.isIn))) = some true
      ∧ t.rings[r].waiting = s.rings[r].waiting ++ [e] ∧ e.tag = c.tag ∧ e.last = true
      ∧ (e.status = stOK ∨ e.status = stPOISONED) ∧ t.rings[r].queue = []
      ∧ (∀ x ∈ s.st.staged, x ∈ t.st.staged) ∧ t.st.mem = s.st.mem ∧ t.st.vault = s.st.vault)

abbrev Pre.snapSeal (s : State) (r : Ring) (c : Cmd) (i : Image) : Prop :=
  Started s r c 0x12 ∧ s.rings[r].queue = [c] ∧ s.rings[r].past = [] ∧ c.f 0x14 1 = 0 ∧ c.stages = 0
    ∧ s.st.images = [i] ∧ i.tenant = s.ringTenant r ∧ i.img = BitVec.ofNat 32 (c.f 0x10 4) ∧ i.copyOnly = false
    ∧ i.sealed_ = false ∧ i.durable = false ∧ s.st.op.st ≠ 1 ∧ i.ranges.all (·.isIn) = true ∧ i.badCount = 0

abbrev Pre.imageDurable (s : State) (i : Image) : Prop :=
  s.st.images = [i] ∧ s.heldRes 4 = false ∧ i.sealed_ = true ∧ i.copyOnly = false ∧ i.durable = false ∧ i.inStage = true
    ∧ i.total = i.secs.length ∧ i.total ≠ 0 ∧ i.failed = [] ∧ imageStaged s i.tenant i.img = false
    ∧ (∀ q : Ring, s.rings[q].past = []) ∧ kvOk ({} : Sec) none s.st.vault = true

/-- SNAP_SEAL with every range in (R262, R8): the image is SEALED and in staging memory, STAGED is reported as stage 1
with MORE, its image sectors wait in the drain, and the command runs past the head for its later stages. IMAGE_DURABLE
(R303, R307): with its last sector programmed the image is DURABLE and its LBAs hold its sectors, a poisoned sector
poisoned whole; every other LBA stays. -/
def Obligations.ImagesSealAndBecomeDurable : Prop :=
  (∀ (s : State) (r : Ring) (c : Cmd) (i : Image), Pre.snapSeal s r c i →
    ∃ t i2 e d, exec (.snapSeal r) s = .next t ∧ t.image? i.tenant i.img = some i2 ∧ i2.sealed_ = true ∧ i2.inStage = true
      ∧ i2.total = i2.secs.length ∧ i2.durable = false ∧ t.rings[r].waiting = s.rings[r].waiting ++ [e]
      ∧ e.tag = c.tag ∧ e.stage = 1 ∧ e.status = stOK ∧ e.more = true ∧ e.last = false
      ∧ e.d1 = BitVec.ofNat 32 i2.total ∧ t.rings[r].queue = [] ∧ t.rings[r].past = [d] ∧ d.cid = c.cid
      ∧ imageStaged t i.tenant i.img = true ∧ t.st.mem = s.st.mem ∧ t.st.vault = s.st.vault ∧ OtherRings s t r)
  ∧ (∀ (s : State) (i : Image), Pre.imageDurable s i →
    ∃ t, exec (.imageDurable i.tenant i.img) s = .next t ∧ (t.image? i.tenant i.img).map (·.durable) = some true
      ∧ (∀ k x, i.secs[k]? = some x → (t.vaultSec (i.lba + k)).data = x.data
          ∧ (t.vaultSec (i.lba + k)).psn = (if x.psn = 0 then 0 else BitVec.allOnes 64))
      ∧ (∀ l, l < i.lba ∨ i.lba + i.total ≤ l → t.vaultSec l = s.vaultSec l)
      ∧ t.rings = s.rings ∧ t.cairns = s.cairns ∧ t.st.mem = s.st.mem)

abbrev Pre.restore (s : State) (r : Ring) (c : Cmd) (m : MapSec) (i : Image) (o : Opened) : Prop :=
  Started s r c 0x13 ∧ s.rings[r].find c.cid = some c ∧ s.map? (c.f 0x1C 1) = some m ∧ vaultGate s c = none
    ∧ m.stagingBases.isSome = true ∧ (∀ e : Peer, s.pair.peers[e].xfers = []) ∧ s.st.frozen = [] ∧ EnginesIdle s
    ∧ NothingListens s ∧ restoreCheck s (s.ringTenant r) c m = .ok i ∧ c.f 0x1D 1 ≤ 1
    ∧ fencedFor s (some .unpack) none = none ∧ s.progHeld r c.cid .unpack = false
    ∧ basesReason m (slotBases m []) true = none
    ∧ openImage (restoreSecs s c i) = some o ∧ imageCompatible o.tensors m = true ∧ (s.openOf m.id).isNone = true

abbrev Pre.reshard (s : State) (r : Ring) (c : Cmd) (a b : MapSec) : Prop :=
  Started s r c 0x14 ∧ s.rings[r].find c.cid = some c ∧ c.waitFrom = none ∧ s.map? (c.f 0x10 1) = some a
    ∧ s.map? (c.f 0x11 1) = some b ∧ mapsCompatible a b = true ∧ a.stagingBases.isSome = true ∧ b.stagingBases.isSome = true
    ∧ EnginesIdle s ∧ NothingListens s
    ∧ a.tensors.any (fun x => b.tensors.any (fun y => x.id == y.id && x.dtype != y.dtype)) = false
    ∧ fencedFor s none none = none
    ∧ slotsOverlap a b (slotBases a []) (slotBases b []) = false ∧ basesReason a (slotBases a []) false = none
    ∧ basesReason b (slotBases b []) true = none

/-- RESTORE of a RESIDENT map from its own image (R267 to R269, R84): the command completes OK, POISONED or TIMEOUT;
no byte of staging memory outside its tenant's windows changes, and the Vault keeps every sector. RESHARD between
RESIDENT maps of equal types (R270, R271, R84, R12): not held by a snapshot of the same state, it completes OK,
POISONED or TIMEOUT, and changes no byte outside its tenant's windows, no sector and no image. R12: RESHARD holds at
its ring's head, no entry made and no byte moved, while a snapshot of the same state has been begun and its STAGED
entry not yet written. -/
def Obligations.RestoreAndReshardStayInWindows : Prop :=
  (∀ (s : State) (r : Ring) (c : Cmd) (m : MapSec) (i : Image) (o : Opened), Pre.restore s r c m i o →
    MemoryOk s → ∃ t e, exec (.restore r) s = .next t ∧ t.rings[r].waiting = s.rings[r].waiting ++ [e] ∧ e.tag = c.tag
      ∧ e.last = true ∧ (e.status = stOK ∨ e.status = stPOISONED ∨ e.status = stTIMEOUT)
      ∧ (e.status = stOK → e.d1 = BitVec.ofNat 32 o.chunks.length)
      ∧ (∀ a, inWindows s (s.ringTenant r) a 1 = false → readByte t.st.mem a = readByte s.st.mem a)
      ∧ t.st.vault = s.st.vault ∧ t.st.images = s.st.images ∧ OtherRings s t r ∧ t.cairns = s.cairns)
  ∧ (∀ (s : State) (r : Ring) (c : Cmd) (a b : MapSec), Pre.reshard s r c a b → s.st.frozen = [] →
    reshardHeld s (s.ringTenant r) a b = false → MemoryOk s →
    ∃ t e, exec (.reshard r) s = .next t ∧ t.rings[r].waiting = s.rings[r].waiting ++ [e] ∧ e.tag = c.tag
      ∧ e.last = true ∧ (e.status = stOK ∨ e.status = stPOISONED ∨ e.status = stTIMEOUT)
      ∧ (∀ x, inWindows s (s.ringTenant r) x 1 = false → readByte t.st.mem x = readByte s.st.mem x)
      ∧ t.st.vault = s.st.vault ∧ t.st.images = s.st.images ∧ OtherRings s t r ∧ t.cairns = s.cairns)
  ∧ (∀ (s : State) (r : Ring) (c : Cmd) (a b : MapSec), Pre.reshard s r c a b →
    reshardHeld s (s.ringTenant r) a b = true →
    ∃ t, exec (.reshard r) s = .next t ∧ t.rings[r].find c.cid = some c ∧ t.rings[r].waiting = s.rings[r].waiting
      ∧ OtherRings s t r ∧ t.st = s.st ∧ t.cairns = s.cairns)

abbrev Pre.digestVerify (s : State) (r : Ring) (c : Cmd) (l : Lane) (x : Ctx) : Prop :=
  Started s r c 0x18 ∧ s.rings[r].queue = [c] ∧ s.rings[r].past = [] ∧ c.units = 0 ∧ vaultGate s c = none
    ∧ c.f 0x10 1 = 1 ∧ c.f 0x12 1 = 0 ∧ c.f 0x13 1 = 0xFF
    ∧ (s.commandLanes (s.ringTenant r)).filter (fun l => !s.ma.lanes[l].fenced) = [l] ∧ freeCtx s.ma.lanes[l] = some x
    ∧ s.st.memBad = [] ∧ (∀ a ∈ spanPlan (c.f 0x18 8) (c.f 0x20 8), inWindows s (s.ringTenant r) a 64 = true)

abbrev Pre.digestDone (s : State) (l : Lane) (x : Ctx) (m : SloeMsg) (d : Cmd) : Prop :=
  Up s ∧ s.ma.lanes[l].fenced = false ∧ s.ma.lanes[l].ctx[x].msg = some m ∧ m.ended = true ∧ m.compare = false
    ∧ ArrayAtRest s ∧ m.snoop = none ∧ m.inner = none ∧ m.keyFail = false ∧ m.chain = none ∧ m.done = 0 ∧ m.declared = m.bytes.length ∧ m.tainted = false
    ∧ m.parked = false ∧ m.finalised = false ∧ m.cid = some d.cid ∧ m.resAddr = 0 ∧ m.expectBad = false
    ∧ s.rings[m.ring].find d.cid = some d ∧ d.op = 0x18 ∧ d.badCause = none ∧ d.badBeats = 0 ∧ d.tainted = false
    ∧ d.trunc = none

/-- DIGEST_VERIFY of staging memory, unkeyed, in DIGEST mode (R229, R247, R248): a free context of the tenant's
COMMAND lane takes the message, holding exactly the LEN bytes staging memory has at SRC; SLOE_LAST names it, and the
command runs past the head. SLOE_DIGEST_COMPLETE (R235, R248): the context's result slot takes the message's SHA
digest, the context is free, and the DIGEST_VERIFY completes OK with the digest's first eight bytes in DETAIL0 and its
lane and context in DETAIL1. SR_SAVE and SR_RESTORE below EXPERT level are refused with LOCKED and change nothing
else; a save of a parked unkeyed context at a block boundary gives its byte count in SR_LEN, and a restore takes
SR_LEN as what it has digested (R250, R251). -/
def Obligations.DigestsTakeAndGiveMessages : Prop :=
  (∀ (s : State) (r : Ring) (c : Cmd) (l : Lane) (x : Ctx), Pre.digestVerify s r c l x →
    ∃ t m d, exec (.digestVerify r) s = .next t ∧ t.ma.lanes[l].ctx[x].msg = some m
      ∧ m.bytes = readBytes s.st.mem (c.f 0x18 8) (c.f 0x20 8) ∧ m.ended = true ∧ m.tainted = false
      ∧ m.cid = some c.cid ∧ m.declared = c.f 0x20 8 ∧ t.rings[r].sloeLast = some (l, x) ∧ t.rings[r].queue = []
      ∧ t.rings[r].past = [d] ∧ d.cid = c.cid ∧ t.rings[r].waiting = s.rings[r].waiting ∧ OtherRings s t r ∧ StoreKept s t)
  ∧ ((∀ (s : State) (l : Lane) (x : Ctx) (m : SloeMsg) (d : Cmd), Pre.digestDone s l x m d →
    ∃ t, exec (.sloeDigestComplete l x none true) s = .next t
      ∧ t.ma.lanes[l].ctx[x].digest = ofBytes 512 (shaFinish m.alg (shaInit m.alg) 0 m.bytes)
      ∧ t.ma.lanes[l].ctx[x].state = 2 ∧ t.ma.lanes[l].ctx[x].msg = none
      ∧ Answered s t m.ring d stOK (BitVec.ofNat 64 (natLE ((shaFinish m.alg (shaInit m.alg) 0 m.bytes).take 8)))
          (BitVec.ofNat 32 (16 * l.val + x.val))
      ∧ OtherRings s t m.ring ∧ StoreKept s t ∧ t.cairns = s.cairns)
  ∧ (∀ (s : State) (l : Lane) (x : Ctx), s.pw.rdy = true → s.cfg.loading = false → s.isOpen (.srCtl l) = true →
      s.expert s.ma.lanes[l].owner = false →
      exec (.srSave l x) s = .next (setExp .locked s) ∧ exec (.srRestore l x) s = .next (setExp .locked s))
  ∧ (∀ (s : State) (l : Lane) (x : Ctx) (m : SloeMsg), s.pw.rdy = true → srCheck s l x = none →
      s.ma.lanes[l].ctx[x].msg = some m → m.bytes.length % blockOf m.alg = 0 →
      (srDecide s l 1 = .applied → ∃ t, exec (.srSave l x) s = .next t ∧ t.ma.srResult = 0 ∧ t.ma.srLen = BitVec.ofNat 64 (m.done + m.bytes.length)
        ∧ t.ma.srState = chainImage m.alg (parkedChain m) ∧ t.ma.lanes = s.ma.lanes ∧ t.rings = s.rings ∧ StoreKept s t)
      ∧ (srDecide s l 2 = .applied → s.ma.srLen.toNat % blockOf m.alg = 0 → ∃ t m', exec (.srRestore l x) s = .next t ∧ t.ma.srResult = 0
        ∧ t.ma.lanes[l].ctx[x].msg = some m' ∧ m'.bytes = [] ∧ m'.done = s.ma.srLen.toNat
        ∧ (∀ k : Lane, k ≠ l → t.ma.lanes[k] = s.ma.lanes[k]) ∧ t.rings = s.rings ∧ StoreKept s t)))

/-! ### Loads, units and placement (04, 09 to 11, 18, 19) -/

/-- The container's bytes, from the beats the command has. -/
abbrev fetchedBytes (c : Cmd) : List Byte := container c (zeroFailed (planBeats c (loadPlan c)))

/-- Checks 1 and 2 are behind the load, every beat of its container has come without poison, and no lane snoops them. -/
abbrev Pre.fetched (s : State) (r : Ring) (c : Cmd) : Prop :=
  Started s r c 0x40 ∧ s.rings[r].find c.cid = some c ∧ c.plan = loadPlan c ∧ c.plan ≠ [] ∧ c.waitFrom = none
    ∧ (∀ i < c.plan.length, ∃ d, gotAt c i = some (.ok d)) ∧ ∀ l : Lane, s.ma.lanes[l].snoops = []

/-- LOAD_BITSTREAM (R71 to R73, Table 4-8): from another tenant it is REFUSED 0xB, beside other work REFUSED 1, and
the configuration stays. With its container fetched: one that fails one of checks 3 to 9 is REFUSED with LOAD_ERR, the
EXPERT state cleared and the rest of the configuration kept; one that passes all of them, no crag it names fenced,
marked or failing its check, is loaded: its digest and service table are in force, EXPERT level and LOADING are gone,
the entry is OK, and the wheels begin to move; on an array at rest the cairns read their initial values. -/
def Obligations.LoadReplacesOrKeepsConfig : Prop :=
  ∀ (s : State) (r : Ring) (c : Cmd) (g : Gsb),
    (Started s r c 0x40 → s.rings[r].find c.cid = some c → c.plan = [] → s.ringTenant r ≠ 0 →
      ∃ t, exec (.loadBitstream r g) s = .next t ∧ Answered s t r c stREFUSED 0xB 0 ∧ t.cfg.bs = s.cfg.bs
        ∧ t.cfg.digest = s.cfg.digest ∧ t.cfg.unlocked = s.cfg.unlocked ∧ t.cfg.loading = false ∧ t.ma = s.ma ∧ StoreKept s t)
    ∧ (Started s r c 0x40 → s.rings[r].find c.cid = some c → c.plan = [] → s.ringTenant r = 0 → loadQuiet s c.cid = false →
      ∃ t, exec (.loadBitstream r g) s = .next t ∧ Answered s t r c stREFUSED 1 0 ∧ t.cfg.bs = s.cfg.bs
        ∧ t.cfg.digest = s.cfg.digest ∧ t.cfg.loading = false ∧ t.ma = s.ma ∧ StoreKept s t)
    ∧ (∀ e, Pre.fetched s r c → loadErrOf s.fwVer (fetchedBytes c) false g = some e →
      ∃ t, exec (.loadBitstream r g) s = .next t ∧ Answered s t r c stREFUSED (BitVec.ofNat 64 e) 0
        ∧ t.cfg.loadErr = BitVec.ofNat 4 e ∧ t.cfg.unlocked = 0 ∧ t.cfg.bs = s.cfg.bs ∧ t.cfg.digest = s.cfg.digest
        ∧ t.cfg.loading = false ∧ t.ma = s.ma ∧ t.tenants = s.tenants ∧ StoreKept s t)
    ∧ (Pre.fetched s r c → loadErrOf s.fwVer (fetchedBytes c) false g = none →
      overCapacity s (knownPart (fetchedBytes c) g.contents) = none → g.loadFails = [] → s.wd.powerFenced = [] → (∀ n : Crag, s.ma.crags[n].fenced = false) →
      s.cfg.mgmtOff = [] →
      ∃ t, exec (.loadBitstream r g) s = .next (pumpWheels t) ∧ (ArrayAtRest t → exec (.loadBitstream r g) s = .next t)
      ∧ t.cfg.loaded = true ∧ t.cfg.bs = knownPart (fetchedBytes c) g.contents
      ∧ t.cfg.digest = gsbDigest (fetchedBytes c) ∧ t.cfg.loadErr = 0 ∧ t.cfg.unlocked = 0 ∧ t.cfg.loading = false
      ∧ (∀ k : Cairn, t.cairns[k].value = ((g.contents.limits.cairnInit.find? (fun p => p.1 == k)).map (·.2)).getD 0)
      ∧ (∀ k : Res, t.adm[k].ent = svcTable (knownPart (fetchedBytes c) g.contents) k)
      ∧ (∃ e ∈ t.rings[r].waiting, e.tag = c.tag ∧ e.status = stOK ∧ e.last = true) ∧ t.st.mem = s.st.mem)

abbrev Pre.admin (s : State) (r : Ring) (c : Cmd) : Prop :=
  Started s r c 0x4F ∧ s.rings[r].find c.cid = some c ∧ s.link.atsEn = false ∧ (s.cmdKey r c).denied = false

/-- ADMIN_QUERY (6.7), address translation off: the 4,096 bytes of the page asked for, as seen by the ring's tenant,
are written to ADDR in 64 host writes, in order, under the command's PASID (R97, R110) and with the ordering
attributes of data (R87), and the command completes OK with the page's number in DETAIL0; nothing else changes. -/
def Obligations.AdminQueryWritesItsPage : Prop :=
  ∀ (s : State) (r : Ring) (c : Cmd), Pre.admin s r c →
    ∃ t, exec (.adminQuery r) s = .next t
      ∧ t.bus = s.bus ++ (List.range 64).map (fun i => BusOut.hostWrite r.val (c.f 0x18 8 + 64 * i)
          (((adminPage s (s.ringTenant r) (c.f 0x10 1)).drop (64 * i)).take 64) false
          { pasid := (s.cmdKey r c).pasid, ro := true, ido := true })
      ∧ (∃ d1, Answered s t r c stOK (BitVec.ofNat 64 (c.f 0x10 1)) d1) ∧ OtherRings s t r ∧ t.cairns = s.cairns
      ∧ ConfigKept s t ∧ StoreKept s t

/-- A transfer of the bit-stream between staging sides heads an engine that may run it, and nothing else moves. -/
abbrev Pre.rowan (s : State) (e : Eng) (x : RowanXfer) (rest : List RowanXfer) : Prop :=
  Up s ∧ s.cfg.loaded = true ∧ s.pw.pstate = .active ∧ s.ma.rowan[e].fenced = false ∧ s.ma.rowan[e].st = 0
    ∧ s.ma.rowan[e].moved = false ∧ s.ma.rowan[e].queue = x :: rest ∧ x.own = none ∧ s.ma.xferWait = []
    ∧ ArrayAtRest (s.onRowan e (fun y => { y with queue := rest })) ∧ NothingListens s ∧ x.x.wait = none ∧ x.x.signal = none
    ∧ (∀ w ∈ s.ma.waits, w.unit ≠ SigUnit.rowan e) ∧ x.x.rd.gdim = none ∧ x.x.wd.gdim = none
    ∧ x.x.rd.space = 1 ∧ x.x.wd.space = 1 ∧ s.st.frozen = [] ∧ s.st.memBad = [] ∧ MemoryOk s

/-- ORC_INV sets the INV bits written and clears none; ORC_INV_DONE clears the tenant's bit and drops exactly its host
and peer lines (R180); DRAIN_RELEASE lets the wheel's next stream fill (R183). ROWAN_TRANSFER between staging sides
(R210, R212, R223, R224): its elements are counted, the transfer leaves its engine, and no byte outside the windows of
its ring's tenant changes; a transfer of one element inside them moves that element's bytes from the read base to the
write base and no other byte. -/
def Obligations.OrchardAndRowanMove : Prop :=
  (∀ (s : State), s.pw.rdy = true →
    (∀ mask : BitVec 8, exec (.orcInv mask) s = .next { s with ma := { s.ma with orcInv := s.ma.orcInv ||| mask } })
    ∧ (∀ t : Tenant, bit s.ma.orcInv t.val = true → s.pw.phase ≠ .holdUp → ∃ u, exec (.orcInvDone t) s = .next u ∧ bit u.ma.orcInv t.val = false
        ∧ (∀ v : Tenant, v ≠ t → bit u.ma.orcInv v.val = bit s.ma.orcInv v.val)
        ∧ (∀ l, l ∈ u.ma.lines ↔ l ∈ s.ma.lines ∧ (l.staging = true ∨ l.tenant ≠ t)) ∧ u.rings = s.rings ∧ StoreKept s u)
    ∧ (∀ w : Wheel, s.ma.wheels[w].drainHold = true → drained s w = true →
        ArrayGoesOn s (s.onWheel w (fun x => { x with drainHold := false })) (exec (.drainRelease w) s)))
  ∧ (∀ (s : State) (e : Eng) (x : RowanXfer) (rest : List RowanXfer), Pre.rowan s e x rest →
    ∃ t, exec (.rowanTransfer e) s = .next t ∧ t.ma.rowan[e].queue = rest
      ∧ t.ma.rowan[e].elems = s.ma.rowan[e].elems + BitVec.ofNat 32 (Desc.count x.x.rd)
      ∧ (∀ a, inWindows s (s.ringTenant x.x.ring) a 1 = false → readByte t.st.mem a = readByte s.st.mem a)
      ∧ MemoryOk t ∧ t.st.vault = s.st.vault ∧ t.cairns = s.cairns
      ∧ (x.x.rd.ext = [1] → x.x.wd.ext = [1] → x.x.rd.esize = x.x.wd.esize →
        inWindows s (s.ringTenant x.x.ring) x.x.rd.base (Desc.size x.x.rd) = true →
        inWindows s (s.ringTenant x.x.ring) x.x.wd.base (Desc.size x.x.wd) = true →
        (∀ i, i < Desc.size x.x.wd → readByte t.st.mem (x.x.wd.base + i) = readByte s.st.mem (x.x.rd.base + i))
        ∧ (∀ a, a < x.x.wd.base ∨ x.x.wd.base + Desc.size x.x.wd ≤ a → readByte t.st.mem a = readByte s.st.mem a)))

/-- Gates (R202, R355, R74): a write that would newly cut a used unit of no claim is refused whole with GUARANTEE;
otherwise the gate bits read as written, a claimed unit's cut waiting as a hold; LANE_GATE and SLOT_GATE write all
their units or none. A crag is used while it runs a program, a lane while a tenant owns it, a slot while one owns it
or it is LOADED. No ring, no cairn and no memory changes. Holds (R356, R357, R359): KEEP_CLAIM_RELEASE of a held unit,
other than a LOADED slot, ends the hold and the claim, and the unit is zeroised: a crag's program state is gone, a
lane's contexts are free, a key slot is empty; a read-back that failed twice fences the crag or lane.
KEEP_HOLD_REFUSED, 100 ms after the hold began, returns the gate bits to 0 and ends the hold, the claim unchanged. -/
def Obligations.GatesAndHolds : Prop :=
  (∀ (s : State), s.pw.rdy = true →
    (∀ (n : Crag) (on : Bool),
      (s.ma.crags[n].used = true → s.ma.crags[n].keep = false → on = true → s.ma.crags[n].clkGate = false →
        exec (.clkGate n on) s = .next (setExp .guarantee s))
      ∧ (s.ma.crags[n].used = false ∨ s.ma.crags[n].keep = true ∨ on = false ∨ s.ma.crags[n].clkGate = true →
        ∃ t, exec (.clkGate n on) s = .next t
        ∧ t.ma.crags[n].clkGate = on ∧ t.ma.crags[n].pwrGate = s.ma.crags[n].pwrGate
        ∧ (∀ m : Crag, m ≠ n → t.ma.crags[m] = s.ma.crags[m]) ∧ t.cfg.expResult = 0 ∧ t.rings = s.rings
        ∧ t.cairns = s.cairns ∧ StoreKept s t)
      ∧ (s.ma.crags[n].used = true → s.ma.crags[n].keep = false → on = true → s.ma.crags[n].pwrGate = false →
        exec (.pwrGate n on) s = .next (setExp .guarantee s))
      ∧ (s.ma.crags[n].used = false ∨ s.ma.crags[n].keep = true ∨ on = false ∨ s.ma.crags[n].pwrGate = true →
        ∃ t, exec (.pwrGate n on) s = .next t
        ∧ t.ma.crags[n].pwrGate = on ∧ t.ma.crags[n].clkGate = s.ma.crags[n].clkGate
        ∧ (∀ m : Crag, m ≠ n → t.ma.crags[m] = s.ma.crags[m]) ∧ t.cfg.expResult = 0 ∧ t.rings = s.rings
        ∧ t.cairns = s.cairns ∧ StoreKept s t))
    ∧ (∀ v : Word,
      let cuts := fun l : Nat => (bit v l = true ∧ bit s.cfg.laneGate l = false) ∨ (bit v (16 + l) = true ∧ bit s.cfg.laneGate (16 + l) = false)
      ((∃ l : Lane, s.ma.lanes[l].owned = true ∧ s.ma.lanes[l].keep = false ∧ cuts l.val) →
        exec (.laneGate v) s = .next (setExp .guarantee s))
      ∧ ((∀ l : Lane, s.ma.lanes[l].owned = false ∨ s.ma.lanes[l].keep = true ∨ ¬ cuts l.val) → ∃ t, exec (.laneGate v) s = .next t
        ∧ t.cfg.laneGate = v ∧ t.cfg.expResult = 0 ∧ t.ma.crags = s.ma.crags ∧ t.rings = s.rings ∧ t.cairns = s.cairns
        ∧ StoreKept s t))
    ∧ (∀ v : Word,
      let used := fun k : KSlot => s.ma.keys[k].given.isSome = true ∨ s.ma.keys[k].loaded = true
      let cuts := fun k : Nat => bit v k = true ∧ bit s.cfg.slotGate k = false
      ((∃ k : KSlot, used k ∧ s.ma.keys[k].keep = false ∧ cuts k.val) → exec (.slotGate v) s = .next (setExp .guarantee s))
      ∧ ((∀ k : KSlot, ¬ used k ∨ s.ma.keys[k].keep = true ∨ ¬ cuts k.val) → ∃ t, exec (.slotGate v) s = .next t
        ∧ t.cfg.slotGate = v ∧ t.cfg.expResult = 0 ∧ t.ma.crags = s.ma.crags ∧ t.rings = s.rings ∧ t.cairns = s.cairns
        ∧ StoreKept s t)))
  ∧ ((∀ (s : State) (u : KeepUnit) (fails : Nat), s.pw.rdy = true → (∃ h ∈ s.cfg.holds, h.1 = u) →
    (∀ k, u = .slot k → s.ma.keys[k].loaded = false) →
    ∃ t, exec (.keepClaimRelease u fails) s = .next t ∧ keepUnit t u = false ∧ (∀ h ∈ t.cfg.holds, h.1 ≠ u)
      ∧ gateBits t u = gateBits s u ∧ (∀ n, u = .crag n → t.ma.crags[n].body = [])
      ∧ (∀ l, u = .lane l → t.ma.lanes[l].ctx = Vector.replicate 16 {} ∧ t.ma.lanes[l].owned = false)
      ∧ (∀ k, u = .slot k → t.ma.keys[k].inner = [] ∧ t.ma.keys[k].outer = [])
      ∧ (2 ≤ fails → (∀ n, u = .crag n → t.ma.crags[n].fenced = true) ∧ (∀ l, u = .lane l → t.ma.lanes[l].fenced = true))
      ∧ t.rings = s.rings ∧ t.cairns = s.cairns ∧ StoreKept s t)
  ∧ (∀ (s : State) (u : KeepUnit) (t0 : Nat), s.pw.phase ≠ .holdUp → s.cfg.holds = [(u, t0)] →
    ∃ t, exec (.keepHoldRefused u) s = .next t ∧ t.cfg.holds = [] ∧ gateBits t u = (false, false)
      ∧ t0 + 100000 ≤ t.now ∧ keepUnit t u = keepUnit s u ∧ t.rings = s.rings ∧ t.cairns = s.cairns ∧ StoreKept s t))

abbrev Pre.scan (s : State) (n : Crag) (op : BitVec 2) : Prop :=
  s.pw.rdy = true ∧ s.ma.crags[n].closed = none ∧ decideScan s n op = .applied

abbrev Pre.scanEnds (s : State) (n : Crag) (op : BitVec 2) : Prop :=
  s.pw.rdy = true ∧ s.ma.crags[n].scanBusy = true ∧ s.ma.crags[n].scanOp = op ∧ s.ma.crags[n].scanDebug = false
    ∧ MemoryOk s

/-- SUSPEND, SCAN_OUT and SCAN_IN (R198, R199, R201, R74): a claimed, moving, fenced or busy crag answers in RESULT
and does nothing else; an accepted SUSPEND stops or resumes the crag; an accepted scan of a crag that is not suspended
is answered 2, one whose image leaves the tenant's windows 3, any other begins. SCAN_COMPLETE (R199, R200, 10.5.1): a
scan-out leaves the crag's scan image at SCAN_ADDR and no other byte changed; a scan-in that passes its checks gives
the crag the image's state, one that fails sets RESULT and leaves the crag's state; neither changes a byte. A scan
that failed its retry fences the crag with RESULT 8. -/
def Obligations.ScansMoveCragState : Prop :=
  (∀ (s : State) (n : Crag), s.pw.rdy = true →
    (∀ (v : BitVec 4) (on : Bool), s.ma.crags[n].closed = some v → s.cfg.loading = false →
      exec (.suspend n on) s = .next (setScanRes n v s) ∧ exec (.scanOut n) s = .next (setScanRes n v s)
      ∧ exec (.scanIn n) s = .next (setScanRes n v s))
    ∧ (∀ on, s.ma.crags[n].closed = none → decideSuspend s n on = .applied →
      exec (.suspend n on) s = .next (setExp .applied (pumpWheels (s.onCrag n (fun x => { x with suspended := on }))))
      ∧ (ArrayAtRest s → exec (.suspend n on) s = .next (setExp .applied (s.onCrag n (fun x => { x with suspended := on })))))
    ∧ (∀ on, s.ma.crags[n].closed = none → decideSuspend s n on ≠ .applied →
      exec (.suspend n on) s = .next (setExp (decideSuspend s n on) s))
    ∧ (Pre.scan s n 1 → s.ma.crags[n].suspended = false →
      exec (.scanOut n) s = .next (setExp .applied (setScanRes n 2 s)))
    ∧ (Pre.scan s n 1 → s.ma.crags[n].suspended = true → scanFits s n = false →
      exec (.scanOut n) s = .next (setExp .applied (setScanRes n 3 s)))
    ∧ (Pre.scan s n 1 → s.ma.crags[n].suspended = true → scanFits s n = true →
      exec (.scanOut n) s = .next (setExp .applied (s.onCrag n (fun x => { x with
        scanBusy := true, scanOp := 1, scanDebug := false }))))
    ∧ (Pre.scan s n 2 → s.ma.crags[n].suspended = true → scanFits s n = true →
      exec (.scanIn n) s = .next (setExp .applied (s.onCrag n (fun x => { x with
        scanBusy := true, scanOp := 2, scanDebug := false })))))
  ∧ (∀ (s : State) (n : Crag),
    (∀ raced pb, Pre.scanEnds s n 1 → s.st.frozen = [] →
      (∀ k, k < scanLen / 64 → inWindows s s.ma.crags[n].tenant (s.ma.crags[n].scanAddr.toNat * 4096 + 64 * k) 64 = true) →
      ∃ t, exec (.scanComplete n false raced pb) s = .next t ∧ t.ma.crags[n].scanBusy = false ∧ t.ma.crags[n].scanRes = 0
        ∧ (∀ i b, (scanImage s n 1)[i]? = some b → readByte t.st.mem (s.ma.crags[n].scanAddr.toNat * 4096 + i) = b)
        ∧ (∀ a, a < s.ma.crags[n].scanAddr.toNat * 4096 ∨ s.ma.crags[n].scanAddr.toNat * 4096 + scanLen ≤ a →
            readByte t.st.mem a = readByte s.st.mem a)
        ∧ t.ma.crags[n].body = s.ma.crags[n].body ∧ t.rings = s.rings ∧ t.cairns = s.cairns)
    ∧ (∀ pb, Pre.scanEnds s n 2 → scanInResult s n (scanSource s n).1 (scanSource s n).2 pb = 0 →
      ∃ t, exec (.scanComplete n false false pb) s = .next t ∧ t.ma.crags[n].scanBusy = false
        ∧ t.ma.crags[n].scanRes = 0 ∧ (∀ k, 0x40 ≤ k → k < scanLen → waitAt k = none → t.ma.crags[n].byte k
            = readByte s.st.mem (s.ma.crags[n].scanAddr.toNat * 4096 + k)) ∧ t.rings = s.rings ∧ StoreKept s t)
    ∧ (∀ pb raced, Pre.scanEnds s n 2 → scanInResult s n (scanSource s n).1 (scanSource s n).2 pb ≠ 0 →
      ∃ t, exec (.scanComplete n false raced pb) s = .next t ∧ t.ma.crags[n].scanBusy = false
        ∧ t.ma.crags[n].scanRes = scanInResult s n (scanSource s n).1 (scanSource s n).2 pb
        ∧ t.ma.crags[n].body = s.ma.crags[n].body ∧ t.rings = s.rings ∧ StoreKept s t)
    ∧ (∀ op raced pb, Pre.scanEnds s n op → s.ma.crags[n].fenced = false → s.ma.crags[n].keep = false →
      ∃ t, exec (.scanComplete n true raced pb) s = .next t ∧ t.ma.crags[n].fenced = true ∧ t.ma.crags[n].scanRes = 8
        ∧ t.ma.crags[n].scanBusy = false ∧ t.st.mem = s.st.mem ∧ t.st.vault = s.st.vault))

abbrev Pre.move (s : State) (src dst : Crag) (why : MoveWhy) : Prop :=
  Up s ∧ s.dbg.halted = false ∧ s.wd.stewardDead = false ∧ mayMove s src dst why = true

/-- PLACEMENT_MOVE (R41, R204, R205): the program goes on on the destination with its tenant and all its state, and
its old crag is free; a destination that fails is fenced and the program stays; a source that fails is fenced.
INTERNAL_FAULT (R381, R382, R386, R206): an operation whose retry succeeded counts one in FLT_CORR of its unit and
changes no unit and no byte; stored data that failed is poisoned in place; a crag whose logic is lost is fenced; the
Steward, once dead, stays so. -/
def Obligations.PlacementAndFaults : Prop :=
  (∀ (s : State) (src dst : Crag) (why : MoveWhy), Pre.move s src dst why →
    (∃ t, ArrayGoesOn s t (exec (.placementMove src dst why .ok) s) ∧ t.ma.crags[dst].used = true ∧ t.ma.crags[src].used = false
      ∧ t.ma.crags[dst].prog = s.ma.crags[src].prog ∧ t.ma.crags[dst].tenant = s.ma.crags[src].tenant
      ∧ t.ma.crags[dst].body = s.ma.crags[src].body
      ∧ (∀ m : Crag, m ≠ src → m ≠ dst → t.ma.crags[m] = s.ma.crags[m]) ∧ t.rings = s.rings ∧ StoreKept s t)
    ∧ (∃ t, exec (.placementMove src dst why .destinationFails) s = .next t ∧ t.ma.crags[dst].fenced = true
      ∧ t.ma.crags[src].used = true ∧ t.ma.crags[src].prog = s.ma.crags[src].prog ∧ t.ma.crags[src].body = s.ma.crags[src].body
      ∧ t.st.mem = s.st.mem ∧ t.st.vault = s.st.vault)
    ∧ (∃ t, exec (.placementMove src dst why .sourceFails) s = .next t ∧ t.ma.crags[src].fenced = true
      ∧ t.st.mem = s.st.mem ∧ t.st.vault = s.st.vault))
  ∧ (∀ (s : State) (u : BitVec 8), Up s →
    (∀ b, u.toNat < 0xC0 → ∃ t, exec (.internalFault u (.stagingBeat b) true) s = .next t
      ∧ corrOf t u.toNat = satAdd (corrOf s u.toNat) 1 ∧ t.ma = s.ma ∧ t.cfg = s.cfg ∧ StoreKept s t)
    ∧ (∀ b, b ∉ s.st.memBad → ∃ t, ArrayGoesOn s t (exec (.internalFault u (.stagingBeat b) false) s) ∧ b ∈ t.st.memBad
      ∧ t.st.ue = satAdd s.st.ue 1 ∧ (∀ a, readByte t.st.mem a = readByte s.st.mem a) ∧ t.rings = s.rings)
    ∧ (∀ n : Crag, u.toNat = n.val → s.ma.crags[n].fenced = false → ∃ t, exec (.internalFault u .logic false) s = .next (pumpWheels t)
      ∧ (ArrayAtRest t → exec (.internalFault u .logic false) s = .next t)
      ∧ t.ma.crags[n].fenced = true ∧ t.st.mem = s.st.mem ∧ t.st.vault = s.st.vault)
    ∧ (∀ ok, exec (.internalFault u .steward ok) s = .next { s with wd := { s.wd with stewardDead := true } }))

/-! ### The Pair link (16) -/

abbrev Pre.frame (s : State) (x : PairRx) (e : Peer) : Prop :=
  Up s ∧ s.pair.ports[x.port].up = true ∧ s.cfg.loading = false ∧ pairEntry s x = some e

/-- R317: the packet that row `i` brings with header `x` is accepted for entry `e`. -/
abbrev Pre.accepted (s : State) (x : PairRx) (e : Peer) (i : Instr) : Prop :=
  Pre.frame s x e ∧ pairSound x (pairFrame i) = true ∧ x.session = s.pair.peers[e].nonce ∧ s.pair.peers[e].sess ≠ .down
    ∧ s.pair.peers[e].sess ≠ .gone

/-- What acceptance leaves (R28, R317): an engine in NAP is awake, the entry has the packet's time and DOZE, and what its
CUM_ACK covers is acknowledged. -/
abbrev Met (s : State) (x : PairRx) (e : Peer) : State :=
  cumAcked e x.cumAck ((wakeNap s).onPeer e (fun p => { p with lastRx := s.now, doze := x.doze }))

/-- A reliable packet of the session with entry `e` was taken: it is the next in order and one more is unacknowledged. -/
abbrev Took (s : State) (x : PairRx) (e : Peer) : State :=
  ((Met s x e).onPeer e (fun p => { p with unacked := p.unacked + 1 })).onPeer e (fun p => { p with rxPsn := p.rxPsn + 1 })

/-- Row `i` brings an accepted packet that is the next in order, none waiting behind it and no ACK due. -/
abbrev Pre.inOrder (s : State) (x : PairRx) (e : Peer) (i : Instr) : Prop :=
  Pre.accepted s x e i ∧ x.psn = s.pair.peers[e].rxPsn ∧ s.pair.peers[e].rxAhead = [] ∧ s.pair.peers[e].unacked < 31

/-- The rows that carry a reliable packet, as an `x` received. -/
abbrev Reliable (x : PairRx) (i : Instr) : Prop :=
  (∃ xfer img step total alg kind root, i = .offer x xfer img step total alg kind root) ∨ (∃ xfer, i = .accept x xfer)
    ∨ (∃ xfer why, i = .refuse x xfer why) ∨ (∃ xfer sector secs, i = .data x xfer sector secs)
    ∨ (∃ xfer bad step, i = .held x xfer bad step) ∨ (∃ xfer sector n, i = .resend x xfer sector n)
    ∨ (∃ c add seq, i = .pairSignalReceive x c add seq) ∨ (∃ seq st, i = .sigAck x seq st)
    ∨ (∃ xfer owner step, i = .fetch x xfer owner step)

/-- R317, acceptance: a packet of a right CRC, MAGIC and VER from the address of one VALID entry, with that entry's
local nonce, is taken: the entry notes its time and DOZE, and packets below its CUM_ACK are acknowledged; any other is
dropped and counted in the entry's RX_DROP, or in PAIR_RX_OTHER when no entry matches. HEARTBEAT and FRAME_DROPPED do
only that. R324: an accepted reliable packet (OFFER, ACCEPT, REFUSE, DATA, HELD, RESEND, SIGNAL, SIG_ACK, FETCH) whose
PSN is the next is delivered to the protocol; one already received is discarded; one ahead waits its turn,
undelivered. The 32nd since the last ACK is acknowledged at once. -/
def Obligations.PairFramesComeInOrder : Prop :=
  (∀ (s : State) (x : PairRx),
    (∀ e : Peer, Pre.accepted s x e (.heartbeat x) →
      ∃ t, exec (.heartbeat x) s = .next t ∧ t.pair.peers[e].lastRx = s.now ∧ t.pair.peers[e].doze = x.doze
        ∧ t.pair.peers[e].sess = s.pair.peers[e].sess ∧ (∀ k ∈ t.pair.peers[e].out, k ∈ s.pair.peers[e].out
          ∧ ¬(k.sent = true ∧ psnLt k.psn x.cumAck = true)) ∧ (∀ f : Peer, f ≠ e → t.pair.peers[f] = s.pair.peers[f])
        ∧ t.rings = s.rings ∧ StoreKept s t)
    ∧ (∀ e : Peer, Pre.frame s x e → (pairSound x (pairFrame (.heartbeat x)) = false ∨ x.session ≠ s.pair.peers[e].nonce) →
      exec (.heartbeat x) s = .next (s.onPeer e (fun p => { p with rxDrop := satAdd p.rxDrop 1 })))
    ∧ (Up s → s.pair.ports[x.port].up = true → s.cfg.loading = false → pairEntry s x = none →
      exec (.heartbeat x) s = .next { s with pair := { s.pair with rxOther := satAdd s.pair.rxOther 1 } })
    ∧ (Up s → s.pair.ports[x.port].up = true →
      exec (.frameDropped none) s = .next { s with pair := { s.pair with rxOther := satAdd s.pair.rxOther 1 } })
    ∧ (∀ e : Peer, Up s → s.pair.ports[x.port].up = true → s.pair.peers[e].cfg.valid = true →
      exec (.frameDropped (some e)) s = .next (s.onPeer e (fun p => { p with rxDrop := satAdd p.rxDrop 1 }))))
  ∧ (∀ (s : State) (x : PairRx) (e : Peer) (i : Instr), Reliable x i →
    (Pre.inOrder s x e i → exec i s = .next (deliver e i (Took s x e)))
    ∧ (Pre.accepted s x e i → psnLt x.psn s.pair.peers[e].rxPsn = true → s.pair.peers[e].unacked < 31 →
      exec i s = .next ((Met s x e).onPeer e (fun p => { p with unacked := p.unacked + 1 })))
    ∧ (Pre.accepted s x e i → s.pair.peers[e].rxAhead = [] →
      s.pair.peers[e].unacked < 31 → x.psn ≠ s.pair.peers[e].rxPsn → psnLt x.psn s.pair.peers[e].rxPsn = false →
      exec i s = .next ((Met s x e).onPeer e (fun p => { p with unacked := p.unacked + 1, rxAhead := [(x.psn, i)] })))
    ∧ (Pre.accepted s x e i → psnLt x.psn s.pair.peers[e].rxPsn = true → s.pair.peers[e].unacked = 31 →
      ∃ t, exec i s = .next t ∧ t.pair.peers[e].unacked = 0 ∧ t.rings = s.rings ∧ StoreKept s t)
    ∧ (Pre.frame s x e → (pairSound x (pairFrame i) = false ∨ x.session ≠ s.pair.peers[e].nonce) →
      exec i s = .next (s.onPeer e (fun p => { p with rxDrop := satAdd p.rxDrop 1 }))))

/-- Packet `k` of type `ty` and this payload is queued last for entry `e`, unsent; the entry's other packets stay. -/
abbrev Queued (s t : State) (e : Peer) (ty : Nat) (payload : List Byte) : Prop :=
  t.pair.peers[e].out = s.pair.peers[e].out ++ [{ ty := ty, payload := payload }]

/-- Transfers at their receiver and sender (R326 to R329, R331, Table 16-7), by the next packet of a session: an OFFER
to an entry that is no ward is answered REFUSE 0x62; a ward's first one, with room, is accepted; ACCEPT queues the
image in R326's order; DATA joins the sectors held; RESEND queues the sectors named; REFUSE ends the transfer and its
command with the reason; HELD makes the image PAIRED and its command OK with the buddy's ENGINE_ID. -/
def Obligations.ImageTransfersFollowPackets : Prop :=
  ∀ (s : State) (e : Peer) (x : PairRx) (xfer img : Word) (step : Dword) (total : Nat) (alg : Alg) (root : BitVec 512),
    (Pre.inOrder s x e (.offer x xfer img step total alg false root) → (s.pair.peers[e].xferOf xfer false).isNone = true →
      s.st.op.st ≠ 1 → s.pair.peers[e].cfg.ward = false →
      exec (.offer x xfer img step total alg false root) s = .next (pairQueue e 0x12 (refusePayload xfer 0x62) (Took s x e)))
    ∧ (Pre.inOrder s x e (.offer x xfer img step total alg false root) → (s.pair.peers[e].xferOf xfer false).isNone = true →
      s.st.op.st ≠ 1 → s.pair.peers[e].cfg.ward = true →
      s.pair.peers[e].fencedOut = false → s.copiesOf e = [] → s.rxLane.isSome = true →
      ceilDiv total 512 ≤ s.poolFreeBlocks → s.pair.peers[e].cfg.drain = false →
      ∃ t y, exec (.offer x xfer img step total alg false root) s = .next t ∧ t.pair.peers[e].xferOf xfer false = some y
        ∧ y.accepted = true ∧ y.total = total ∧ y.root = root ∧ y.step = step ∧ y.secs = []
        ∧ Queued (Took s x e) t e 0x11 (bytesBE 4 xfer) ∧ t.rings = s.rings ∧ StoreKept s t)
    ∧ (∀ y, Pre.inOrder s x e (.accept x xfer) → s.pair.peers[e].xferOf xfer true = some y → y.accepted = false →
      ∃ t y', exec (.accept x xfer) s = .next t ∧ t.pair.peers[e].xferOf xfer true = some y' ∧ y'.accepted = true
        ∧ t.pair.peers[e].out = (Took s x e).pair.peers[e].out ++ (sendOrder y.whole).map (fun p =>
          { ty := 0x13, payload := dataPayload xfer p.1 ((List.range p.2).map (fun i =>
            ((y.secs.find? (fun q => q.1 == p.1 + i)).map (·.2)).getD {})) }))
    ∧ (∀ y sector secs, Pre.inOrder s x e (.data x xfer sector secs) →
      s.pair.peers[e].xferOf xfer false = some y → y.accepted = true → y.sec? 0 = none → 1 ≤ sector →
      secs.length ≤ 2 → sector + secs.length ≤ y.total →
      ∃ t y', exec (.data x xfer sector secs) s = .next t ∧ t.pair.peers[e].xferOf xfer false = some y'
        ∧ (∀ k b, secs[k]? = some b → y'.sec? (sector + k) = some b)
        ∧ (∀ k, k < sector ∨ sector + secs.length ≤ k → y'.sec? k = y.sec? k)
        ∧ t.pair.peers[e].out = (Took s x e).pair.peers[e].out)
    ∧ (∀ y sector n, Pre.inOrder s x e (.resend x xfer sector n) →
      s.pair.peers[e].xferOf xfer true = some y → y.accepted = true → sector + n ≤ y.total →
      exec (.resend x xfer sector n) s = .next (queueData e y (packetRun sector n) (Took s x e)))
    ∧ (∀ y r c why, Pre.inOrder s x e (.refuse x xfer why) → s.pair.peers[e].xferOf xfer true = some y →
      y.owner = some (r, c.cid) → s.rings[r].find c.cid = some c → c.op = 0x20 → c.trunc = none → c.badBeats = 0 →
      ∃ t, exec (.refuse x xfer why) s = .next t ∧ Answered s t r c stREFUSED (BitVec.ofNat 64 why.toNat) 0
        ∧ t.pair.peers[e].xferOf xfer true = none ∧ OtherRings s t r ∧ StoreKept s t)
    ∧ (∀ y r c i, Pre.inOrder s x e (.held x xfer false step) → s.pair.peers[e].xferOf xfer true = some y →
      y.owner = some (r, c.cid) → s.rings[r].find c.cid = some c → c.op = 0x20 → c.trunc = none → c.badBeats = 0 →
      y.fetchReply = false → s.image? y.tenant y.img = some i →
      ∃ t, exec (.held x xfer false step) s = .next t
        ∧ Answered s t r c stOK s.pair.peers[e].cfg.engineId (BitVec.ofNat 32 (min y.retx 0xFFFFFFFF))
        ∧ (∀ j, t.image? y.tenant y.img = some j → j.paired = true) ∧ OtherRings s t r ∧ t.st.mem = s.st.mem)

/-- Signals and fetches over the Pair link (R155, R333, R334), by the next packet of a session: a SIGNAL for a cairn
of the entry's tenant adds and is answered OK; for another tenant's cairn it is blocked and answered 4; before a load
nothing is added and the answer is 0x0C. SIG_ACK OK ends its signal and nothing else. A FETCH without TAKE is refused
0x6B; one for a copy held is served by an OFFER. -/
def Obligations.PairSignalsAndFetches : Prop :=
  ∀ (s : State) (e : Peer) (x : PairRx) (k : Byte) (add : Word) (seq : Dword),
    (Pre.inOrder s x e (.pairSignalReceive x k add seq) → ArrayAtRest s → s.cfg.loaded = true → k.toNat ≤ 127 →
      s.cairns[ix 127 k.toNat].owner = s.pair.peers[e].cfg.tenant → add ≠ 0 → bit add 31 = false →
      ∃ t, exec (.pairSignalReceive x k add seq) s = .next t
        ∧ t.cairns[ix 127 k.toNat].value = s.cairns[ix 127 k.toNat].value + add
        ∧ (∀ c : Cairn, c ≠ ix 127 k.toNat → t.cairns[c] = s.cairns[c])
        ∧ Queued (Took s x e) t e 0x21 (sigAckPayload seq 0) ∧ StoreKept s t)
    ∧ (Pre.inOrder s x e (.pairSignalReceive x k add seq) → s.cfg.loaded = true → k.toNat ≤ 127 →
      s.cairns[ix 127 k.toNat].owner ≠ s.pair.peers[e].cfg.tenant →
      exec (.pairSignalReceive x k add seq) s = .next (pairQueue e 0x21 (sigAckPayload seq 4)
        (blockSignal (ix 127 k.toNat) 7 e.val (Took s x e))))
    ∧ (Pre.inOrder s x e (.pairSignalReceive x k add seq) → s.cfg.loaded = false →
      exec (.pairSignalReceive x k add seq) s = .next (pairQueue e 0x21 (sigAckPayload seq 0xC) (Took s x e)))
    ∧ (Pre.inOrder s x e (.sigAck x seq 0) → seq ∈ s.pair.peers[e].sigWait → exec (.sigAck x seq 0) s
      = .next ((Took s x e).onPeer e (fun p => { p with sigWait := p.sigWait.filter (· != seq) })))
    ∧ (∀ xfer owner step, Pre.inOrder s x e (.fetch x xfer owner step) → s.pair.peers[e].cfg.take = false →
      exec (.fetch x xfer owner step) s = .next (pairQueue e 0x12 (refusePayload xfer 0x6B) (Took s x e)))
    ∧ (∀ xfer step c, Pre.inOrder s x e (.fetch x xfer s.pair.peers[e].cfg.engineId step) →
      s.pair.peers[e].cfg.take = true → s.pair.peers[e].cfg.valid = true →
      (∀ f : Peer, f ≠ e → s.pair.peers[f].cfg.engineId ≠ s.pair.peers[e].cfg.engineId) → s.copiesOf e = [c] →
      c.step = step → ∃ t, exec (.fetch x xfer s.pair.peers[e].cfg.engineId step) s = .next t ∧ ∃ y ∈ t.pair.peers[e].xfers,
        y.xfer = xfer ∧ y.sending = true ∧ y.fetchReply = true ∧ y.total = c.total ∧ y.step = step
        ∧ Queued (Took s x e) t e 0x10 (offerPayload y) ∧ t.rings = s.rings ∧ StoreKept s t)

/-- Session packets (R319 to R322, R324, 16.4.1): an accepted HELLO takes the peer's nonce, makes the session UP and
answers HELLO_ACK; HELLO_ACK makes it UP; BYE leaves it GONE; an ACK releases every sent packet below its BASE_PSN or
shown received. -/
def Obligations.SessionPacketsMoveSessions : Prop :=
  ∀ (s : State) (x : PairRx) (e : Peer) (nonce epoch : Word) (holds : List HoldRec),
    (Pre.frame s x e → pairSound x (pairFrame (.hello x nonce epoch holds)) = true → s.pair.peers[e].sess ≠ .down →
      ∃ t, exec (.hello x nonce epoch holds) s = .next t ∧ t.pair.peers[e].sess = .up
      ∧ t.pair.peers[e].peerNonce = some nonce ∧ t.pair.peers[e].list = holds ∧ t.st.mem = s.st.mem ∧ t.st.vault = s.st.vault
      ∧ (∃ psn cum dz pl, BusOut.pair e.val (pairPacket 2 nonce psn cum dz pl) ∈ t.bus) ∧ t.cairns = s.cairns)
    ∧ (Pre.accepted s x e (.helloAck x nonce epoch holds) →
      ∃ t, exec (.helloAck x nonce epoch holds) s = .next t ∧ t.pair.peers[e].sess = .up
        ∧ t.pair.peers[e].peerNonce = some nonce ∧ t.pair.peers[e].list = holds ∧ t.st.mem = s.st.mem
        ∧ t.st.vault = s.st.vault ∧ t.cairns = s.cairns)
    ∧ (∀ drained, Pre.accepted s x e (.bye x drained) → ∃ t, exec (.bye x drained) s = .next t ∧ t.pair.peers[e].sess = .gone
        ∧ (s.pair.peers[e].cfg.buddy = true → ∀ i ∈ t.st.images, i.tenant = s.pair.peers[e].cfg.tenant → i.step ∉ drained →
          i.paired = false) ∧ t.st.mem = s.st.mem ∧ t.cairns = s.cairns)
    ∧ (∀ base got, Pre.accepted s x e (.ack x base got) → ∃ t, exec (.ack x base got) s = .next t
        ∧ (∀ k ∈ t.pair.peers[e].out, k.sent = true → psnLt k.psn base = false ∧ ackBit base got k.psn = false)
        ∧ t.pair.peers[e].sess = s.pair.peers[e].sess ∧ t.rings = s.rings ∧ StoreKept s t)

abbrev Pre.retx (s : State) (e : Peer) (psn : Word) (k : PairPkt) : Prop :=
  s.pair.peers[e].sess = .up ∧ s.pair.peers[e].out = [k] ∧ k.sent = true ∧ k.psn = psn

/-- What is sent (R324, R332): PAIR_TRANSMIT sends the first unsent packet with the next PSN, and only that one, while
fewer than 4,096 are in flight; PAIR_SIGNAL_FORWARD sends the oldest forwarded signal, with the entry's next sequence
number, once no DATA packet is unacknowledged. Timers of a session (R319, R320, R324, R325): ACK, heartbeat and HELLO
go out when their timers end; an unacknowledged packet is sent again with its PSN and payload, its interval doubling,
and after LIVE_MS makes the session LOST; silence of LIVE_MS makes it LOST, but not in NAP; a pairing that waited
LIVE_MS for a session is REFUSED with reason 0x60. -/
def Obligations.PacketsAndTimersSend : Prop :=
  (∀ (s : State) (e : Peer), s.pw.phase ≠ .holdUp → s.pair.peers[e].sess = .up → s.pair.peers[e].inFlight < 4096 →
    (∀ before k after, s.pair.peers[e].out = before ++ k :: after → before.all (·.sent) = true → k.sent = false →
      ∃ t, exec (.pairTransmit e) s = .next t ∧ t.pair.peers[e].nextPsn = s.pair.peers[e].nextPsn + 1
        ∧ t.pair.peers[e].out = before ++ { k with psn := s.pair.peers[e].nextPsn, sent := true, since := s.now, sentAt := s.now }
          :: after
        ∧ t.bus = s.bus ++ [.pair e.val (pairPacket k.ty (if k.ty = 1 then 0 else s.pair.peers[e].peerNonce.getD 0)
          s.pair.peers[e].nextPsn s.pair.peers[e].rxPsn (s.pw.pstate == .nap) k.payload)]
        ∧ (∀ f : Peer, f ≠ e → t.pair.peers[f] = s.pair.peers[f]) ∧ t.rings = s.rings ∧ StoreKept s t)
    ∧ (∀ c add rest, s.pair.peers[e].fwd = (c, add) :: rest → s.pair.peers[e].out = [] →
      ∃ t k, exec (.pairSignalForward e) s = .next t ∧ t.pair.peers[e].fwd = rest ∧ t.pair.peers[e].out = [k] ∧ k.ty = 0x20
        ∧ k.psn = s.pair.peers[e].nextPsn ∧ k.sent = true ∧ t.pair.peers[e].sigSeq = s.pair.peers[e].sigSeq + 1
        ∧ t.pair.peers[e].sigWait = s.pair.peers[e].sigWait ++ [s.pair.peers[e].sigSeq]
        ∧ t.pair.peers[e].nextPsn = s.pair.peers[e].nextPsn + 1 ∧ t.cairns = s.cairns ∧ t.rings = s.rings ∧ StoreKept s t))
  ∧ (∀ (s : State) (e : Peer), s.pw.phase ≠ .holdUp →
    (s.pair.peers[e].unacked ≠ 0 → s.pair.peers[e].sess ≠ .down → ∃ t, exec (.ackTimer e) s = .next t
      ∧ t.pair.peers[e].unacked = 0 ∧ t.bus = s.bus ++ [.pair e.val (pairPacket 5 (s.pair.peers[e].peerNonce.getD 0)
        s.pair.peers[e].nextPsn s.pair.peers[e].rxPsn (s.pw.pstate == .nap) (ackPayload s.pair.peers[e]))]
      ∧ t.pair.peers[e].out = s.pair.peers[e].out ∧ t.rings = s.rings ∧ StoreKept s t)
    ∧ (s.pair.peers[e].sess = .up → s.pair.peers[e].doze = false → exec (.heartbeatTimer e) s
      = .next (pairSend e 3 [] (advanceTo (s.pair.peers[e].lastTx + 100 * s.pair.peers[e].cfg.liveMs.toNat) s)))
    ∧ (s.pair.peers[e].sess = .opening ∨ s.pair.peers[e].sess = .lost → exec (.helloTimer e) s
      = .next (pairSend e 1 (helloPayload s e) (advanceTo (s.pair.peers[e].lastTx + 100000) s)))
    ∧ (∀ psn k, Pre.retx s e psn k →
      (max s.now (k.sentAt + retxAfter k.tries) < k.since + 1000 * s.pair.peers[e].cfg.liveMs.toNat →
        ∃ t, exec (.retransmitTimer e psn) s = .next t
          ∧ t.pair.peers[e].out = [{ k with tries := k.tries + 1, sentAt := max s.now (k.sentAt + retxAfter k.tries) }]
          ∧ t.pair.peers[e].retx = satAdd s.pair.peers[e].retx 1 ∧ t.pair.peers[e].nextPsn = s.pair.peers[e].nextPsn
          ∧ t.rings = s.rings ∧ StoreKept s t)
      ∧ (k.since + 1000 * s.pair.peers[e].cfg.liveMs.toNat ≤ max s.now (k.sentAt + retxAfter k.tries) →
        ∃ t, exec (.retransmitTimer e psn) s = .next t ∧ t.pair.peers[e].sess = .lost ∧ t.rings = s.rings ∧ StoreKept s t))
    ∧ (s.pair.peers[e].sess = .up → s.pw.pstate ≠ .nap → ∃ t, exec (.pairLost e) s = .next t ∧ t.pair.peers[e].sess = .lost
      ∧ s.pair.peers[e].lastRx + 1000 * s.pair.peers[e].cfg.liveMs.toNat ≤ t.now ∧ t.rings = s.rings ∧ StoreKept s t)
    ∧ (s.pw.pstate = .nap → exec (.pairLost e) s = .next s)
    ∧ (∀ y r c, s.pair.peers[e].xfers = [y] → y.opened = false → s.pair.peers[e].sess ≠ .up → y.owner = some (r, c.cid) →
      s.rings[r].find c.cid = some c → c.op = 0x20 → c.trunc = none → c.badBeats = 0 →
      ∃ t, exec (.pairSessionTimeout e) s = .next t ∧ t.pair.peers[e].xfers = [] ∧ Answered s t r c stREFUSED 0x60 0
        ∧ y.since + 1000 * s.pair.peers[e].cfg.liveMs.toNat ≤ t.now ∧ OtherRings s t r ∧ StoreKept s t))

abbrev Pre.pairSync (s : State) (r : Ring) (c : Cmd) (i : Image) : Prop :=
  Started s r c 0x20 ∧ s.rings[r].find c.cid = some c ∧ s.image? (s.ringTenant r) (BitVec.ofNat 32 (c.f 0x18 4)) = some i

abbrev Pre.takeover (s : State) (r : Ring) (c : Cmd) : Prop :=
  Started s r c 0x21 ∧ s.rings[r].find c.cid = some c ∧ vaultGate s c = none ∧ (∀ f : Peer, s.pair.peers[f].xfers = [])
    ∧ s.image? (s.ringTenant r) (BitVec.ofNat 32 (c.f 0x18 4)) = none ∧ s.rxLane.isSome = true
    ∧ s.pair.peers[ix 3 (c.f 0x1C 1)].sess = .up

/-- PAIR_SYNC (R325): another step is RANGE, an OPEN image REFUSED 0x66, no session REFUSED 0x60; over an UP session
the OFFER is queued and the command runs past the head. PAIR_TAKEOVER (R335): a name in use is REFUSED 0x48; over an
UP session FETCH is queued and the command runs past the head. No byte of memory and no image changes. -/
def Obligations.PairCommandsOpenTransfers : Prop :=
  ∀ (s : State) (r : Ring) (c : Cmd),
    (∀ i, Pre.pairSync s r c i →
      (BitVec.ofNat 64 (c.f 0x10 8) ≠ i.step → ∃ t, exec (.pairSync r) s = .next t ∧ Answered s t r c stRANGE 0x10 0x45
        ∧ t.pair = s.pair ∧ OtherRings s t r ∧ StoreKept s t)
      ∧ (BitVec.ofNat 64 (c.f 0x10 8) = i.step → i.sealed_ = false → ∃ t, exec (.pairSync r) s = .next t
        ∧ Answered s t r c stREFUSED 0x66 0 ∧ t.pair = s.pair ∧ OtherRings s t r ∧ StoreKept s t)
      ∧ (BitVec.ofNat 64 (c.f 0x10 8) = i.step → i.sealed_ = true → s.imageSecs i ≠ [] →
        (s.pair.peers[ix 3 (c.f 0x1C 1)].sess = .gone → ∃ t, exec (.pairSync r) s = .next t
          ∧ Answered s t r c stREFUSED 0x60 0 ∧ OtherRings s t r ∧ StoreKept s t)
        ∧ (s.pair.peers[ix 3 (c.f 0x1C 1)].sess = .up → ∃ t y, exec (.pairSync r) s = .next t
          ∧ y ∈ t.pair.peers[ix 3 (c.f 0x1C 1)].xfers ∧ y.sending = true ∧ y.step = i.step ∧ y.img = i.img
          ∧ y.owner = some (r, c.cid) ∧ y.opened = true ∧ Queued s t (ix 3 (c.f 0x1C 1)) 0x10 (offerPayload y)
          ∧ t.rings[r].waiting = s.rings[r].waiting ∧ (∃ d ∈ t.rings[r].past, d.cid = c.cid) ∧ OtherRings s t r
          ∧ StoreKept s t)))
    ∧ (Started s r c 0x21 → s.rings[r].find c.cid = some c → vaultGate s c = none →
      (∀ f : Peer, s.pair.peers[f].xfers = []) →
      (s.image? (s.ringTenant r) (BitVec.ofNat 32 (c.f 0x18 4))).isSome = true → ∃ t, exec (.pairTakeover r) s = .next t
        ∧ Answered s t r c stREFUSED 0x48 0 ∧ t.pair = s.pair ∧ OtherRings s t r ∧ StoreKept s t)
    ∧ (Pre.takeover s r c → ∃ t y k, exec (.pairTakeover r) s = .next t ∧ t.pair.peers[ix 3 (c.f 0x1C 1)].xfers = [y]
        ∧ y.sending = false ∧ y.opened = true ∧ y.owner = some (r, c.cid) ∧ y.step = BitVec.ofNat 64 (c.f 0x10 8)
        ∧ y.ownerId = BitVec.ofNat 64 (c.f 0x20 8) ∧ k.ty = 0x30 ∧ k.sent = false
        ∧ t.pair.peers[ix 3 (c.f 0x1C 1)].out = s.pair.peers[ix 3 (c.f 0x1C 1)].out ++ [k]
        ∧ t.rings[r].waiting = s.rings[r].waiting ∧ (∃ d ∈ t.rings[r].past, d.cid = c.cid) ∧ OtherRings s t r ∧ StoreKept s t)

/-- Ports, neighbours and the peer table (R315, R316, R318, R338): a port comes up or goes down with Pair capacity
following it, sessions standing when it goes down; ARP for the port's own address and an echo to it are answered; a
peer word is BUSY during a load, RANGE where the entry would break R318, a new LIVE_MS alone keeps the session, any
other change ends it. -/
def Obligations.PortsAndPeerTable : Prop :=
  ∀ (s : State) (p : PPort) (e : Peer),
    (s.pw.mainOn = true → s.pw.phase ≠ .deep → s.pw.phase ≠ .holdUp → s.pair.ports[p].mgmtOff = false → ∃ t, exec (.pairPortUp p) s = .next t
      ∧ t.pair.ports[p].up = true ∧ t.adm[(3 : Res)].live = satNat 16 (t.liveOf 3) ∧ t.st.mem = s.st.mem)
    ∧ (s.pw.phase ≠ .holdUp → ∃ t, exec (.pairPortDown p) s = .next t ∧ t.pair.ports[p].up = false ∧ t.pair.peers = s.pair.peers
      ∧ t.adm[(3 : Res)].live = satNat 16 (t.liveOf 3) ∧ t.rings = s.rings ∧ StoreKept s t)
    ∧ (s.pw.rdy = true → s.pair.ports[p].up = true →
      (∀ asker mac, s.pair.ports[p].ip4 ≠ 0 → ∃ t, exec (.neighbourMessage p (.arpRequest s.pair.ports[p].ip4 asker mac)) s = .next t
        ∧ t.bus = s.bus ++ [.eth p.val "arpReply" (bytesBE 6 (Config.mac p.val) ++ bytesLE 4 s.pair.ports[p].ip4
          ++ bytesBE 6 mac ++ bytesLE 4 asker)] ∧ (asker, mac) ∈ t.pair.ports[p].neigh4 ∧ t.pair.peers = s.pair.peers
        ∧ t.rings = s.rings ∧ StoreKept s t)
      ∧ (∀ src dst payload, fld dst 0 32 = s.pair.ports[p].ip4 → s.pair.ports[p].ip4 ≠ 0 →
        exec (.icmpEcho p false src dst payload) s = .next (emit (.eth p.val "icmpEchoReply" (bytesLE 16 dst
          ++ bytesLE 16 src ++ payload)) s))
      ∧ (∀ src dst payload, dst ≠ s.pair.ports[p].ip6 → exec (.icmpEcho p true src dst payload) s = .next s))
    ∧ (∀ word v, s.pw.rdy = true → word < 9 →
      (s.cfg.loading = true → exec (.peerEntryWrite e word v) s = .next (setExp .busy s))
      ∧ (s.cfg.loading = false → peerOk s e (peerWord s.pair.peers[e].cfg word v) = false →
        exec (.peerEntryWrite e word v) s = .next (setExp .range s))
      ∧ (s.cfg.loading = false → peerOk s e (peerWord s.pair.peers[e].cfg word v) = true →
        ∃ t, exec (.peerEntryWrite e word v) s = .next t ∧ t.pair.peers[e].cfg = peerWord s.pair.peers[e].cfg word v
          ∧ t.cfg.expResult = 0 ∧ t.st.mem = s.st.mem ∧ t.st.vault = s.st.vault ∧ t.cairns = s.cairns
          ∧ (word = 0 ∧ { s.pair.peers[e].cfg with liveMs := (peerWord s.pair.peers[e].cfg word v).liveMs }
              = peerWord s.pair.peers[e].cfg word v → t.pair.peers[e].sess = s.pair.peers[e].sess)
          ∧ (¬(word = 0 ∧ { s.pair.peers[e].cfg with liveMs := (peerWord s.pair.peers[e].cfg word v).liveMs }
              = peerWord s.pair.peers[e].cfg word v) → t.pair.peers[e].sess ≠ .up ∧ t.pair.peers[e].xfers = [])))

/-! ### The management path (18) -/

/-- The management endpoint is reachable and the part is not in DEEP. -/
abbrev Managed (s : State) : Prop := s.pw.vauxOn = true ∧ s.pw.phase ≠ .deep

/-- The endpoint's own state and its requests (R361 to R363): SET_ENDPOINT_ID, an I3C address and RSTDAA set it,
SMB_ALERT_N following the path in use; PLDM base, FRU and PDR requests are answered in every power state, their
contents free (the DMTF standards'); in DEEP any other request asserts WAKE_N and is not ready; SET_POWER_CAP takes
120 W to 240 W and nothing else; events go to a registered receiver, or are polled oldest first. -/
def Obligations.ManagementRequestsAnswer : Prop :=
  ∀ s : State, s.pw.vauxOn = true →
    (∀ eid, exec (.setEndpointId eid) s = .next (emit (.mgmt "SetEndpointId" [eid]) { s with mg := { s.mg with eid := eid } }))
    ∧ (∀ a, ∃ t, exec (.i3cDynamicAddress a) s = .next t ∧ t.mg.i3c = some a ∧ t.pw.smbAlert = false
      ∧ t.mg.waiting = s.mg.waiting ∧ t.rings = s.rings ∧ StoreKept s t)
    ∧ (∃ t, exec .rstdaa s = .next t ∧ t.mg.i3c = none ∧ t.pw.smbAlert = !s.mg.waiting.isEmpty
      ∧ t.mg.waiting = s.mg.waiting ∧ t.rings = s.rings ∧ StoreKept s t)
    ∧ (∀ cmd, (∃ w t, exec (.pldmBaseRequest cmd) s = .next t ∧ t.bus = s.bus ++ [.mgmt "PLDM base command" [cmd],
        .mgmt "PLDM base" (bytesLE 4 (w : Word))] ∧ t.pw = s.pw ∧ t.rings = s.rings ∧ StoreKept s t)
      ∧ (∃ w t, exec (.fruDataRequest cmd) s = .next t ∧ t.bus = s.bus ++ [.mgmt "FRU data command" [cmd],
        .mgmt "FRU data" (bytesLE 4 (w : Word))] ∧ t.pw = s.pw ∧ t.rings = s.rings ∧ StoreKept s t))
    ∧ (∀ h : Word, ∃ w t, exec (.getPdr h) s = .next t ∧ t.bus = s.bus ++ [.mgmt "PDR handle" (bytesLE 4 h),
        .mgmt "PDR" (bytesLE 4 (w : Word))] ∧ t.pw = s.pw ∧ t.rings = s.rings ∧ StoreKept s t)
    ∧ (s.pw.phase = .deep → ∀ w, exec (.setPowerCap w) s = .next (emit (.mgmt "ERROR_NOT_READY" [])
        (emit (.pin "WAKE_N" true) { s with pw := { s.pw with wakeN := true } })))
    ∧ (Up s → ∀ w, (120 ≤ w → w ≤ 240 → exec (.setPowerCap w) s
          = .next (emit (.mgmt "SUCCESS" []) { s with pw := { s.pw with mgmtCap := BitVec.ofNat 8 w } }))
        ∧ (w < 120 ∨ 240 < w → exec (.setPowerCap w) s = .next (emit (.mgmt "ERROR_INVALID_DATA" []) s)))
    ∧ (Managed s → (∀ on, exec (.setEventReceiver on) s
        = .next (emit (.mgmt "SUCCESS" []) { s with mg := { s.mg with receiver := on } }))
      ∧ (s.mg.waiting = [] → exec .pollForPlatformEventMessage s = .next (emit (.mgmt "no event" []) s))
      ∧ (∀ v rest, s.mg.waiting = v :: rest → ∃ t, exec .pollForPlatformEventMessage s = .next t ∧ t.mg.waiting = rest
        ∧ BusOut.mgmt "event" v.bytes ∈ t.bus ∧ t.rings = s.rings ∧ StoreKept s t)
      ∧ (s.viewStale = true → ∀ u, exec (.sensorReading (.unitState u)) s = .next (emit (.mgmt "UNIT STALE" []) s))
      ∧ (s.viewStale = false → ∀ u : Fin 78, exec (.sensorReading (.unitState u.val)) s
        = .next (emit (.mgmt "UNIT" [s.mg.view[u]]) s)))
    ∧ exec (.sensorReading .auxPower) s = .next (emit (.mgmt "AUX_PWR_ABSENT" [if s.pw.aux = .absent then 1 else 0]) s)

/-- Marks and views (R365 to R368, Table 18-8): UNIT_OFFLINE of a unit that may not go is refused and changes nothing,
another is marked and only it; UNIT_ONLINE unmarks it, but is refused while the view is stale; VIEW_ACK takes the
table of its generation and ends the skew of the current one; VIEW_SKEW marks the view stale. -/
def Obligations.UnitMarksAndViews : Prop :=
  ∀ s : State, Up s → s.pw.vauxOn = true → s.pw.pstate = .active →
    (∀ u, s.cfg.mgmtOff.contains u = false → offlineRefused s u = true →
      exec (.unitOffline u) s = .next (emit (.mgmt "ERROR_INVALID_DATA" []) s))
    ∧ (∀ u, s.cfg.mgmtOff.contains u = false → offlineRefused s u = false → ∃ t, exec (.unitOffline u) s = .next t
      ∧ (∀ v, v ∈ t.cfg.mgmtOff ↔ v = u ∨ v ∈ s.cfg.mgmtOff) ∧ t.ma.crags = s.ma.crags ∧ t.ma.lanes = s.ma.lanes
      ∧ t.rings = s.rings ∧ StoreKept s t)
    ∧ (∀ u, u < 78 → s.viewStale = false → ∃ t, exec (.unitOnline u) s = .next t
      ∧ (∀ v, v ∈ t.cfg.mgmtOff ↔ v ≠ u ∧ v ∈ s.cfg.mgmtOff) ∧ t.ma.crags = s.ma.crags ∧ t.rings = s.rings ∧ StoreKept s t)
    ∧ (∀ u, s.viewStale = true → exec (.unitOnline u) s = .next (emit (.mgmt "ERROR_INVALID_DATA" []) s))
    ∧ (∀ g v, s.mg.sent = [(g, v)] → ∃ t, exec (.viewAck g) s = .next t ∧ t.mg.view = v ∧ t.mg.sent = [] ∧ t.cfg.mgGen = g
      ∧ (g = s.cfg.dpGen → t.cfg.skew = false ∧ t.cfg.stale = false) ∧ t.rings = s.rings ∧ StoreKept s t)
    ∧ (s.stewardRuns = true → s.cfg.dpGen ≠ s.cfg.mgGen → s.cfg.skew = false → ∃ t, exec .viewSkew s = .next t
      ∧ t.cfg.skew = true ∧ t.viewStale = true ∧ t.rings = s.rings ∧ StoreKept s t)

abbrev Pre.keyLoad (s : State) (slot alg tenant : Nat) (key : List Byte) : Prop :=
  slot ≤ 31 ∧ alg ≤ 2 ∧ tenant ≤ 7 ∧ 1 ≤ key.length ∧ key.length ≤ 256 ∧ s.ma.keys[ix 31 slot].keep = false
    ∧ (s.ma.keys[ix 31 slot].given = none ∨ s.ma.keys[ix 31 slot].given = some (ix 7 tenant))

/-- Firmware update (R59, R364): a request is admitted only with no trial, no load and no update under way; the data
make the slot that is not ACTIVE INCOMPLETE; a verified image of an SVN at the floor or above is kept with its
versions, any other ends the update; activation leaves the slot PENDING. The other slot never changes. Keys (R241,
R353, R354, R358): outside a qualifying session no key message acts; inside one KEY_LOAD keeps the HMAC states of the
key for its slot alone, a claimed slot turns it away, KEY_ZERO leaves the slot's state empty, KEY_LIST answers what
SLOE_KEY_ST shows and changes nothing. -/
def Obligations.FirmwareAndKeysKeepTheirPlace : Prop :=
  (∀ s : State, Managed s → s.pw.phase ≠ .holdUp →
    (s.boot.trial = false → s.cfg.loading = false → s.boot.update = .idle → exec .requestUpdate s
      = .next (emit (.mgmt "SUCCESS" []) { s with boot := { s.boot with update := .receiving, updImage := [] } }))
    ∧ (s.boot.trial = true ∨ s.cfg.loading = true ∨ s.boot.update ≠ .idle →
      exec .requestUpdate s = .next (emit (.mgmt "RETRY_REQUEST_UPDATE" []) s))
    ∧ (s.boot.update = .receiving →
      (∀ off bytes, ∃ t, exec (.firmwareUpdateData off bytes) s = .next t ∧ (t.boot.slot s.boot.updateB).st = 4
        ∧ t.boot.updImage = writeBytes off bytes s.boot.updImage ∧ t.boot.slot (!s.boot.updateB) = s.boot.slot (!s.boot.updateB)
        ∧ t.rings = s.rings ∧ StoreKept s t)
      ∧ (∀ svn ver, s.boot.svnFloor.toNat ≤ svn.toNat → ∃ t, exec (.verifyComplete true svn ver) s = .next t
        ∧ t.boot.update = .verified ∧ (t.boot.slot s.boot.updateB).svn = svn ∧ (t.boot.slot s.boot.updateB).ver = ver
        ∧ t.boot.slot (!s.boot.updateB) = s.boot.slot (!s.boot.updateB) ∧ t.rings = s.rings ∧ StoreKept s t)
      ∧ (∀ ok svn ver, ok = false ∨ svn.toNat < s.boot.svnFloor.toNat → ∃ t, exec (.verifyComplete ok svn ver) s = .next t
        ∧ t.boot.update = .idle ∧ (t.boot.slot s.boot.updateB).st = 4
        ∧ t.boot.slot (!s.boot.updateB) = s.boot.slot (!s.boot.updateB) ∧ t.rings = s.rings ∧ StoreKept s t))
    ∧ (s.boot.update = .verified → ∃ t, exec .activateFirmware s = .next t ∧ (t.boot.slot s.boot.updateB).st = 3
      ∧ t.boot.update = .idle ∧ t.boot.slot (!s.boot.updateB) = s.boot.slot (!s.boot.updateB) ∧ t.rings = s.rings
      ∧ StoreKept s t)
    ∧ (s.boot.update ≠ .verified → exec .activateFirmware s = .next (emit (.mgmt "ERROR" []) s)))
  ∧ (∀ s : State, Up s → s.pw.vauxOn = true → s.pw.pstate = .active →
    (∀ m c u, exec (.spdmSecuredSession m c u) s = .next (emit (.mgmt "SPDM session" [])
      { s with cfg := { s.cfg with spdm := true, spdmKey := m && c && u } }))
    ∧ (s.cfg.spdmKey = false → ∀ slot alg tenant label key fails,
      exec (.keyLoad slot alg tenant label key) s = .next (emit (.mgmt "SPDM ERROR SessionRequired" []) s)
      ∧ exec (.keyZero slot fails) s = .next (emit (.mgmt "SPDM ERROR SessionRequired" []) s)
      ∧ exec .keyList s = .next (emit (.mgmt "SPDM ERROR SessionRequired" []) s))
    ∧ (s.cfg.spdmKey = true →
      (∀ slot alg tenant label key, Pre.keyLoad s slot alg tenant key → ∃ t, exec (.keyLoad slot alg tenant label key) s = .next t
        ∧ t.ma.keys[ix 31 slot].loaded = true ∧ t.ma.keys[ix 31 slot].owner = ix 7 tenant
        ∧ t.ma.keys[ix 31 slot].label = label ∧ t.ma.keys[ix 31 slot].inner = hmacPad (keyAlg alg) 0x36 key
        ∧ t.ma.keys[ix 31 slot].outer = hmacPad (keyAlg alg) 0x5C key
        ∧ (∀ k : KSlot, k ≠ ix 31 slot → t.ma.keys[k] = s.ma.keys[k]) ∧ t.ma.lanes = s.ma.lanes ∧ t.rings = s.rings
        ∧ StoreKept s t)
      ∧ (∀ slot alg tenant label key, 31 < slot ∨ s.ma.keys[ix 31 slot].keep = true →
        exec (.keyLoad slot alg tenant label key) s = .next (emit (.mgmt "SPDM ERROR InvalidRequest" []) s))
      ∧ (∀ slot, slot ≤ 31 → s.ma.keys[ix 31 slot].keep = false → ∀ fails, ∃ t, exec (.keyZero slot fails) s = .next t
        ∧ t.ma.keys[ix 31 slot].loaded = false ∧ t.ma.keys[ix 31 slot].inner = [] ∧ t.ma.keys[ix 31 slot].outer = []
        ∧ (∀ k : KSlot, k ≠ ix 31 slot → t.ma.keys[k] = s.ma.keys[k]) ∧ t.rings = s.rings ∧ StoreKept s t)
      ∧ exec .keyList s = .next (emit (.mgmt "KEY_LIST" (s.ma.keys.toList.flatMap (fun x => bytesLE 4 (keySt x)))) s)))

/-! ### Debug access (21) -/

/-- The debug port takes a DBG_XFER access. -/
abbrev Debugged (s : State) : Prop := s.pw.vauxOn = true ∧ s.dbgWorks = true ∧ s.pw.phase ≠ .deep

/-- `s` once DBG_XFER is selected and the capture of the previous access has left. -/
abbrev Tapped (s : State) : State := emit (.tdo (capture72 s.dbg)) { s with dbg := { s.dbg with ir := 0x21 } }

/-- What DBG_XFER leaves alone. -/
abbrev EngineKept (s t : State) : Prop :=
  t.rings = s.rings ∧ t.cairns = s.cairns ∧ t.wd = s.wd ∧ t.cfg = s.cfg ∧ t.link = s.link ∧ t.pw = s.pw ∧ StoreKept s t

/-- The TAP (R398): IDCODE, EXTEST, SAMPLE and BYPASS answer from 3.3 Vaux, whatever the power state, and touch
nothing of the engine; the sampled boundary is a free value. DBG_NOP shifts the last result out and makes no access;
in DEEP an access is answered UNPOWERED. DBG_XFER accesses (R402, R403, Tables 21-3, 21-4): at NONE the engine's space
is DENIED, and a write needs CONTROL; an inspect read answers the register's word and clears nothing; a write at
CONTROL stores as a host's write does; the token buffer takes a write at every level. -/
def Obligations.DebugAccessNeedsItsLevel : Prop :=
  (∀ s : State, s.pw.vauxOn = true →
    exec .tapIdcode s = .next (emit (.tdo 0x1B320B9F) { s with dbg := { s.dbg with ir := 1 } })
    ∧ (∀ b, exec (.tapExtest b) s = .next (emit (.pin "EXTEST" true) { s with dbg := { s.dbg with ir := 0, boundary := b } }))
    ∧ (∀ code : Byte, code ≠ 0 → code ≠ 1 → code ≠ 2 → code ≠ 0x21 → exec (.tapBypass code) s
      = .next (emit (.tdo 0) { s with dbg := { s.dbg with ir := code } }))
    ∧ (∃ t, exec .tapSamplePreload s = .next t ∧ t.dbg.ir = 2 ∧ t.bus = s.bus ++ [.tdo (t.dbg.boundary.zeroExtend 72)]
      ∧ EngineKept s t)
    ∧ (s.dbgWorks = true → exec .dbgNop s
      = .next { Tapped s with dbg := { (Tapped s).dbg with op := 0 } })
    ∧ (s.pw.phase = .deep → ∀ space addr, ∃ t, exec (.dbgRead space addr) s = .next t ∧ t.dbg.status = 4 ∧ t.dbg.op = 1
      ∧ EngineKept s t))
  ∧ (∀ (s : State) (addr : Nat) (v : Word), Debugged s →
    (s.dbg.level = 0 → (∃ t, exec (.dbgRead 0 addr) s = .next t ∧ t.dbg.status = 2 ∧ t.dbg.op = 1 ∧ EngineKept s t)
      ∧ (addr < 0x1000 → addr % 4 = 0 → ∃ t, exec (.dbgWrite 2 addr v) s = .next t ∧ t.dbg.status = 0
        ∧ t.dbg.token = writeBytes addr (bytesLE 4 v) s.dbg.token ∧ EngineKept s t))
    ∧ (s.dbg.level ≠ 2 → ∃ t, exec (.dbgWrite 0 addr v) s = .next t ∧ t.dbg.status = 2 ∧ t.dbg.op = 2 ∧ EngineKept s t)
    ∧ (s.dbg.level ≠ 0 → s.dbg.live = false → addr % 4 = 0 → addr < 0x4000000 → addr ≠ 0x60014 →
      ∃ t, exec (.dbgRead 0 addr) s = .next t ∧ t.dbg.status = 0 ∧ t.dbg.data = regWord (Tapped s) addr
        ∧ t.dbg.addr = BitVec.ofNat 32 addr ∧ EngineKept s t)
    ∧ (s.dbg.level ≠ 0 → (addr % 4 ≠ 0 ∨ 0x4000000 ≤ addr) → ∃ t, exec (.dbgRead 0 addr) s = .next t ∧ t.dbg.status = 3
      ∧ EngineKept s t)
    ∧ (s.dbg.level = 2 → addr % 4 = 0 → addr < 0x4000000 → ∃ t, exec (.dbgWrite 0 addr v) s = .next t ∧ t.dbg.status = 0
      ∧ t.rings = (storeAt true addr 4 (v.zeroExtend 512) (Tapped s)).rings
      ∧ t.st = (storeAt true addr 4 (v.zeroExtend 512) (Tapped s)).st
      ∧ t.cfg = (storeAt true addr 4 (v.zeroExtend 512) (Tapped s)).cfg))

abbrev Pre.session (s : State) : Prop := Debugged s ∧ s.dbg.winWait = [] ∧ ArrayAtRest s

/-- Debug sessions (R399 to R401, R405, R407): AUTH at NONE only starts a verification; a token the Keep admits gives
its level, any other counts a failure and the third locks the port; LIVE_READ and HALT act at CONTROL alone; a halt
reaches its boundary, or is forced with the resources still held marked; RESUME and the session's end release all of
it. -/
def Obligations.DebugSessionsHaltAndResume : Prop :=
  ∀ s : State,
    (Debugged s → s.dbg.level = 0 → (s.dbg.authBusy = false → ∃ t, exec .dbgAuth s = .next t ∧ t.dbg.authBusy = true
        ∧ t.dbg.level = 0 ∧ t.dbg.status = 0 ∧ EngineKept s t)
      ∧ (s.dbg.authBusy = true → ∃ t, exec .dbgAuth s = .next t ∧ t.dbg.status = 5 ∧ t.dbg.level = 0 ∧ EngineKept s t))
    ∧ (s.dbg.authBusy = true → s.pw.phase ≠ .holdUp → ∀ cert sig,
      (tokenOk s cert sig = true → s.dbg.locked = false → ∃ t, exec (.dbgAuthComplete cert sig) s = .next t
        ∧ t.dbg.level = BitVec.ofNat 2 (readByte s.dbg.token 8).toNat ∧ t.dbg.authBusy = false
        ∧ t.dbg.logN = s.dbg.logN + 1 ∧ EngineKept s t)
      ∧ (tokenOk s cert sig = false ∨ s.dbg.locked = true → ∃ t, exec (.dbgAuthComplete cert sig) s = .next t
        ∧ t.dbg.level = s.dbg.level ∧ t.dbg.authBusy = false ∧ (s.dbg.authFails = 2 → t.dbg.locked = true)
        ∧ EngineKept s t))
    ∧ (Pre.session s → s.dbg.level = 2 →
      (∀ on, ∃ t, exec (.liveRead on) s = .next t ∧ t.dbg.live = on ∧ t.dbg.halted = s.dbg.halted ∧ t.dbg.status = 0
        ∧ EngineKept s t)
      ∧ (s.dbg.halted = false → ∃ t, exec .halt s = .next t ∧ t.dbg.haltPend = true ∧ t.dbg.halted = false
        ∧ EngineKept s t)
      ∧ (∃ t, exec .resume s = .next t ∧ t.dbg.halted = false ∧ t.dbg.haltPend = false
        ∧ (s.dbg.halted = true → t.dbg.held = 0) ∧ EngineKept s t)
      ∧ (∃ t, exec .dbgEnd s = .next t ∧ t.dbg.level = 0 ∧ t.dbg.live = false ∧ t.dbg.halted = false ∧ EngineKept s t))
    ∧ (s.dbg.haltPend = true → s.pw.phase ≠ .holdUp → (∃ t, exec .stewardHalted s = .next t ∧ t.dbg.halted = true ∧ t.dbg.haltPend = false
        ∧ EngineKept s t)
      ∧ (∀ held r, ∃ t, exec (.haltForced held r) s = .next t ∧ t.dbg.halted = true ∧ t.dbg.forced = true
        ∧ t.dbg.held = held ∧ EngineKept s t))
    ∧ (s.dbg.haltPend = false → exec .stewardHalted s = .next s)
end

