-- ==== Sys2Proof/Laws/Memory.lean ====
section
/-! SUPPORT. Laws of sparse memory: a read after a write, the bytes a write leaves alone, and that every memory
operation keeps the canonical form. -/

namespace Sys2Proof.Laws

open Sys2Proof Sys2Proof.Machine Sys2Proof.Safety

variable {α : Type} [DecidableEq α] {d : α}

/-! ### Key and value lists -/

/-- Canonical above a bound is canonical above any lower one. -/
theorem kvOk_weaken {m : List (Nat × α)} {lo hi : Nat} (h : kvOk d (some hi) m = true) (hl : lo ≤ hi) :
    kvOk d (some lo) m = true := by
  cases m with
  | nil => rfl
  | cons p m =>
    simp only [kvOk, Bool.and_eq_true, decide_eq_true_eq] at *
    exact ⟨⟨by omega, h.1.2⟩, h.2⟩

theorem kvOk_none {m : List (Nat × α)} {lo : Nat} (h : kvOk d (some lo) m = true) : kvOk d none m = true := by
  cases m with
  | nil => rfl
  | cons p m =>
    simp only [kvOk, Bool.and_eq_true, Bool.true_and] at *
    exact ⟨h.1.2, h.2⟩

/-- Below its keys a canonical list reads as unlisted. -/
theorem kvGet_below {m : List (Nat × α)} {lo a : Nat} (h : kvOk d (some lo) m = true) (ha : a ≤ lo) :
    kvGet d m a = d := by
  cases m with
  | nil => rfl
  | cons p m =>
    simp only [kvOk, Bool.and_eq_true, decide_eq_true_eq] at h
    have h1 : a ≠ p.1 := by omega
    have h2 : a < p.1 := by omega
    simp [kvGet, h1, h2]

/-- A write keeps the keys above a bound below the key written. -/
theorem kvSet_ok_some {m : List (Nat × α)} {lo a : Nat} {v : α} (h : kvOk d (some lo) m = true) (ha : lo < a) :
    kvOk d (some lo) (kvSet d a v m) = true := by
  induction m generalizing lo with
  | nil => unfold kvSet; split <;> simp_all [kvOk]
  | cons p m ih =>
    obtain ⟨k, w⟩ := p
    simp only [kvOk, Bool.and_eq_true, decide_eq_true_eq] at h
    unfold kvSet
    split
    · split
      · simp [kvOk, h]
      · simp [kvOk, *]
    · split
      · split
        · exact kvOk_weaken h.2 (by omega)
        · simp [kvOk, *]
      · simp only [kvOk, Bool.and_eq_true, decide_eq_true_eq]
        exact ⟨h.1, ih h.2 (by omega)⟩

/-- A write keeps the canonical form. -/
theorem kvSet_ok {m : List (Nat × α)} {a : Nat} {v : α} (h : kvOk d none m = true) : kvOk d none (kvSet d a v m) = true := by
  cases m with
  | nil => unfold kvSet; split <;> simp_all [kvOk]
  | cons p m =>
    obtain ⟨k, w⟩ := p
    simp only [kvOk, Bool.and_eq_true, Bool.true_and, decide_eq_true_eq] at h
    unfold kvSet
    split
    · split
      · simp [kvOk, h]
      · simp [kvOk, *]
    · split
      · split
        · exact kvOk_none h.2
        · simp [kvOk, *]
      · simp only [kvOk, Bool.and_eq_true, Bool.true_and, decide_eq_true_eq]
        exact ⟨h.1, kvSet_ok_some h.2 (by omega)⟩

/-- What a canonical list reads at a key after a write, from below its keys. -/
theorem kvGet_kvSet_some {m : List (Nat × α)} {lo a b : Nat} {v : α} (h : kvOk d (some lo) m = true) :
    kvGet d (kvSet d a v m) b = if b = a then v else kvGet d m b := by
  induction m generalizing lo with
  | nil => unfold kvSet; split <;> (simp only [kvGet]; split <;> simp_all)
  | cons p m ih =>
    obtain ⟨k, w⟩ := p
    simp only [kvOk, Bool.and_eq_true, decide_eq_true_eq] at h
    unfold kvSet
    by_cases hb : b = a
    · subst hb
      by_cases h1 : b < k
      · by_cases h2 : v = d <;> simp [h1, h2, kvGet]
        omega
      · by_cases h3 : b = k
        · subst h3
          by_cases h2 : v = d
          · simp [h2, kvGet_below h.2 (Nat.le_refl b)]
          · simp [h2, kvGet]
        · have h4 : kvGet d (kvSet d b v m) b = v := by simpa using ih h.2
          simp [h1, h3, kvGet, h4]
    · by_cases h1 : a < k
      · by_cases h2 : v = d
        · simp [h1, h2, hb]
        · simp only [h1, h2, hb, kvGet, if_true, if_false]
          by_cases h5 : b < a
          · have h6 : b ≠ k := by omega
            have h7 : b < k := by omega
            simp [h5, h6, h7]
          · simp [h5]
      · by_cases h3 : a = k
        · subst h3
          by_cases h2 : v = d
          · by_cases h5 : b < a
            · simp [h2, hb, kvGet, h5, kvGet_below h.2 (Nat.le_of_lt h5)]
            · simp [h2, hb, kvGet, h5]
          · simp [h2, hb, kvGet]
        · have h4 : kvGet d (kvSet d a v m) b = kvGet d m b := by simpa [hb] using ih h.2
          simp [h1, h3, kvGet, h4, hb]

/-- A read of a canonical list after a write. -/
theorem kvGet_kvSet {m : List (Nat × α)} {a b : Nat} {v : α} (h : kvOk d none m = true) :
    kvGet d (kvSet d a v m) b = if b = a then v else kvGet d m b := by
  cases m with
  | nil => exact kvGet_kvSet_some (lo := 0) rfl
  | cons p m =>
    obtain ⟨k, w⟩ := p
    by_cases hk : 0 < k
    · refine kvGet_kvSet_some (lo := k - 1) ?_
      simp only [kvOk, Bool.and_eq_true, Bool.true_and, decide_eq_true_eq] at *
      exact ⟨⟨by omega, h.1⟩, h.2⟩
    · obtain rfl : k = 0 := by omega
      simp only [kvOk, Bool.and_eq_true, Bool.true_and, decide_eq_true_eq] at h
      unfold kvSet
      by_cases ha : a = 0
      · subst ha
        by_cases h2 : v = d
        · by_cases hb : b = 0
          · subst hb; simp [h2, kvGet_below h.2 (Nat.le_refl 0)]
          · simp [h2, hb, kvGet]
        · by_cases hb : b = 0 <;> simp [h2, hb, kvGet]
      · by_cases hb : b = 0
        · subst hb; simp [ha, kvGet, Ne.symm ha]
        · have h4 := kvGet_kvSet_some (a := a) (b := b) (v := v) h.2
          simp [ha, hb, kvGet, h4]

/-! ### Bytes -/

theorem writeByte_wf {m : List Host.Cell} {a : Nat} {b : Byte} (h : Memory.wf m = true) : Memory.wf (writeByte a b m) = true :=
  kvSet_ok h

theorem readByte_writeByte {m : List Host.Cell} {a x : Nat} {b : Byte} (h : Memory.wf m = true) :
    readByte (writeByte a b m) x = if x = a then b else readByte m x := kvGet_kvSet h

theorem writeBytes_wf {bs : List Byte} {m : List Host.Cell} {a : Nat} (h : Memory.wf m = true) :
    Memory.wf (writeBytes a bs m) = true := by
  induction bs generalizing m a with
  | nil => exact h
  | cons b bs ih => exact ih (writeByte_wf h)

/-- After consecutive bytes are written, each address inside reads its byte and every other one reads as before. -/
theorem readByte_writeBytes {bs : List Byte} {m : List Host.Cell} {a x : Nat} (h : Memory.wf m = true) :
    readByte (writeBytes a bs m) x
      = if a ≤ x ∧ x < a + bs.length then (bs[x - a]?).getD 0 else readByte m x := by
  induction bs generalizing m a with
  | nil => simp [writeBytes]
  | cons b bs ih =>
    rw [writeBytes, ih (writeByte_wf h), readByte_writeByte h, List.length_cons]
    by_cases h1 : x = a
    · subst h1
      simp
    · by_cases h2 : a ≤ x ∧ x < a + (bs.length + 1)
      · have h3 : a + 1 ≤ x ∧ x < a + 1 + bs.length := by omega
        have h4 : x - a = (x - (a + 1)) + 1 := by omega
        simp [h2, h3, h4]
      · rw [if_neg h2, if_neg (by omega), if_neg h1]

theorem readByte_writeBytes_out {bs : List Byte} {m : List Host.Cell} {a x : Nat} (h : Memory.wf m = true)
    (hx : x < a ∨ a + bs.length ≤ x) : readByte (writeBytes a bs m) x = readByte m x := by
  rw [readByte_writeBytes h, if_neg (by omega)]

/-- Equal canonical memories are those that read alike: a read of `n` bytes is the bytes read one by one. -/
theorem readBytes_getElem? {m : List Host.Cell} {a n i : Nat} (h : i < n) : (readBytes m a n)[i]? = some (readByte m (a + i)) := by
  simp [readBytes, h]

/-! ### Stores -/

@[simp] theorem markBad_mem (p : Bool) (b : Nat) (s : State) : (markBad p b s).st.mem = s.st.mem := rfl

theorem storeBeat_mem (b : Nat) (x : Beat) (s : State) :
    (storeBeat b x s).st.mem = writeBytes (64 * b) (bytesLE 64 x.data) s.st.mem := by
  simp only [storeBeat, markBad, dropLines]

theorem storeBeat_wf {s : State} {b : Nat} {x : Beat} (h : MemoryOk s) : MemoryOk (storeBeat b x s) := by
  unfold MemoryOk
  rw [storeBeat_mem]
  exact writeBytes_wf h

/-- A whole beat stored: its 64 bytes read back, every other byte as before. -/
theorem readByte_storeBeat {s : State} {b : Nat} {x : Beat} {a : Nat} (h : MemoryOk s) :
    readByte (storeBeat b x s).st.mem a
      = if 64 * b ≤ a ∧ a < 64 * b + 64 then ((bytesLE 64 x.data)[a - 64 * b]?).getD 0 else readByte s.st.mem a := by
  have hl : (bytesLE 64 x.data).length = 64 := by simp only [bytesLE, List.length_map, List.length_range]
  rw [storeBeat_mem, readByte_writeBytes h, hl]

/-- Marks change no byte. -/
theorem foldl_mem {β : Type} (f : State → β → State) (hf : ∀ s b, (f s b).st.mem = s.st.mem) (l : List β) (s : State) :
    (l.foldl f s).st.mem = s.st.mem := by
  induction l generalizing s with
  | nil => rfl
  | cons b l ih => rw [List.foldl_cons, ih, hf]

/-- The bytes a store leaves in memory. -/
theorem storeBytes_mem (a : Nat) (bs : List Byte) (p : Bool) (s : State) :
    (storeBytes a bs p s).st.mem = writeBytes a bs s.st.mem := by
  unfold storeBytes
  by_cases h : bs = []
  · subst h; simp [writeBytes]
  · simp only [h, if_false]
    rw [foldl_mem _ (fun s b => by split_ifs <;> rfl)]
    rfl

theorem storeBytes_wf {s : State} {a : Nat} {bs : List Byte} {p : Bool} (h : MemoryOk s) : MemoryOk (storeBytes a bs p s) := by
  show Memory.wf (storeBytes a bs p s).st.mem = true
  rw [storeBytes_mem]
  exact writeBytes_wf h

/-- Reset memory lists nothing. -/
theorem reset_memoryOk : MemoryOk State.reset := rfl

end Sys2Proof.Laws
end

