-- ==== Sys2Proof/Laws/State.lean ====
section
/-! SUPPORT. What each named update of State leaves and changes: one lemma per field, so that no proof unfolds a record
update. -/

namespace Sys2Proof.Machine

/-! ### Elements of a bank -/

@[simp] theorem modAt_same {α : Type} {n : Nat} (v : Vector α n) (i : Fin n) (f : α → α) : (modAt v i f)[i] = f v[i] := by
  simp [modAt]

@[simp] theorem modAt_at {α : Type} {n : Nat} (v : Vector α n) (i : Fin n) (f : α → α) :
    (modAt v i f)[i.val] = f v[i.val] := modAt_same v i f

theorem modAt_other {α : Type} {n : Nat} (v : Vector α n) (i j : Fin n) (f : α → α) (h : j ≠ i) : (modAt v i f)[j] = v[j] := by
  have : i.val ≠ j.val := fun e => h (Fin.ext e.symm)
  simp [modAt, this]

@[simp] theorem mapBank_getElem {α : Type} {n : Nat} (f : Nat → α → α) (v : Vector α n) (i : Fin n) :
    (mapBank f v)[i] = f i.val v[i] := by
  simp [mapBank]

/-! ### State.onRing -/

@[simp] theorem State.onRing_same (s : State) (r : Ring) (f : RingSt → RingSt) : (s.onRing r f).rings[r] = f s.rings[r] :=
  modAt_same _ _ _

@[simp] theorem State.onRing_at (s : State) (r : Ring) (f : RingSt → RingSt) : (s.onRing r f).rings[r.val] = f s.rings[r.val] :=
  modAt_same _ _ _

theorem State.onRing_other (s : State) (r : Ring) (f : RingSt → RingSt) (x : Ring) (h : x ≠ r) :
    (s.onRing r f).rings[x] = s.rings[x] := modAt_other _ _ _ _ h

@[simp] theorem State.onRing_pending (s : State) (r : Ring) (f : RingSt → RingSt) : (s.onRing r f).pending = s.pending := rfl
@[simp] theorem State.onRing_bus (s : State) (r : Ring) (f : RingSt → RingSt) : (s.onRing r f).bus = s.bus := rfl
@[simp] theorem State.onRing_now (s : State) (r : Ring) (f : RingSt → RingSt) : (s.onRing r f).now = s.now := rfl
@[simp] theorem State.onRing_freeIx (s : State) (r : Ring) (f : RingSt → RingSt) : (s.onRing r f).freeIx = s.freeIx := rfl
@[simp] theorem State.onRing_nextCid (s : State) (r : Ring) (f : RingSt → RingSt) : (s.onRing r f).nextCid = s.nextCid := rfl
@[simp] theorem State.onRing_pw (s : State) (r : Ring) (f : RingSt → RingSt) : (s.onRing r f).pw = s.pw := rfl
@[simp] theorem State.onRing_boot (s : State) (r : Ring) (f : RingSt → RingSt) : (s.onRing r f).boot = s.boot := rfl
@[simp] theorem State.onRing_cfg (s : State) (r : Ring) (f : RingSt → RingSt) : (s.onRing r f).cfg = s.cfg := rfl
@[simp] theorem State.onRing_tenants (s : State) (r : Ring) (f : RingSt → RingSt) : (s.onRing r f).tenants = s.tenants := rfl
@[simp] theorem State.onRing_cairns (s : State) (r : Ring) (f : RingSt → RingSt) : (s.onRing r f).cairns = s.cairns := rfl
@[simp] theorem State.onRing_ma (s : State) (r : Ring) (f : RingSt → RingSt) : (s.onRing r f).ma = s.ma := rfl
@[simp] theorem State.onRing_link (s : State) (r : Ring) (f : RingSt → RingSt) : (s.onRing r f).link = s.link := rfl
@[simp] theorem State.onRing_st (s : State) (r : Ring) (f : RingSt → RingSt) : (s.onRing r f).st = s.st := rfl
@[simp] theorem State.onRing_pair (s : State) (r : Ring) (f : RingSt → RingSt) : (s.onRing r f).pair = s.pair := rfl
@[simp] theorem State.onRing_adm (s : State) (r : Ring) (f : RingSt → RingSt) : (s.onRing r f).adm = s.adm := rfl
@[simp] theorem State.onRing_wd (s : State) (r : Ring) (f : RingSt → RingSt) : (s.onRing r f).wd = s.wd := rfl
@[simp] theorem State.onRing_dbg (s : State) (r : Ring) (f : RingSt → RingSt) : (s.onRing r f).dbg = s.dbg := rfl
@[simp] theorem State.onRing_mg (s : State) (r : Ring) (f : RingSt → RingSt) : (s.onRing r f).mg = s.mg := rfl

/-! ### State.onCairn -/

@[simp] theorem State.onCairn_same (s : State) (c : Cairn) (f : CairnSt → CairnSt) : (s.onCairn c f).cairns[c] = f s.cairns[c] :=
  modAt_same _ _ _

@[simp] theorem State.onCairn_at (s : State) (c : Cairn) (f : CairnSt → CairnSt) : (s.onCairn c f).cairns[c.val] = f s.cairns[c.val] :=
  modAt_same _ _ _

theorem State.onCairn_other (s : State) (c : Cairn) (f : CairnSt → CairnSt) (x : Cairn) (h : x ≠ c) :
    (s.onCairn c f).cairns[x] = s.cairns[x] := modAt_other _ _ _ _ h

@[simp] theorem State.onCairn_pending (s : State) (c : Cairn) (f : CairnSt → CairnSt) : (s.onCairn c f).pending = s.pending := rfl
@[simp] theorem State.onCairn_bus (s : State) (c : Cairn) (f : CairnSt → CairnSt) : (s.onCairn c f).bus = s.bus := rfl
@[simp] theorem State.onCairn_now (s : State) (c : Cairn) (f : CairnSt → CairnSt) : (s.onCairn c f).now = s.now := rfl
@[simp] theorem State.onCairn_freeIx (s : State) (c : Cairn) (f : CairnSt → CairnSt) : (s.onCairn c f).freeIx = s.freeIx := rfl
@[simp] theorem State.onCairn_nextCid (s : State) (c : Cairn) (f : CairnSt → CairnSt) : (s.onCairn c f).nextCid = s.nextCid := rfl
@[simp] theorem State.onCairn_pw (s : State) (c : Cairn) (f : CairnSt → CairnSt) : (s.onCairn c f).pw = s.pw := rfl
@[simp] theorem State.onCairn_boot (s : State) (c : Cairn) (f : CairnSt → CairnSt) : (s.onCairn c f).boot = s.boot := rfl
@[simp] theorem State.onCairn_cfg (s : State) (c : Cairn) (f : CairnSt → CairnSt) : (s.onCairn c f).cfg = s.cfg := rfl
@[simp] theorem State.onCairn_tenants (s : State) (c : Cairn) (f : CairnSt → CairnSt) : (s.onCairn c f).tenants = s.tenants := rfl
@[simp] theorem State.onCairn_rings (s : State) (c : Cairn) (f : CairnSt → CairnSt) : (s.onCairn c f).rings = s.rings := rfl
@[simp] theorem State.onCairn_ma (s : State) (c : Cairn) (f : CairnSt → CairnSt) : (s.onCairn c f).ma = s.ma := rfl
@[simp] theorem State.onCairn_link (s : State) (c : Cairn) (f : CairnSt → CairnSt) : (s.onCairn c f).link = s.link := rfl
@[simp] theorem State.onCairn_st (s : State) (c : Cairn) (f : CairnSt → CairnSt) : (s.onCairn c f).st = s.st := rfl
@[simp] theorem State.onCairn_pair (s : State) (c : Cairn) (f : CairnSt → CairnSt) : (s.onCairn c f).pair = s.pair := rfl
@[simp] theorem State.onCairn_adm (s : State) (c : Cairn) (f : CairnSt → CairnSt) : (s.onCairn c f).adm = s.adm := rfl
@[simp] theorem State.onCairn_wd (s : State) (c : Cairn) (f : CairnSt → CairnSt) : (s.onCairn c f).wd = s.wd := rfl
@[simp] theorem State.onCairn_dbg (s : State) (c : Cairn) (f : CairnSt → CairnSt) : (s.onCairn c f).dbg = s.dbg := rfl
@[simp] theorem State.onCairn_mg (s : State) (c : Cairn) (f : CairnSt → CairnSt) : (s.onCairn c f).mg = s.mg := rfl

/-! ### State.onWheel -/

@[simp] theorem State.onWheel_same (s : State) (w : Wheel) (f : WheelSt → WheelSt) : (s.onWheel w f).ma.wheels[w] = f s.ma.wheels[w] :=
  modAt_same _ _ _

@[simp] theorem State.onWheel_at (s : State) (w : Wheel) (f : WheelSt → WheelSt) : (s.onWheel w f).ma.wheels[w.val] = f s.ma.wheels[w.val] :=
  modAt_same _ _ _

theorem State.onWheel_other (s : State) (w : Wheel) (f : WheelSt → WheelSt) (x : Wheel) (h : x ≠ w) :
    (s.onWheel w f).ma.wheels[x] = s.ma.wheels[x] := modAt_other _ _ _ _ h

@[simp] theorem State.onWheel_pending (s : State) (w : Wheel) (f : WheelSt → WheelSt) : (s.onWheel w f).pending = s.pending := rfl
@[simp] theorem State.onWheel_bus (s : State) (w : Wheel) (f : WheelSt → WheelSt) : (s.onWheel w f).bus = s.bus := rfl
@[simp] theorem State.onWheel_now (s : State) (w : Wheel) (f : WheelSt → WheelSt) : (s.onWheel w f).now = s.now := rfl
@[simp] theorem State.onWheel_freeIx (s : State) (w : Wheel) (f : WheelSt → WheelSt) : (s.onWheel w f).freeIx = s.freeIx := rfl
@[simp] theorem State.onWheel_nextCid (s : State) (w : Wheel) (f : WheelSt → WheelSt) : (s.onWheel w f).nextCid = s.nextCid := rfl
@[simp] theorem State.onWheel_pw (s : State) (w : Wheel) (f : WheelSt → WheelSt) : (s.onWheel w f).pw = s.pw := rfl
@[simp] theorem State.onWheel_boot (s : State) (w : Wheel) (f : WheelSt → WheelSt) : (s.onWheel w f).boot = s.boot := rfl
@[simp] theorem State.onWheel_cfg (s : State) (w : Wheel) (f : WheelSt → WheelSt) : (s.onWheel w f).cfg = s.cfg := rfl
@[simp] theorem State.onWheel_tenants (s : State) (w : Wheel) (f : WheelSt → WheelSt) : (s.onWheel w f).tenants = s.tenants := rfl
@[simp] theorem State.onWheel_rings (s : State) (w : Wheel) (f : WheelSt → WheelSt) : (s.onWheel w f).rings = s.rings := rfl
@[simp] theorem State.onWheel_cairns (s : State) (w : Wheel) (f : WheelSt → WheelSt) : (s.onWheel w f).cairns = s.cairns := rfl
@[simp] theorem State.onWheel_link (s : State) (w : Wheel) (f : WheelSt → WheelSt) : (s.onWheel w f).link = s.link := rfl
@[simp] theorem State.onWheel_st (s : State) (w : Wheel) (f : WheelSt → WheelSt) : (s.onWheel w f).st = s.st := rfl
@[simp] theorem State.onWheel_pair (s : State) (w : Wheel) (f : WheelSt → WheelSt) : (s.onWheel w f).pair = s.pair := rfl
@[simp] theorem State.onWheel_adm (s : State) (w : Wheel) (f : WheelSt → WheelSt) : (s.onWheel w f).adm = s.adm := rfl
@[simp] theorem State.onWheel_wd (s : State) (w : Wheel) (f : WheelSt → WheelSt) : (s.onWheel w f).wd = s.wd := rfl
@[simp] theorem State.onWheel_dbg (s : State) (w : Wheel) (f : WheelSt → WheelSt) : (s.onWheel w f).dbg = s.dbg := rfl
@[simp] theorem State.onWheel_mg (s : State) (w : Wheel) (f : WheelSt → WheelSt) : (s.onWheel w f).mg = s.mg := rfl
@[simp] theorem State.onWheel_ma_orcInv (s : State) (w : Wheel) (f : WheelSt → WheelSt) : (s.onWheel w f).ma.orcInv = s.ma.orcInv := rfl
@[simp] theorem State.onWheel_ma_orcHit (s : State) (w : Wheel) (f : WheelSt → WheelSt) : (s.onWheel w f).ma.orcHit = s.ma.orcHit := rfl
@[simp] theorem State.onWheel_ma_orcMiss (s : State) (w : Wheel) (f : WheelSt → WheelSt) : (s.onWheel w f).ma.orcMiss = s.ma.orcMiss := rfl
@[simp] theorem State.onWheel_ma_orcMerge (s : State) (w : Wheel) (f : WheelSt → WheelSt) : (s.onWheel w f).ma.orcMerge = s.ma.orcMerge := rfl
@[simp] theorem State.onWheel_ma_orcPoison (s : State) (w : Wheel) (f : WheelSt → WheelSt) : (s.onWheel w f).ma.orcPoison = s.ma.orcPoison := rfl
@[simp] theorem State.onWheel_ma_lines (s : State) (w : Wheel) (f : WheelSt → WheelSt) : (s.onWheel w f).ma.lines = s.ma.lines := rfl
@[simp] theorem State.onWheel_ma_crags (s : State) (w : Wheel) (f : WheelSt → WheelSt) : (s.onWheel w f).ma.crags = s.ma.crags := rfl
@[simp] theorem State.onWheel_ma_captures (s : State) (w : Wheel) (f : WheelSt → WheelSt) : (s.onWheel w f).ma.captures = s.ma.captures := rfl
@[simp] theorem State.onWheel_ma_capCount (s : State) (w : Wheel) (f : WheelSt → WheelSt) : (s.onWheel w f).ma.capCount = s.ma.capCount := rfl
@[simp] theorem State.onWheel_ma_debugBuf (s : State) (w : Wheel) (f : WheelSt → WheelSt) : (s.onWheel w f).ma.debugBuf = s.ma.debugBuf := rfl
@[simp] theorem State.onWheel_ma_rowan (s : State) (w : Wheel) (f : WheelSt → WheelSt) : (s.onWheel w f).ma.rowan = s.ma.rowan := rfl
@[simp] theorem State.onWheel_ma_xferWait (s : State) (w : Wheel) (f : WheelSt → WheelSt) : (s.onWheel w f).ma.xferWait = s.ma.xferWait := rfl
@[simp] theorem State.onWheel_ma_lanes (s : State) (w : Wheel) (f : WheelSt → WheelSt) : (s.onWheel w f).ma.lanes = s.ma.lanes := rfl
@[simp] theorem State.onWheel_ma_keys (s : State) (w : Wheel) (f : WheelSt → WheelSt) : (s.onWheel w f).ma.keys = s.ma.keys := rfl
@[simp] theorem State.onWheel_ma_srLane (s : State) (w : Wheel) (f : WheelSt → WheelSt) : (s.onWheel w f).ma.srLane = s.ma.srLane := rfl
@[simp] theorem State.onWheel_ma_srCtx (s : State) (w : Wheel) (f : WheelSt → WheelSt) : (s.onWheel w f).ma.srCtx = s.ma.srCtx := rfl
@[simp] theorem State.onWheel_ma_srResult (s : State) (w : Wheel) (f : WheelSt → WheelSt) : (s.onWheel w f).ma.srResult = s.ma.srResult := rfl
@[simp] theorem State.onWheel_ma_srLen (s : State) (w : Wheel) (f : WheelSt → WheelSt) : (s.onWheel w f).ma.srLen = s.ma.srLen := rfl
@[simp] theorem State.onWheel_ma_srState (s : State) (w : Wheel) (f : WheelSt → WheelSt) : (s.onWheel w f).ma.srState = s.ma.srState := rfl
@[simp] theorem State.onWheel_ma_waits (s : State) (w : Wheel) (f : WheelSt → WheelSt) : (s.onWheel w f).ma.waits = s.ma.waits := rfl
@[simp] theorem State.onWheel_ma_steps (s : State) (w : Wheel) (f : WheelSt → WheelSt) : (s.onWheel w f).ma.steps = s.ma.steps := rfl
@[simp] theorem State.onWheel_ma_moves (s : State) (w : Wheel) (f : WheelSt → WheelSt) : (s.onWheel w f).ma.moves = s.ma.moves := rfl

/-! ### State.onCrag -/

@[simp] theorem State.onCrag_same (s : State) (n : Crag) (f : CragSt → CragSt) : (s.onCrag n f).ma.crags[n] = f s.ma.crags[n] :=
  modAt_same _ _ _

@[simp] theorem State.onCrag_at (s : State) (n : Crag) (f : CragSt → CragSt) : (s.onCrag n f).ma.crags[n.val] = f s.ma.crags[n.val] :=
  modAt_same _ _ _

theorem State.onCrag_other (s : State) (n : Crag) (f : CragSt → CragSt) (x : Crag) (h : x ≠ n) :
    (s.onCrag n f).ma.crags[x] = s.ma.crags[x] := modAt_other _ _ _ _ h

@[simp] theorem State.onCrag_pending (s : State) (n : Crag) (f : CragSt → CragSt) : (s.onCrag n f).pending = s.pending := rfl
@[simp] theorem State.onCrag_bus (s : State) (n : Crag) (f : CragSt → CragSt) : (s.onCrag n f).bus = s.bus := rfl
@[simp] theorem State.onCrag_now (s : State) (n : Crag) (f : CragSt → CragSt) : (s.onCrag n f).now = s.now := rfl
@[simp] theorem State.onCrag_freeIx (s : State) (n : Crag) (f : CragSt → CragSt) : (s.onCrag n f).freeIx = s.freeIx := rfl
@[simp] theorem State.onCrag_nextCid (s : State) (n : Crag) (f : CragSt → CragSt) : (s.onCrag n f).nextCid = s.nextCid := rfl
@[simp] theorem State.onCrag_pw (s : State) (n : Crag) (f : CragSt → CragSt) : (s.onCrag n f).pw = s.pw := rfl
@[simp] theorem State.onCrag_boot (s : State) (n : Crag) (f : CragSt → CragSt) : (s.onCrag n f).boot = s.boot := rfl
@[simp] theorem State.onCrag_cfg (s : State) (n : Crag) (f : CragSt → CragSt) : (s.onCrag n f).cfg = s.cfg := rfl
@[simp] theorem State.onCrag_tenants (s : State) (n : Crag) (f : CragSt → CragSt) : (s.onCrag n f).tenants = s.tenants := rfl
@[simp] theorem State.onCrag_rings (s : State) (n : Crag) (f : CragSt → CragSt) : (s.onCrag n f).rings = s.rings := rfl
@[simp] theorem State.onCrag_cairns (s : State) (n : Crag) (f : CragSt → CragSt) : (s.onCrag n f).cairns = s.cairns := rfl
@[simp] theorem State.onCrag_link (s : State) (n : Crag) (f : CragSt → CragSt) : (s.onCrag n f).link = s.link := rfl
@[simp] theorem State.onCrag_st (s : State) (n : Crag) (f : CragSt → CragSt) : (s.onCrag n f).st = s.st := rfl
@[simp] theorem State.onCrag_pair (s : State) (n : Crag) (f : CragSt → CragSt) : (s.onCrag n f).pair = s.pair := rfl
@[simp] theorem State.onCrag_adm (s : State) (n : Crag) (f : CragSt → CragSt) : (s.onCrag n f).adm = s.adm := rfl
@[simp] theorem State.onCrag_wd (s : State) (n : Crag) (f : CragSt → CragSt) : (s.onCrag n f).wd = s.wd := rfl
@[simp] theorem State.onCrag_dbg (s : State) (n : Crag) (f : CragSt → CragSt) : (s.onCrag n f).dbg = s.dbg := rfl
@[simp] theorem State.onCrag_mg (s : State) (n : Crag) (f : CragSt → CragSt) : (s.onCrag n f).mg = s.mg := rfl
@[simp] theorem State.onCrag_ma_wheels (s : State) (n : Crag) (f : CragSt → CragSt) : (s.onCrag n f).ma.wheels = s.ma.wheels := rfl
@[simp] theorem State.onCrag_ma_orcInv (s : State) (n : Crag) (f : CragSt → CragSt) : (s.onCrag n f).ma.orcInv = s.ma.orcInv := rfl
@[simp] theorem State.onCrag_ma_orcHit (s : State) (n : Crag) (f : CragSt → CragSt) : (s.onCrag n f).ma.orcHit = s.ma.orcHit := rfl
@[simp] theorem State.onCrag_ma_orcMiss (s : State) (n : Crag) (f : CragSt → CragSt) : (s.onCrag n f).ma.orcMiss = s.ma.orcMiss := rfl
@[simp] theorem State.onCrag_ma_orcMerge (s : State) (n : Crag) (f : CragSt → CragSt) : (s.onCrag n f).ma.orcMerge = s.ma.orcMerge := rfl
@[simp] theorem State.onCrag_ma_orcPoison (s : State) (n : Crag) (f : CragSt → CragSt) : (s.onCrag n f).ma.orcPoison = s.ma.orcPoison := rfl
@[simp] theorem State.onCrag_ma_lines (s : State) (n : Crag) (f : CragSt → CragSt) : (s.onCrag n f).ma.lines = s.ma.lines := rfl
@[simp] theorem State.onCrag_ma_captures (s : State) (n : Crag) (f : CragSt → CragSt) : (s.onCrag n f).ma.captures = s.ma.captures := rfl
@[simp] theorem State.onCrag_ma_capCount (s : State) (n : Crag) (f : CragSt → CragSt) : (s.onCrag n f).ma.capCount = s.ma.capCount := rfl
@[simp] theorem State.onCrag_ma_debugBuf (s : State) (n : Crag) (f : CragSt → CragSt) : (s.onCrag n f).ma.debugBuf = s.ma.debugBuf := rfl
@[simp] theorem State.onCrag_ma_rowan (s : State) (n : Crag) (f : CragSt → CragSt) : (s.onCrag n f).ma.rowan = s.ma.rowan := rfl
@[simp] theorem State.onCrag_ma_xferWait (s : State) (n : Crag) (f : CragSt → CragSt) : (s.onCrag n f).ma.xferWait = s.ma.xferWait := rfl
@[simp] theorem State.onCrag_ma_lanes (s : State) (n : Crag) (f : CragSt → CragSt) : (s.onCrag n f).ma.lanes = s.ma.lanes := rfl
@[simp] theorem State.onCrag_ma_keys (s : State) (n : Crag) (f : CragSt → CragSt) : (s.onCrag n f).ma.keys = s.ma.keys := rfl
@[simp] theorem State.onCrag_ma_srLane (s : State) (n : Crag) (f : CragSt → CragSt) : (s.onCrag n f).ma.srLane = s.ma.srLane := rfl
@[simp] theorem State.onCrag_ma_srCtx (s : State) (n : Crag) (f : CragSt → CragSt) : (s.onCrag n f).ma.srCtx = s.ma.srCtx := rfl
@[simp] theorem State.onCrag_ma_srResult (s : State) (n : Crag) (f : CragSt → CragSt) : (s.onCrag n f).ma.srResult = s.ma.srResult := rfl
@[simp] theorem State.onCrag_ma_srLen (s : State) (n : Crag) (f : CragSt → CragSt) : (s.onCrag n f).ma.srLen = s.ma.srLen := rfl
@[simp] theorem State.onCrag_ma_srState (s : State) (n : Crag) (f : CragSt → CragSt) : (s.onCrag n f).ma.srState = s.ma.srState := rfl
@[simp] theorem State.onCrag_ma_waits (s : State) (n : Crag) (f : CragSt → CragSt) : (s.onCrag n f).ma.waits = s.ma.waits := rfl
@[simp] theorem State.onCrag_ma_steps (s : State) (n : Crag) (f : CragSt → CragSt) : (s.onCrag n f).ma.steps = s.ma.steps := rfl
@[simp] theorem State.onCrag_ma_moves (s : State) (n : Crag) (f : CragSt → CragSt) : (s.onCrag n f).ma.moves = s.ma.moves := rfl

/-! ### State.onRowan -/

@[simp] theorem State.onRowan_same (s : State) (e : Eng) (f : RowanSt → RowanSt) : (s.onRowan e f).ma.rowan[e] = f s.ma.rowan[e] :=
  modAt_same _ _ _

@[simp] theorem State.onRowan_at (s : State) (e : Eng) (f : RowanSt → RowanSt) : (s.onRowan e f).ma.rowan[e.val] = f s.ma.rowan[e.val] :=
  modAt_same _ _ _

theorem State.onRowan_other (s : State) (e : Eng) (f : RowanSt → RowanSt) (x : Eng) (h : x ≠ e) :
    (s.onRowan e f).ma.rowan[x] = s.ma.rowan[x] := modAt_other _ _ _ _ h

@[simp] theorem State.onRowan_pending (s : State) (e : Eng) (f : RowanSt → RowanSt) : (s.onRowan e f).pending = s.pending := rfl
@[simp] theorem State.onRowan_bus (s : State) (e : Eng) (f : RowanSt → RowanSt) : (s.onRowan e f).bus = s.bus := rfl
@[simp] theorem State.onRowan_now (s : State) (e : Eng) (f : RowanSt → RowanSt) : (s.onRowan e f).now = s.now := rfl
@[simp] theorem State.onRowan_freeIx (s : State) (e : Eng) (f : RowanSt → RowanSt) : (s.onRowan e f).freeIx = s.freeIx := rfl
@[simp] theorem State.onRowan_nextCid (s : State) (e : Eng) (f : RowanSt → RowanSt) : (s.onRowan e f).nextCid = s.nextCid := rfl
@[simp] theorem State.onRowan_pw (s : State) (e : Eng) (f : RowanSt → RowanSt) : (s.onRowan e f).pw = s.pw := rfl
@[simp] theorem State.onRowan_boot (s : State) (e : Eng) (f : RowanSt → RowanSt) : (s.onRowan e f).boot = s.boot := rfl
@[simp] theorem State.onRowan_cfg (s : State) (e : Eng) (f : RowanSt → RowanSt) : (s.onRowan e f).cfg = s.cfg := rfl
@[simp] theorem State.onRowan_tenants (s : State) (e : Eng) (f : RowanSt → RowanSt) : (s.onRowan e f).tenants = s.tenants := rfl
@[simp] theorem State.onRowan_rings (s : State) (e : Eng) (f : RowanSt → RowanSt) : (s.onRowan e f).rings = s.rings := rfl
@[simp] theorem State.onRowan_cairns (s : State) (e : Eng) (f : RowanSt → RowanSt) : (s.onRowan e f).cairns = s.cairns := rfl
@[simp] theorem State.onRowan_link (s : State) (e : Eng) (f : RowanSt → RowanSt) : (s.onRowan e f).link = s.link := rfl
@[simp] theorem State.onRowan_st (s : State) (e : Eng) (f : RowanSt → RowanSt) : (s.onRowan e f).st = s.st := rfl
@[simp] theorem State.onRowan_pair (s : State) (e : Eng) (f : RowanSt → RowanSt) : (s.onRowan e f).pair = s.pair := rfl
@[simp] theorem State.onRowan_adm (s : State) (e : Eng) (f : RowanSt → RowanSt) : (s.onRowan e f).adm = s.adm := rfl
@[simp] theorem State.onRowan_wd (s : State) (e : Eng) (f : RowanSt → RowanSt) : (s.onRowan e f).wd = s.wd := rfl
@[simp] theorem State.onRowan_dbg (s : State) (e : Eng) (f : RowanSt → RowanSt) : (s.onRowan e f).dbg = s.dbg := rfl
@[simp] theorem State.onRowan_mg (s : State) (e : Eng) (f : RowanSt → RowanSt) : (s.onRowan e f).mg = s.mg := rfl
@[simp] theorem State.onRowan_ma_wheels (s : State) (e : Eng) (f : RowanSt → RowanSt) : (s.onRowan e f).ma.wheels = s.ma.wheels := rfl
@[simp] theorem State.onRowan_ma_orcInv (s : State) (e : Eng) (f : RowanSt → RowanSt) : (s.onRowan e f).ma.orcInv = s.ma.orcInv := rfl
@[simp] theorem State.onRowan_ma_orcHit (s : State) (e : Eng) (f : RowanSt → RowanSt) : (s.onRowan e f).ma.orcHit = s.ma.orcHit := rfl
@[simp] theorem State.onRowan_ma_orcMiss (s : State) (e : Eng) (f : RowanSt → RowanSt) : (s.onRowan e f).ma.orcMiss = s.ma.orcMiss := rfl
@[simp] theorem State.onRowan_ma_orcMerge (s : State) (e : Eng) (f : RowanSt → RowanSt) : (s.onRowan e f).ma.orcMerge = s.ma.orcMerge := rfl
@[simp] theorem State.onRowan_ma_orcPoison (s : State) (e : Eng) (f : RowanSt → RowanSt) : (s.onRowan e f).ma.orcPoison = s.ma.orcPoison := rfl
@[simp] theorem State.onRowan_ma_lines (s : State) (e : Eng) (f : RowanSt → RowanSt) : (s.onRowan e f).ma.lines = s.ma.lines := rfl
@[simp] theorem State.onRowan_ma_crags (s : State) (e : Eng) (f : RowanSt → RowanSt) : (s.onRowan e f).ma.crags = s.ma.crags := rfl
@[simp] theorem State.onRowan_ma_captures (s : State) (e : Eng) (f : RowanSt → RowanSt) : (s.onRowan e f).ma.captures = s.ma.captures := rfl
@[simp] theorem State.onRowan_ma_capCount (s : State) (e : Eng) (f : RowanSt → RowanSt) : (s.onRowan e f).ma.capCount = s.ma.capCount := rfl
@[simp] theorem State.onRowan_ma_debugBuf (s : State) (e : Eng) (f : RowanSt → RowanSt) : (s.onRowan e f).ma.debugBuf = s.ma.debugBuf := rfl
@[simp] theorem State.onRowan_ma_xferWait (s : State) (e : Eng) (f : RowanSt → RowanSt) : (s.onRowan e f).ma.xferWait = s.ma.xferWait := rfl
@[simp] theorem State.onRowan_ma_lanes (s : State) (e : Eng) (f : RowanSt → RowanSt) : (s.onRowan e f).ma.lanes = s.ma.lanes := rfl
@[simp] theorem State.onRowan_ma_keys (s : State) (e : Eng) (f : RowanSt → RowanSt) : (s.onRowan e f).ma.keys = s.ma.keys := rfl
@[simp] theorem State.onRowan_ma_srLane (s : State) (e : Eng) (f : RowanSt → RowanSt) : (s.onRowan e f).ma.srLane = s.ma.srLane := rfl
@[simp] theorem State.onRowan_ma_srCtx (s : State) (e : Eng) (f : RowanSt → RowanSt) : (s.onRowan e f).ma.srCtx = s.ma.srCtx := rfl
@[simp] theorem State.onRowan_ma_srResult (s : State) (e : Eng) (f : RowanSt → RowanSt) : (s.onRowan e f).ma.srResult = s.ma.srResult := rfl
@[simp] theorem State.onRowan_ma_srLen (s : State) (e : Eng) (f : RowanSt → RowanSt) : (s.onRowan e f).ma.srLen = s.ma.srLen := rfl
@[simp] theorem State.onRowan_ma_srState (s : State) (e : Eng) (f : RowanSt → RowanSt) : (s.onRowan e f).ma.srState = s.ma.srState := rfl
@[simp] theorem State.onRowan_ma_waits (s : State) (e : Eng) (f : RowanSt → RowanSt) : (s.onRowan e f).ma.waits = s.ma.waits := rfl
@[simp] theorem State.onRowan_ma_steps (s : State) (e : Eng) (f : RowanSt → RowanSt) : (s.onRowan e f).ma.steps = s.ma.steps := rfl
@[simp] theorem State.onRowan_ma_moves (s : State) (e : Eng) (f : RowanSt → RowanSt) : (s.onRowan e f).ma.moves = s.ma.moves := rfl

/-! ### State.onLane -/

@[simp] theorem State.onLane_same (s : State) (l : Lane) (f : LaneSt → LaneSt) : (s.onLane l f).ma.lanes[l] = f s.ma.lanes[l] :=
  modAt_same _ _ _

@[simp] theorem State.onLane_at (s : State) (l : Lane) (f : LaneSt → LaneSt) : (s.onLane l f).ma.lanes[l.val] = f s.ma.lanes[l.val] :=
  modAt_same _ _ _

theorem State.onLane_other (s : State) (l : Lane) (f : LaneSt → LaneSt) (x : Lane) (h : x ≠ l) :
    (s.onLane l f).ma.lanes[x] = s.ma.lanes[x] := modAt_other _ _ _ _ h

@[simp] theorem State.onLane_pending (s : State) (l : Lane) (f : LaneSt → LaneSt) : (s.onLane l f).pending = s.pending := rfl
@[simp] theorem State.onLane_bus (s : State) (l : Lane) (f : LaneSt → LaneSt) : (s.onLane l f).bus = s.bus := rfl
@[simp] theorem State.onLane_now (s : State) (l : Lane) (f : LaneSt → LaneSt) : (s.onLane l f).now = s.now := rfl
@[simp] theorem State.onLane_freeIx (s : State) (l : Lane) (f : LaneSt → LaneSt) : (s.onLane l f).freeIx = s.freeIx := rfl
@[simp] theorem State.onLane_nextCid (s : State) (l : Lane) (f : LaneSt → LaneSt) : (s.onLane l f).nextCid = s.nextCid := rfl
@[simp] theorem State.onLane_pw (s : State) (l : Lane) (f : LaneSt → LaneSt) : (s.onLane l f).pw = s.pw := rfl
@[simp] theorem State.onLane_boot (s : State) (l : Lane) (f : LaneSt → LaneSt) : (s.onLane l f).boot = s.boot := rfl
@[simp] theorem State.onLane_cfg (s : State) (l : Lane) (f : LaneSt → LaneSt) : (s.onLane l f).cfg = s.cfg := rfl
@[simp] theorem State.onLane_tenants (s : State) (l : Lane) (f : LaneSt → LaneSt) : (s.onLane l f).tenants = s.tenants := rfl
@[simp] theorem State.onLane_rings (s : State) (l : Lane) (f : LaneSt → LaneSt) : (s.onLane l f).rings = s.rings := rfl
@[simp] theorem State.onLane_cairns (s : State) (l : Lane) (f : LaneSt → LaneSt) : (s.onLane l f).cairns = s.cairns := rfl
@[simp] theorem State.onLane_link (s : State) (l : Lane) (f : LaneSt → LaneSt) : (s.onLane l f).link = s.link := rfl
@[simp] theorem State.onLane_st (s : State) (l : Lane) (f : LaneSt → LaneSt) : (s.onLane l f).st = s.st := rfl
@[simp] theorem State.onLane_pair (s : State) (l : Lane) (f : LaneSt → LaneSt) : (s.onLane l f).pair = s.pair := rfl
@[simp] theorem State.onLane_adm (s : State) (l : Lane) (f : LaneSt → LaneSt) : (s.onLane l f).adm = s.adm := rfl
@[simp] theorem State.onLane_wd (s : State) (l : Lane) (f : LaneSt → LaneSt) : (s.onLane l f).wd = s.wd := rfl
@[simp] theorem State.onLane_dbg (s : State) (l : Lane) (f : LaneSt → LaneSt) : (s.onLane l f).dbg = s.dbg := rfl
@[simp] theorem State.onLane_mg (s : State) (l : Lane) (f : LaneSt → LaneSt) : (s.onLane l f).mg = s.mg := rfl
@[simp] theorem State.onLane_ma_wheels (s : State) (l : Lane) (f : LaneSt → LaneSt) : (s.onLane l f).ma.wheels = s.ma.wheels := rfl
@[simp] theorem State.onLane_ma_orcInv (s : State) (l : Lane) (f : LaneSt → LaneSt) : (s.onLane l f).ma.orcInv = s.ma.orcInv := rfl
@[simp] theorem State.onLane_ma_orcHit (s : State) (l : Lane) (f : LaneSt → LaneSt) : (s.onLane l f).ma.orcHit = s.ma.orcHit := rfl
@[simp] theorem State.onLane_ma_orcMiss (s : State) (l : Lane) (f : LaneSt → LaneSt) : (s.onLane l f).ma.orcMiss = s.ma.orcMiss := rfl
@[simp] theorem State.onLane_ma_orcMerge (s : State) (l : Lane) (f : LaneSt → LaneSt) : (s.onLane l f).ma.orcMerge = s.ma.orcMerge := rfl
@[simp] theorem State.onLane_ma_orcPoison (s : State) (l : Lane) (f : LaneSt → LaneSt) : (s.onLane l f).ma.orcPoison = s.ma.orcPoison := rfl
@[simp] theorem State.onLane_ma_lines (s : State) (l : Lane) (f : LaneSt → LaneSt) : (s.onLane l f).ma.lines = s.ma.lines := rfl
@[simp] theorem State.onLane_ma_crags (s : State) (l : Lane) (f : LaneSt → LaneSt) : (s.onLane l f).ma.crags = s.ma.crags := rfl
@[simp] theorem State.onLane_ma_captures (s : State) (l : Lane) (f : LaneSt → LaneSt) : (s.onLane l f).ma.captures = s.ma.captures := rfl
@[simp] theorem State.onLane_ma_capCount (s : State) (l : Lane) (f : LaneSt → LaneSt) : (s.onLane l f).ma.capCount = s.ma.capCount := rfl
@[simp] theorem State.onLane_ma_debugBuf (s : State) (l : Lane) (f : LaneSt → LaneSt) : (s.onLane l f).ma.debugBuf = s.ma.debugBuf := rfl
@[simp] theorem State.onLane_ma_rowan (s : State) (l : Lane) (f : LaneSt → LaneSt) : (s.onLane l f).ma.rowan = s.ma.rowan := rfl
@[simp] theorem State.onLane_ma_xferWait (s : State) (l : Lane) (f : LaneSt → LaneSt) : (s.onLane l f).ma.xferWait = s.ma.xferWait := rfl
@[simp] theorem State.onLane_ma_keys (s : State) (l : Lane) (f : LaneSt → LaneSt) : (s.onLane l f).ma.keys = s.ma.keys := rfl
@[simp] theorem State.onLane_ma_srLane (s : State) (l : Lane) (f : LaneSt → LaneSt) : (s.onLane l f).ma.srLane = s.ma.srLane := rfl
@[simp] theorem State.onLane_ma_srCtx (s : State) (l : Lane) (f : LaneSt → LaneSt) : (s.onLane l f).ma.srCtx = s.ma.srCtx := rfl
@[simp] theorem State.onLane_ma_srResult (s : State) (l : Lane) (f : LaneSt → LaneSt) : (s.onLane l f).ma.srResult = s.ma.srResult := rfl
@[simp] theorem State.onLane_ma_srLen (s : State) (l : Lane) (f : LaneSt → LaneSt) : (s.onLane l f).ma.srLen = s.ma.srLen := rfl
@[simp] theorem State.onLane_ma_srState (s : State) (l : Lane) (f : LaneSt → LaneSt) : (s.onLane l f).ma.srState = s.ma.srState := rfl
@[simp] theorem State.onLane_ma_waits (s : State) (l : Lane) (f : LaneSt → LaneSt) : (s.onLane l f).ma.waits = s.ma.waits := rfl
@[simp] theorem State.onLane_ma_steps (s : State) (l : Lane) (f : LaneSt → LaneSt) : (s.onLane l f).ma.steps = s.ma.steps := rfl
@[simp] theorem State.onLane_ma_moves (s : State) (l : Lane) (f : LaneSt → LaneSt) : (s.onLane l f).ma.moves = s.ma.moves := rfl

/-! ### State.onKey -/

@[simp] theorem State.onKey_same (s : State) (k : KSlot) (f : KeySt → KeySt) : (s.onKey k f).ma.keys[k] = f s.ma.keys[k] :=
  modAt_same _ _ _

@[simp] theorem State.onKey_at (s : State) (k : KSlot) (f : KeySt → KeySt) : (s.onKey k f).ma.keys[k.val] = f s.ma.keys[k.val] :=
  modAt_same _ _ _

theorem State.onKey_other (s : State) (k : KSlot) (f : KeySt → KeySt) (x : KSlot) (h : x ≠ k) :
    (s.onKey k f).ma.keys[x] = s.ma.keys[x] := modAt_other _ _ _ _ h

@[simp] theorem State.onKey_pending (s : State) (k : KSlot) (f : KeySt → KeySt) : (s.onKey k f).pending = s.pending := rfl
@[simp] theorem State.onKey_bus (s : State) (k : KSlot) (f : KeySt → KeySt) : (s.onKey k f).bus = s.bus := rfl
@[simp] theorem State.onKey_now (s : State) (k : KSlot) (f : KeySt → KeySt) : (s.onKey k f).now = s.now := rfl
@[simp] theorem State.onKey_freeIx (s : State) (k : KSlot) (f : KeySt → KeySt) : (s.onKey k f).freeIx = s.freeIx := rfl
@[simp] theorem State.onKey_nextCid (s : State) (k : KSlot) (f : KeySt → KeySt) : (s.onKey k f).nextCid = s.nextCid := rfl
@[simp] theorem State.onKey_pw (s : State) (k : KSlot) (f : KeySt → KeySt) : (s.onKey k f).pw = s.pw := rfl
@[simp] theorem State.onKey_boot (s : State) (k : KSlot) (f : KeySt → KeySt) : (s.onKey k f).boot = s.boot := rfl
@[simp] theorem State.onKey_cfg (s : State) (k : KSlot) (f : KeySt → KeySt) : (s.onKey k f).cfg = s.cfg := rfl
@[simp] theorem State.onKey_tenants (s : State) (k : KSlot) (f : KeySt → KeySt) : (s.onKey k f).tenants = s.tenants := rfl
@[simp] theorem State.onKey_rings (s : State) (k : KSlot) (f : KeySt → KeySt) : (s.onKey k f).rings = s.rings := rfl
@[simp] theorem State.onKey_cairns (s : State) (k : KSlot) (f : KeySt → KeySt) : (s.onKey k f).cairns = s.cairns := rfl
@[simp] theorem State.onKey_link (s : State) (k : KSlot) (f : KeySt → KeySt) : (s.onKey k f).link = s.link := rfl
@[simp] theorem State.onKey_st (s : State) (k : KSlot) (f : KeySt → KeySt) : (s.onKey k f).st = s.st := rfl
@[simp] theorem State.onKey_pair (s : State) (k : KSlot) (f : KeySt → KeySt) : (s.onKey k f).pair = s.pair := rfl
@[simp] theorem State.onKey_adm (s : State) (k : KSlot) (f : KeySt → KeySt) : (s.onKey k f).adm = s.adm := rfl
@[simp] theorem State.onKey_wd (s : State) (k : KSlot) (f : KeySt → KeySt) : (s.onKey k f).wd = s.wd := rfl
@[simp] theorem State.onKey_dbg (s : State) (k : KSlot) (f : KeySt → KeySt) : (s.onKey k f).dbg = s.dbg := rfl
@[simp] theorem State.onKey_mg (s : State) (k : KSlot) (f : KeySt → KeySt) : (s.onKey k f).mg = s.mg := rfl
@[simp] theorem State.onKey_ma_wheels (s : State) (k : KSlot) (f : KeySt → KeySt) : (s.onKey k f).ma.wheels = s.ma.wheels := rfl
@[simp] theorem State.onKey_ma_orcInv (s : State) (k : KSlot) (f : KeySt → KeySt) : (s.onKey k f).ma.orcInv = s.ma.orcInv := rfl
@[simp] theorem State.onKey_ma_orcHit (s : State) (k : KSlot) (f : KeySt → KeySt) : (s.onKey k f).ma.orcHit = s.ma.orcHit := rfl
@[simp] theorem State.onKey_ma_orcMiss (s : State) (k : KSlot) (f : KeySt → KeySt) : (s.onKey k f).ma.orcMiss = s.ma.orcMiss := rfl
@[simp] theorem State.onKey_ma_orcMerge (s : State) (k : KSlot) (f : KeySt → KeySt) : (s.onKey k f).ma.orcMerge = s.ma.orcMerge := rfl
@[simp] theorem State.onKey_ma_orcPoison (s : State) (k : KSlot) (f : KeySt → KeySt) : (s.onKey k f).ma.orcPoison = s.ma.orcPoison := rfl
@[simp] theorem State.onKey_ma_lines (s : State) (k : KSlot) (f : KeySt → KeySt) : (s.onKey k f).ma.lines = s.ma.lines := rfl
@[simp] theorem State.onKey_ma_crags (s : State) (k : KSlot) (f : KeySt → KeySt) : (s.onKey k f).ma.crags = s.ma.crags := rfl
@[simp] theorem State.onKey_ma_captures (s : State) (k : KSlot) (f : KeySt → KeySt) : (s.onKey k f).ma.captures = s.ma.captures := rfl
@[simp] theorem State.onKey_ma_capCount (s : State) (k : KSlot) (f : KeySt → KeySt) : (s.onKey k f).ma.capCount = s.ma.capCount := rfl
@[simp] theorem State.onKey_ma_debugBuf (s : State) (k : KSlot) (f : KeySt → KeySt) : (s.onKey k f).ma.debugBuf = s.ma.debugBuf := rfl
@[simp] theorem State.onKey_ma_rowan (s : State) (k : KSlot) (f : KeySt → KeySt) : (s.onKey k f).ma.rowan = s.ma.rowan := rfl
@[simp] theorem State.onKey_ma_xferWait (s : State) (k : KSlot) (f : KeySt → KeySt) : (s.onKey k f).ma.xferWait = s.ma.xferWait := rfl
@[simp] theorem State.onKey_ma_lanes (s : State) (k : KSlot) (f : KeySt → KeySt) : (s.onKey k f).ma.lanes = s.ma.lanes := rfl
@[simp] theorem State.onKey_ma_srLane (s : State) (k : KSlot) (f : KeySt → KeySt) : (s.onKey k f).ma.srLane = s.ma.srLane := rfl
@[simp] theorem State.onKey_ma_srCtx (s : State) (k : KSlot) (f : KeySt → KeySt) : (s.onKey k f).ma.srCtx = s.ma.srCtx := rfl
@[simp] theorem State.onKey_ma_srResult (s : State) (k : KSlot) (f : KeySt → KeySt) : (s.onKey k f).ma.srResult = s.ma.srResult := rfl
@[simp] theorem State.onKey_ma_srLen (s : State) (k : KSlot) (f : KeySt → KeySt) : (s.onKey k f).ma.srLen = s.ma.srLen := rfl
@[simp] theorem State.onKey_ma_srState (s : State) (k : KSlot) (f : KeySt → KeySt) : (s.onKey k f).ma.srState = s.ma.srState := rfl
@[simp] theorem State.onKey_ma_waits (s : State) (k : KSlot) (f : KeySt → KeySt) : (s.onKey k f).ma.waits = s.ma.waits := rfl
@[simp] theorem State.onKey_ma_steps (s : State) (k : KSlot) (f : KeySt → KeySt) : (s.onKey k f).ma.steps = s.ma.steps := rfl
@[simp] theorem State.onKey_ma_moves (s : State) (k : KSlot) (f : KeySt → KeySt) : (s.onKey k f).ma.moves = s.ma.moves := rfl

/-! ### State.onPeer -/

@[simp] theorem State.onPeer_same (s : State) (e : Peer) (f : PeerSt → PeerSt) : (s.onPeer e f).pair.peers[e] = f s.pair.peers[e] :=
  modAt_same _ _ _

@[simp] theorem State.onPeer_at (s : State) (e : Peer) (f : PeerSt → PeerSt) : (s.onPeer e f).pair.peers[e.val] = f s.pair.peers[e.val] :=
  modAt_same _ _ _

theorem State.onPeer_other (s : State) (e : Peer) (f : PeerSt → PeerSt) (x : Peer) (h : x ≠ e) :
    (s.onPeer e f).pair.peers[x] = s.pair.peers[x] := modAt_other _ _ _ _ h

@[simp] theorem State.onPeer_pending (s : State) (e : Peer) (f : PeerSt → PeerSt) : (s.onPeer e f).pending = s.pending := rfl
@[simp] theorem State.onPeer_bus (s : State) (e : Peer) (f : PeerSt → PeerSt) : (s.onPeer e f).bus = s.bus := rfl
@[simp] theorem State.onPeer_now (s : State) (e : Peer) (f : PeerSt → PeerSt) : (s.onPeer e f).now = s.now := rfl
@[simp] theorem State.onPeer_freeIx (s : State) (e : Peer) (f : PeerSt → PeerSt) : (s.onPeer e f).freeIx = s.freeIx := rfl
@[simp] theorem State.onPeer_nextCid (s : State) (e : Peer) (f : PeerSt → PeerSt) : (s.onPeer e f).nextCid = s.nextCid := rfl
@[simp] theorem State.onPeer_pw (s : State) (e : Peer) (f : PeerSt → PeerSt) : (s.onPeer e f).pw = s.pw := rfl
@[simp] theorem State.onPeer_boot (s : State) (e : Peer) (f : PeerSt → PeerSt) : (s.onPeer e f).boot = s.boot := rfl
@[simp] theorem State.onPeer_cfg (s : State) (e : Peer) (f : PeerSt → PeerSt) : (s.onPeer e f).cfg = s.cfg := rfl
@[simp] theorem State.onPeer_tenants (s : State) (e : Peer) (f : PeerSt → PeerSt) : (s.onPeer e f).tenants = s.tenants := rfl
@[simp] theorem State.onPeer_rings (s : State) (e : Peer) (f : PeerSt → PeerSt) : (s.onPeer e f).rings = s.rings := rfl
@[simp] theorem State.onPeer_cairns (s : State) (e : Peer) (f : PeerSt → PeerSt) : (s.onPeer e f).cairns = s.cairns := rfl
@[simp] theorem State.onPeer_ma (s : State) (e : Peer) (f : PeerSt → PeerSt) : (s.onPeer e f).ma = s.ma := rfl
@[simp] theorem State.onPeer_link (s : State) (e : Peer) (f : PeerSt → PeerSt) : (s.onPeer e f).link = s.link := rfl
@[simp] theorem State.onPeer_st (s : State) (e : Peer) (f : PeerSt → PeerSt) : (s.onPeer e f).st = s.st := rfl
@[simp] theorem State.onPeer_adm (s : State) (e : Peer) (f : PeerSt → PeerSt) : (s.onPeer e f).adm = s.adm := rfl
@[simp] theorem State.onPeer_wd (s : State) (e : Peer) (f : PeerSt → PeerSt) : (s.onPeer e f).wd = s.wd := rfl
@[simp] theorem State.onPeer_dbg (s : State) (e : Peer) (f : PeerSt → PeerSt) : (s.onPeer e f).dbg = s.dbg := rfl
@[simp] theorem State.onPeer_mg (s : State) (e : Peer) (f : PeerSt → PeerSt) : (s.onPeer e f).mg = s.mg := rfl
@[simp] theorem State.onPeer_pair_ports (s : State) (e : Peer) (f : PeerSt → PeerSt) : (s.onPeer e f).pair.ports = s.pair.ports := rfl
@[simp] theorem State.onPeer_pair_rxOther (s : State) (e : Peer) (f : PeerSt → PeerSt) : (s.onPeer e f).pair.rxOther = s.pair.rxOther := rfl

/-! ### State.onPort -/

@[simp] theorem State.onPort_same (s : State) (p : PPort) (f : PortSt → PortSt) : (s.onPort p f).pair.ports[p] = f s.pair.ports[p] :=
  modAt_same _ _ _

@[simp] theorem State.onPort_at (s : State) (p : PPort) (f : PortSt → PortSt) : (s.onPort p f).pair.ports[p.val] = f s.pair.ports[p.val] :=
  modAt_same _ _ _

theorem State.onPort_other (s : State) (p : PPort) (f : PortSt → PortSt) (x : PPort) (h : x ≠ p) :
    (s.onPort p f).pair.ports[x] = s.pair.ports[x] := modAt_other _ _ _ _ h

@[simp] theorem State.onPort_pending (s : State) (p : PPort) (f : PortSt → PortSt) : (s.onPort p f).pending = s.pending := rfl
@[simp] theorem State.onPort_bus (s : State) (p : PPort) (f : PortSt → PortSt) : (s.onPort p f).bus = s.bus := rfl
@[simp] theorem State.onPort_now (s : State) (p : PPort) (f : PortSt → PortSt) : (s.onPort p f).now = s.now := rfl
@[simp] theorem State.onPort_freeIx (s : State) (p : PPort) (f : PortSt → PortSt) : (s.onPort p f).freeIx = s.freeIx := rfl
@[simp] theorem State.onPort_nextCid (s : State) (p : PPort) (f : PortSt → PortSt) : (s.onPort p f).nextCid = s.nextCid := rfl
@[simp] theorem State.onPort_pw (s : State) (p : PPort) (f : PortSt → PortSt) : (s.onPort p f).pw = s.pw := rfl
@[simp] theorem State.onPort_boot (s : State) (p : PPort) (f : PortSt → PortSt) : (s.onPort p f).boot = s.boot := rfl
@[simp] theorem State.onPort_cfg (s : State) (p : PPort) (f : PortSt → PortSt) : (s.onPort p f).cfg = s.cfg := rfl
@[simp] theorem State.onPort_tenants (s : State) (p : PPort) (f : PortSt → PortSt) : (s.onPort p f).tenants = s.tenants := rfl
@[simp] theorem State.onPort_rings (s : State) (p : PPort) (f : PortSt → PortSt) : (s.onPort p f).rings = s.rings := rfl
@[simp] theorem State.onPort_cairns (s : State) (p : PPort) (f : PortSt → PortSt) : (s.onPort p f).cairns = s.cairns := rfl
@[simp] theorem State.onPort_ma (s : State) (p : PPort) (f : PortSt → PortSt) : (s.onPort p f).ma = s.ma := rfl
@[simp] theorem State.onPort_link (s : State) (p : PPort) (f : PortSt → PortSt) : (s.onPort p f).link = s.link := rfl
@[simp] theorem State.onPort_st (s : State) (p : PPort) (f : PortSt → PortSt) : (s.onPort p f).st = s.st := rfl
@[simp] theorem State.onPort_adm (s : State) (p : PPort) (f : PortSt → PortSt) : (s.onPort p f).adm = s.adm := rfl
@[simp] theorem State.onPort_wd (s : State) (p : PPort) (f : PortSt → PortSt) : (s.onPort p f).wd = s.wd := rfl
@[simp] theorem State.onPort_dbg (s : State) (p : PPort) (f : PortSt → PortSt) : (s.onPort p f).dbg = s.dbg := rfl
@[simp] theorem State.onPort_mg (s : State) (p : PPort) (f : PortSt → PortSt) : (s.onPort p f).mg = s.mg := rfl
@[simp] theorem State.onPort_pair_peers (s : State) (p : PPort) (f : PortSt → PortSt) : (s.onPort p f).pair.peers = s.pair.peers := rfl
@[simp] theorem State.onPort_pair_rxOther (s : State) (p : PPort) (f : PortSt → PortSt) : (s.onPort p f).pair.rxOther = s.pair.rxOther := rfl

/-! ### State.onArb -/

@[simp] theorem State.onArb_same (s : State) (k : Res) (f : Arb → Arb) : (s.onArb k f).adm[k] = f s.adm[k] :=
  modAt_same _ _ _

@[simp] theorem State.onArb_at (s : State) (k : Res) (f : Arb → Arb) : (s.onArb k f).adm[k.val] = f s.adm[k.val] :=
  modAt_same _ _ _

theorem State.onArb_other (s : State) (k : Res) (f : Arb → Arb) (x : Res) (h : x ≠ k) :
    (s.onArb k f).adm[x] = s.adm[x] := modAt_other _ _ _ _ h

@[simp] theorem State.onArb_pending (s : State) (k : Res) (f : Arb → Arb) : (s.onArb k f).pending = s.pending := rfl
@[simp] theorem State.onArb_bus (s : State) (k : Res) (f : Arb → Arb) : (s.onArb k f).bus = s.bus := rfl
@[simp] theorem State.onArb_now (s : State) (k : Res) (f : Arb → Arb) : (s.onArb k f).now = s.now := rfl
@[simp] theorem State.onArb_freeIx (s : State) (k : Res) (f : Arb → Arb) : (s.onArb k f).freeIx = s.freeIx := rfl
@[simp] theorem State.onArb_nextCid (s : State) (k : Res) (f : Arb → Arb) : (s.onArb k f).nextCid = s.nextCid := rfl
@[simp] theorem State.onArb_pw (s : State) (k : Res) (f : Arb → Arb) : (s.onArb k f).pw = s.pw := rfl
@[simp] theorem State.onArb_boot (s : State) (k : Res) (f : Arb → Arb) : (s.onArb k f).boot = s.boot := rfl
@[simp] theorem State.onArb_cfg (s : State) (k : Res) (f : Arb → Arb) : (s.onArb k f).cfg = s.cfg := rfl
@[simp] theorem State.onArb_tenants (s : State) (k : Res) (f : Arb → Arb) : (s.onArb k f).tenants = s.tenants := rfl
@[simp] theorem State.onArb_rings (s : State) (k : Res) (f : Arb → Arb) : (s.onArb k f).rings = s.rings := rfl
@[simp] theorem State.onArb_cairns (s : State) (k : Res) (f : Arb → Arb) : (s.onArb k f).cairns = s.cairns := rfl
@[simp] theorem State.onArb_ma (s : State) (k : Res) (f : Arb → Arb) : (s.onArb k f).ma = s.ma := rfl
@[simp] theorem State.onArb_link (s : State) (k : Res) (f : Arb → Arb) : (s.onArb k f).link = s.link := rfl
@[simp] theorem State.onArb_st (s : State) (k : Res) (f : Arb → Arb) : (s.onArb k f).st = s.st := rfl
@[simp] theorem State.onArb_pair (s : State) (k : Res) (f : Arb → Arb) : (s.onArb k f).pair = s.pair := rfl
@[simp] theorem State.onArb_wd (s : State) (k : Res) (f : Arb → Arb) : (s.onArb k f).wd = s.wd := rfl
@[simp] theorem State.onArb_dbg (s : State) (k : Res) (f : Arb → Arb) : (s.onArb k f).dbg = s.dbg := rfl
@[simp] theorem State.onArb_mg (s : State) (k : Res) (f : Arb → Arb) : (s.onArb k f).mg = s.mg := rfl

/-! ### emit -/

@[simp] theorem emit_pending (b : BusOut) (s : State) : (emit b s).pending = s.pending := rfl
@[simp] theorem emit_now (b : BusOut) (s : State) : (emit b s).now = s.now := rfl
@[simp] theorem emit_freeIx (b : BusOut) (s : State) : (emit b s).freeIx = s.freeIx := rfl
@[simp] theorem emit_nextCid (b : BusOut) (s : State) : (emit b s).nextCid = s.nextCid := rfl
@[simp] theorem emit_pw (b : BusOut) (s : State) : (emit b s).pw = s.pw := rfl
@[simp] theorem emit_boot (b : BusOut) (s : State) : (emit b s).boot = s.boot := rfl
@[simp] theorem emit_cfg (b : BusOut) (s : State) : (emit b s).cfg = s.cfg := rfl
@[simp] theorem emit_tenants (b : BusOut) (s : State) : (emit b s).tenants = s.tenants := rfl
@[simp] theorem emit_rings (b : BusOut) (s : State) : (emit b s).rings = s.rings := rfl
@[simp] theorem emit_cairns (b : BusOut) (s : State) : (emit b s).cairns = s.cairns := rfl
@[simp] theorem emit_ma (b : BusOut) (s : State) : (emit b s).ma = s.ma := rfl
@[simp] theorem emit_link (b : BusOut) (s : State) : (emit b s).link = s.link := rfl
@[simp] theorem emit_st (b : BusOut) (s : State) : (emit b s).st = s.st := rfl
@[simp] theorem emit_pair (b : BusOut) (s : State) : (emit b s).pair = s.pair := rfl
@[simp] theorem emit_adm (b : BusOut) (s : State) : (emit b s).adm = s.adm := rfl
@[simp] theorem emit_wd (b : BusOut) (s : State) : (emit b s).wd = s.wd := rfl
@[simp] theorem emit_dbg (b : BusOut) (s : State) : (emit b s).dbg = s.dbg := rfl
@[simp] theorem emit_mg (b : BusOut) (s : State) : (emit b s).mg = s.mg := rfl

@[simp] theorem emit_bus (b : BusOut) (s : State) : (emit b s).bus = s.bus ++ [b] := rfl

/-! ### draw and drawBeat -/

@[simp] theorem draw_snd_pending (s : State) : ((draw s).2).pending = s.pending := rfl
@[simp] theorem draw_snd_bus (s : State) : ((draw s).2).bus = s.bus := rfl
@[simp] theorem draw_snd_now (s : State) : ((draw s).2).now = s.now := rfl
@[simp] theorem draw_snd_nextCid (s : State) : ((draw s).2).nextCid = s.nextCid := rfl
@[simp] theorem draw_snd_pw (s : State) : ((draw s).2).pw = s.pw := rfl
@[simp] theorem draw_snd_boot (s : State) : ((draw s).2).boot = s.boot := rfl
@[simp] theorem draw_snd_cfg (s : State) : ((draw s).2).cfg = s.cfg := rfl
@[simp] theorem draw_snd_tenants (s : State) : ((draw s).2).tenants = s.tenants := rfl
@[simp] theorem draw_snd_rings (s : State) : ((draw s).2).rings = s.rings := rfl
@[simp] theorem draw_snd_cairns (s : State) : ((draw s).2).cairns = s.cairns := rfl
@[simp] theorem draw_snd_ma (s : State) : ((draw s).2).ma = s.ma := rfl
@[simp] theorem draw_snd_link (s : State) : ((draw s).2).link = s.link := rfl
@[simp] theorem draw_snd_st (s : State) : ((draw s).2).st = s.st := rfl
@[simp] theorem draw_snd_pair (s : State) : ((draw s).2).pair = s.pair := rfl
@[simp] theorem draw_snd_adm (s : State) : ((draw s).2).adm = s.adm := rfl
@[simp] theorem draw_snd_wd (s : State) : ((draw s).2).wd = s.wd := rfl
@[simp] theorem draw_snd_dbg (s : State) : ((draw s).2).dbg = s.dbg := rfl
@[simp] theorem draw_snd_mg (s : State) : ((draw s).2).mg = s.mg := rfl

@[simp] theorem draw_snd_freeIx (s : State) : (draw s).2.freeIx = s.freeIx + 1 := rfl
@[simp] theorem draw_fst (s : State) : (draw s).1 = Config.freeWord s.freeIx := rfl

/-! ### drawBeat -/

@[simp] theorem drawBeat_snd_pending (s : State) : ((drawBeat s).2).pending = s.pending := rfl
@[simp] theorem drawBeat_snd_bus (s : State) : ((drawBeat s).2).bus = s.bus := rfl
@[simp] theorem drawBeat_snd_now (s : State) : ((drawBeat s).2).now = s.now := rfl
@[simp] theorem drawBeat_snd_nextCid (s : State) : ((drawBeat s).2).nextCid = s.nextCid := rfl
@[simp] theorem drawBeat_snd_pw (s : State) : ((drawBeat s).2).pw = s.pw := rfl
@[simp] theorem drawBeat_snd_boot (s : State) : ((drawBeat s).2).boot = s.boot := rfl
@[simp] theorem drawBeat_snd_cfg (s : State) : ((drawBeat s).2).cfg = s.cfg := rfl
@[simp] theorem drawBeat_snd_tenants (s : State) : ((drawBeat s).2).tenants = s.tenants := rfl
@[simp] theorem drawBeat_snd_rings (s : State) : ((drawBeat s).2).rings = s.rings := rfl
@[simp] theorem drawBeat_snd_cairns (s : State) : ((drawBeat s).2).cairns = s.cairns := rfl
@[simp] theorem drawBeat_snd_ma (s : State) : ((drawBeat s).2).ma = s.ma := rfl
@[simp] theorem drawBeat_snd_link (s : State) : ((drawBeat s).2).link = s.link := rfl
@[simp] theorem drawBeat_snd_st (s : State) : ((drawBeat s).2).st = s.st := rfl
@[simp] theorem drawBeat_snd_pair (s : State) : ((drawBeat s).2).pair = s.pair := rfl
@[simp] theorem drawBeat_snd_adm (s : State) : ((drawBeat s).2).adm = s.adm := rfl
@[simp] theorem drawBeat_snd_wd (s : State) : ((drawBeat s).2).wd = s.wd := rfl
@[simp] theorem drawBeat_snd_dbg (s : State) : ((drawBeat s).2).dbg = s.dbg := rfl
@[simp] theorem drawBeat_snd_mg (s : State) : ((drawBeat s).2).mg = s.mg := rfl

@[simp] theorem drawBeat_snd_freeIx (s : State) : (drawBeat s).2.freeIx = s.freeIx + 1 := rfl
@[simp] theorem drawBeat_fst (s : State) : (drawBeat s).1 = Config.freeBeat s.freeIx := rfl

/-! ### advanceTo -/

@[simp] theorem advanceTo_pending (t : Nat) (s : State) : (advanceTo t s).pending = s.pending := rfl
@[simp] theorem advanceTo_bus (t : Nat) (s : State) : (advanceTo t s).bus = s.bus := rfl
@[simp] theorem advanceTo_freeIx (t : Nat) (s : State) : (advanceTo t s).freeIx = s.freeIx := rfl
@[simp] theorem advanceTo_nextCid (t : Nat) (s : State) : (advanceTo t s).nextCid = s.nextCid := rfl
@[simp] theorem advanceTo_pw (t : Nat) (s : State) : (advanceTo t s).pw = s.pw := rfl
@[simp] theorem advanceTo_boot (t : Nat) (s : State) : (advanceTo t s).boot = s.boot := rfl
@[simp] theorem advanceTo_cfg (t : Nat) (s : State) : (advanceTo t s).cfg = s.cfg := rfl
@[simp] theorem advanceTo_tenants (t : Nat) (s : State) : (advanceTo t s).tenants = s.tenants := rfl
@[simp] theorem advanceTo_rings (t : Nat) (s : State) : (advanceTo t s).rings = s.rings := rfl
@[simp] theorem advanceTo_cairns (t : Nat) (s : State) : (advanceTo t s).cairns = s.cairns := rfl
@[simp] theorem advanceTo_ma (t : Nat) (s : State) : (advanceTo t s).ma = s.ma := rfl
@[simp] theorem advanceTo_link (t : Nat) (s : State) : (advanceTo t s).link = s.link := rfl
@[simp] theorem advanceTo_st (t : Nat) (s : State) : (advanceTo t s).st = s.st := rfl
@[simp] theorem advanceTo_pair (t : Nat) (s : State) : (advanceTo t s).pair = s.pair := rfl
@[simp] theorem advanceTo_adm (t : Nat) (s : State) : (advanceTo t s).adm = s.adm := rfl
@[simp] theorem advanceTo_wd (t : Nat) (s : State) : (advanceTo t s).wd = s.wd := rfl
@[simp] theorem advanceTo_dbg (t : Nat) (s : State) : (advanceTo t s).dbg = s.dbg := rfl
@[simp] theorem advanceTo_mg (t : Nat) (s : State) : (advanceTo t s).mg = s.mg := rfl

@[simp] theorem advanceTo_now (t : Nat) (s : State) : (advanceTo t s).now = max s.now t := rfl

/-! ### setExp -/

@[simp] theorem setExp_pending (x : ExpRes) (s : State) : (setExp x s).pending = s.pending := rfl
@[simp] theorem setExp_bus (x : ExpRes) (s : State) : (setExp x s).bus = s.bus := rfl
@[simp] theorem setExp_now (x : ExpRes) (s : State) : (setExp x s).now = s.now := rfl
@[simp] theorem setExp_freeIx (x : ExpRes) (s : State) : (setExp x s).freeIx = s.freeIx := rfl
@[simp] theorem setExp_nextCid (x : ExpRes) (s : State) : (setExp x s).nextCid = s.nextCid := rfl
@[simp] theorem setExp_pw (x : ExpRes) (s : State) : (setExp x s).pw = s.pw := rfl
@[simp] theorem setExp_boot (x : ExpRes) (s : State) : (setExp x s).boot = s.boot := rfl
@[simp] theorem setExp_tenants (x : ExpRes) (s : State) : (setExp x s).tenants = s.tenants := rfl
@[simp] theorem setExp_rings (x : ExpRes) (s : State) : (setExp x s).rings = s.rings := rfl
@[simp] theorem setExp_cairns (x : ExpRes) (s : State) : (setExp x s).cairns = s.cairns := rfl
@[simp] theorem setExp_ma (x : ExpRes) (s : State) : (setExp x s).ma = s.ma := rfl
@[simp] theorem setExp_link (x : ExpRes) (s : State) : (setExp x s).link = s.link := rfl
@[simp] theorem setExp_st (x : ExpRes) (s : State) : (setExp x s).st = s.st := rfl
@[simp] theorem setExp_pair (x : ExpRes) (s : State) : (setExp x s).pair = s.pair := rfl
@[simp] theorem setExp_adm (x : ExpRes) (s : State) : (setExp x s).adm = s.adm := rfl
@[simp] theorem setExp_wd (x : ExpRes) (s : State) : (setExp x s).wd = s.wd := rfl
@[simp] theorem setExp_dbg (x : ExpRes) (s : State) : (setExp x s).dbg = s.dbg := rfl
@[simp] theorem setExp_mg (x : ExpRes) (s : State) : (setExp x s).mg = s.mg := rfl

@[simp] theorem setExp_expResult (x : ExpRes) (s : State) : (setExp x s).cfg.expResult = x.code := rfl
@[simp] theorem setExp_bs (x : ExpRes) (s : State) : (setExp x s).cfg.bs = s.cfg.bs := rfl
@[simp] theorem setExp_loading (x : ExpRes) (s : State) : (setExp x s).cfg.loading = s.cfg.loading := rfl

/-! ### markBad -/

@[simp] theorem markBad_pending (p : Bool) (b : Nat) (s : State) : (markBad p b s).pending = s.pending := rfl
@[simp] theorem markBad_bus (p : Bool) (b : Nat) (s : State) : (markBad p b s).bus = s.bus := rfl
@[simp] theorem markBad_now (p : Bool) (b : Nat) (s : State) : (markBad p b s).now = s.now := rfl
@[simp] theorem markBad_freeIx (p : Bool) (b : Nat) (s : State) : (markBad p b s).freeIx = s.freeIx := rfl
@[simp] theorem markBad_nextCid (p : Bool) (b : Nat) (s : State) : (markBad p b s).nextCid = s.nextCid := rfl
@[simp] theorem markBad_pw (p : Bool) (b : Nat) (s : State) : (markBad p b s).pw = s.pw := rfl
@[simp] theorem markBad_boot (p : Bool) (b : Nat) (s : State) : (markBad p b s).boot = s.boot := rfl
@[simp] theorem markBad_cfg (p : Bool) (b : Nat) (s : State) : (markBad p b s).cfg = s.cfg := rfl
@[simp] theorem markBad_tenants (p : Bool) (b : Nat) (s : State) : (markBad p b s).tenants = s.tenants := rfl
@[simp] theorem markBad_rings (p : Bool) (b : Nat) (s : State) : (markBad p b s).rings = s.rings := rfl
@[simp] theorem markBad_cairns (p : Bool) (b : Nat) (s : State) : (markBad p b s).cairns = s.cairns := rfl
@[simp] theorem markBad_ma (p : Bool) (b : Nat) (s : State) : (markBad p b s).ma = s.ma := rfl
@[simp] theorem markBad_link (p : Bool) (b : Nat) (s : State) : (markBad p b s).link = s.link := rfl
@[simp] theorem markBad_pair (p : Bool) (b : Nat) (s : State) : (markBad p b s).pair = s.pair := rfl
@[simp] theorem markBad_adm (p : Bool) (b : Nat) (s : State) : (markBad p b s).adm = s.adm := rfl
@[simp] theorem markBad_wd (p : Bool) (b : Nat) (s : State) : (markBad p b s).wd = s.wd := rfl
@[simp] theorem markBad_dbg (p : Bool) (b : Nat) (s : State) : (markBad p b s).dbg = s.dbg := rfl
@[simp] theorem markBad_mg (p : Bool) (b : Nat) (s : State) : (markBad p b s).mg = s.mg := rfl

/-! ### dropLines -/

@[simp] theorem dropLines_pending (a n : Nat) (s : State) : (dropLines a n s).pending = s.pending := rfl
@[simp] theorem dropLines_bus (a n : Nat) (s : State) : (dropLines a n s).bus = s.bus := rfl
@[simp] theorem dropLines_now (a n : Nat) (s : State) : (dropLines a n s).now = s.now := rfl
@[simp] theorem dropLines_freeIx (a n : Nat) (s : State) : (dropLines a n s).freeIx = s.freeIx := rfl
@[simp] theorem dropLines_nextCid (a n : Nat) (s : State) : (dropLines a n s).nextCid = s.nextCid := rfl
@[simp] theorem dropLines_pw (a n : Nat) (s : State) : (dropLines a n s).pw = s.pw := rfl
@[simp] theorem dropLines_boot (a n : Nat) (s : State) : (dropLines a n s).boot = s.boot := rfl
@[simp] theorem dropLines_cfg (a n : Nat) (s : State) : (dropLines a n s).cfg = s.cfg := rfl
@[simp] theorem dropLines_tenants (a n : Nat) (s : State) : (dropLines a n s).tenants = s.tenants := rfl
@[simp] theorem dropLines_rings (a n : Nat) (s : State) : (dropLines a n s).rings = s.rings := rfl
@[simp] theorem dropLines_cairns (a n : Nat) (s : State) : (dropLines a n s).cairns = s.cairns := rfl
@[simp] theorem dropLines_link (a n : Nat) (s : State) : (dropLines a n s).link = s.link := rfl
@[simp] theorem dropLines_st (a n : Nat) (s : State) : (dropLines a n s).st = s.st := rfl
@[simp] theorem dropLines_pair (a n : Nat) (s : State) : (dropLines a n s).pair = s.pair := rfl
@[simp] theorem dropLines_adm (a n : Nat) (s : State) : (dropLines a n s).adm = s.adm := rfl
@[simp] theorem dropLines_wd (a n : Nat) (s : State) : (dropLines a n s).wd = s.wd := rfl
@[simp] theorem dropLines_dbg (a n : Nat) (s : State) : (dropLines a n s).dbg = s.dbg := rfl
@[simp] theorem dropLines_mg (a n : Nat) (s : State) : (dropLines a n s).mg = s.mg := rfl

/-! ### fltRecord -/

@[simp] theorem fltRecord_pending (a : Nat) (c : Cause) (t : Tenant) (i : Bool) (r : Nat) (wr : Bool) (who : Nat) (s : State) : (fltRecord a c t i r wr who s).pending = s.pending := rfl
@[simp] theorem fltRecord_bus (a : Nat) (c : Cause) (t : Tenant) (i : Bool) (r : Nat) (wr : Bool) (who : Nat) (s : State) : (fltRecord a c t i r wr who s).bus = s.bus := rfl
@[simp] theorem fltRecord_now (a : Nat) (c : Cause) (t : Tenant) (i : Bool) (r : Nat) (wr : Bool) (who : Nat) (s : State) : (fltRecord a c t i r wr who s).now = s.now := rfl
@[simp] theorem fltRecord_freeIx (a : Nat) (c : Cause) (t : Tenant) (i : Bool) (r : Nat) (wr : Bool) (who : Nat) (s : State) : (fltRecord a c t i r wr who s).freeIx = s.freeIx := rfl
@[simp] theorem fltRecord_nextCid (a : Nat) (c : Cause) (t : Tenant) (i : Bool) (r : Nat) (wr : Bool) (who : Nat) (s : State) : (fltRecord a c t i r wr who s).nextCid = s.nextCid := rfl
@[simp] theorem fltRecord_pw (a : Nat) (c : Cause) (t : Tenant) (i : Bool) (r : Nat) (wr : Bool) (who : Nat) (s : State) : (fltRecord a c t i r wr who s).pw = s.pw := rfl
@[simp] theorem fltRecord_boot (a : Nat) (c : Cause) (t : Tenant) (i : Bool) (r : Nat) (wr : Bool) (who : Nat) (s : State) : (fltRecord a c t i r wr who s).boot = s.boot := rfl
@[simp] theorem fltRecord_cfg (a : Nat) (c : Cause) (t : Tenant) (i : Bool) (r : Nat) (wr : Bool) (who : Nat) (s : State) : (fltRecord a c t i r wr who s).cfg = s.cfg := rfl
@[simp] theorem fltRecord_tenants (a : Nat) (c : Cause) (t : Tenant) (i : Bool) (r : Nat) (wr : Bool) (who : Nat) (s : State) : (fltRecord a c t i r wr who s).tenants = s.tenants := rfl
@[simp] theorem fltRecord_rings (a : Nat) (c : Cause) (t : Tenant) (i : Bool) (r : Nat) (wr : Bool) (who : Nat) (s : State) : (fltRecord a c t i r wr who s).rings = s.rings := rfl
@[simp] theorem fltRecord_cairns (a : Nat) (c : Cause) (t : Tenant) (i : Bool) (r : Nat) (wr : Bool) (who : Nat) (s : State) : (fltRecord a c t i r wr who s).cairns = s.cairns := rfl
@[simp] theorem fltRecord_ma (a : Nat) (c : Cause) (t : Tenant) (i : Bool) (r : Nat) (wr : Bool) (who : Nat) (s : State) : (fltRecord a c t i r wr who s).ma = s.ma := rfl
@[simp] theorem fltRecord_st (a : Nat) (c : Cause) (t : Tenant) (i : Bool) (r : Nat) (wr : Bool) (who : Nat) (s : State) : (fltRecord a c t i r wr who s).st = s.st := rfl
@[simp] theorem fltRecord_pair (a : Nat) (c : Cause) (t : Tenant) (i : Bool) (r : Nat) (wr : Bool) (who : Nat) (s : State) : (fltRecord a c t i r wr who s).pair = s.pair := rfl
@[simp] theorem fltRecord_adm (a : Nat) (c : Cause) (t : Tenant) (i : Bool) (r : Nat) (wr : Bool) (who : Nat) (s : State) : (fltRecord a c t i r wr who s).adm = s.adm := rfl
@[simp] theorem fltRecord_wd (a : Nat) (c : Cause) (t : Tenant) (i : Bool) (r : Nat) (wr : Bool) (who : Nat) (s : State) : (fltRecord a c t i r wr who s).wd = s.wd := rfl
@[simp] theorem fltRecord_dbg (a : Nat) (c : Cause) (t : Tenant) (i : Bool) (r : Nat) (wr : Bool) (who : Nat) (s : State) : (fltRecord a c t i r wr who s).dbg = s.dbg := rfl
@[simp] theorem fltRecord_mg (a : Nat) (c : Cause) (t : Tenant) (i : Bool) (r : Nat) (wr : Bool) (who : Nat) (s : State) : (fltRecord a c t i r wr who s).mg = s.mg := rfl

@[simp] theorem fltRecord_fltCnt (a : Nat) (c : Cause) (t : Tenant) (i : Bool) (r : Nat) (wr : Bool) (who : Nat) (s : State) :
    (fltRecord a c t i r wr who s).link.fltCnt = satAdd s.link.fltCnt 1 := rfl

end Sys2Proof.Machine
end

