-- ==== Sys2Proof/Laws/Ops.lean ====
section
/-! SUPPORT. What the shared operations can do, said once: a step, the outgoing records of an event, busy, an entry that
joins a ring's completions, and the head of a ring. -/

namespace Sys2Proof.Laws

open Sys2Proof Sys2Proof.Machine Sys2Proof.Safety

/-! ### A step -/

theorem step_cons {s : State} {c : Instr} {rest : List Instr} (h : s.pending = c :: rest) :
    step s = exec c { s with pending := rest } := by
  unfold step
  rw [h]

theorem step_nil {s : State} (h : s.pending = []) : step s = .next { s with now := s.now + 1 } := by
  unfold step
  rw [h]

/-! ### Announcing: an event, an interrupt, busy -/

/-- What an announcement leaves alone: everything but the outgoing records, the watchdog block, the management queue, the
MSI-X table and the pins. -/
structure DataKept (s t : State) : Prop where
  pending : t.pending = s.pending
  now : t.now = s.now
  freeIx : t.freeIx = s.freeIx
  nextCid : t.nextCid = s.nextCid
  boot : t.boot = s.boot
  cfg : t.cfg = s.cfg
  tenants : t.tenants = s.tenants
  rings : t.rings = s.rings
  cairns : t.cairns = s.cairns
  ma : t.ma = s.ma
  st : t.st = s.st
  pair : t.pair = s.pair
  adm : t.adm = s.adm
  dbg : t.dbg = s.dbg
  rdy : t.pw.rdy = s.pw.rdy
  phase : t.pw.phase = s.pw.phase
  wins : t.link.wins = s.link.wins

theorem DataKept.refl (s : State) : DataKept s s := by constructor <;> rfl

theorem DataKept.trans {s t u : State} (a : DataKept s t) (b : DataKept t u) : DataKept s u := by
  constructor
  exacts [b.pending.trans a.pending, b.now.trans a.now, b.freeIx.trans a.freeIx, b.nextCid.trans a.nextCid,
    b.boot.trans a.boot, b.cfg.trans a.cfg, b.tenants.trans a.tenants, b.rings.trans a.rings, b.cairns.trans a.cairns,
    b.ma.trans a.ma, b.st.trans a.st, b.pair.trans a.pair, b.adm.trans a.adm, b.dbg.trans a.dbg, b.rdy.trans a.rdy,
    b.phase.trans a.phase, b.wins.trans a.wins]

theorem msixFire_kept (v : Vec) (s : State) : DataKept s (msixFire v s) := by
  unfold msixFire
  split
  · exact .refl s
  · split <;> (constructor <;> rfl)

theorem announcing_kept {v : Vec} {f : State → State} {s : State} (h : DataKept s (f s)) : DataKept s (announcing v f s) := by
  unfold announcing
  dsimp only
  split
  · exact h.trans (msixFire_kept v _)
  · exact h

theorem alertPin_kept (s : State) : DataKept s (alertPin s) := by
  unfold alertPin
  dsimp only
  split
  · exact .refl s
  · constructor <;> rfl

theorem offerEvent_kept (e : EvRec) (s : State) : DataKept s (offerEvent e s) := by
  unfold offerEvent
  split
  · constructor <;> rfl
  · exact .trans (by constructor <;> rfl) (alertPin_kept _)

theorem logEvent_kept (code : Nat) (u : Byte) (a0 a1 : Word) (s : State) : DataKept s (logEvent code u a0 a1 s) := by
  unfold logEvent
  dsimp only
  split
  · constructor <;> rfl
  · split
    · constructor <;> rfl
    · exact .trans (by constructor <;> rfl) (offerEvent_kept _ _)

/-- An event changes nothing but what announces it (R387 to R389). -/
theorem raiseEvent_kept (code : Nat) (u : Byte) (a0 a1 : Word) (s : State) : DataKept s (raiseEvent code u a0 a1 s) :=
  announcing_kept (logEvent_kept code u a0 a1 s)

@[simp] theorem raiseEvent_rings (code : Nat) (u : Byte) (a0 a1 : Word) (s : State) :
    (raiseEvent code u a0 a1 s).rings = s.rings := (raiseEvent_kept code u a0 a1 s).rings
@[simp] theorem raiseEvent_cairns (code : Nat) (u : Byte) (a0 a1 : Word) (s : State) :
    (raiseEvent code u a0 a1 s).cairns = s.cairns := (raiseEvent_kept code u a0 a1 s).cairns
@[simp] theorem raiseEvent_st (code : Nat) (u : Byte) (a0 a1 : Word) (s : State) :
    (raiseEvent code u a0 a1 s).st = s.st := (raiseEvent_kept code u a0 a1 s).st
@[simp] theorem raiseEvent_ma (code : Nat) (u : Byte) (a0 a1 : Word) (s : State) :
    (raiseEvent code u a0 a1 s).ma = s.ma := (raiseEvent_kept code u a0 a1 s).ma
@[simp] theorem raiseEvent_cfg (code : Nat) (u : Byte) (a0 a1 : Word) (s : State) :
    (raiseEvent code u a0 a1 s).cfg = s.cfg := (raiseEvent_kept code u a0 a1 s).cfg
@[simp] theorem raiseEvent_pair (code : Nat) (u : Byte) (a0 a1 : Word) (s : State) :
    (raiseEvent code u a0 a1 s).pair = s.pair := (raiseEvent_kept code u a0 a1 s).pair
@[simp] theorem raiseEvent_adm (code : Nat) (u : Byte) (a0 a1 : Word) (s : State) :
    (raiseEvent code u a0 a1 s).adm = s.adm := (raiseEvent_kept code u a0 a1 s).adm
@[simp] theorem raiseEvent_now (code : Nat) (u : Byte) (a0 a1 : Word) (s : State) :
    (raiseEvent code u a0 a1 s).now = s.now := (raiseEvent_kept code u a0 a1 s).now

/-- A cause of busy that begins changes only busy and the records that leave (R22, R418). -/
theorem busyOn_kept (c : BitVec 4) (s : State) : DataKept s (busyOn c s) := by
  unfold busyOn
  dsimp only
  split <;> (constructor <;> rfl)

theorem busyOff_kept (c : BitVec 4) (s : State) : DataKept s (busyOff c s) := by
  unfold busyOff
  split
  · constructor <;> rfl
  · exact .refl s

/-! ### Capacity -/

/-- The accounting of one resource changes its own entry, and announces (R338, R347). -/
theorem recapOne_rings (k : Res) (s : State) : (recapOne k s).rings = s.rings := by
  unfold recapOne
  dsimp only
  split_ifs <;> simp

theorem recapOne_st (k : Res) (s : State) : (recapOne k s).st = s.st := by
  unfold recapOne
  dsimp only
  split_ifs <;> simp

/-- A fold of steps that keep a part of the state keeps it. -/
theorem foldl_keeps {β γ : Type} (g : State → γ) (f : State → β → State) (hf : ∀ s b, g (f s b) = g s) (l : List β) (s : State) :
    g (l.foldl f s) = g s := by
  induction l generalizing s with
  | nil => rfl
  | cons b l ih => rw [List.foldl_cons, ih, hf]

@[simp] theorem recap_rings (s : State) : (recap s).rings = s.rings := foldl_keeps State.rings _ (fun s k => recapOne_rings k s) _ s
@[simp] theorem recap_st (s : State) : (recap s).st = s.st := foldl_keeps State.st _ (fun s k => recapOne_st k s) _ s

/-! ### Entries and heads -/

/-- A command found again is the one its number names. -/
theorem find_cid {x : RingSt} {n : Nat} {c : Cmd} (h : x.find n = some c) : c.cid = n := by
  unfold RingSt.find at h
  split at h
  · rename_i d hd
    obtain rfl : d = c := by simpa using h
    simpa using List.find?_some hd
  · simpa using List.find?_some h

/-- A step of a command whose checks have passed is its action. -/
theorem headStep_started {s : State} {r : Ring} {c : Cmd} {code : Nat} {act : Cmd → State → State} (h : Started s r c code) :
    headStep r code act s = act c s := by
  obtain ⟨h1, h2, h3, h4, -⟩ := h
  have h5 : ¬ 64 ≤ s.rings[r].past.length := by omega
  unfold headStep
  rw [h1]
  simp only
  rw [if_neg (fun h => h.1 h2), if_neg h5, if_pos h4]

/-- With no command at a head that may act, a head step does nothing. -/
theorem headStep_none {s : State} {r : Ring} {code : Nat} {act : Cmd → State → State} (h : headCmd s r = none) :
    headStep r code act s = s := by
  unfold headStep
  rw [h]

/-- The head's command of another opcode of the table waits for its own step. -/
theorem headStep_other {s : State} {r : Ring} {c : Cmd} {code : Nat} {act : Cmd → State → State} (h : headCmd s r = some c)
    (hc : c.op ≠ code) (ho : (opBody c.op).isSome = true) : headStep r code act s = s := by
  unfold headStep
  rw [h]
  simp [hc, ho]

theorem endLoad_rings (s : State) : (endLoad s).rings = s.rings := (busyOff_kept 2 _).rings
theorem endLoad_st (s : State) : (endLoad s).st = s.st := (busyOff_kept 2 _).st
theorem endLoad_cairns (s : State) : (endLoad s).cairns = s.cairns := (busyOff_kept 2 _).cairns
theorem endLoad_ma (s : State) : (endLoad s).ma = s.ma := (busyOff_kept 2 _).ma

/-- An entry changes its own ring alone, and the staging store, cairns and units stay. -/
theorem pushEntry_st (r : Ring) (c : Cmd) (o : Outc) (s : State) : (pushEntry r c o s).st = s.st := by
  unfold pushEntry
  dsimp only
  split
  · rw [endLoad_st]; rfl
  · rfl

theorem pushEntry_cairns (r : Ring) (c : Cmd) (o : Outc) (s : State) : (pushEntry r c o s).cairns = s.cairns := by
  unfold pushEntry
  dsimp only
  split
  · rw [endLoad_cairns]; rfl
  · rfl

theorem pushEntry_ma (r : Ring) (c : Cmd) (o : Outc) (s : State) : (pushEntry r c o s).ma = s.ma := by
  unfold pushEntry
  dsimp only
  split
  · rw [endLoad_ma]; rfl
  · rfl

/-- The rings after an entry: its ring has one more waiting, and the command gone after a last one. -/
theorem pushEntry_rings (r : Ring) (c0 : Cmd) (o : Outc) (s : State) : (pushEntry r c0 o s).rings =
    modAt s.rings r (fun x =>
      let c := stopWaiting s.now ((s.rings[r].find c0.cid).getD c0)
      let y := { x with waiting := x.waiting ++ [entryFor s r c o] }
      if o.more then y.mod c.cid (fun c => { c with
        corrected := false, delayed := false, delay := 0, res := 7, cause := 0 }) else y.drop c.cid) := by
  unfold pushEntry
  dsimp only
  split
  · rw [endLoad_rings]; rfl
  · rfl

theorem pushEntry_others (r : Ring) (c : Cmd) (o : Outc) (s : State) : OtherRings s (pushEntry r c o s) r := by
  intro q hq
  rw [pushEntry_rings]
  exact modAt_other _ _ _ _ hq

/-- A command of which no message was cut short and no beat failed answers with its outcome. -/
theorem entryFor_plain {s : State} {r : Ring} {c : Cmd} {o : Outc} (ht : c.trunc = none) (hb : c.badBeats = 0)
    (hd : o.status ≠ stDISCARDED) : entryFor s r c o = { entryOf c o with done := min (doneUnits s r c) 0xFFFFFFFF } := by
  have h1 : withTrunc c (withBad c o) = o := by
    simp [withBad, withTrunc, ht, hb]
  simp only [entryFor, h1, if_neg hd]

/-- The last entry of a command found on its ring, with no truncated message and no failed beat: the outcome's status and
details join the ring's waiting entries under the command's TAG (R113, R115). -/
theorem pushEntry_answers {r : Ring} {c : Cmd} {o : Outc} {s : State} (hf : s.rings[r].find c.cid = some c)
    (ht : c.trunc = none) (hb : c.badBeats = 0) (hd : o.status ≠ stDISCARDED) (hm : o.more = false) :
    Answered s (pushEntry r c o s) r c o.status (BitVec.ofNat 64 o.d0) (BitVec.ofNat 32 o.d1) := by
  have hs : ∀ n, (stopWaiting n c).trunc = none ∧ (stopWaiting n c).tag = c.tag ∧ (stopWaiting n c).badBeats = 0 := by
    intro n
    unfold stopWaiting
    split
    · exact ⟨ht, rfl, hb⟩
    · exact ⟨ht, rfl, hb⟩
  refine ⟨entryFor s r (stopWaiting s.now c) o, ?_, ?_⟩
  · rw [pushEntry_rings, modAt_same]
    simp only [hf, Option.getD_some, hm, Bool.false_eq_true, if_false]
    rfl
  · rw [entryFor_plain (hs _).1 (hs _).2.2 hd]
    exact ⟨(hs s.now).2.1, rfl, rfl, rfl, by simp [entryOf, hm]⟩

end Sys2Proof.Laws
end

