-- ==== Sys2Proof/Laws/Array.lean ====
section
/-! SUPPORT. An array at rest stays as it is: no round of its cycle moves anything, and resuming units does nothing. -/

namespace Sys2Proof.Laws

open Sys2Proof Sys2Proof.Machine Sys2Proof.Safety

theorem satAdd_zero {w : Nat} (x : BitVec w) : satAdd x 0 = x := by
  have := x.isLt
  unfold satAdd
  rw [if_neg (by omega)]
  simp

theorem modAt_self {α : Type} {n : Nat} {v : Vector α n} {i : Fin n} {f : α → α} (h : f v[i] = v[i]) : modAt v i f = v := by
  unfold modAt
  rw [h]
  simp

/-- Steps that answer that nothing moved, and leave the state, over a list. -/
theorem anyOf_still {α : Type} {f : α → State → Bool × State} {l : List α} {s : State} (h : ∀ a ∈ l, f a s = (false, s)) :
    anyOf f l s = (false, s) := by
  unfold anyOf
  induction l with
  | nil => rfl
  | cons a l ih =>
    rw [List.foldl_cons, h a (by simp)]
    exact ih (fun b hb => h b (by simp [hb]))

theorem foldl_still {α : Type} {f : State → α → State} {l : List α} {s : State} (h : ∀ a ∈ l, f s a = s) : l.foldl f s = s := by
  induction l with
  | nil => rfl
  | cons a l ih => rw [List.foldl_cons, h a (by simp), ih (fun b hb => h b (by simp [hb]))]

variable {s : State} (h : ArrayAtRest s)

include h

theorem filling_rest (w : Wheel) : s.ma.wheels[w].filling = none := by
  unfold WheelSt.filling
  cases he : s.ma.wheels[w].en
  · simp
  · obtain ⟨-, h2, -⟩ := h.wheels w he
    rw [h2]
    split <;> rfl

theorem readyCmd_rest (r : Ring) : readyCmd s r = none := by
  unfold readyCmd
  split
  · rfl
  · rw [List.find?_eq_none]
    intro c hc
    simp [readyReads, h.reads r c hc]

theorem readers_rest : readers s = [] := by
  have h1 : (List.finRange 64).filter (wheelReads s) = [] := by
    rw [List.filter_eq_nil_iff]
    intro w _
    unfold wheelReads wheelWants
    dsimp only
    rw [filling_rest h w]
    exact Bool.false_ne_true
  have h2 : (List.finRange 16).filter (fun r => (readyCmd s r).isSome) = [] := by
    rw [List.filter_eq_nil_iff]
    intro r _
    simp [readyCmd_rest h r]
  simp [readers, h1, h2]

/-- A round of an array at rest moves nothing. -/
theorem pumpRound_rest (k : Nat) : pumpRound k s = (false, s) := by
  have ho : wheelsOf s true = [] := by
    unfold wheelsOf
    rw [List.filter_eq_nil_iff]
    intro w _ hw
    simp only [Bool.and_eq_true, beq_iff_eq] at hw
    have := (h.wheels w hw.1.1).1
    rw [this] at hw
    simp at hw
  have h1 : ∀ w ∈ wheelsOf s false, deliver_ w s.ma.wheels[w].held.length.succ false s = (false, s) := by
    intro w hw
    simp only [wheelsOf, List.mem_filter, Bool.and_eq_true] at hw
    obtain ⟨-, h2, h3, -⟩ := h.wheels w hw.2.1.1
    unfold deliver_ deliverNext
    dsimp only
    rw [h2]
  have h2 : ∀ n ∈ (if wheelsOf s false = [] ∧ wheelsOf s true = [] then ([] : List Crag) else List.finRange 32),
      cragCycle k n s = (false, s) := by
    intro n _
    simp [cragCycle, h.crags n]
  have h3 : ∀ w ∈ wheelsOf s false, fillFree w (64 * 16) false s = (false, s) := by
    intro w _
    have : fillStep w s = none := by
      unfold fillStep
      dsimp only
      rw [filling_rest h w]
    unfold fillFree
    rw [this]
  have h4 : ∀ e ∈ List.finRange 4, rowanFill e s = (false, s) := by
    intro e _
    unfold rowanFill
    dsimp only
    split
    · rw [filling_rest h]
    · rfl
  have h5 : ∀ e ∈ List.finRange 4, rowanDrain e s = (false, s) := by
    intro e _
    unfold rowanDrain
    dsimp only
    split
    next j rest hq =>
      have := h.engines e j (by rw [hq]; simp)
      simp [this]
    next => rfl
  have h6 : grantRead s = (false, s) := by
    unfold grantRead
    rw [readers_rest h]
  have e1 : anyOf (fun w s => deliver_ w s.ma.wheels[w].held.length.succ false s) (wheelsOf s false) s = (false, s) := anyOf_still h1
  have e2 := anyOf_still (f := cragCycle k) h2
  have e3 : anyOf (fun w s => fillFree w (64 * 16) false s) (wheelsOf s false) s = (false, s) := anyOf_still h3
  have e4 := anyOf_still (f := rowanFill) h4
  have e5 := anyOf_still (f := rowanDrain) h5
  have e6 : ∀ f : Wheel → State → Bool × State, anyOf f [] s = (false, s) := fun _ => rfl
  unfold pumpRound
  dsimp only
  rw [e1]
  dsimp only
  rw [e2]
  dsimp only
  rw [ho, e6, e6]
  dsimp only
  rw [e3]
  dsimp only
  rw [e4]
  dsimp only
  rw [e5]
  dsimp only
  rw [h6]
  rfl

/-- The wait marks of a wheel at rest stay. -/
theorem noteStall_rest {w : Wheel} (hw : s.ma.wheels[w].en = true) : noteStall w s = s := by
  obtain ⟨h1, h2, h3, h4, h5⟩ := h.wheels w hw
  unfold noteStall
  simp only [filling_rest h w, h1, h2, Bool.false_eq_true, if_false, Option.isSome_none, Bool.not_false, Bool.true_and,
    List.isEmpty_nil, Bool.not_true, Bool.and_false, Bool.false_and, satAdd_zero]
  have : modAt s.ma.wheels w (fun x => { x with stallTag := false, stallSlot := false }) = s.ma.wheels := by
    apply modAt_self
    generalize s.ma.wheels[w] = x at h4 h5
    cases x
    simp_all
  simp only [State.onWheel, this]

/-- An array at rest stays as it is. -/
theorem pumpWheels_rest : pumpWheels s = s := by
  unfold pumpWheels
  split
  · rfl
  · have hp : ∀ k, pumpRounds k s = s := by
      intro k
      cases k with
      | zero => rfl
      | succ k =>
        rw [pumpRounds, pumpRound_rest h]
        rfl
    rw [hp]
    dsimp only
    rw [foldl_still (f := fun s w => noteStall w s)]
    · exact foldl_still (fun n _ => by simp [h.crags n])
    · intro w hw
      simp only [wheelsOf, List.mem_append, List.mem_filter, Bool.and_eq_true] at hw
      exact noteStall_rest h (by rcases hw with hw | hw <;> exact hw.2.1.1)

/-- With nothing moving, resuming units does nothing. -/
theorem resumeUnits_rest : resumeUnits s = s := by
  unfold resumeUnits
  rw [foldl_still, pumpWheels_rest h]
  intro l _
  rw [h.taps l]
  rfl

end Sys2Proof.Laws
end

