-- ==== Sys2Proof/WellFormed.lean ====
section
/-! DEFINITION. What a well-formed command is: operands that the transport that carries the command
could carry. An ill-formed command is still given a meaning (exec is total). -/

namespace Sys2Proof

/-- A BAR0 access of a shape R411 admits: 4 to 64 bytes, naturally aligned, inside the 64 MiB of BAR0. -/
def accessOk (off size : Nat) : Bool :=
  [1, 2, 4, 8, 16, 32, 64].contains size && off % size == 0 && decide (off + size ≤ 0x4000000)

/-- A BAR2 access is one TLP: 1 to 4,096 bytes that cross no 4 KiB boundary. -/
def bar2Ok (addr len : Nat) : Bool := decide (1 ≤ len) && decide (addr % 4096 + len ≤ 4096)

/-- Well-formed commands. -/
def Instr.wf : Instr → Bool
  | .registerWrite off size _ => accessOk off size
  | .readToClear off size => accessOk off size
  | .bar2Read _ _ addr len _ => bar2Ok addr len
  | .bar2Write _ _ addr bs _ => bar2Ok addr bs.length
  | .data _ _ _ secs => decide (1 ≤ secs.length)
  | .unitOffline u => decide (u < 78)
  | .unitOnline u => decide (u < 78)
  | .firmwareUpdateData _ bytes => !bytes.isEmpty
  | .keyLoad _ _ _ _ key => decide (key.length ≤ 4096)
  | .icmpEcho _ _ _ _ payload => decide (payload.length ≤ 9000)
  | .sectorProgrammed _ res => !res.isEmpty
  | _ => true

end Sys2Proof
end

