-- ==== Sys2Proof/Laws/PerInstr.lean ====
section
/-! SUPPORT. The per-command law Shape: a well-formed access stays inside what one transfer may reach. -/

namespace Sys2Proof.Laws.Shape

open Sys2Proof

/-- A register access is naturally aligned, at most 64 bytes, inside BAR0 (R411); a BAR2 access crosses no 4 KiB
boundary. Other commands reach nothing by address. -/
def Reach : Instr → Prop
  | .registerWrite off size _ => off % size = 0 ∧ 1 ≤ size ∧ size ≤ 64 ∧ off + size ≤ 0x4000000
  | .readToClear off size => off % size = 0 ∧ 1 ≤ size ∧ size ≤ 64 ∧ off + size ≤ 0x4000000
  | .bar2Read _ _ addr len _ => addr / 4096 = (addr + len - 1) / 4096
  | .bar2Write _ _ addr data _ => addr / 4096 = (addr + data.length - 1) / 4096
  | _ => True

/-- The law: a well-formed command reaches only what it may. -/
def Statement (i : Instr) : Prop := i.wf = true → Reach i

theorem reach_access {off size : Nat} (h : accessOk off size = true) :
    off % size = 0 ∧ 1 ≤ size ∧ size ≤ 64 ∧ off + size ≤ 0x4000000 := by
  simp only [accessOk, Bool.and_eq_true, beq_iff_eq, decide_eq_true_eq, List.contains_iff_mem, List.mem_cons,
    List.not_mem_nil, or_false] at h
  obtain ⟨⟨h1, h2⟩, h3⟩ := h
  exact ⟨h2, by omega, by omega, h3⟩

theorem reach_bar2 {addr len : Nat} (h : bar2Ok addr len = true) : addr / 4096 = (addr + len - 1) / 4096 := by
  simp only [bar2Ok, Bool.and_eq_true, decide_eq_true_eq] at h
  omega

theorem trbGo (r : Ring) (v : Word) : Statement (.trbGo r v) := fun _ => trivial
theorem writeSectors (r : Ring) : Statement (.writeSectors r) := fun _ => trivial
theorem readSectors (r : Ring) : Statement (.readSectors r) := fun _ => trivial
theorem flush (r : Ring) : Statement (.flush r) := fun _ => trivial
theorem fence (r : Ring) : Statement (.fence r) := fun _ => trivial
theorem signal (r : Ring) : Statement (.signal r) := fun _ => trivial
theorem wait (r : Ring) : Statement (.wait r) := fun _ => trivial
theorem snapBegin (r : Ring) : Statement (.snapBegin r) := fun _ => trivial
theorem snapRange (r : Ring) : Statement (.snapRange r) := fun _ => trivial
theorem snapSeal (r : Ring) : Statement (.snapSeal r) := fun _ => trivial
theorem imageDurable (t : Tenant) (img : Word) : Statement (.imageDurable t img) := fun _ => trivial
theorem restore (r : Ring) : Statement (.restore r) := fun _ => trivial
theorem reshard (r : Ring) : Statement (.reshard r) := fun _ => trivial
theorem digestVerify (r : Ring) : Statement (.digestVerify r) := fun _ => trivial
theorem pairSync (r : Ring) : Statement (.pairSync r) := fun _ => trivial
theorem pairTakeover (r : Ring) : Statement (.pairTakeover r) := fun _ => trivial
theorem abortTag (r : Ring) : Statement (.abortTag r) := fun _ => trivial
theorem loadBitstream (r : Ring) (g : Gsb) : Statement (.loadBitstream r g) := fun _ => trivial
theorem sanitise (r : Ring) : Statement (.sanitise r) := fun _ => trivial
theorem format (r : Ring) : Statement (.format r) := fun _ => trivial
theorem adminQuery (r : Ring) : Statement (.adminQuery r) := fun _ => trivial
theorem completionEntryWrite (r : Ring) : Statement (.completionEntryWrite r) := fun _ => trivial
theorem cplHeadWrite (r : Ring) (v : Word) : Statement (.cplHeadWrite r v) := fun _ => trivial
theorem cplRingSetup (r : Ring) (reg : CplReg) (v : Word) : Statement (.cplRingSetup r reg v) := fun _ => trivial
theorem cplRingSetupTakesEffect (r : Ring) : Statement (.cplRingSetupTakesEffect r) := fun _ => trivial
theorem ringReset (r : Ring) : Statement (.ringReset r) := fun _ => trivial
theorem ringResetEnd (r : Ring) : Statement (.ringResetEnd r) := fun _ => trivial
theorem deferHeadWrite (r : Ring) (v : Word) : Statement (.deferHeadWrite r v) := fun _ => trivial
theorem evtHeadWrite (v : Word) : Statement (.evtHeadWrite v) := fun _ => trivial
theorem readToClear (off size : Nat) : Statement (.readToClear off size) := fun h => reach_access h
theorem registerWrite (off size : Nat) (v : BitVec 512) : Statement (.registerWrite off size v) := fun h => reach_access h
theorem expertWriteTakesEffect (f : FieldId) : Statement (.expertWriteTakesEffect f) := fun _ => trivial
theorem bar0Badacc (write : Bool) (off size : Nat) : Statement (.bar0Badacc write off size) := fun _ => trivial
theorem expertArm (t : Tenant) (v : BitVec 16) : Statement (.expertArm t v) := fun _ => trivial
theorem expertUnlock (t : Tenant) (v : BitVec 16) : Statement (.expertUnlock t v) := fun _ => trivial
theorem expertLock (t : Tenant) (v : BitVec 16) : Statement (.expertLock t v) := fun _ => trivial
theorem expertArmExpire : Statement .expertArmExpire := fun _ => trivial
theorem stateReqNap : Statement .stateReqNap := fun _ => trivial
theorem stateReqActive : Statement .stateReqActive := fun _ => trivial
theorem stateReqAuto : Statement .stateReqAuto := fun _ => trivial
theorem napEntry : Statement .napEntry := fun _ => trivial
theorem idleEntry : Statement .idleEntry := fun _ => trivial
theorem factoryResetCommand (v : Word) : Statement (.factoryResetCommand v) := fun _ => trivial
theorem retainedCommit : Statement .retainedCommit := fun _ => trivial
theorem stagingWindowWrite (w : Win) (k : Fin 4) (v : Word) : Statement (.stagingWindowWrite w k v) := fun _ => trivial
theorem bar2Read (rid : BitVec 16) (host : Bool) (addr len : Nat) (ue : List Nat) : Statement (.bar2Read rid host addr len ue) := fun h => reach_bar2 h
theorem bar2Write (rid : BitVec 16) (host : Bool) (addr : Nat) (data : List Byte) (ep : Bool) : Statement (.bar2Write rid host addr data ep) := fun h => reach_bar2 h
theorem pageCopy (page : Nat) (fail : Bool) : Statement (.pageCopy page fail) := fun _ => trivial
theorem signalPageAdd (t : Tenant) (off size : Nat) (v : Word) : Statement (.signalPageAdd t off size v) := fun _ => trivial
theorem unitSignal (u : SigUnit) (c : Cairn) (add : Word) : Statement (.unitSignal u c add) := fun _ => trivial
theorem unitWait (u : SigUnit) (c : Cairn) (target : Word) (m : WaitMode) : Statement (.unitWait u c target m) := fun _ => trivial
theorem cairnPublication (c : Cairn) : Statement (.cairnPublication c) := fun _ => trivial
theorem orcInv (mask : BitVec 8) : Statement (.orcInv mask) := fun _ => trivial
theorem orcInvDone (t : Tenant) : Statement (.orcInvDone t) := fun _ => trivial
theorem readCompletion (tag : Nat) (got : List Got) : Statement (.readCompletion tag got) := fun _ => trivial
theorem completionTimeout (tag : Nat) : Statement (.completionTimeout tag) := fun _ => trivial
theorem atsTranslationCompletion (req : Nat) (a : AtsReply) : Statement (.atsTranslationCompletion req a) := fun _ => trivial
theorem atsInvalidation (pasid : Option (BitVec 20)) (addr len : Nat) : Statement (.atsInvalidation pasid addr len) := fun _ => trivial
theorem linkRetrain (rate width : BitVec 4) (flit : Bool) (tagw : BitVec 2) : Statement (.linkRetrain rate width flit tagw) := fun _ => trivial
theorem capacityChange (onfi : BitVec 16) (derated : Bool) : Statement (.capacityChange onfi derated) := fun _ => trivial
theorem breachEnd (k : Res) : Statement (.breachEnd k) := fun _ => trivial
theorem svcEntWrite (q : Req) (k : Res) (v : Word) : Statement (.svcEntWrite q k v) := fun _ => trivial
theorem drainRelease (w : Wheel) : Statement (.drainRelease w) := fun _ => trivial
theorem rowanTransfer (e : Eng) : Statement (.rowanTransfer e) := fun _ => trivial
theorem sloeDigestComplete (l : Lane) (c : Ctx) (glitch : Option (Bool × Bool)) (selfTestOk : Bool) : Statement (.sloeDigestComplete l c glitch selfTestOk) := fun _ => trivial
theorem sectorProgrammed (u : Nat) (res : List ProgRes) : Statement (.sectorProgrammed u res) := fun _ => trivial
theorem programUnitStart (src : Source) : Statement (.programUnitStart src) := fun _ => trivial
theorem vaultOpUnitDone (retired : Nat) : Statement (.vaultOpUnitDone retired) := fun _ => trivial
theorem vaultOpDone : Statement .vaultOpDone := fun _ => trivial
theorem backgroundErase (blocks : Nat) : Statement (.backgroundErase blocks) := fun _ => trivial
theorem patrolScrub (a : ScrubAt) (res : ScrubRes) : Statement (.patrolScrub a res) := fun _ => trivial
theorem internalFault (u : BitVec 8) (at_ : FaultAt) (retryOk : Bool) : Statement (.internalFault u at_ retryOk) := fun _ => trivial
theorem placementMove (src dst : Crag) (why : MoveWhy) (res : MoveRes) : Statement (.placementMove src dst why res) := fun _ => trivial
theorem clkStepChange : Statement .clkStepChange := fun _ => trivial
theorem dvfsEval (m : PowerMeas) : Statement (.dvfsEval m) := fun _ => trivial
theorem avsAdjust (mv : Nat) : Statement (.avsAdjust mv) := fun _ => trivial
theorem suspend (n : Crag) (on : Bool) : Statement (.suspend n on) := fun _ => trivial
theorem scanOut (n : Crag) : Statement (.scanOut n) := fun _ => trivial
theorem scanIn (n : Crag) : Statement (.scanIn n) := fun _ => trivial
theorem scanComplete (n : Crag) (fault raced progBad : Bool) : Statement (.scanComplete n fault raced progBad) := fun _ => trivial
theorem clkGate (n : Crag) (on : Bool) : Statement (.clkGate n on) := fun _ => trivial
theorem pwrGate (n : Crag) (on : Bool) : Statement (.pwrGate n on) := fun _ => trivial
theorem laneGate (v : Word) : Statement (.laneGate v) := fun _ => trivial
theorem slotGate (v : Word) : Statement (.slotGate v) := fun _ => trivial
theorem keepClaimRelease (u : KeepUnit) (readBackFails : Nat) : Statement (.keepClaimRelease u readBackFails) := fun _ => trivial
theorem keepHoldRefused (u : KeepUnit) : Statement (.keepHoldRefused u) := fun _ => trivial
theorem srSave (l : Lane) (c : Ctx) : Statement (.srSave l c) := fun _ => trivial
theorem srRestore (l : Lane) (c : Ctx) : Statement (.srRestore l c) := fun _ => trivial
theorem wdtToken (v : Word) : Statement (.wdtToken v) := fun _ => trivial
theorem wdtWarn : Statement .wdtWarn := fun _ => trivial
theorem watchdogExpiry : Statement .watchdogExpiry := fun _ => trivial
theorem stall (r : Ring) : Statement (.stall r) := fun _ => trivial
theorem trialConfirm : Statement .trialConfirm := fun _ => trivial
theorem auxPowerUp (maddr : BitVec 3) : Statement (.auxPowerUp maddr) := fun _ => trivial
theorem resetRelease (b : BootIn) : Statement (.resetRelease b) := fun _ => trivial
theorem rdy : Statement .rdy := fun _ => trivial
theorem perstAssert (p : PerstPin) : Statement (.perstAssert p) := fun _ => trivial
theorem hotReset : Statement .hotReset := fun _ => trivial
theorem flr : Statement .flr := fun _ => trivial
theorem mainPowerFail : Statement .mainPowerFail := fun _ => trivial
theorem surpriseRemoval : Statement .surpriseRemoval := fun _ => trivial
theorem holdUpSequence (zeroVerified journalKept : Bool) : Statement (.holdUpSequence zeroVerified journalKept) := fun _ => trivial
theorem pmeTurnOff : Statement .pmeTurnOff := fun _ => trivial
theorem pwrbrkNAssert : Statement .pwrbrkNAssert := fun _ => trivial
theorem pwrbrkNDeassert : Statement .pwrbrkNDeassert := fun _ => trivial
theorem thermalThreshold (degC : Nat) : Statement (.thermalThreshold degC) := fun _ => trivial
theorem supplyRange (which : Supply) (mv : Int) : Statement (.supplyRange which mv) := fun _ => trivial
theorem clkFail : Statement .clkFail := fun _ => trivial
theorem holdupBankCheck (mJ : Nat) : Statement (.holdupBankCheck mJ) := fun _ => trivial
theorem rbNAttentionPulse : Statement .rbNAttentionPulse := fun _ => trivial
theorem rbNPulseRepeat : Statement .rbNPulseRepeat := fun _ => trivial
theorem rbNBusyEnd : Statement .rbNBusyEnd := fun _ => trivial
theorem msixRepeat (v : Vec) : Statement (.msixRepeat v) := fun _ => trivial
theorem msixUnmask (v : Vec) : Statement (.msixUnmask v) := fun _ => trivial
theorem pairPortUp (p : PPort) : Statement (.pairPortUp p) := fun _ => trivial
theorem pairPortDown (p : PPort) : Statement (.pairPortDown p) := fun _ => trivial
theorem peerEntryWrite (e : Peer) (word : Nat) (v : Word) : Statement (.peerEntryWrite e word v) := fun _ => trivial
theorem hello (x : PairRx) (nonce epoch : Word) (holds : List HoldRec) : Statement (.hello x nonce epoch holds) := fun _ => trivial
theorem helloAck (x : PairRx) (nonce epoch : Word) (holds : List HoldRec) : Statement (.helloAck x nonce epoch holds) := fun _ => trivial
theorem heartbeat (x : PairRx) : Statement (.heartbeat x) := fun _ => trivial
theorem bye (x : PairRx) (drained : List Dword) : Statement (.bye x drained) := fun _ => trivial
theorem ack (x : PairRx) (base : Word) (got : BitVec 512) : Statement (.ack x base got) := fun _ => trivial
theorem offer (x : PairRx) (xfer img : Word) (step : Dword) (total : Nat) (alg : Alg) (kind : Bool) (root : BitVec 512) : Statement (.offer x xfer img step total alg kind root) := fun _ => trivial
theorem accept (x : PairRx) (xfer : Word) : Statement (.accept x xfer) := fun _ => trivial
theorem refuse (x : PairRx) (xfer : Word) (reason : Byte) : Statement (.refuse x xfer reason) := fun _ => trivial
theorem data (x : PairRx) (xfer : Word) (sector : Nat) (secs : List Sec) : Statement (.data x xfer sector secs) := fun _ => trivial
theorem held (x : PairRx) (xfer : Word) (tainted : Bool) (step : Dword) : Statement (.held x xfer tainted step) := fun _ => trivial
theorem resend (x : PairRx) (xfer : Word) (sector count : Nat) : Statement (.resend x xfer sector count) := fun _ => trivial
theorem pairSignalReceive (x : PairRx) (cairn : Byte) (add : Word) (seq : Dword) : Statement (.pairSignalReceive x cairn add seq) := fun _ => trivial
theorem sigAck (x : PairRx) (seq : Dword) (status : Byte) : Statement (.sigAck x seq status) := fun _ => trivial
theorem fetch (x : PairRx) (xfer : Word) (owner step : Dword) : Statement (.fetch x xfer owner step) := fun _ => trivial
theorem frameDropped (e : Option Peer) : Statement (.frameDropped e) := fun _ => trivial
theorem neighbourMessage (p : PPort) (m : Neighbour) : Statement (.neighbourMessage p m) := fun _ => trivial
theorem icmpEcho (p : PPort) (v6 : Bool) (src dst : BitVec 128) (payload : List Byte) : Statement (.icmpEcho p v6 src dst payload) := fun _ => trivial
theorem pairTransmit (e : Peer) : Statement (.pairTransmit e) := fun _ => trivial
theorem pairSignalForward (e : Peer) : Statement (.pairSignalForward e) := fun _ => trivial
theorem ackTimer (e : Peer) : Statement (.ackTimer e) := fun _ => trivial
theorem retransmitTimer (e : Peer) (psn : Word) : Statement (.retransmitTimer e psn) := fun _ => trivial
theorem heartbeatTimer (e : Peer) : Statement (.heartbeatTimer e) := fun _ => trivial
theorem helloTimer (e : Peer) : Statement (.helloTimer e) := fun _ => trivial
theorem pairLost (e : Peer) : Statement (.pairLost e) := fun _ => trivial
theorem pairSessionTimeout (e : Peer) : Statement (.pairSessionTimeout e) := fun _ => trivial
theorem setEndpointId (eid : Byte) : Statement (.setEndpointId eid) := fun _ => trivial
theorem i3cDynamicAddress (a : BitVec 7) : Statement (.i3cDynamicAddress a) := fun _ => trivial
theorem rstdaa : Statement .rstdaa := fun _ => trivial
theorem pldmBaseRequest (cmd : Byte) : Statement (.pldmBaseRequest cmd) := fun _ => trivial
theorem fruDataRequest (cmd : Byte) : Statement (.fruDataRequest cmd) := fun _ => trivial
theorem getPdr (handle : Word) : Statement (.getPdr handle) := fun _ => trivial
theorem sensorReading (k : Sensor) : Statement (.sensorReading k) := fun _ => trivial
theorem setPowerCap (watts : Nat) : Statement (.setPowerCap watts) := fun _ => trivial
theorem unitOffline (u : Nat) : Statement (.unitOffline u) := fun _ => trivial
theorem unitOnline (u : Nat) : Statement (.unitOnline u) := fun _ => trivial
theorem setEventReceiver (on : Bool) : Statement (.setEventReceiver on) := fun _ => trivial
theorem pollForPlatformEventMessage : Statement .pollForPlatformEventMessage := fun _ => trivial
theorem requestUpdate : Statement .requestUpdate := fun _ => trivial
theorem firmwareUpdateData (off : Nat) (bytes : List Byte) : Statement (.firmwareUpdateData off bytes) := fun _ => trivial
theorem verifyComplete (sigOk : Bool) (svn : BitVec 16) (ver : Word) : Statement (.verifyComplete sigOk svn ver) := fun _ => trivial
theorem activateFirmware : Statement .activateFirmware := fun _ => trivial
theorem spdmSecuredSession (mutualOk certOk usageOk : Bool) : Statement (.spdmSecuredSession mutualOk certOk usageOk) := fun _ => trivial
theorem keyLoad (slot alg tenant : Nat) (label : BitVec 16) (key : List Byte) : Statement (.keyLoad slot alg tenant label key) := fun _ => trivial
theorem keyZero (slot : Nat) (readBackFails : Nat) : Statement (.keyZero slot readBackFails) := fun _ => trivial
theorem keyList : Statement .keyList := fun _ => trivial
theorem viewAck (gen : BitVec 16) : Statement (.viewAck gen) := fun _ => trivial
theorem viewSkew : Statement .viewSkew := fun _ => trivial
theorem tapIdcode : Statement .tapIdcode := fun _ => trivial
theorem tapSamplePreload : Statement .tapSamplePreload := fun _ => trivial
theorem tapExtest (boundary : Word) : Statement (.tapExtest boundary) := fun _ => trivial
theorem tapBypass (code : Byte) : Statement (.tapBypass code) := fun _ => trivial
theorem dbgRead (space : Fin 3) (addr : Nat) : Statement (.dbgRead space addr) := fun _ => trivial
theorem dbgWrite (space : Fin 3) (addr : Nat) (v : Word) : Statement (.dbgWrite space addr v) := fun _ => trivial
theorem dbgNop : Statement .dbgNop := fun _ => trivial
theorem dbgAuth : Statement .dbgAuth := fun _ => trivial
theorem dbgAuthComplete (certOk sigOk : Bool) : Statement (.dbgAuthComplete certOk sigOk) := fun _ => trivial
theorem dbgEnd : Statement .dbgEnd := fun _ => trivial
theorem liveRead (on : Bool) : Statement (.liveRead on) := fun _ => trivial
theorem halt : Statement .halt := fun _ => trivial
theorem stewardHalted : Statement .stewardHalted := fun _ => trivial
theorem haltForced (held : BitVec 6) (r : Ring) : Statement (.haltForced held r) := fun _ => trivial
theorem resume : Statement .resume := fun _ => trivial
theorem configurationRequest (q : CfgReq) : Statement (.configurationRequest q) := fun _ => trivial
theorem linkMargin (which : Fin 3) : Statement (.linkMargin which) := fun _ => trivial
theorem mainPowerReturn : Statement .mainPowerReturn := fun _ => trivial
theorem auxConnectorSense (a : AuxInd) : Statement (.auxConnectorSense a) := fun _ => trivial
theorem vaultReadDone (lba : Nat) (res : ReadRes) : Statement (.vaultReadDone lba res) := fun _ => trivial

end Sys2Proof.Laws.Shape
end

