-- ==== Sys2Proof/Laws/Scan.lean ====
section
/-! SUPPORT. Laws of scan images in staging memory: their bytes by address, the range of a CRC, and an image that a
scan-in takes. -/

namespace Sys2Proof.Laws

open Sys2Proof Sys2Proof.Machine

/-- Bytes `o .. o + k - 1` of a read are a read of their own. -/
theorem readBytes_slice {m : List Host.Cell} {a n o k : Nat} (h : o + k ≤ n) :
    ((readBytes m a n).drop o).take k = readBytes m (a + o) k := by
  apply List.ext_getElem?
  intro i
  by_cases hi : i < k
  · have h1 : o + i < n := by omega
    simp [readBytes, hi, h1, Nat.add_assoc]
  · simp [readBytes, hi]

/-- A memory that reads alike gives the same bytes. -/
theorem readBytes_congr {m m' : List Host.Cell} {a n : Nat} (h : ∀ i, i < n → readByte m (a + i) = readByte m' (a + i)) :
    readBytes m a n = readBytes m' a n := by
  unfold readBytes
  exact List.map_congr_left (fun i hi => h i (List.mem_range.mp hi))

theorem readBytes_append (m : List Host.Cell) (a n k : Nat) : readBytes m a (n + k) = readBytes m a n ++ readBytes m (a + n) k := by
  simp [readBytes, List.range_add, Nat.add_assoc, Function.comp_def]

theorem crcBit_lt {c : Nat} (h : c < 2 ^ 32) : crcBit c < 2 ^ 32 := by
  unfold crcBit
  split
  · exact Nat.xor_lt_two_pow (by omega) (by norm_num)
  · omega

theorem crcByte_lt {c : Nat} {b : Byte} (h : c < 2 ^ 32) : crcByte c b < 2 ^ 32 := by
  unfold crcByte
  have hb : c ^^^ b.toNat < 2 ^ 32 := Nat.xor_lt_two_pow h (by have := b.isLt; omega)
  iterate 8 apply crcBit_lt
  exact hb

/-- A CRC-32C has 32 bits. -/
theorem crc32c_lt (bs : List Byte) : crc32c bs < 2 ^ 32 := by
  unfold crc32c
  refine Nat.xor_lt_two_pow ?_ (by norm_num)
  have : ∀ (l : List Byte) (c : Nat), c < 2 ^ 32 → l.foldl crcByte c < 2 ^ 32 := by
    intro l
    induction l with
    | nil => exact fun _ h => h
    | cons b l ih => exact fun c h => ih _ (crcByte_lt h)
  exact this bs _ (by norm_num)

/-- Four little-endian bytes give their number back. -/
theorem natLE_toLE4 {c : Nat} (h : c < 2 ^ 32) : natLE (toLE 4 c) = c := by
  have e : toLE 4 c = [BitVec.ofNat 8 (c / 256 ^ 0), BitVec.ofNat 8 (c / 256 ^ 1), BitVec.ofNat 8 (c / 256 ^ 2),
      BitVec.ofNat 8 (c / 256 ^ 3)] := rfl
  rw [e]
  simp only [natLE, BitVec.toNat_ofNat]
  omega

/-- Zero bytes in memory are zero bytes of the image. -/
theorem zeroSpan_of {m : List Host.Cell} {n lo hi : Nat} (h : hi ≤ n) (hz : ∀ k, lo ≤ k → k < hi → readByte m k = 0) :
    zeroSpan (readBytes m 0 n).toArray lo hi = true := by
  unfold zeroSpan
  simp only [List.all_eq_true, List.mem_range, beq_iff_eq]
  intro i hi'
  have h1 : lo + i < n := by omega
  have h2 := hz (lo + i) (by omega) (by omega)
  simp only [readBytes, List.getElem?_toArray, List.getElem?_map, List.getElem?_range h1, Option.map_some, Option.getD_some, Nat.zero_add]
  exact h2

/-- Memory that holds eight bytes at 0 and the CRC of a scan image of zeros after them. -/
def scanMem (hd : List Byte) : List Host.Cell :=
  writeBytes 0x3C (toLE 4 (crc32c (readBytes (writeBytes 0 hd []) 0 scanLen))) (writeBytes 0 hd [])

theorem scanMem_wf (hd : List Byte) : Memory.wf (scanMem hd) = true := writeBytes_wf (writeBytes_wf rfl)

variable {hd : List Byte} (h8 : hd.length = 8)

include h8

theorem readByte_head {k : Nat} : readByte (writeBytes 0 hd []) k = if k < 8 then (hd[k]?).getD 0 else 0 := by
  rw [readByte_writeBytes rfl, h8]
  simp [kvGet]

theorem readByte_scanMem {k : Nat} (hk : k < 0x3C ∨ 0x40 ≤ k) : readByte (scanMem hd) k = if k < 8 then (hd[k]?).getD 0 else 0 := by
  unfold scanMem
  have hl : ∀ c, (toLE 4 c).length = 4 := fun c => by simp [toLE]
  rw [readByte_writeBytes_out (writeBytes_wf rfl) (by rw [hl]; omega), readByte_head h8]

/-- The image with its CRC field taken as zero. -/
theorem scanMem_zeroed :
    (readBytes (scanMem hd) 0 scanLen).take 0x3C ++ [0, 0, 0, 0] ++ (readBytes (scanMem hd) 0 scanLen).drop 0x40
      = readBytes (writeBytes 0 hd []) 0 scanLen := by
  have e : scanLen = 0x3C + (4 + (scanLen - 0x40)) := by norm_num [scanLen]
  have h1 : (readBytes (scanMem hd) 0 scanLen).take 0x3C = readBytes (writeBytes 0 hd []) 0 0x3C := by
    have := readBytes_slice (m := scanMem hd) (a := 0) (n := scanLen) (o := 0) (k := 0x3C) (by norm_num [scanLen])
    rw [List.drop_zero] at this
    rw [this]
    refine readBytes_congr (fun i hi => ?_)
    rw [Nat.zero_add, readByte_scanMem h8 (by omega), readByte_head h8]
  have h2 : (readBytes (scanMem hd) 0 scanLen).drop 0x40 = readBytes (writeBytes 0 hd []) 0x40 (scanLen - 0x40) := by
    have := readBytes_slice (m := scanMem hd) (a := 0) (n := scanLen) (o := 0x40) (k := scanLen - 0x40) (by norm_num [scanLen])
    rw [List.take_of_length_le (by simp [readBytes])] at this
    rw [this]
    refine readBytes_congr (fun i hi => ?_)
    rw [readByte_scanMem h8 (by omega), readByte_head h8, Nat.zero_add]
  have h3 : readBytes (writeBytes 0 hd []) 0x3C 4 = [0, 0, 0, 0] := by
    simp only [readBytes, List.range_succ, List.range_zero, List.map_cons, List.map_nil, List.nil_append,
      List.cons_append, readByte_head h8]
    simp
  rw [h1, h2]
  conv_rhs => rw [e, readBytes_append, readBytes_append]
  rw [show (0 : Nat) + 0x3C = 0x3C from rfl, h3, show 0x3C + 4 = 0x40 from rfl]
  simp

/-- Such an image passes the first pass of a scan-in on a crag and configuration its first eight bytes name. -/
theorem scanMem_passes {s : State} {n : Crag} (hg : s.programOn n = none) (h0 : natLE (hd.take 4) = 0x314E4353) (h4 : natLE ((hd.drop 4).take 2) = 1)
    (h7 : natLE (hd.drop 7) = s.ma.crags[n].prog.toNat) (hid : s.cfg.loadId.toNat = 0) :
    scanInResult s n (readBytes (scanMem hd) 0 scanLen) false false = 0 := by
  have hb : ∀ k, (k < 0x3C ∨ 0x40 ≤ k) → readByte (scanMem hd) k = if k < 8 then (hd[k]?).getD 0 else 0 :=
    fun k hk => readByte_scanMem h8 hk
  have hz : ∀ k, 8 ≤ k → (k < 0x3C ∨ 0x40 ≤ k) → readByte (scanMem hd) k = 0 := by
    intro k h1 h2
    rw [hb k h2, if_neg (by omega)]
  have hs : ∀ o k, o + k ≤ scanLen → ((readBytes (scanMem hd) 0 scanLen).drop o).take k = readBytes (scanMem hd) o k := by
    intro o k h
    rw [readBytes_slice h, Nat.zero_add]
  have hhd : ∀ o k, o + k ≤ 8 → readBytes (scanMem hd) o k = (hd.drop o).take k := by
    intro o k h
    apply List.ext_getElem?
    intro i
    by_cases hi : i < k
    · have h1 : o + i < hd.length := by omega
      rw [readBytes_getElem? hi, hb _ (by omega), if_pos (by omega)]
      simp [hi, h1]
    · simp [readBytes, hi]
  have hc := crc32c_lt (readBytes (writeBytes 0 hd []) 0 scanLen)
  have hcrc : readBytes (scanMem hd) 0x3C 4 = toLE 4 (crc32c (readBytes (writeBytes 0 hd []) 0 scanLen)) := by
    apply List.ext_getElem?
    intro i
    have hl : ∀ c, (toLE 4 c).length = 4 := fun c => by simp [toLE]
    by_cases hi : i < 4
    · rw [readBytes_getElem? hi, scanMem, readByte_writeBytes (writeBytes_wf rfl), hl, if_pos (by omega), Nat.add_sub_cancel_left]
      rw [List.getElem?_eq_getElem (by rw [hl]; exact hi)]
      rfl
    · rw [List.getElem?_eq_none (by simp [readBytes]; omega), List.getElem?_eq_none (by rw [hl]; omega)]
  unfold scanInResult
  dsimp only
  rw [if_neg, if_neg, if_neg]
  · have n1 : scanLen = 1179648 := rfl
    rw [not_or]
    refine ⟨?_, ?_⟩
    on_goal 2 =>
      have hp : ∀ p : Pe, scanPeOk s n (readBytes (scanMem hd) 0 scanLen).toArray p = true := by
        intro p
        have hp' := p.isLt
        have hk : peBase p + 0xF5 + 0 < scanLen := by unfold peBase; omega
        have h8' : 0x40 ≤ peBase p + 0xF5 + 0 := by unfold peBase; omega
        have : ((readBytes (scanMem hd) 0 scanLen).toArray[peBase p + 0xF5 + 0]?).getD 0 = 0 := by
          rw [List.getElem?_toArray, readBytes_getElem? hk, Nat.zero_add, hz _ (by omega) (by omega)]
          rfl
        simp only [scanPeOk, hg, List.range_succ, List.range_zero, List.map_cons, List.map_nil, List.nil_append, this]
        rfl
      simp [hp]
    rw [Bool.not_eq_false]
    unfold scanStructOk
    have z : ∀ lo hi, hi ≤ scanLen → 8 ≤ lo → (hi ≤ 0x3C ∨ 0x40 ≤ lo) → zeroSpan (readBytes (scanMem hd) 0 scanLen).toArray lo hi = true :=
      fun lo hi h1 h2 h3 => zeroSpan_of h1 (fun k h4 h5 => hz k (by omega) (by omega))
    rw [z 0x11 0x3C (by omega) (by omega) (by omega), z 0x240 0x1000 (by omega) (by omega) (by omega),
      z 0x9000 0x10000 (by omega) (by omega) (by omega), z 0x11C200 scanLen (by omega) (by omega) (by omega)]
    simp only [Bool.true_and, List.all_eq_true, List.mem_range, Bool.and_eq_true, decide_eq_true_eq]
    intro p hp
    refine ⟨z _ _ (by omega) (by omega) (by omega), fun q hq => ?_⟩
    have hk : 0x1000 + 512 * p + 0xF0 + q / 2 < scanLen := by omega
    have : ((readBytes (scanMem hd) 0 scanLen).toArray[0x1000 + 512 * p + 0xF0 + q / 2]?).getD 0 = 0 := by
      rw [List.getElem?_toArray, readBytes_getElem? hk, Nat.zero_add, hz _ (by omega) (by omega)]
      rfl
    rw [this]
    split <;> decide
  · rw [not_or]
    refine ⟨by simp, ?_⟩
    rw [scanMem_zeroed h8, hs 0x3C 4 (by norm_num [scanLen]), hcrc, natLE_toLE4 hc]
    exact not_not.mpr rfl
  · have e7 : (hd.drop 7).take 1 = hd.drop 7 := List.take_of_length_le (by simp [h8])
    have e8 : readBytes (scanMem hd) 8 8 = List.replicate 8 0 := by
      apply List.ext_getElem?
      intro i
      by_cases hi : i < 8
      · rw [readBytes_getElem? hi, hz _ (by omega) (by omega)]
        rw [List.getElem?_replicate, if_pos hi]
      · simp [readBytes, hi]
    rw [hs 0 4 (by norm_num [scanLen]), hs 4 2 (by norm_num [scanLen]), hs 8 8 (by norm_num [scanLen]),
      hs 7 1 (by norm_num [scanLen]), hhd 0 4 (by omega), hhd 4 2 (by omega), hhd 7 1 (by omega), e7, e8, List.drop_zero]
    simp [h0, h4, h7, hid, natLE]

end Sys2Proof.Laws
end

