-- ==== Sys2Proof/Tests/Slice0.lean ====
section
/-! SUPPORT. Tests: the well-formedness checks, small steps whose results the spec gives, and for every statement with
hypotheses a state and operands that meet them. -/

namespace Sys2Proof.Tests

set_option Elab.async false

open Sys2Proof Sys2Proof.Machine Sys2Proof.Safety

/-! ### Small states -/

/-- Past RDY, no bit-stream loaded. -/
def up : State := { State.reset with
  pw := { State.reset.pw with rdy := true, phase := .ready, busy := false, causes := 0 }
  boot := { State.reset.boot with up := true } }

/-- Past RDY, with a bit-stream that configures nothing. -/
def ready : State := { up with cfg := { up.cfg with loaded := true } }

/-- The 64 bytes of a TRB: opcode, then fields as offset and value. -/
def trbOf (op : Nat) (fs : List (Nat × Nat)) : BitVec 512 :=
  BitVec.ofNat 512 (fs.foldl (fun n p => n + p.2 * 2 ^ (8 * p.1)) op)

def cmdOf (op : Nat) (fs : List (Nat × Nat)) : Cmd := { cid := 5, trb := trbOf op fs }

/-- A command whose checks have passed. -/
def startedOf (op : Nat) (fs : List (Nat × Nat)) : Cmd := { cmdOf op fs with started := true, atHead := true }

/-- Ring 0 holds one command. -/
def holding (c : Cmd) (s : State) : State := s.onRing 0 (fun x => { x with queue := [c] })

/-- One window of tenant 0 over the first 2 MiB pages. -/
def windowed (s : State) : State :=
  let w : WinEnt := { valid := true, inR := true, inW := true, hostOk := true, base := 0, size := 16 }
  { s with link := { s.link with wins := s.link.wins.set 0 w } }

/-- The state a command leaves; reset where it leaves none. -/
def after (i : Instr) (s : State) : State := match exec i s with | .next t => t | _ => State.reset

/-! ### Well-formedness: one ill-formed command for each check -/

theorem test_wf_access :
    (Instr.registerWrite 0x12000 64 0).wf = true ∧ (Instr.registerWrite 0x12000 3 0).wf = false
    ∧ (Instr.registerWrite 0x12004 8 0).wf = false ∧ (Instr.registerWrite 0x4000000 4 0).wf = false
    ∧ (Instr.readToClear 0x3FFFFFC 4).wf = true ∧ (Instr.readToClear 2 4).wf = false ∧ (Instr.readToClear 0 128).wf = false
    ∧ (Instr.readToClear 0x4000000 1).wf = false := by decide

theorem test_wf_bar2 :
    (Instr.bar2Read 0 true 4095 1 []).wf = true ∧ (Instr.bar2Read 0 true 4095 2 []).wf = false
    ∧ (Instr.bar2Read 0 true 0 0 []).wf = false ∧ (Instr.bar2Write 0 true 64 [] false).wf = false
    ∧ (Instr.bar2Write 0 true 4095 [1, 2] false).wf = false := by decide

theorem test_wf_others :
    (Instr.data {} 0 1 []).wf = false ∧ (Instr.unitOffline 77).wf = true ∧ (Instr.unitOffline 78).wf = false
    ∧ (Instr.unitOnline 78).wf = false ∧ (Instr.firmwareUpdateData 0 []).wf = false
    ∧ (Instr.sectorProgrammed 0 []).wf = false ∧ Instr.rdy.wf = true := by decide

theorem test_wf_lengths :
    (Instr.keyLoad 0 0 0 0 (List.replicate 4097 1)).wf = false ∧ (Instr.icmpEcho 0 false 0 0 (List.replicate 9001 1)).wf = false := by
  decide +kernel

/-- The table gives no row any bits: no word spells a command. -/
theorem test_no_words : decodeTableWord 8 0x40 = none := rfl

/-! ### The digests against published values -/

/-- FIPS 180-4: SHA-256 of "abc" begins ba7816bf. -/
theorem test_sha256_abc : (sha .sha256 [0x61, 0x62, 0x63]).take 4 = [0xBA, 0x78, 0x16, 0xBF] := by decide +kernel

/-- FIPS 180-4: SHA-384 of "abc" begins cb00753f. -/
theorem test_sha384_abc : (sha .sha384 [0x61, 0x62, 0x63]).take 4 = [0xCB, 0x00, 0x75, 0x3F] := by decide +kernel

/-- CRC-32C of "123456789" (R279). -/
theorem test_crc32c : crc32c [0x31, 0x32, 0x33, 0x34, 0x35, 0x36, 0x37, 0x38, 0x39] = 0xE3069283 := by decide +kernel

/-! ### Small steps whose results the spec gives -/

/-- R113: TAIL wraps at DEPTH and the write phase inverts. -/
theorem test_entry_wraps :
    let s := up.onRing 2 (fun x => { x with depth := 16, tail := 15, waiting := [{ tag := 7 }] })
    let t := after (.completionEntryWrite 2) s
    t.rings[(2 : Ring)].tail = 0 ∧ t.rings[(2 : Ring)].phase = false ∧ t.rings[(2 : Ring)].unconsumed = 1 := by decide +kernel

/-- R102: a TRB_GO while READY is 0 counts in TRB_LOST and nothing waits. -/
theorem test_trb_lost :
    let s := up.onRing 3 (fun x => { x with queue := List.replicate 256 (cmdOf 6 []) })
    let t := after (.trbGo 3 1) s
    t.rings[(3 : Ring)].lost = true ∧ t.rings[(3 : Ring)].lostCnt = 1 ∧ t.rings[(3 : Ring)].queue.length = 256 := by decide +kernel

/-- R147, R153: an add to the signal page's word for cairn 9 wraps modulo 2^32; a word of another layout is rejected. -/
theorem test_signal_wraps :
    let s := ready.onCairn 9 (fun x => { x with value := 0xFFFFFFFF })
    (after (.signalPageAdd 0 72 4 2) s).cairns[(9 : Cairn)].value = 1
    ∧ (after (.signalPageAdd 0 76 4 2) s).cairns[(9 : Cairn)].sigRej = 1 := by decide +kernel

/-- R44: before RDY a TRB_GO does nothing. -/
theorem test_trb_before_rdy :
    (after (.trbGo 3 1) State.reset).rings[(3 : Ring)].queue = [] ∧ (after (.trbGo 3 1) State.reset).rings[(3 : Ring)].lost = false := by
  decide +kernel

/-- R22: 100 µs of busy pass before RB_N is released. -/
theorem test_busy_holds :
    let s := { up with pw := { up.pw with busy := true, busySince := 3 } }
    let t := after .rbNBusyEnd s
    t.pw.busy = false ∧ t.now = 103 := by decide +kernel

/-- Table 21-2: the identification of the TAP. -/
theorem test_idcode : (after .tapIdcode up).bus = [.tdo 0x1B320B9F] := by decide +kernel

/-- R362: 119 W is refused and 120 W is taken. -/
theorem test_power_cap :
    (after (.setPowerCap 119) up).pw.mgmtCap = 240 ∧ (after (.setPowerCap 120) up).pw.mgmtCap = 120 := by decide +kernel

/-- R116: the sector staged is what staging memory held. -/
theorem test_write_sectors :
    let s := holding { startedOf 1 [(0x10, 4096), (0x18, 7), (0x20, 1), (0x24, 1)] with durable := false } (windowed ready)
    let s := { s with st := { s.st with mem := [(4096, 9), (8191, 3), (8192, 7)] } }
    let t := after (.writeSectors 0) s
    t.st.staged.map (fun g => (g.lba, (fld g.sec.data 0 8 : Byte), (fld g.sec.data (8 * 4095) 8 : Byte))) = [(7, 9, 3)] := by
  decide +kernel

/-! ### Witnesses: rings and completions -/

/-- Ring 0 with a completion ring of 16 entries and one entry waiting. -/
def entered : State := up.onRing 0 (fun x => { x with depth := 16, tail := 15, waiting := [{ tag := 9 }] })

theorem test_meets_invariants : MemoryOk State.reset ∧ MemoryOk up ∧ (up.pw.rdy = true → up.pw.phase = .ready)
    ∧ State.reset.pending = [] := by decide +kernel

theorem test_meets_trbGo : Pre.trbGo (up.onRing 0 (fun x => { x with depth := 16 })) 0 1
    ∧ Pre.trbGoAbort (up.onRing 0 (fun x => { x with depth := 16, trb := trbOf 0x30 [] })) 0 1 := by decide +kernel

theorem test_meets_lostTrbGo : up.pw.rdy = true ∧ bit (1 : Word) 0 = true
    ∧ (up.onRing 0 (fun x => { x with inReset := true })).readyBit 0 = false ∧ State.reset.pw.rdy = false
    ∧ bit (0 : Word) 0 = false := by decide +kernel

/-- Address translation is on; the completion ring's page has this state. -/
def translating (held asked denied : Bool) : State :=
  let k : Key := { ring := 0, tenant := 0 }
  { entered with link := { entered.link with
    atsEn := true
    atc := if held then [{ tenant := 0, pasid := none, addr := 0, log2 := 12, xaddr := 8192, read := true, write := true }] else []
    atsWait := if asked then [{ id := 1, key := k, addr := 0, write := true }] else []
    atsBad := if denied then [(k, 0, true, .noAccess)] else [] } }

theorem test_meets_entry : Pre.entry entered 0 { tag := 9 } [] ∧ entered.hostDenied 0 = false ∧ entered.link.atsEn = false
    ∧ Pre.entry (translating true false false) 0 { tag := 9 } []
    ∧ ((translating true false false).translated ((translating true false false).ringKey 0)
        (translating true false false).rings[(0 : Ring)].entryAddr true).isSome = true
    ∧ Pre.entry (translating false false true) 0 { tag := 9 } []
    ∧ (translating false false true).fate ((translating false false true).ringKey 0)
        (translating false false true).rings[(0 : Ring)].entryAddr true false = .fail .noAccess
    ∧ (let s := { entered with tenants := (entered.tenants.set 0 { valid := true, rings := 2 }).set 1 { valid := true, rings := 1 } }
       Pre.entry s 0 { tag := 9 } [] ∧ s.hostDenied 0 = true)
    ∧ Pre.entry (translating false false false) 0 { tag := 9 } []
    ∧ (translating false false false).fate ((translating false false false).ringKey 0)
        (translating false false false).rings[(0 : Ring)].entryAddr true false = .wait := by decide +kernel

/-- The conditions of ArrayAtRest, to be decided. -/
abbrev Quiet (s : State) : Prop :=
  (∀ w : Wheel, s.ma.wheels[w].en = true → s.ma.wheels[w].output = false ∧ s.ma.wheels[w].streams = []
    ∧ s.ma.wheels[w].held = [] ∧ s.ma.wheels[w].stallTag = false ∧ s.ma.wheels[w].stallSlot = false)
  ∧ (∀ e : Eng, ∀ j ∈ s.ma.rowan[e].queue, j.own.isSome = true)
  ∧ (∀ r : Ring, ∀ c ∈ s.rings[r].queue ++ s.rings[r].past, c.plan = [])
  ∧ (∀ n : Crag, s.hasPes n = false) ∧ ∀ l : Lane, s.ma.lanes[l].tapBuf = []

theorem atRest {s : State} (h : Quiet s) : ArrayAtRest s := ⟨h.1, h.2.1, h.2.2.1, h.2.2.2.1, h.2.2.2.2⟩

theorem test_meets_heads :
    let s := up.onRing 0 (fun x => { x with depth := 16, unconsumed := 16, dTail := 3 })
    s.pw.rdy = true ∧ s.cfg.loading = false ∧ 0 < s.rings[(0 : Ring)].depth.toNat
    ∧ (fld (15 : Word) 0 12).toNat < s.rings[(0 : Ring)].depth.toNat
    ∧ s.rings[(0 : Ring)].depth.toNat ≤ (fld (16 : Word) 0 12).toNat
    ∧ (s.rings[(0 : Ring)].dTail - s.rings[(0 : Ring)].dHead).toNat < (fld (0x400 : Word) 8 7 - s.rings[(0 : Ring)].dHead).toNat
    ∧ (fld (0x300 : Word) 8 7 - s.rings[(0 : Ring)].dHead).toNat ≤ (s.rings[(0 : Ring)].dTail - s.rings[(0 : Ring)].dHead).toNat
    ∧ (s.wd.eTail - s.wd.eHead).toNat < (fld (0x10000 : Word) 16 9 - s.wd.eHead).toNat
    ∧ (fld (0 : Word) 16 9 - s.wd.eHead).toNat ≤ (s.wd.eTail - s.wd.eHead).toNat := by decide +kernel

theorem test_meets_ringSetup : up.pw.rdy = true ∧ up.cfg.loading = false ∧ fld (15 : Word) 0 13 ≠ 0
    ∧ validDepth (fld (15 : Word) 0 13).toNat = false ∧ validDepth (fld (16 : Word) 0 13).toNat = true
    ∧ validDepth (fld (4096 : Word) 0 13).toNat = true ∧ validDepth (fld (8 : Word) 0 13).toNat = false
    ∧ (up.onRing 0 (fun x => { x with setup := some (1, 2, 16) })).rings[(0 : Ring)].idlePoint = true := by decide +kernel

/-- Ring 0 holds an ABORT_TAG that caught `c`. -/
def aborting (only : Bool) (c : Option Cmd) : State := up.onRing 0 (fun x => { x with aborts :=
  [{ cmd := cmdOf 0x30 [(0x10, 3)], found := c.isSome, caught := c, resetOnly := only }] })

theorem test_meets_abort :
    Pre.abort (aborting true none) 0 { cmd := cmdOf 0x30 [(0x10, 3)], resetOnly := true } []
    ∧ Pre.abort (aborting false none) 0 { cmd := cmdOf 0x30 [(0x10, 3)] } []
    ∧ Pre.abort (aborting false (some { cmdOf 0x05 [(2, 3)] with cid := 2 })) 0
      { cmd := cmdOf 0x30 [(0x10, 3)], found := true, caught := some { cmdOf 0x05 [(2, 3)] with cid := 2 } } [] := by
  decide +kernel

theorem test_meets_ringReset : Pre.ringReset up 0
    ∧ (let s := up.onRing 0 (fun x => { x with inReset := true })
       s.rings[(0 : Ring)].inReset = true ∧ programsRun s 0 = false ∧ s.rings[(0 : Ring)].setup = none
         ∧ s.rings[(0 : Ring)].dying = []) := by decide +kernel

theorem test_meets_stall :
    Pre.stall (up.onRing 0 (fun x => { x with depth := 16, stallFrom := some 3, queue := [cmdOf 5 [(0x14, 1)]] })) 0 3
      (cmdOf 5 [(0x14, 1)]) := by decide +kernel

/-! ### Witnesses: commands at the head -/

theorem test_meets_headChecks :
    let s := holding (cmdOf 3 [(0x10, 2)]) ready
    headCmd s 0 = some (cmdOf 3 [(0x10, 2)]) ∧ (cmdOf 3 [(0x10, 2)]).op = 3 ∧ headCheck s 0 (cmdOf 3 [(0x10, 2)]) ≠ none
    ∧ s.rings[(0 : Ring)].find 5 = some (cmdOf 3 [(0x10, 2)])
    ∧ wellFormedTrb (cmdOf 0x99 []).trb = false ∧ wellFormedTrb (cmdOf 5 [(0x14, 1)]).trb = true
    ∧ up.cfg.loaded = false ∧ preLoadOp (cmdOf 5 [(0x14, 1)]).op = false
    ∧ Started (holding (startedOf 6 []) ready) 0 (startedOf 6 []) 6
    ∧ ((headCheck s 0 (cmdOf 3 [(0x10, 2)])).any (fun o => !o.more && o.status != stDISCARDED)) = true := by decide +kernel

theorem test_meets_flushFence : Pre.flush (holding (cmdOf 3 []) up) 0 (cmdOf 3 [])
    ∧ Pre.fence (holding (cmdOf 4 []) up) 0 (cmdOf 4 []) ∧ (cmdOf 4 []).f 0x11 1 = 0
    ∧ Pre.fence (holding { cmdOf 4 [] with scopeBad := true } up) 0 { cmdOf 4 [] with scopeBad := true }
    ∧ Started (holding { startedOf 4 [] with scopeWait := [2] } up) 0 { startedOf 4 [] with scopeWait := [2] } 4
    ∧ (let s := up.onRing 0 (fun x => { x with depth := 16, waiting := [{ tag := 9, covers := [2] }], uncovered := [(2, 0), (3, 0)] })
       Pre.entry s 0 { tag := 9, covers := [2] } [] ∧ s.hostDenied 0 = false ∧ s.link.atsEn = false) := by
  decide +kernel

theorem test_meets_signal : Pre.signal (holding (cmdOf 5 [(0x14, 3)]) ready) 0 (cmdOf 5 [(0x14, 3)])
    ∧ Pre.signal ((holding (cmdOf 5 [(0x14, 3)]) ready).onRing 0 (fun x => { x with uncovered := [(2, 0)] })) 0
      (cmdOf 5 [(0x14, 3)])
    ∧ (∃ p ∈ ((holding (cmdOf 5 [(0x14, 3)]) ready).onRing 0 (fun x => { x with uncovered := [(2, 0)] })).rings[(0 : Ring)].uncovered,
        p.1 < (cmdOf 5 [(0x14, 3)]).cid) := by decide +kernel

theorem test_meets_wait :
    Pre.wait (holding (cmdOf 6 []) ready) 0 (cmdOf 6 []) ∧ classify 0 0 = .satisfied
    ∧ classify 0x80000000 0 = .outOfRange ∧ classify 0xBFFFFFFF 0 = .outOfRange ∧ classify 0xC0000000 0 = .satisfied
    ∧ classify 1 0 = .ahead 1 ∧ classify 0x7FFFFFFF 0 = .ahead 0x7FFFFFFF
    ∧ Pre.wait (holding (cmdOf 6 [(0x14, 0x80000000)]) ready) 0 (cmdOf 6 [(0x14, 0x80000000)])
    ∧ Pre.wait (holding (cmdOf 6 [(0x14, 1)]) ready) 0 (cmdOf 6 [(0x14, 1)]) := by decide +kernel

theorem test_meets_pendingWait :
    Pre.pendingWait (holding { cmdOf 6 [(0x14, 2)] with remaining := some 2 } ready) 0
      { cmdOf 6 [(0x14, 2)] with remaining := some 2 } 2 0 :=
  ⟨by decide +kernel, ⟨[], by decide +kernel⟩, by decide +kernel, by decide +kernel, by decide +kernel, by decide +kernel⟩

/-- Crag 3 runs a program. -/
def running3 : State := ready.onCrag 3 (fun x => { x with used := true, prog := 0 })

theorem test_meets_units : running3.unitRuns (.crag 3) = true ∧ running3.asleep (.crag 3) = false
    ∧ running3.pw.pstate = .active ∧ running3.cairns[(7 : Cairn)].owner = running3.unitTenant (.crag 3)
    ∧ ready.pw.rdy = true ∧ ready.cfg.loaded = true ∧ ready.cairns[(127 : Cairn)].owner = 0 := by decide +kernel

theorem test_meets_foreign :
    let s := (holding (cmdOf 5 [(0x14, 3)]) running3).onCairn 0 (fun x => { x with owner := 2 })
    s.cairns[(0 : Cairn)].owner ≠ 0 ∧ headCmd s 0 = some (cmdOf 5 [(0x14, 3)]) ∧ s.unitRuns (.crag 3) = true
    ∧ wellFormedTrb (cmdOf 5 [(0x14, 3)]).trb = true ∧ s.cairns[(0 : Cairn)].owner ≠ s.ringTenant 0 := by decide +kernel

/-- Cairn 4 owes a publication through ring 0, from a state of the translations. -/
def publishing (s : State) : State := s.onCairn 4 (fun x => { x with pubEn := true, pubOwed := true })

theorem test_meets_publication :
    (∀ s ∈ [publishing up, publishing (translating true false false), publishing (translating false false false),
        publishing (translating false false true)],
      s.pw.rdy = true ∧ s.cairns[(4 : Cairn)].pubEn = true ∧ s.cairns[(4 : Cairn)].pubOwed = true
        ∧ s.hostDenied s.cairns[(4 : Cairn)].pubRing = false)
    ∧ (publishing up).link.atsEn = false ∧ (publishing (translating true false false)).link.atsEn = true
    ∧ ((publishing (translating true false false)).translated ((publishing up).ringKey 0) 0 true).isSome = true
    ∧ (publishing (translating false false false)).fate ((publishing up).ringKey 0) 0 true false = .wait
    ∧ (publishing (translating false false true)).fate ((publishing up).ringKey 0) 0 true false = .fail .noAccess := by
  decide +kernel

/-! ### Witnesses: registers, link, power and resets -/

theorem test_meets_events :
    (up.wd.recent.any (fun x => x.1 == BitVec.ofNat 16 0x401 && x.2.1 == 0xFF && decide (up.now < x.2.2 + 1000))) = false
    ∧ up.wd.eTail - up.wd.eHead ≠ 256
    ∧ (let s := { up with wd := { up.wd with recent := [(0x401, 0xFF, 0)] } }
       s.wd.recent.any (fun x => x.1 == BitVec.ofNat 16 0x401 && x.2.1 == 0xFF && decide (s.now < x.2.2 + 1000)) = true)
    ∧ (let s := { up with wd := { up.wd with eTail := 256 } }
       s.wd.eTail - s.wd.eHead = 256) := by decide +kernel

/-- Ring 2 has an unconsumed entry and MSI-X is enabled, its vector unmasked. -/
def pendingVec : State :=
  let s := up.onRing 2 (fun x => { x with unconsumed := 1 })
  { s with link := { s.link with msixEn := true, msix := s.link.msix.set 2 { mask := false, pend := true } } }

theorem test_meets_attention : Pre.msix pendingVec 2 ∧ pendingVec.link.msix[(2 : Vec)].mask = false
    ∧ pendingVec.link.msix[(2 : Vec)].pend = true ∧ (∀ w : Vec, w ≠ 2 → pendingVec.link.msix[w].pend = false)
    ∧ pendingVec.pw.busy = false ∧ pendingVec.attnSum ≠ 0
    ∧ (let s := { up with pw := { up.pw with busy := true } }; s.pw.busy = true ∧ s.pw.causes = 0)
    ∧ State.reset.pw.busy = true ∧ State.reset.pw.causes ≠ 0 := by decide +kernel

/-- Tenant 1 is armed with NONCE 9, its unlock code 0x1234. -/
def armed1 : State :=
  let b : Sections := { tenants := [{ tenant := 1, unlock := 0x1234 }] }
  { ready with cfg := { ready.cfg with bs := b, arm := some 1, nonce := 9 } }

theorem test_meets_expert : Pre.unlock armed1 1 (0x1234 ^^^ 9) ∧ ¬ Pre.unlock armed1 1 0x1234
    ∧ ¬ Pre.unlock armed1 2 (0x1234 ^^^ 9) ∧ armed1.cfg.arm ≠ none ∧ (0 : BitVec 16) ≠ 0x5E7A
    ∧ (let s := { up with cfg := { up.cfg with pend := [(.depth 3, 5), (.stepCeil, 5)] } }
       s.pendOf (.depth 3) = some 5 ∧ s.wheelIdle 3 = true ∧ Quiet s ∧ s.pendOf .stepCeil = some 5
         ∧ s.scanning = false) := by decide +kernel

theorem test_meets_registers : Up ready ∧ ready.cfg.loaded = true ∧ inTrb 0x3000001 = false ∧ inPage 0x3000001 = false := by
  decide +kernel

theorem test_meets_windows :
    let e := winWrite 0 0x80000000 up.link.wins[(0 : Win)]
    let f := winWrite 0 0x80000000 (windowed up).link.wins[(0 : Win)]
    up.pw.rdy = true ∧ up.heldRes 3 = false ∧ MemoryOk up ∧ (windowed up).st.frozen = []
    ∧ winBad 0 e (up.link.wins.set 0 e).toList = true ∧ winBad 0 f ((windowed up).link.wins.set 0 f).toList = false
    ∧ backedPages (f :: (windowed up).link.wins.toList) - backedPages (windowed up).link.wins.toList
        ≤ (windowed up).poolFreeBlocks
    ∧ (windowed up).link.wins[(0 : Win)].valid = true ∧ coversPage (windowed up).link.wins.toList 15 = true
    ∧ coversPage (windowed up).link.wins.toList 16 = false := by decide +kernel

theorem test_meets_bar2 :
    Pre.bar2Write (windowed up) 0 true 64 [1, 2]
    ∧ bar2There (windowed up) 64 2 = true ∧ bar2There up 64 2 = true ∧ admitted up (bar2Off up 64) 2 0 true true = false
    ∧ admitted (windowed up) (bar2Off (windowed up) 64) 2 0 true false = true ∧ (windowed up).st.memBad = []
    ∧ admitted up (bar2Off up 64) 2 0 true false = false := by decide +kernel

theorem test_meets_page :
    let f : Frozen := { page := 3, map := 0 }
    let s := { windowed up with
      st := { up.st with frozen := [f] }, link := { (windowed up).link with bar2Wait := [(3 * winUnit + 8, [7, 8])] } }
    MemoryOk s ∧ Pre.page s 3 (3 * winUnit + 8) [7, 8] f := by decide +kernel

/-- A read of two beats in flight for command 5 of ring 0. -/
def reading : State :=
  let s := holding (startedOf 1 []) up
  { s with link := { s.link with reads := [{ tag := 4, key := {}, what := .cmd 5 0, addr := 0, beats := 2 }] } }

theorem test_meets_read :
    Pre.read reading 4 { tag := 4, key := {}, what := .cmd 5 0, addr := 0, beats := 2 } 5 (startedOf 1 [])
    ∧ ([0, 1] : List BeatBits).length = 2 := by decide +kernel

/-- One translation is asked for, overtaken by an invalidation where `stale`. -/
def asked (stale : Bool) : State :=
  { up with link := { up.link with atsEn := true, atsWait := [{ id := 3, key := {}, addr := 4096, write := false, stale := stale }] } }

theorem test_meets_translations :
    (∀ b, (asked b).pw.phase ≠ .holdUp ∧ (asked b).link.atc = [] ∧ ∃ q, (asked b).link.atsWait = [q] ∧ q.stale = b)
    ∧ (asked false).link.atsEn = true ∧ (asked false).link.reads = [] ∧ (asked false).link.atsInv = [] ∧ Quiet (asked false)
    ∧ up.pw.phase = .ready
    ∧ (let b := { State.reset with boot := { State.reset.boot with up := true } }
       b.pw.phase = .bringUp ∧ b.boot.up = true ∧ b.now < b.wd.since + 100000) := by
  refine ⟨fun b => ⟨by cases b <;> decide +kernel, by cases b <;> decide +kernel, _, rfl, rfl⟩, ?_⟩
  decide +kernel

theorem test_meets_capacity :
    up.boot.up = true ∧ up.pw.phase = .ready ∧ Quiet up ∧ linkMix 6 4 true 2 = true ∧ linkMix 6 4 false 2 = false
    ∧ linkMix 1 0 false 0 = true
    ∧ (let s := up.onArb 5 (fun a => { a with breach := true, okSince := some 4 })
       s.adm[(5 : Res)].okSince = some 4 ∧ s.adm[(5 : Res)].breach = true)
    ∧ fld (0x10000 : Word) 16 8 = up.adm[(5 : Res)].ent[(0 : Req)].weight
    ∧ fld (0x10001 : Word) 0 16 ≠ up.adm[(5 : Res)].ent[(0 : Req)].amount
    ∧ decideAmount up 0 5 1 ≠ .applied
    ∧ (let b : Sections := { opens := [{ field := .amount 0 5, lo := 0, hi := 9 }] }
       let s := { up with cfg := { up.cfg with bs := b, unlocked := 1 } }
       decideAmount s 0 5 1 = .applied) := by decide +kernel

theorem test_meets_power :
    Up up ∧ up.quiescent = true ∧ up.cragWork = false ∧ up.pw.stateReq = 1 ∧ up.pw.pstate = .active ∧ up.scanning = false
    ∧ up.pw.brake = false ∧ 130 ≤ up.pw.arrayV.toNat ∧ up.pw.arrayV.toNat ≤ 170
    ∧ (let s := { up with pw := { up.pw with reqPend := true, stepWant := some 1 } }
       s.pw.reqPend = true ∧ s.quiescent = true ∧ s.pw.stepWant = some 1)
    ∧ (let s := up.onCrag 0 (fun x => { x with scanBusy := true }); s.scanning = true)
    ∧ (holding (startedOf 6 []) ready).quiescent = false := by decide +kernel

/-- Crag 2 runs program 0 and the engine is in NAP. -/
def napping : State :=
  let b : Sections := { programs := [{ crag := 2, kind := .other, initial := [(0x40, 7)] }] }
  let s := ready.onCrag 2 (fun x => { x with used := true, prog := 0 })
  { s with cfg := { s.cfg with bs := b }, pw := { s.pw with pstate := .nap } }

theorem test_meets_nap : Up napping ∧ napping.pw.pstate = .nap ∧ (napping.programOn 2).isSome = true := by decide +kernel

theorem test_meets_holdUp :
    up.live = true ∧ (14001 : Int) > 14000 ∧ up.boot.up = true
    ∧ (let s := { State.reset with pw := { State.reset.pw with phase := .holdUp } }
       s.pw.phase = .holdUp ∧ s.st.staged = [] ∧ s.retPending = false) := by decide +kernel

theorem test_meets_resets :
    up.live = true ∧ up.st.staged = []
    ∧ (let s := { State.reset with pw := { State.reset.pw with phase := .inReset } }
       Pre.release s {})
    ∧ (let s := { State.reset with pw := { State.reset.pw with phase := .off } }; s.live = false ∧ s.pw.phase = .off)
    ∧ (let s := { State.reset with boot := { State.reset.boot with up := true } }
       s.pw.phase = .bringUp ∧ s.boot.up = true ∧ s.pw.aux ≠ .absent ∧ s.st.op.st ≠ 1 ∧ s.pw.holdupOk = false)
    ∧ ({ State.reset with pw := { State.reset.pw with holdupOk := true } } : State).pw.holdupOk = true := by decide +kernel

theorem test_meets_record :
    (let s := { up with
       boot := { up.boot with trial := true, bootB := true }, wd := { up.wd with confirmFrom := some 0 } }
     s.wd.confirmFrom = some 0 ∧ s.boot.trial = true ∧ s.boot.bootB = true ∧ s.pw.phase = .ready ∧ s.boot.slotA.st = 2)
    ∧ up.live = true ∧ fld (0xFAC60001 : Word) 16 16 ≠ 0xFAC7 ∧ bit (0xFAC70000 : Word) 0 = false
    ∧ retCtlRefused 0xFAC70001 up = false ∧ Up (up.onRing 0 (fun x => { x with stallMs := 7 }))
    ∧ (up.onRing 0 (fun x => { x with stallMs := 7 })).retPending = true := by decide +kernel

theorem test_meets_watchdog :
    Up up ∧ up.wd.token = (0 : Word) ∧ (1 : Word) ≠ up.wd.token ∧ up.wd.badTok = false ∧ up.wd.warn = false
    ∧ (let s := { up with wd := { up.wd with badTok := true } }; Up s ∧ s.wd.badTok = true ∧ s.st.staged = [])
    ∧ (let s := { State.reset with boot := { State.reset.boot with fails := 2 } }
       s.pw.phase = .bringUp ∧ s.pw.rdy = false ∧ s.boot.bootB = false ∧ s.boot.trial = false ∧ s.boot.update = .idle
         ∧ s.boot.fails = 2 ∧ s.st.staged = []) := by decide +kernel

/-! ### Witnesses: the store, snapshots and digests -/

/-- A WRITE_SECTORS of one sector from staging offset 4096, DURABLE or not. -/
def writing (d : Bool) : Cmd :=
  { startedOf 1 [(0x10, 4096), (0x18, 7), (0x20, 1), (0x24, 1)] with durable := d }

theorem test_meets_sectors :
    Pre.writeSectors (holding (writing false) (windowed ready)) 0 (writing false)
    ∧ Pre.writeSectors (holding (writing true) (windowed ready)) 0 (writing true)
    ∧ (let c := startedOf 2 [(0x10, 8192), (0x18, 7), (0x20, 1), (0x24, 1)]
       Pre.readSectors (holding c (windowed ready)) 0 c) := by decide +kernel

/-- One sector of ring 0 is staged, in program unit 3 or in none. -/
def draining (u : Option Nat) (acked : Bool) : State :=
  let s := ready.onRing 0 (fun x => { x with past := if acked then [] else [{ writing true with effect := true }] })
  { s with st := { s.st with staged := [{ src := .ring 0, cid := 5, lba := 7, sec := { data := 9 }, acked := acked, inUnit := u }] } }

theorem test_meets_drain :
    Pre.unitStart (draining none true) (.ring 0)
    ∧ Pre.programmed (draining (some 3) true) 3 { src := .ring 0, cid := 5, lba := 7, sec := { data := 9 }, acked := true, inUnit := some 3 } 0
    ∧ Pre.programmed (draining (some 3) false) 3 { src := .ring 0, cid := 5, lba := 7, sec := { data := 9 }, inUnit := some 3 } 0
    ∧ (draining (some 3) true).rings[(0 : Ring)].past = []
    ∧ (∃ c, (draining (some 3) false).rings[(0 : Ring)].past = [c] ∧ c.cid = 5 ∧ c.op = 1 ∧ c.effect = true ∧ c.failedLba = []
        ∧ c.badBeats = 0 ∧ c.badCause = none ∧ c.trunc = none) := by
  refine ⟨by decide +kernel, by decide +kernel, by decide +kernel, by decide +kernel, _, rfl, ?_⟩
  decide +kernel

/-- Ring 1 belongs to tenant 1, which has the extent of 64 MiB at LBA 262144 where `n` is 1. -/
def tenanted (n : BitVec 16) (s : State) : State :=
  { s with tenants := (s.tenants.set 0 { valid := true, rings := 1 }).set 1
             { valid := true, rings := 2, extBase := 1, extLen := n } }

/-- An upkeep operation of two units, one of them done. -/
def sanitising (done : Nat) (o : Option (Ring × Nat)) : State :=
  { ready with
    st := { ready.st with op := { st := 1, kind := 1, done := done, total := 2, owner := o }, vault := [(16384, { data := 3 })] }
    pw := { ready.pw with busy := true, causes := 8 } }

theorem test_meets_vault :
    Pre.vaultCmd ((tenanted 1 ready).onRing 1 (fun x => { x with queue := [cmdOf 0x41 []] })) 1 (cmdOf 0x41 []) 0x41
    ∧ ((tenanted 1 ready).onRing 1 (fun x => { x with queue := [cmdOf 0x41 []] })).ringTenant 1 ≠ 0
    ∧ Pre.vaultCmd (holding (cmdOf 0x41 []) ready) 0 (cmdOf 0x41 []) 0x41
    ∧ (holding (cmdOf 0x41 []) ready).ringTenant 0 = 0 ∧ ready.st.images = []
    ∧ Pre.vaultCmd ((tenanted 1 ready).onRing 1 (fun x => { x with queue := [cmdOf 0x42 []] })) 1 (cmdOf 0x42 []) 0x42
    ∧ ((tenanted 1 ready).extent 1).2 ≠ 0 ∧ ((tenanted 0 ready).extent 1).2 = 0
    ∧ Pre.vaultCmd ((tenanted 0 ready).onRing 1 (fun x => { x with queue := [cmdOf 0x42 []] })) 1 (cmdOf 0x42 []) 0x42 := by decide +kernel

theorem test_meets_vaultUnits :
    Pre.vaultUnit (sanitising 1 none) ∧ (sanitising 2 none).st.op.total ≤ (sanitising 2 none).st.op.done
    ∧ (let c := { startedOf 0x41 [] with units := 0 }
       let s := (sanitising 2 (some (0, 5))).onRing 0 (fun x => { x with past := [c] })
       s.rings[(0 : Ring)].find c.cid = some c ∧ c.trunc = none ∧ c.op = 0x41 ∧ s.st.op.bad = 0)
    ∧ ready.adm[(5 : Res)].breach = false := by decide +kernel

/-- A RESIDENT map of one tensor of four 4-byte elements, in one range. -/
def resMap (id : MapId) (base : Nat) : MapSec :=
  { id := id, slotBytes := 4096, stagingBases := some [base], tensors := [{ id := 1, ext := [4] }]
    pieces := [{ bext := [4] }], ranges := [{ len := 16 }] }

/-- A configuration of resident maps 0 and 1 with a packing and an unpacking program. -/
def mapped : State :=
  let b : Sections := {
    limits := { resident := true, level := 0 }
    maps := [resMap 0 0, resMap 1 8192]
    programs := [{ crag := 0, kind := .pack }, { crag := 1, kind := .unpack }] }
  let s := windowed ready
  let s := (s.onCrag 0 (fun x => { x with used := true, prog := 0 })).onCrag 1 (fun x => { x with used := true, prog := 1 })
  { s with cfg := { s.cfg with bs := b }, st := { s.st with mem := [(0, 1), (5, 2)] } }

/-- SNAP_BEGIN of image 7 over map 0. -/
def beginCmd : Cmd := startedOf 0x10 [(0x10, 1), (0x18, 7), (0x1C, 0), (0x1D, 0xFF), (0x1E, 1)]

/-- The same once the entries that waited on ring 0 are written. -/
def flushed (s : State) : State := s.onRing 0 (fun x => { x with waiting := [] })

/-- After SNAP_BEGIN, SNAP_RANGE holds the head. -/
def opened : State := holding (startedOf 0x11 [(0x10, 7), (0x14, 0), (0x20, 16)]) (flushed (after (.snapBegin 0) (holding beginCmd mapped)))

/-- After SNAP_RANGE, SNAP_SEAL holds the head. -/
def filled : State := holding (startedOf 0x12 [(0x10, 7)]) (flushed (after (.snapRange 0) opened))

/-- After SNAP_SEAL, RESTORE of the staging copy holds the head. -/
def sealed : State := holding (startedOf 0x13 [(0x10, 1), (0x18, 7), (0x1C, 0)]) (flushed (after (.snapSeal 0) filled))

theorem test_meets_snapBegin : Pre.snapBegin (holding beginCmd mapped) 0 beginCmd (resMap 0 0) := by decide +kernel

/-- A sector whose 64-bit words are zero but for those listed. -/
def sparseSec (ws : List (Nat × Nat)) : Sec := { data := BitVec.ofNat 32768 (ws.foldl (fun n p => n + p.2 * 2 ^ (64 * p.1)) 0) }

/-- Image 7 of map 0, SEALED: header, one chunk, manifest and digest tree. -/
def sealedImg : Image :=
  { tenant := 0, img := 7, map := some 0, sealed_ := true, inStage := true, step := 1, ranges := [{ isIn := true }]
    blocks := 1, area := 4, total := 4
    secs := [
      sparseSec [(0, 5122118210), (1, 4294967552), (2, 1), (3, 1), (4, 4), (5, 2), (6, 192), (7, 3), (8, 144), (9, 16),
        (18, 10831075060639442390), (19, 9934883957604590139), (20, 15821216708138562353), (21, 14374339054006386370),
        (22, 4124166544871368144), (23, 12118940677904070728), (511, 11285098433632796672)],
      sparseSec [(0, 3611376542), (1, 140737492549632), (2, 7354599573019325339), (3, 2199023255553)],
      sparseSec [(0, 5121658445), (1, 1), (2, 32), (3, 96), (4, 1), (5, 256), (6, 1), (8, 4), (12, 4294967296), (13, 1),
        (14, 1), (15, 16), (20, 4)],
      sparseSec [(0, 3332519733562210614), (1, 18084895045043649921), (2, 232577383912445340), (3, 7328815881920277403),
        (4, 17801523556760743120), (5, 9412017236660879334), (6, 17156464973378424980), (7, 15734315777514515145)]] }

def withImage (i : Image) (s : State) : State := { s with st := { s.st with images := [i] } }

/-- SNAP_RANGE of the one range of image 7. -/
def rangeCmd : Cmd := startedOf 0x11 [(0x10, 7), (0x14, 0), (0x20, 16)]

theorem test_meets_snapRange : Pre.snapRange opened 0 rangeCmd (openedImage (holding beginCmd mapped) 0 beginCmd (resMap 0 0)) {}
    (resMap 0 0) { len := 16 } :=
  ⟨by decide +kernel, by decide +kernel, by decide +kernel, atRest (by decide +kernel), by decide +kernel, by decide +kernel,
    by decide +kernel, by decide +kernel, by decide +kernel, by decide +kernel, by decide +kernel, by decide +kernel,
    by decide +kernel, Or.inl rfl, by decide +kernel, by decide +kernel, by decide +kernel⟩

/-- The same of a map whose slots lie in host memory, its one beat come. -/
def hostRangeCmd : Cmd :=
  { startedOf 0x11 [(0x10, 7), (0x14, 0), (0x18, 0x40000), (0x20, 16)] with plan := [0x40000], got := [(0, .ok 77)] }

def hostMap : MapSec := { resMap 0 0 with stagingBases := none }

def hostOpened : State :=
  let i : Image := { tenant := 0, img := 7, map := some 0, step := 1, ranges := [{}], blocks := 1, area := 5 }
  let s := holding hostRangeCmd mapped
  { s with cfg := { s.cfg with bs := { s.cfg.bs with maps := [hostMap] } }, st := { s.st with images := [i] } }

theorem test_meets_hostRange : Pre.snapRange hostOpened 0 hostRangeCmd
    { tenant := 0, img := 7, map := some 0, step := 1, ranges := [{}], blocks := 1, area := 5 } {} hostMap { len := 16 } :=
  ⟨by decide +kernel, by decide +kernel, by decide +kernel, atRest (by decide +kernel), by decide +kernel, by decide +kernel,
    by decide +kernel, by decide +kernel, by decide +kernel, by decide +kernel, by decide +kernel, by decide +kernel,
    by decide +kernel, by decide +kernel, by decide +kernel, by decide +kernel, by decide +kernel⟩

/-- An OPEN image of map 0 with its one range in. -/
def fullImg : Image := { tenant := 0, img := 7, map := some 0, step := 1, ranges := [{ isIn := true }], blocks := 1, area := 5 }

theorem test_meets_images :
    Pre.snapSeal (holding (startedOf 0x12 [(0x10, 7)]) (withImage fullImg mapped)) 0 (startedOf 0x12 [(0x10, 7)]) fullImg
    ∧ (let i : Image := { fullImg with sealed_ := true, inStage := true, secs := [{ data := 1, psn := 1 }, { data := 2 }], total := 2, lba := 100 }
       Pre.imageDurable (withImage i mapped) i) := by decide +kernel

/-- RESTORE of the staging copy of image 7 to map 0. -/
def restoring : Cmd := startedOf 0x13 [(0x10, 1), (0x18, 7), (0x1C, 0)]

set_option maxRecDepth 20000 in
theorem sealed_opens : (openImage sealedImg.secs).map (fun o => imageCompatible o.tensors (resMap 0 0)) = some true := by
  decide +kernel

theorem test_meets_restore :
    ∃ o, Pre.restore (holding restoring (withImage sealedImg mapped)) 0 restoring (resMap 0 0) sealedImg o
      ∧ MemoryOk (holding restoring (withImage sealedImg mapped)) := by
  obtain ⟨o, ho, hc⟩ := Option.map_eq_some_iff.mp sealed_opens
  have hf : (holding restoring (withImage sealedImg mapped)).image? 0 (BitVec.ofNat 32 7) = some sealedImg := by decide +kernel
  have hs : (holding restoring (withImage sealedImg mapped)).imageSecs sealedImg = sealedImg.secs := rfl
  have hr : restoreSecs (holding restoring (withImage sealedImg mapped)) restoring sealedImg = sealedImg.secs :=
    if_neg (by decide +kernel)
  refine ⟨o, ⟨by decide +kernel, by decide +kernel, by decide +kernel, by decide +kernel, by decide +kernel,
    by decide +kernel, by decide +kernel, by decide +kernel, by decide +kernel, ?_, by decide +kernel, by decide +kernel,
    by decide +kernel, by decide +kernel, by rw [hr]; exact ho, hc, by decide +kernel⟩, by decide +kernel⟩
  have e1 : BitVec.ofNat 32 (restoring.f 0x18 4) = BitVec.ofNat 32 7 := by decide +kernel
  have e2 : restoring.f 0x1D 1 = 0 := by decide +kernel
  have e3 : BitVec.ofNat 64 (restoring.f 0x10 8) = sealedImg.step := by decide +kernel
  have e4 : (holding restoring (withImage sealedImg mapped)).ringTenant 0 = 0 := by decide +kernel
  have e5 : (resMap 0 0).stagingBases.isNone = false := rfl
  have e6 : sealedImg.sealed_ = true := rfl
  have e7 : sealedImg.inStage = true := rfl
  simp [restoreCheck, e1, e2, e3, e4, e5, e6, e7, hf, hs, ho, hc]

/-- RESHARD from map 0 to map 1. -/
def resharding : Cmd := startedOf 0x14 [(0x10, 0), (0x11, 1)]

theorem test_meets_reshard :
    Pre.reshard (holding resharding mapped) 0 resharding (resMap 0 0) (resMap 1 8192)
    ∧ (holding resharding mapped).st.frozen = [] ∧ MemoryOk (holding resharding mapped)
    ∧ reshardHeld (holding resharding mapped) 0 (resMap 0 0) (resMap 1 8192) = false
    ∧ Pre.reshard (holding resharding opened) 0 resharding (resMap 0 0) (resMap 1 8192)
    ∧ reshardHeld (holding resharding opened) ((holding resharding opened).ringTenant 0) (resMap 0 0) (resMap 1 8192) = true := by
  refine ⟨by decide +kernel, by decide +kernel, by decide +kernel, by decide +kernel, by decide +kernel, by decide +kernel⟩

/-- DIGEST_VERIFY of 100 bytes of staging memory from offset 3, SHA-256, in DIGEST mode; lane 2 digests for commands. -/
def digesting : Cmd := startedOf 0x18 [(0x10, 1), (0x13, 0xFF), (0x18, 3), (0x20, 100)]

def laned (s : State) : State := s.onLane 2 (fun x => { x with owned := true, role := .command })

/-- The message of an ended DIGEST_VERIFY stands in context 1 of lane 2. -/
def digested : SloeMsg := { declared := 3, bytes := [1, 2, 3], ended := true, cid := some 5, ring := 0 }

/-- Context 1 of lane 2 holds a parked message of one block, the fields of the lane's SR_CTL open. -/
def parked (u : Byte) : State :=
  let b : Sections := { opens := [{ field := .srCtl 2, lo := 0, hi := 2 }] }
  let s := laned { ready with cfg := { ready.cfg with unlocked := u, bs := b }, ma := { ready.ma with srLen := 64 } }
  s.onCtx 2 1 (fun x => { x with msg := some { bytes := List.replicate 64 7, parked := true } })

def digestingPast : Cmd := { digesting with effect := true }

theorem test_meets_digestDone :
    Pre.digestDone (((laned ready).onRing 0 (fun x => { x with past := [digestingPast] })).onCtx 2 1
      (fun x => { x with msg := some digested })) 2 1 digested digestingPast :=
  ⟨by decide +kernel, by decide +kernel, by decide +kernel, by decide +kernel, by decide +kernel, atRest (by decide +kernel),
    by decide +kernel⟩

theorem test_meets_digests :
    Pre.digestVerify (holding digesting (laned (windowed ready))) 0 digesting 2 0
    ∧ (parked 0).pw.rdy = true ∧ (parked 0).cfg.loading = false ∧ (parked 0).isOpen (.srCtl 2) = true
    ∧ (parked 0).expert (parked 0).ma.lanes[(2 : Lane)].owner = false
    ∧ (parked 1).pw.rdy = true ∧ srDecide (parked 1) 2 1 = .applied ∧ srDecide (parked 1) 2 2 = .applied ∧ srCheck (parked 1) 2 1 = none
    ∧ ((parked 1).ma.lanes[(2 : Lane)].ctx[(1 : Ctx)].msg).any (fun m => decide (m.bytes.length % blockOf m.alg = 0)) = true
    ∧ (parked 1).ma.srLen.toNat % blockOf .sha256 = 0 := by
  refine ⟨by decide +kernel, ?_⟩
  decide +kernel

/-! ### Witnesses: loads, units and placement -/

/-- The bytes of a small container: LIMITS and TENANTS of eight bytes, an empty ADMISSION, a SIGNATURE of no chain. -/
def gsbBytes : List Byte :=
  bytesLE 280 (BitVec.ofNat 2240 (([(0, 0x31425347), (4, 1), (8, 64), (12, 4), (16, 280), (24, 0x32), (36, 64),
    (64, 1), (66, 1), (72, 160), (80, 8), (88, 2), (90, 1), (96, 168), (104, 8), (112, 0xF0), (114, 1), (120, 176),
    (136, 0xFF), (138, 1), (144, 176), (152, 104)] : List (Nat × Nat)).foldl (fun n p => n + p.2 * 2 ^ (8 * p.1)) 0))

/-- A bit-stream of one tenant with an initial cairn value. -/
def gsb : Gsb :=
  { contents := {
      tenants := [{ tenant := 0, rings := 0xFFFF }], limits := { cairnInit := [(3, 7)] }
      binding := ofBytes 384 (sha .sha384 (List.replicate 16 0)), totals := [0, 0, 0, 0, 0, 0, 0] } }

def loadCmd : Cmd := startedOf 0x40 [(0x18, 280)]

/-- The same once the five beats of its container have come, the first byte of the container this one. -/
def fetchedCmd (first : Byte) : Cmd :=
  { loadCmd with
    plan := [0, 64, 128, 192, 256]
    got := (List.range 5).map (fun i => (i, .ok (ofBytes 512 (((first :: gsbBytes.drop 1).drop (64 * i)).take 64)))) }

/-- Every beat has come without poison, from a comparison Lean can decide. -/
theorem all_ok {c : Cmd} {n : Nat}
    (h : (List.range n).all (fun i => match gotAt c i with | some (.ok _) => true | _ => false) = true) :
    ∀ i < n, ∃ d, gotAt c i = some (.ok d) := by
  intro i hi
  have := List.all_eq_true.mp h i (List.mem_range.mpr hi)
  revert this
  cases gotAt c i with
  | none => simp
  | some g => cases g <;> simp

theorem fetched_ok (b : Byte) : Pre.fetched (holding (fetchedCmd b) up) 0 (fetchedCmd b) :=
  ⟨by decide +revert +kernel, by decide +revert +kernel, by decide +revert +kernel, by decide +revert +kernel,
    by decide +revert +kernel, all_ok (by decide +revert +kernel), by decide +revert +kernel⟩

/-- Crag 4 of tenant 0 is suspended and its tenant is at EXPERT level, SUSPEND and SCAN_OP open. -/
def scannable (base : Word) (s : State) : State :=
  let b : Sections := { opens := [{ field := .suspend 4, lo := 0, hi := 1 }, { field := .scanOp 4, lo := 0, hi := 2 }] }
  let s := s.onCrag 4 (fun x => { x with used := true, prog := 0, suspended := true, scanAddr := base })
  { s with cfg := { s.cfg with bs := b, unlocked := 1 } }

theorem test_meets_load :
    (let s := holding (fetchedCmd 0x47) up
     loadErrOf s.fwVer (fetchedBytes (fetchedCmd 0x47)) false gsb = none
       ∧ overCapacity s (knownPart (fetchedBytes (fetchedCmd 0x47)) gsb.contents) = none ∧ gsb.loadFails = []
       ∧ s.wd.powerFenced = [] ∧ (∀ n : Crag, s.ma.crags[n].fenced = false) ∧ s.cfg.mgmtOff = [])
    ∧ loadErrOf (holding (fetchedCmd 0) up).fwVer (fetchedBytes (fetchedCmd 0)) false gsb = some 3
    ∧ (let s := (tenanted 1 up).onRing 1 (fun x => { x with queue := [loadCmd] })
       Started s 1 loadCmd 0x40 ∧ s.rings[(1 : Ring)].find loadCmd.cid = some loadCmd ∧ loadCmd.plan = [] ∧ s.ringTenant 1 ≠ 0)
    ∧ (let s := (holding loadCmd up).onRing 2 (fun x => { x with queue := [{ cmdOf 6 [] with cid := 6 }] })
       Started s 0 loadCmd 0x40 ∧ s.rings[(0 : Ring)].find loadCmd.cid = some loadCmd ∧ s.ringTenant 0 = 0
         ∧ loadQuiet s loadCmd.cid = false) := by
  refine ⟨by decide +kernel, by decide +kernel, by decide +kernel, by decide +kernel⟩

theorem test_meets_admin : Pre.admin (holding (startedOf 0x4F [(0x10, 3), (0x18, 4096)]) ready) 0 (startedOf 0x4F [(0x10, 3), (0x18, 4096)]) := by
  decide +kernel

/-- A transfer of one element from staging offset 64 to 128. -/
def oneXfer : RowanXfer := { x := { rd := { base := 64 }, wd := { base := 128 } } }

/-- Engine 1 heads that transfer, the tenant's window behind it. -/
def moving : State :=
  { windowed ready with ma := { ready.ma with rowan := ready.ma.rowan.set 1 { queue := [oneXfer] } } }

theorem test_meets_rowan : Pre.rowan moving 1 oneXfer []
    ∧ oneXfer.x.rd.ext = [1] ∧ oneXfer.x.wd.ext = [1] ∧ oneXfer.x.rd.esize = oneXfer.x.wd.esize
    ∧ inWindows moving (moving.ringTenant oneXfer.x.ring) oneXfer.x.rd.base (Desc.size oneXfer.x.rd) = true
    ∧ inWindows moving (moving.ringTenant oneXfer.x.ring) oneXfer.x.wd.base (Desc.size oneXfer.x.wd) = true :=
  ⟨⟨by decide +kernel, by decide +kernel, by decide +kernel, by decide +kernel, by decide +kernel, by decide +kernel,
    by decide +kernel, by decide +kernel, by decide +kernel, atRest (by decide +kernel), by decide +kernel⟩, by decide +kernel⟩

theorem test_meets_engines :
    (let s := { up with ma := { up.ma with orcInv := 2 } }; bit s.ma.orcInv 1 = true ∧ s.pw.phase ≠ .holdUp)
    ∧ (let s := up.onWheel 5 (fun x => { x with drainHold := true })
       s.ma.wheels[(5 : Wheel)].drainHold = true ∧ drained s 5 = true ∧ Quiet s) := by decide +kernel

theorem test_meets_gates :
    (let s := up.onCrag 4 (fun x => { x with used := true })
     s.ma.crags[(4 : Crag)].used = true ∧ s.ma.crags[(4 : Crag)].keep = false ∧ s.ma.crags[(4 : Crag)].clkGate = false
       ∧ s.ma.crags[(4 : Crag)].pwrGate = false ∧ s.ma.crags[(5 : Crag)].used = false)
    ∧ (let s := laned up
       (∃ l : Lane, s.ma.lanes[l].owned = true ∧ s.ma.lanes[l].keep = false ∧ bit (4 : Word) l.val = true
           ∧ bit s.cfg.laneGate l.val = false)
         ∧ ∀ l : Lane, s.ma.lanes[l].owned = false ∨ (bit (8 : Word) l.val = false ∧ bit (8 : Word) (16 + l.val) = false))
    ∧ (let s := { up with ma := { up.ma with keys := up.ma.keys.set 31 { loaded := true } } }
       (∃ k : KSlot, s.ma.keys[k].loaded = true ∧ s.ma.keys[k].keep = false ∧ bit (0x80000000 : Word) k.val = true
           ∧ bit s.cfg.slotGate k.val = false)
         ∧ ∀ k : KSlot, (s.ma.keys[k].given = none ∧ s.ma.keys[k].loaded = false) ∨ bit (1 : Word) k.val = false)
    ∧ (∀ u ∈ [KeepUnit.crag 4, .lane 3, .slot 7],
       let s := { up with cfg := { up.cfg with holds := [(u, 3)] } }
       s.pw.rdy = true ∧ (∃ h ∈ s.cfg.holds, h.1 = u) ∧ s.ma.keys[(7 : KSlot)].loaded = false ∧ s.pw.phase ≠ .holdUp
         ∧ s.cfg.holds = [(u, 3)]) := by decide +kernel

theorem test_meets_scans :
    (let s := up.onCrag 4 (fun x => { x with keep := true }); s.ma.crags[(4 : Crag)].closed = some 7 ∧ s.cfg.loading = false)
    ∧ (let s := up.onCrag 4 (fun x => { x with scanBusy := true }); s.ma.crags[(4 : Crag)].closed = some 1)
    ∧ (let s := scannable 0 ready
       s.ma.crags[(4 : Crag)].closed = none ∧ decideSuspend s 4 true = .applied ∧ decideSuspend s 4 false = .applied ∧ Quiet s)
    ∧ decideSuspend ready 4 true ≠ .applied
    ∧ (let s := (scannable 0 ready).onCrag 4 (fun x => { x with suspended := false })
       Pre.scan s 4 1 ∧ s.ma.crags[(4 : Crag)].suspended = false)
    ∧ (let s := scannable 0 ready; Pre.scan s 4 1 ∧ s.ma.crags[(4 : Crag)].suspended = true ∧ scanFits s 4 = false)
    ∧ (let s := scannable 0 (windowed ready); Pre.scan s 4 1 ∧ Pre.scan s 4 2 ∧ scanFits s 4 = true) := by decide +kernel

/-- Crag 4 runs a program at rest and has had 16 corrected errors within a second. -/
def erring : State := ready.onCrag 4 (fun x => { x with used := true, prog := 0, rest := true, ceAt := List.replicate 16 0 })

theorem test_meets_placement :
    Pre.move erring 4 3 .errors
    ∧ Pre.move (ready.onCrag 4 (fun x => { x with used := true, prog := 0, rest := true })) 4 3 (.heat 111 101 100)
    ∧ (let s := ready.onCrag 4 (fun x => { x with used := true, prog := 0, rest := true })
       Pre.move { s with cfg := { s.cfg with mgmtOff := [4] }, pw := { s.pw with placeEn := false } } 4 3 .offline)
    ∧ Quiet erring ∧ Up up ∧ Quiet up ∧ (0xBF : BitVec 8).toNat < 0xC0 ∧ 7 ∉ up.st.memBad
    ∧ up.ma.crags[(31 : Crag)].fenced = false ∧ (31 : BitVec 8).toNat = (31 : Crag).val := by decide +kernel


/-- Crag 4, suspended, at a scan of this kind, over a staging memory; its image stands from offset 0 of the tenant's window. -/
def scanningOver (op : BitVec 2) (m : List Host.Cell) : State :=
  let s := (scannable 0 (windowed ready)).onCrag 4 (fun x => { x with scanBusy := true, scanOp := op })
  { s with st := { s.st with mem := m } }

/-- The tenant's window backs every offset below 32 MiB. -/
theorem scanningOver_inWindows (op : BitVec 2) (m : List Host.Cell) {a n : Nat} (h : a + n ≤ 33554432) :
    inWindows (scanningOver op m) 0 a n = true := by
  have hw : ((scanningOver op m).link.wins.toList.filter (fun w => w.valid && w.tenant == 0)).map
      (fun w => (w.base.toNat * winUnit, (w.base.toNat + w.size.toNat) * winUnit)) = [(0, 33554432)] := by
    rw [show (scanningOver op m).link = (windowed ready).link from rfl]
    decide +kernel
  unfold inWindows
  rw [hw]
  dsimp only
  rw [inWindows.walk]
  split
  · rfl
  · have h1 : decide (0 ≤ a ∧ a < 33554432) = true := by simp; omega
    simp only [List.find?_cons, h1]
    rw [inWindows.walk, if_pos h]

def scanHd : List Byte := [0x53, 0x43, 0x4E, 0x31, 1, 0, 4, 0]

theorem test_meets_scanOut :
    Pre.scanEnds (scanningOver 1 []) 4 1 ∧ (scanningOver 1 []).st.frozen = []
    ∧ (∀ k, k < scanLen / 64 → inWindows (scanningOver 1 []) (scanningOver 1 []).ma.crags[(4 : Crag)].tenant
        ((scanningOver 1 []).ma.crags[(4 : Crag)].scanAddr.toNat * 4096 + 64 * k) 64 = true)
    ∧ (scanningOver 1 []).ma.crags[(4 : Crag)].fenced = false ∧ (scanningOver 1 []).ma.crags[(4 : Crag)].keep = false := by
  have ht : (scanningOver 1 []).ma.crags[(4 : Crag)].tenant = 0 := by decide +kernel
  have ha : (scanningOver 1 []).ma.crags[(4 : Crag)].scanAddr.toNat * 4096 = 0 := by decide +kernel
  refine ⟨by decide +kernel, by decide +kernel, fun k hk => ?_, by decide +kernel, by decide +kernel⟩
  rw [ht, ha]
  exact scanningOver_inWindows 1 [] (by simp only [scanLen] at hk; omega)

/-- What a scan-in over this memory reads. -/
theorem scanSource_over (m : List Host.Cell) : scanSource (scanningOver 2 m) 4 = (readBytes m 0 scanLen, false) := by
  have hm : (scanningOver 2 m).ma = (scanningOver 2 []).ma := rfl
  have ht : (scanningOver 2 []).ma.crags[(4 : Crag)].tenant = 0 := by decide +kernel
  have ha : (scanningOver 2 []).ma.crags[(4 : Crag)].scanAddr.toNat * 4096 = 0 := by decide +kernel
  have hd : (scanningOver 2 []).ma.crags[(4 : Crag)].scanDebug = false := by decide +kernel
  have hb : (scanningOver 2 m).st.memBad = [] := rfl
  unfold scanSource
  dsimp only
  rw [hm, hd, ha, ht, hb]
  simp only [Bool.false_eq_true, if_false, Prod.mk.injEq]
  refine ⟨rfl, ?_⟩
  rw [List.any_eq_false]
  intro i hi
  have hl := List.mem_range.mp hi
  rw [scanningOver_inWindows 2 m (by simp only [scanLen] at hl; omega)]
  simp

theorem test_meets_scanIn :
    Pre.scanEnds (scanningOver 2 (Laws.scanMem scanHd)) 4 2
    ∧ scanInResult (scanningOver 2 (Laws.scanMem scanHd)) 4 (scanSource (scanningOver 2 (Laws.scanMem scanHd)) 4).1
        (scanSource (scanningOver 2 (Laws.scanMem scanHd)) 4).2 false = 0 := by
  refine ⟨⟨rfl, by decide +kernel, by decide +kernel, by decide +kernel, Laws.scanMem_wf _⟩, ?_⟩
  rw [scanSource_over]
  dsimp only
  exact Laws.scanMem_passes rfl (by decide +kernel) (by decide) (by decide) (by decide +kernel) (by decide +kernel)

theorem test_meets_scanInFails :
    Pre.scanEnds (scanningOver 2 []) 4 2
    ∧ scanInResult (scanningOver 2 []) 4 (scanSource (scanningOver 2 []) 4).1 (scanSource (scanningOver 2 []) 4).2 false ≠ 0 := by
  refine ⟨by decide +kernel, ?_⟩
  have h : natLE (((readBytes [] 0 scanLen).drop 0).take 4) = 0 := by
    rw [Laws.readBytes_slice (by norm_num [scanLen])]
    decide
  rw [scanSource_over]
  dsimp only
  generalize readBytes [] 0 scanLen = image at h ⊢
  unfold scanInResult
  dsimp only
  rw [if_pos (Or.inl (by rw [h]; decide))]
  decide

/-! ### Witnesses: the Pair link -/

/-- Entry 1 is VALID, with a session in state `x`; port 0 is up with an address. -/
def linked (x : Sess) (s : State) : State :=
  let c : PeerCfg := { valid := true, ward := true, buddy := true, take := true, liveMs := 100, engineId := 77, addr := 9 }
  let s := s.onPeer 1 (fun p => { p with cfg := c, sess := x, nonce := 8, peerNonce := some 3 })
  { s with pair := { s.pair with ports := s.pair.ports.set 0 { up := true, ip4 := 5 } } }

/-- The header of a packet of entry 1's session. -/
def fromPeer (psn : Word) : PairRx := { srcId := 77, srcAddr := 9, session := 8, psn := psn, cumAck := 2 }

/-- That header on the packet of a row, its CRC right. -/
def pkt (psn : Word) (i : PairRx → Instr) : PairRx :=
  { fromPeer psn with crc := pairCrc (fromPeer psn) (pairFrame (i (fromPeer psn))).1 (pairFrame (i (fromPeer psn))).2 }

/-- A row's packet is the next one of entry 1's session. -/
abbrev Next (s : State) (i : PairRx → Instr) : Prop := Pre.inOrder s (pkt 0 i) 1 (i (pkt 0 i))

/-- Entry 1's session takes the packet with the next PSN. -/
abbrev Takes (s : State) : Prop :=
  Pre.frame s (fromPeer 0) 1 ∧ s.pair.peers[(1 : Peer)].nonce = 8 ∧ s.pair.peers[(1 : Peer)].sess ≠ .down
    ∧ s.pair.peers[(1 : Peer)].sess ≠ .gone ∧ s.pair.peers[(1 : Peer)].rxPsn = 0 ∧ s.pair.peers[(1 : Peer)].rxAhead = []
    ∧ s.pair.peers[(1 : Peer)].unacked < 31

theorem pkt_sound {psn : Word} {i : PairRx → Instr} (h : ∀ x y, pairFrame (i x) = pairFrame (i y)) :
    pairSound (pkt psn i) (pairFrame (i (pkt psn i))) = true := by
  rw [h (pkt psn i) (fromPeer psn)]
  simp [pairSound, pkt, pairCrc, fromPeer]

theorem next_of {s : State} {i : PairRx → Instr} (h : ∀ x y, pairFrame (i x) = pairFrame (i y)) (t : Takes s) : Next s i :=
  ⟨⟨t.1, pkt_sound h, t.2.1.symm, t.2.2.1, t.2.2.2.1⟩, t.2.2.2.2.1.symm, t.2.2.2.2.2.1, t.2.2.2.2.2.2⟩

/-- A packet's bytes: Table 16-5 in big-endian order, and the CRC-32C over header and payload. -/
theorem test_pair_header : (pairBytes (fromPeer 0x01020304) 0x11 [7, 8]).take 24
    = ([0x5A, 0x50, 1, 0x11, 0, 0, 0, 8, 0, 0, 0, 0, 0, 0, 0, 77, 1, 2, 3, 4, 0, 2, 0, 0] : List Byte) := by decide +kernel

theorem test_meets_frames :
    Pre.accepted (linked .up ready) (pkt 0 .heartbeat) 1 (.heartbeat (pkt 0 .heartbeat))
    ∧ Pre.frame (linked .up ready) (fromPeer 0) 1 ∧ pairSound (fromPeer 0) (pairFrame (.heartbeat (fromPeer 0))) = false
    ∧ Pre.frame (linked .up ready) { pkt 0 .heartbeat with session := 9 } 1
    ∧ ({ pkt 0 .heartbeat with session := 9 } : PairRx).session ≠ (linked .up ready).pair.peers[(1 : Peer)].nonce
    ∧ Up (linked .up ready) ∧ (linked .up ready).cfg.loading = false
    ∧ pairEntry (linked .up ready) { fromPeer 0 with srcAddr := 10 } = none
    ∧ (linked .up ready).pair.ports[(0 : PPort)].up = true ∧ (linked .up ready).pair.peers[(1 : Peer)].cfg.valid = true := by
  decide +kernel

theorem test_meets_reliable : Reliable (fromPeer 0) (.refuse (fromPeer 0) 4 0x60) :=
  Or.inr (Or.inr (Or.inl ⟨4, 0x60, rfl⟩))

theorem test_meets_order :
    let i : PairRx → Instr := fun x => .refuse x 4 0x60
    Next (linked .up ready) i
    ∧ Pre.accepted (linked .up ready) (pkt 0xFFFFFFFF i) 1 (i (pkt 0xFFFFFFFF i))
    ∧ psnLt (pkt 0xFFFFFFFF i).psn (linked .up ready).pair.peers[(1 : Peer)].rxPsn = true
    ∧ (linked .up ready).pair.peers[(1 : Peer)].unacked < 31
    ∧ Pre.accepted (linked .up ready) (pkt 1 i) 1 (i (pkt 1 i))
    ∧ (linked .up ready).pair.peers[(1 : Peer)].rxAhead = []
    ∧ (pkt 1 i).psn ≠ (linked .up ready).pair.peers[(1 : Peer)].rxPsn
    ∧ psnLt (pkt 1 i).psn (linked .up ready).pair.peers[(1 : Peer)].rxPsn = false
    ∧ (let s := (linked .up ready).onPeer 1 (fun p => { p with unacked := 31 })
       Pre.accepted s (pkt 0xFFFFFFFF i) 1 (i (pkt 0xFFFFFFFF i))
         ∧ psnLt (pkt 0xFFFFFFFF i).psn s.pair.peers[(1 : Peer)].rxPsn = true ∧ s.pair.peers[(1 : Peer)].unacked = 31)
    ∧ Pre.frame (linked .up ready) (fromPeer 0) 1 ∧ pairSound (fromPeer 0) (pairFrame (i (fromPeer 0))) = false := by
  decide +kernel

/-- Entry 1 sends image 7 of tenant 0, of four sectors, for PAIR_SYNC of ring 0. -/
def sending (op : Nat) : State :=
  let s := (linked .up (withImage sealedImg mapped)).onRing 0 (fun x => { x with past := [{ startedOf op [] with effect := true }] })
  let secs : List (Nat × Sec) := [(0, { data := 1 }), (1, { data := 2 }), (2, { data := 3 }), (3, { data := 4 })]
  let y : Transfer := { xfer := 4, sending := true, step := 1, img := 7, tenant := 0, total := 4, owner := some (0, 5) }
  s.onPeer 1 (fun p => { p with xfers := [{ y with opened := true, secs := secs }] })

/-- Entry 1 receives an image of four sectors. -/
def receiving : State := (linked .up ready).onPeer 1 (fun p => { p with xfers := [
  { xfer := 4, sending := false, step := 1, img := 7, tenant := 0, total := 4, opened := true, accepted := true }] })

/-- Lane 3 snoops what the Pair link receives. -/
def rxLaned (s : State) : State := s.onLane 3 (fun x => { x with owned := true, role := .snoop, snoops := [{ tap := .pairRx }] })

/-- Entry 1, its configuration changed. -/
def peering (g : PeerCfg → PeerCfg) : State := (linked .up ready).onPeer 1 (fun p => { p with cfg := g p.cfg })

theorem test_meets_offers :
    let i : PairRx → Instr := fun x => .offer x 4 7 1 4 .sha256 false 0
    let s := peering (fun c => { c with ward := false })
    let t := rxLaned (linked .up ready)
    Next s i ∧ (s.pair.peers[(1 : Peer)].xferOf 4 false).isNone = true ∧ s.st.op.st ≠ 1 ∧ s.pair.peers[(1 : Peer)].cfg.ward = false
    ∧ Next t i ∧ (t.pair.peers[(1 : Peer)].xferOf 4 false).isNone = true ∧ t.st.op.st ≠ 1
    ∧ t.pair.peers[(1 : Peer)].cfg.ward = true ∧ t.pair.peers[(1 : Peer)].fencedOut = false ∧ t.copiesOf 1 = []
    ∧ t.rxLane.isSome = true ∧ ceilDiv 4 512 ≤ t.poolFreeBlocks ∧ t.pair.peers[(1 : Peer)].cfg.drain = false := by decide +kernel

/-- The same, the transfer accepted. -/
def sendingOn : State :=
  (sending 0x20).onPeer 1 (fun p => { p with xfers := p.xfers.map (fun y => { y with accepted := true }) })

theorem test_meets_transfers :
    (Next (sending 0x20) (fun x => .accept x 4) ∧ Next (sending 0x20) (fun x => .refuse x 4 0x60)
      ∧ Next (sending 0x20) (fun x => .held x 4 false 1) ∧ Next sendingOn (fun x => .resend x 4 1 2)
      ∧ Next receiving (fun x => .data x 4 3 [{}]))
    ∧ ((sending 0x20).pair.peers[(1 : Peer)].xferOf 4 true).map (fun y => (y.accepted, y.owner, y.fetchReply))
        = some (false, some (0, 5), false)
    ∧ (sendingOn.pair.peers[(1 : Peer)].xferOf 4 true).map (fun y => (y.accepted, y.total)) = some (true, 4)
    ∧ ((sending 0x20).rings[(0 : Ring)].find 5).any (fun c => c.op == 0x20 && c.trunc.isNone && c.badBeats == 0) = true
    ∧ (sending 0x20).image? 0 7 = some sealedImg
    ∧ (receiving.pair.peers[(1 : Peer)].xferOf 4 false).map (fun y => (y.accepted, y.sec? 0, y.total)) = some (true, none, 4)
    ∧ ((1 : Nat) ≤ 3 ∧ ([{}] : List Sec).length ≤ 2 ∧ 3 + ([{}] : List Sec).length ≤ 4) :=
  ⟨⟨next_of (fun _ _ => rfl) (by decide +kernel), next_of (fun _ _ => rfl) (by decide +kernel),
    next_of (fun _ _ => rfl) (by decide +kernel), next_of (fun _ _ => rfl) (by decide +kernel),
    next_of (fun _ _ => rfl) (by decide +kernel)⟩, by decide +kernel⟩

/-- Cairn 127 is another tenant's. -/
def foreign127 : State := (linked .up ready).onCairn 127 (fun x => { x with owner := 2 })

/-- Two signals of entry 1 wait for their SIG_ACK. -/
def signalled : State := (linked .up ready).onPeer 1 (fun p => { p with sigWait := [6, 7] })

/-- The engine holds a copy for entry 1's engine. -/
def copied : State := linked .up { ready with st := { ready.st with copies := [{ peer := 1, owner := 77, step := 6, total := 4 }] } }

theorem test_meets_pairSignals :
    (Next (linked .up ready) (fun x => .pairSignalReceive x 127 1 6) ∧ Next foreign127 (fun x => .pairSignalReceive x 127 1 6)
      ∧ Next (linked .up up) (fun x => .pairSignalReceive x 127 1 6) ∧ Next signalled (fun x => .sigAck x 7 0)
      ∧ ArrayAtRest (linked .up ready))
    ∧ (linked .up ready).cfg.loaded = true ∧ (127 : Byte).toNat ≤ 127
    ∧ (linked .up ready).cairns[ix 127 (127 : Byte).toNat].owner = (linked .up ready).pair.peers[(1 : Peer)].cfg.tenant
    ∧ (1 : Word) ≠ 0 ∧ bit (1 : Word) 31 = false
    ∧ foreign127.cairns[ix 127 (127 : Byte).toNat].owner ≠ foreign127.pair.peers[(1 : Peer)].cfg.tenant
    ∧ (linked .up up).cfg.loaded = false ∧ (7 : Dword) ∈ signalled.pair.peers[(1 : Peer)].sigWait :=
  ⟨⟨next_of (fun _ _ => rfl) (by decide +kernel), next_of (fun _ _ => rfl) (by decide +kernel),
    next_of (fun _ _ => rfl) (by decide +kernel), next_of (fun _ _ => rfl) (by decide +kernel), atRest (by decide +kernel)⟩,
    by decide +kernel⟩

theorem test_meets_fetches :
    (Next (peering (fun c => { c with take := false })) (fun x => .fetch x 4 77 6)
      ∧ Next copied (fun x => .fetch x 4 copied.pair.peers[(1 : Peer)].cfg.engineId 6))
    ∧ (peering (fun c => { c with take := false })).pair.peers[(1 : Peer)].cfg.take = false
    ∧ copied.pair.peers[(1 : Peer)].cfg.take = true ∧ copied.pair.peers[(1 : Peer)].cfg.valid = true
    ∧ (∀ f : Peer, f ≠ 1 → copied.pair.peers[f].cfg.engineId ≠ copied.pair.peers[(1 : Peer)].cfg.engineId)
    ∧ copied.copiesOf 1 = [{ peer := 1, owner := 77, step := 6, total := 4 }] :=
  ⟨⟨next_of (fun _ _ => rfl) (by decide +kernel), next_of (fun _ _ => rfl) (by decide +kernel)⟩, by decide +kernel⟩

theorem test_meets_sessions :
    (let i : PairRx → Instr := fun x => .hello x 3 1 []
     Pre.frame (linked .opening ready) (pkt 0 i) 1 ∧ pairSound (pkt 0 i) (pairFrame (i (pkt 0 i))) = true
       ∧ (linked .opening ready).pair.peers[(1 : Peer)].sess ≠ .down)
    ∧ (∀ i ∈ [fun x => Instr.helloAck x 3 1 [], fun x => .bye x [], fun x => .ack x 1 0],
        Pre.accepted (linked .up ready) (pkt 0 i) 1 (i (pkt 0 i)))
    ∧ (linked .up ready).pair.peers[(1 : Peer)].cfg.buddy = true := by decide +kernel

/-- Packets of entry 1: a sent one, then one not sent. -/
def queueing : State := (linked .up ready).onPeer 1 (fun p => { p with out := [{ ty := 0x10, sent := true }, { ty := 0x11 }] })

theorem test_meets_sending :
    queueing.pw.phase ≠ .holdUp ∧ queueing.pair.peers[(1 : Peer)].sess = .up ∧ queueing.pair.peers[(1 : Peer)].inFlight < 4096
    ∧ queueing.pair.peers[(1 : Peer)].out = [{ ty := 0x10, sent := true }] ++ ({ ty := 0x11 } : PairPkt) :: []
    ∧ ([{ ty := 0x10, sent := true }] : List PairPkt).all (·.sent) = true
    ∧ (let s := (linked .up ready).onPeer 1 (fun p => { p with fwd := [(4, 1)] })
       s.pair.peers[(1 : Peer)].fwd = (4, 1) :: [] ∧ s.pair.peers[(1 : Peer)].out = [] ∧ s.pair.peers[(1 : Peer)].inFlight < 4096)
    ∧ (let s := (linked .up ready).onPeer 1 (fun p => { p with unacked := 3 })
       s.pair.peers[(1 : Peer)].unacked ≠ 0 ∧ s.pair.peers[(1 : Peer)].sess ≠ .down)
    ∧ queueing.pair.peers[(1 : Peer)].doze = false ∧ (linked .lost ready).pair.peers[(1 : Peer)].sess = .lost
    ∧ (let k : PairPkt := { ty := 0x10, sent := true, psn := 6, since := 0 }
       let s := (linked .up ready).onPeer 1 (fun p => { p with out := [k] })
       Pre.retx s 1 6 k ∧ max s.now (k.sentAt + retxAfter k.tries) < k.since + 1000 * s.pair.peers[(1 : Peer)].cfg.liveMs.toNat)
    ∧ (let k : PairPkt := { ty := 0x10, sent := true, psn := 6, since := 0 }
       let s := (linked .up { ready with now := 100000 }).onPeer 1 (fun p => { p with out := [k] })
       Pre.retx s 1 6 k ∧ k.since + 1000 * s.pair.peers[(1 : Peer)].cfg.liveMs.toNat ≤ max s.now (k.sentAt + retxAfter k.tries))
    ∧ (linked .up ready).pw.pstate ≠ .nap ∧ napping.pw.pstate = .nap
    ∧ (let y : Transfer := { xfer := 0, sending := true, step := 1, img := 7, tenant := 0, owner := some (0, 5) }
       let c : Cmd := { startedOf 0x20 [] with effect := true }
       let s := ((linked .lost ready).onPeer 1 (fun p => { p with xfers := [y] })).onRing 0 (fun x => { x with past := [c] })
       s.pair.peers[(1 : Peer)].xfers = [y] ∧ y.opened = false ∧ s.pair.peers[(1 : Peer)].sess ≠ .up ∧ y.owner = some (0, c.cid)
         ∧ s.rings[(0 : Ring)].find c.cid = some c ∧ c.op = 0x20 ∧ c.trunc = none ∧ c.badBeats = 0) := by decide +kernel

/-- PAIR_SYNC of image 7, step 1, to entry 1. -/
def syncing (step : Nat) : Cmd := startedOf 0x20 [(0x10, step), (0x18, 7), (0x1C, 1)]

/-- PAIR_TAKEOVER of owner 99's step 6 over entry 1, as image 8. -/
def taking (img : Nat) : Cmd := startedOf 0x21 [(0x10, 6), (0x18, img), (0x1C, 1), (0x20, 99)]

theorem test_meets_pairCommands :
    Pre.pairSync (holding (syncing 2) (withImage sealedImg mapped)) 0 (syncing 2) sealedImg
    ∧ BitVec.ofNat 64 ((syncing 2).f 0x10 8) ≠ sealedImg.step ∧ BitVec.ofNat 64 ((syncing 1).f 0x10 8) = sealedImg.step
    ∧ Pre.pairSync (holding (syncing 1) (withImage fullImg mapped)) 0 (syncing 1) fullImg ∧ fullImg.sealed_ = false
    ∧ Pre.pairSync (holding (syncing 1) (linked .gone (withImage sealedImg mapped))) 0 (syncing 1) sealedImg
    ∧ Pre.pairSync (holding (syncing 1) (linked .up (withImage sealedImg mapped))) 0 (syncing 1) sealedImg
    ∧ sealedImg.sealed_ = true ∧ ((linked .up (withImage sealedImg mapped)).imageSecs sealedImg).isEmpty = false
    ∧ (linked .gone mapped).pair.peers[ix 3 ((syncing 1).f 0x1C 1)].sess = .gone
    ∧ (linked .up mapped).pair.peers[ix 3 ((syncing 1).f 0x1C 1)].sess = .up
    ∧ (linked .up mapped).pw.phase ≠ .holdUp := by
  refine ⟨by decide +kernel, by decide +kernel, by decide +kernel, by decide +kernel, by decide +kernel, by decide +kernel, ?_⟩
  decide +kernel

theorem test_meets_takeover :
    (let s := holding (taking 7) (withImage sealedImg mapped);
       Started s 0 (taking 7) 0x21 ∧ s.rings[(0 : Ring)].find (taking 7).cid = some (taking 7) ∧ vaultGate s (taking 7) = none
         ∧ (∀ f : Peer, s.pair.peers[f].xfers = [])
         ∧ (s.image? (s.ringTenant 0) (BitVec.ofNat 32 ((taking 7).f 0x18 4))).isSome = true)
    ∧ Pre.takeover (holding (taking 8) (rxLaned (linked .up ready))) 0 (taking 8) := by decide +kernel

theorem test_meets_ports :
    ready.pw.phase ≠ .holdUp ∧ ready.pw.mainOn = true ∧ ready.pw.phase ≠ .deep ∧ ready.pair.ports[(1 : PPort)].mgmtOff = false
    ∧ (linked .up ready).pw.rdy = true ∧ (linked .up ready).pair.ports[(0 : PPort)].ip4 ≠ 0
    ∧ fld (5 : BitVec 128) 0 32 = (linked .up ready).pair.ports[(0 : PPort)].ip4
    ∧ (1 : BitVec 128) ≠ (linked .up ready).pair.ports[(0 : PPort)].ip6
    ∧ peerOk (linked .up ready) 1 (peerWord (linked .up ready).pair.peers[(1 : Peer)].cfg 0 0x80000009) = false
    ∧ peerOk (linked .up ready) 1 (peerWord (linked .up ready).pair.peers[(1 : Peer)].cfg 0 0x8E00000A) = true
    ∧ ({ (linked .up ready).pair.peers[(1 : Peer)].cfg with liveMs := 10 }
        = peerWord (linked .up ready).pair.peers[(1 : Peer)].cfg 0 0x8E00000A)
    ∧ peerOk (linked .up ready) 1 (peerWord (linked .up ready).pair.peers[(1 : Peer)].cfg 8 1) = true
    ∧ (let s := { ready with cfg := { ready.cfg with loading := true } }; s.pw.rdy = true ∧ s.cfg.loading = true) := by
  decide +kernel

/-! ### Witnesses: management and debug -/

/-- An unmarked unit view of generation 2 has been sent. -/
def viewed : State :=
  { ready with cfg := { ready.cfg with dpGen := 2, mgGen := 1, mgmtOff := [5] }, mg := { ready.mg with sent := [(2, Vector.replicate 78 1)] } }

theorem test_meets_management :
    ready.pw.vauxOn = true ∧ Managed ready ∧ Up ready ∧ ready.mg.waiting = [] ∧ ready.viewStale = false ∧ ready.pw.pstate = .active
    ∧ (let s := { ready with pw := { ready.pw with phase := .deep } }; s.pw.vauxOn = true ∧ s.pw.phase = .deep)
    ∧ (let s := { ready with mg := { ready.mg with waiting := [{ code := 1 }] } }; s.mg.waiting = { code := 1 } :: [])
    ∧ (let s := { ready with cfg := { ready.cfg with stale := true } }; s.viewStale = true ∧ Up s)
    ∧ ready.cfg.mgmtOff.contains 52 = false ∧ offlineRefused ready 52 = true ∧ offlineRefused ready 78 = true
    ∧ offlineRefused ready 31 = false ∧ offlineRefused ready 77 = false ∧ viewed.mg.sent = [(2, Vector.replicate 78 1)]
    ∧ viewed.stewardRuns = true ∧ viewed.cfg.dpGen ≠ viewed.cfg.mgGen ∧ viewed.cfg.skew = false := by decide +kernel

/-- A firmware update at a stage; the SVN floor is 4. -/
def updating (u : UpdSt) : State := { ready with boot := { ready.boot with update := u, svnFloor := 4 } }

theorem test_meets_firmware :
    Managed ready ∧ ready.boot.trial = false ∧ ready.cfg.loading = false ∧ ready.boot.update = .idle
    ∧ (updating .receiving).boot.update = .receiving ∧ (updating .receiving).boot.svnFloor.toNat ≤ (4 : BitVec 16).toNat
    ∧ (3 : BitVec 16).toNat < (updating .receiving).boot.svnFloor.toNat ∧ (updating .verified).boot.update = .verified
    ∧ (updating .receiving).boot.update ≠ .verified := by decide +kernel

theorem test_meets_keys :
    ready.cfg.spdmKey = false
    ∧ (let s := { ready with cfg := { ready.cfg with spdmKey := true }, ma := { ready.ma with keys := ready.ma.keys.set 3 { keep := true } } }
       Up s ∧ s.pw.vauxOn = true ∧ s.pw.pstate = .active ∧ s.cfg.spdmKey = true ∧ Pre.keyLoad s 31 2 7 [1] ∧ s.ma.keys[ix 31 3].keep = true
         ∧ s.ma.keys[ix 31 31].keep = false) := by decide +kernel

/-- A debug session at a level. -/
def debugging (n : BitVec 2) : State := { ready with dbg := { ready.dbg with level := n } }

/-- A token for this engine at CONTROL stands in the token buffer. -/
def tokened (level : Byte) (locked : Bool) : State :=
  let d := { ready.dbg with authBusy := true, locked := locked
                            token := writeBytes 0 (bytesLE 8 Config.engineId ++ [level]) [] }
  { ready with dbg := d }

theorem test_meets_debug :
    Debugged ready ∧ (debugging 0).dbg.level = 0 ∧ (debugging 1).dbg.level ≠ 2 ∧ (debugging 1).dbg.level ≠ 0
    ∧ (debugging 1).dbg.live = false ∧ (0x3FFFFFC : Nat) % 4 = 0 ∧ (0x3FFFFFC : Nat) < 0x4000000 ∧ (0x3FFFFFC : Nat) ≠ 0x60014
    ∧ (debugging 2).dbg.level = 2 ∧ (0xFFC : Nat) < 0x1000 ∧ Debugged (debugging 2) ∧ (debugging 2).dbg.winWait = [] ∧ Quiet (debugging 2)
    ∧ (let s := { ready with pw := { ready.pw with phase := .deep } }; s.pw.vauxOn = true ∧ s.dbgWorks = true ∧ s.pw.phase = .deep)
    ∧ (tokened 2 false).dbg.authBusy = true ∧ tokenOk (tokened 2 false) true true = true ∧ tokenOk (tokened 3 false) true true = false
    ∧ (tokened 2 true).dbg.locked = true ∧ (debugging 2).dbg.halted = false ∧ ready.dbg.authBusy = false ∧ ready.dbg.haltPend = false
    ∧ (let s := { ready with dbg := { ready.dbg with haltPend := true } }; s.dbg.haltPend = true) := by decide +kernel

theorem test_meets_session : Pre.session (debugging 2) := ⟨by decide +kernel, by decide +kernel, atRest (by decide +kernel)⟩

/-- Hypotheses of StepRunsFrontCommand, of its empty-queue clause and of OnlyBeyondRatingsStops. -/
theorem test_meets_step : ({ State.reset with pending := [.rdy] } : State).pending = .rdy :: [] ∧ State.reset.pending = []
    ∧ ((-501 : Int) < -500 ∧ (14000 : Int) < 14001) ∧ (-301 : Int) < -300 ∧ (4000 : Int) < 4001 := by decide

/-! ### The array (10) -/

/-- R189: fp32 FMA rounds once (2 × 3 + 1 = 7, and 1 × 2^-24 + 1 ties to even 1); a NaN result is the one NaN; bf16 casts
round to nearest even and keep the one NaN. -/
theorem test_fp : fpFma 0x40000000 0x40400000 0x3F800000 = 0x40E00000 ∧ fpFma 0x33800000 0x3F800000 0x3F800000 = 0x3F800000
    ∧ fpFma 0x7F800000 0 0x3F800000 = 0x7FC00000 ∧ castDown 0x3F808000 = 0x3F80 ∧ castDown 0x3F818000 = 0x3F82
    ∧ castDown 0xFF800001 = 0x7FC0 ∧ castUp 0xFF81 = 0x7FC00000 ∧ castUp 0xC000 = 0xC0000000 := by decide +kernel

/-- R187: an instruction waits for its operand; with it, it pops the queue, writes its register and sends south, where PE 8
has it from the north. -/
theorem test_pe_issues :
    let g : CragProg := { pes := [{ pe := 0, body := [{ op := .alu .add, args := [.queue 3, .reg 1], reg := some 2, links := [2] }] }, { pe := 8 }] }
    let x := ({} : CragSt).setItem 0 1 { v := 7 }
    let r := peCycle g 0 (x.push 0 3 { v := 5, psn := true })
    (peCycle g 0 x).1 = false ∧ r.1 = true ∧ (r.2.item 0 2).v = 12 ∧ (r.2.item 0 2).psn = true ∧ r.2.count 0 3 = 0
    ∧ (r.2.queueHead 8 0).map (fun t => (t.v, t.psn)) = some (12, true) ∧ r.2.fire = 1 := by decide +kernel

end Sys2Proof.Tests
end

/-! The retained record and the firmware slots (03): what writing a record and a reset of Table 3-3 change and keep, and
from that the statement about TRIAL_CONFIRM, RET_CTL and RETAINED_COMMIT. -/

namespace Sys2Proof.Proofs

open Sys2Proof Sys2Proof.Machine Sys2Proof.Safety Sys2Proof.Laws

/-! ### The live settings (3.3)

An event touches the watchdog block and the pins, where three of the settings of Table 3-4 stand, and no setting. -/

theorem msixFire_liveRecord (v : Vec) (s : State) : (msixFire v s).liveRecord = s.liveRecord := by
  unfold msixFire
  split
  · rfl
  · split <;> rfl

theorem alertPin_liveRecord (s : State) : (alertPin s).liveRecord = s.liveRecord := by
  unfold alertPin
  dsimp only
  split <;> rfl

theorem offerEvent_liveRecord (e : EvRec) (s : State) : (offerEvent e s).liveRecord = s.liveRecord := by
  unfold offerEvent
  split
  · rfl
  · exact alertPin_liveRecord _

theorem logEvent_liveRecord (code : Nat) (u : Byte) (a0 a1 : Word) (s : State) :
    (logEvent code u a0 a1 s).liveRecord = s.liveRecord := by
  unfold logEvent
  dsimp only
  split
  · rfl
  · split
    · rfl
    · exact offerEvent_liveRecord _ _

@[simp] theorem raiseEvent_liveRecord (code : Nat) (u : Byte) (a0 a1 : Word) (s : State) :
    (raiseEvent code u a0 a1 s).liveRecord = s.liveRecord := by
  unfold raiseEvent announcing
  dsimp only
  split
  · exact (msixFire_liveRecord _ _).trans (logEvent_liveRecord code u a0 a1 s)
  · exact logEvent_liveRecord code u a0 a1 s

/-! ### A record written (R52, R53) -/

/-- The boot block once record `x` has been written at time `now`. -/
def withRecord (x : Record) (now : Nat) (b : Boot) : Boot :=
  { b with
    record := x
    stored := (((match b.stored with | p :: _ => p.1 + 1 | [] => 0), x) :: b.stored).take 12
    commits := satAdd b.commits 1, lastRecord := some now }

/-- Writing a record changes the boot block; RET_WORN of the millionth commit announces itself. -/
theorem writeRecord_kept (x : Record) (s : State) :
    DataKept { s with boot := withRecord x s.now s.boot } (writeRecord x s) := by
  unfold writeRecord
  dsimp only
  split
  · exact raiseEvent_kept _ _ _ _ _
  · exact .refl _

@[simp] theorem writeRecord_boot (x : Record) (s : State) : (writeRecord x s).boot = withRecord x s.now s.boot :=
  (writeRecord_kept x s).boot
@[simp] theorem writeRecord_pending (x : Record) (s : State) : (writeRecord x s).pending = s.pending :=
  (writeRecord_kept x s).pending
@[simp] theorem writeRecord_now (x : Record) (s : State) : (writeRecord x s).now = s.now := (writeRecord_kept x s).now
@[simp] theorem writeRecord_rings (x : Record) (s : State) : (writeRecord x s).rings = s.rings := (writeRecord_kept x s).rings
@[simp] theorem writeRecord_st (x : Record) (s : State) : (writeRecord x s).st = s.st := (writeRecord_kept x s).st

@[simp] theorem writeRecord_liveRecord (x : Record) (s : State) : (writeRecord x s).liveRecord = s.liveRecord := by
  unfold writeRecord
  dsimp only
  split
  · exact raiseEvent_liveRecord _ _ _ _ _
  · rfl

theorem commitRecord_boot (s : State) : (commitRecord s).boot = withRecord s.liveRecord s.now s.boot := writeRecord_boot _ _

theorem commitRecord_record (s : State) : (commitRecord s).boot.record = s.liveRecord := by
  rw [commitRecord_boot]
  rfl

theorem commitRecord_commits (s : State) : (commitRecord s).boot.commits = satAdd s.boot.commits 1 := by
  rw [commitRecord_boot]
  rfl

theorem commitRecord_liveRecord (s : State) : (commitRecord s).liveRecord = s.liveRecord := writeRecord_liveRecord _ _

/-- Once the live settings are committed no change is pending (Table 3-6). -/
theorem commitRecord_retPending (s : State) : (commitRecord s).retPending = false := by
  simp [State.retPending, commitRecord_record, commitRecord_liveRecord]

/-! ### Zeroisation and fencing change the Massif alone -/

/-- The state without its Massif: what zeroising units and fencing them leaves as it is. -/
def sansMassif (s : State) : State := { s with ma := {} }

theorem zeroClaims_sansMassif (s : State) : sansMassif (zeroClaims s) = sansMassif s := by
  unfold zeroClaims
  dsimp only
  rw [foldl_keeps sansMassif (fun s l => zeroLane l s) fun _ _ => rfl,
    foldl_keeps sansMassif (fun s n => zeroCrag n s) fun _ _ => rfl]

theorem zeroKeys_sansMassif (s : State) : sansMassif (zeroKeys s) = sansMassif s := by
  unfold zeroKeys
  rw [foldl_keeps sansMassif (fun s k => zeroKey k s) fun _ _ => rfl]

theorem fencePower_sansMassif (s : State) : sansMassif (fencePower s) = sansMassif s := by
  unfold fencePower
  rw [foldl_keeps sansMassif]
  intro s u
  split
  · rfl
  · split <;> rfl

@[simp] theorem fencePower_pending (s : State) : (fencePower s).pending = s.pending :=
  (congrArg State.pending (fencePower_sansMassif s) :)
@[simp] theorem fencePower_pw (s : State) : (fencePower s).pw = s.pw := (congrArg State.pw (fencePower_sansMassif s) :)
@[simp] theorem fencePower_boot (s : State) : (fencePower s).boot = s.boot := (congrArg State.boot (fencePower_sansMassif s) :)
@[simp] theorem fencePower_cfg (s : State) : (fencePower s).cfg = s.cfg := (congrArg State.cfg (fencePower_sansMassif s) :)
@[simp] theorem fencePower_rings (s : State) : (fencePower s).rings = s.rings := (congrArg State.rings (fencePower_sansMassif s) :)
@[simp] theorem fencePower_cairns (s : State) : (fencePower s).cairns = s.cairns :=
  (congrArg State.cairns (fencePower_sansMassif s) :)
@[simp] theorem fencePower_st (s : State) : (fencePower s).st = s.st := (congrArg State.st (fencePower_sansMassif s) :)

/-! ### What the steps before a reset carry over (R49, R51) -/

/-- From `s` to `t` the queue of commands, the rings, the Vault and the first cause recorded stay. -/
structure Carried (s t : State) : Prop where
  pending : t.pending = s.pending
  rings : t.rings = s.rings
  vault : t.st.vault = s.st.vault
  nextCause : t.boot.nextCause = s.boot.nextCause

theorem Carried.refl (s : State) : Carried s s := by constructor <;> rfl

theorem Carried.trans {s t u : State} (a : Carried s t) (b : Carried t u) : Carried s u :=
  ⟨b.pending.trans a.pending, b.rings.trans a.rings, b.vault.trans a.vault, b.nextCause.trans a.nextCause⟩

theorem Carried.of_dataKept {s t : State} (h : DataKept s t) : Carried s t :=
  ⟨h.pending, h.rings, by rw [h.st], by rw [h.boot]⟩

theorem Carried.of_sansMassif {s t : State} (h : sansMassif t = sansMassif s) : Carried s t :=
  ⟨(congrArg State.pending h :), (congrArg State.rings h :), (congrArg (·.st.vault) h :), (congrArg (·.boot.nextCause) h :)⟩

theorem commitTail_carried (s : State) : Carried s (commitTail s) := by constructor <;> rfl

theorem writeRecord_carried (x : Record) (s : State) : Carried s (writeRecord x s) := by
  constructor <;> simp [withRecord]

theorem noteLoss_carried (loss : Nat) (s : State) : Carried s (noteLoss loss s) := by
  unfold noteLoss
  split
  · constructor <;> rfl
  · exact .refl s

theorem finishPrograms_none {s : State} (h : s.st.staged = []) : finishPrograms s = s := by
  simp [finishPrograms, h]

theorem failTrial_nextCause (b : Boot) : (failTrial b).nextCause = b.nextCause := by
  unfold failTrial modSlot
  split
  · split <;> rfl
  · rfl

theorem dropUpdate_nextCause (b : Boot) : (dropUpdate b).nextCause = b.nextCause := by
  unfold dropUpdate modSlot
  split
  · dsimp only
    split <;> rfl
  · rfl

/-- The first cause of the coming bring-up recorded (R51). -/
def withCause (cause : BitVec 4) (arg : Word) (s : State) : State :=
  { s with boot := { s.boot with nextCause := some (s.boot.nextCause.getD (cause, arg)) } }

theorem noteCause_carried (cause : BitVec 4) (arg : Word) (rechoose : Bool) (s : State) :
    Carried (withCause cause arg s) (noteCause cause arg rechoose s) := by
  unfold noteCause
  cases rechoose with
  | false => constructor <;> rfl
  | true => exact ⟨rfl, rfl, rfl, by simp [withCause, failTrial_nextCause]⟩

theorem Carried.withCause {s t : State} (h : Carried s t) (cause : BitVec 4) (arg : Word) :
    Carried (withCause cause arg s) (withCause cause arg t) :=
  ⟨h.pending, h.rings, h.vault, by simp [Proofs.withCause, h.nextCause]⟩

/-! ### A reset of Table 3-3 -/

/-- The state whose registers a reset of Table 3-3 sets to their reset values: programs are finished, the journal tail
and a pending record committed, units zeroised and the cause noted (R49). -/
def readied (cause : BitVec 4) (arg : Word) (rechoose keys : Bool) (loss : Nat) (s : State) : State :=
  let s1 := commitTail (finishPrograms s)
  let s2 := zeroClaims (if s1.retPending && s1.pw.rdy then commitRecord s1 else s1)
  let s3 := noteLoss loss (noteCause cause arg rechoose (busyOn 1 s2))
  if keys then s3 else zeroKeys s3

theorem tableReset_eq (ph : Phase) (cause : BitVec 4) (arg : Word) (rechoose keys : Bool) (loss : Nat) (s : State) :
    tableReset ph cause arg rechoose keys loss s = freshState ph keys (readied cause arg rechoose keys loss s) := rfl

/-- Readying an engine with no sector staged notes the cause and carries the rest over. -/
theorem readied_carried {s : State} (h : s.st.staged = []) (cause : BitVec 4) (arg : Word) (rechoose keys : Bool) (loss : Nat) :
    Carried (withCause cause arg s) (readied cause arg rechoose keys loss s) := by
  have committed : ∀ u : State, Carried u (if u.retPending && u.pw.rdy then commitRecord u else u) := by
    intro u
    split
    · exact writeRecord_carried _ u
    · exact .refl u
  have zeroised : ∀ u : State, Carried u (if keys then u else zeroKeys u) := by
    intro u
    split
    · exact .refl u
    · exact .of_sansMassif (zeroKeys_sansMassif u)
  unfold readied
  rw [finishPrograms_none h]
  dsimp only
  refine .trans ?_ (zeroised _)
  refine .trans ?_ (noteLoss_carried loss _)
  have before := (((commitTail_carried s).trans (committed _)).trans (.of_sansMassif (zeroClaims_sansMassif _))).trans
    (.of_dataKept (busyOn_kept 1 _))
  exact (before.withCause cause arg).trans (noteCause_carried cause arg rechoose _)

theorem freshState_ring (ph : Phase) (keys : Bool) (s : State) (r : Ring) :
    (freshState ph keys s).rings[r] = keptRing s.rings[r] := by
  unfold freshState
  rw [fencePower_rings]
  exact mapBank_getElem _ _ r

theorem freshState_cairns (ph : Phase) (keys : Bool) (s : State) :
    (freshState ph keys s).cairns = Vector.replicate 128 {} := by
  unfold freshState
  rw [fencePower_cairns]

theorem freshState_pw (ph : Phase) (keys : Bool) (s : State) : (freshState ph keys s).pw = keptPower ph s.pw := by
  unfold freshState
  rw [fencePower_pw]

theorem freshState_st (ph : Phase) (keys : Bool) (s : State) : (freshState ph keys s).st = keptStore s := by
  unfold freshState
  rw [fencePower_st]

theorem freshState_cfg (ph : Phase) (keys : Bool) (s : State) :
    (freshState ph keys s).cfg = { lastLoadId := s.cfg.lastLoadId } := by
  unfold freshState
  rw [fencePower_cfg]

theorem freshState_pending (ph : Phase) (keys : Bool) (s : State) : (freshState ph keys s).pending = s.pending := by
  unfold freshState
  rw [fencePower_pending]

theorem freshState_nextCause (ph : Phase) (keys : Bool) (s : State) :
    (freshState ph keys s).boot.nextCause = s.boot.nextCause := by
  unfold freshState
  rw [fencePower_boot]
  exact dropUpdate_nextCause s.boot

/-- What Table 3-3 sets to reset values, and the rings' record numbers kept. -/
theorem freshState_dataPathReset (ph : Phase) (keys : Bool) (s : State) : DataPathReset s (freshState ph keys s) := by
  rw [DataPathReset, freshState_pw, freshState_cfg, freshState_cairns, freshState_st, freshState_pending]
  refine ⟨rfl, rfl, fun r => ?_, rfl, rfl, fun c => by simp, rfl, rfl⟩
  rw [freshState_ring]
  exact ⟨rfl, rfl, rfl, rfl, rfl, rfl⟩

theorem dataPathReset_of_carried {s u t : State} (c : Carried s u) (h : DataPathReset u t) : DataPathReset s t := by
  simpa only [DataPathReset, c.rings, c.pending] using h

section
variable {s : State} (h : s.st.staged = []) (ph : Phase) (cause : BitVec 4) (arg : Word) (rechoose keys : Bool) (loss : Nat)

theorem tableReset_phase : (tableReset ph cause arg rechoose keys loss s).pw.phase = ph := by
  rw [tableReset_eq, freshState_pw, keptPower]

include h

theorem tableReset_dataPathReset : DataPathReset s (tableReset ph cause arg rechoose keys loss s) := by
  rw [tableReset_eq]
  have reset : DataPathReset (withCause cause arg s) _ :=
    dataPathReset_of_carried (readied_carried h cause arg rechoose keys loss) (freshState_dataPathReset ph keys _)
  exact reset

theorem tableReset_vault : (tableReset ph cause arg rechoose keys loss s).st.vault = s.st.vault := by
  rw [tableReset_eq, freshState_st]
  exact (readied_carried h cause arg rechoose keys loss).vault

theorem tableReset_nextCause : (tableReset ph cause arg rechoose keys loss s).boot.nextCause
    = some (s.boot.nextCause.getD (cause, arg)) := by
  rw [tableReset_eq, freshState_nextCause]
  exact (readied_carried h cause arg rechoose keys loss).nextCause

end

/-! ### TRIAL_CONFIRM (R58) -/

/-- A trial of slot B one watchdog window after RDY: B is ACTIVE, A VALID, and the floor is B's. -/
theorem execTrialConfirm_slotB {s : State} {t0 : Nat} (hc : s.wd.confirmFrom = some t0) (ht : s.boot.trial = true)
    (hb : s.boot.bootB = true) (hp : s.pw.phase = .ready) (ha : s.boot.slotA.st = 2) :
    execTrialConfirm s = .next { advanceTo (t0 + 1000000 * s.wd.windowS.toNat) s with
      boot := { s.boot with
        slotA := { s.boot.slotA with st := 1 }, slotB := { s.boot.slotB with st := 2 }
        trial := false, svnFloor := s.boot.slotB.svn }
      wd := { s.wd with confirmFrom := none } } := by
  simp [execTrialConfirm, hc, ht, hp, hb, ha, modSlot, Boot.slot]

/-! ### FACTORY_RESET_COMMAND (R55, R56) -/

/-- Each of the four conditions of R56 refuses a RET_CTL write. -/
theorem retCtlRefused_iff (v : Word) (s : State) : retCtlRefused v s = true ↔
    fld v 16 16 ≠ 0xFAC7 ∨ bit v 0 = false ∨ s.st.op.st = 1 ∨ s.boot.update ≠ .idle := by
  simp [retCtlRefused, or_assoc]

theorem execFactoryResetCommand_refused {s : State} {v : Word} (hl : s.live = true) (hr : retCtlRefused v s = true) :
    execFactoryResetCommand v s = .next { s with boot := { s.boot with retRej := true } } := by
  simp [execFactoryResetCommand, hl, hr]

/-- Record `x` counted as the last committed, with nothing written. -/
def recordAs (x : Record) (s : State) : State := { s with boot := { s.boot with record := x } }

theorem recordAs_carried (x : Record) (s : State) : Carried s (recordAs x s) := by constructor <;> rfl
theorem recordAs_st (x : Record) (s : State) : (recordAs x s).st = s.st := rfl

/-- The state an admitted RET_CTL write resets: a record of factory values is written, and the reset finds no live
setting to commit. -/
def factoryWritten (s : State) : State := recordAs (writeRecord {} s).liveRecord (writeRecord {} s)

theorem factoryWritten_carried (s : State) : Carried s (factoryWritten s) :=
  (writeRecord_carried {} s).trans (recordAs_carried _ _)

theorem factoryWritten_st (s : State) : (factoryWritten s).st = s.st := (recordAs_st _ _).trans (writeRecord_st {} s)

/-- The end of a factory reset: the link goes down, and the record holds the factory values for the bring-up (R55). -/
def factoryMarked (s : State) : State := emit .linkDown { s with boot := { s.boot with record := {}, factoryCmd := true } }

theorem execFactoryResetCommand_admitted {s : State} {v : Word} (hl : s.live = true) (hr : retCtlRefused v s = false) :
    execFactoryResetCommand v s = .next (factoryMarked (tableReset .bringUp 5 0 true true 3 (factoryWritten s))) := by
  simp [execFactoryResetCommand, hl, hr, factoryWritten, recordAs, factoryMarked]

theorem factoryMarked_record (s : State) : (factoryMarked s).boot.record = {} := rfl
theorem factoryMarked_nextCause (s : State) : (factoryMarked s).boot.nextCause = s.boot.nextCause := rfl
theorem factoryMarked_pw (s : State) : (factoryMarked s).pw = s.pw := rfl
theorem factoryMarked_st (s : State) : (factoryMarked s).st = s.st := rfl

theorem factoryMarked_dataPathReset {s t : State} (h : DataPathReset s t) : DataPathReset s (factoryMarked t) := h

/-! ### RETAINED_COMMIT (R53) -/

/-- The state at the time of a commit: not before 1 s after the last record. -/
def toCommit (s : State) : State :=
  match s.boot.lastRecord with
  | some t => advanceTo (t + 1000000) s
  | none => s

theorem toCommit_eq (s : State) : ∃ n, toCommit s = advanceTo n s ∧ ∀ l, s.boot.lastRecord = some l → l + 1000000 ≤ n := by
  unfold toCommit
  cases s.boot.lastRecord with
  | some t => exact ⟨t + 1000000, rfl, fun l hl => by simp [Option.some.inj hl]⟩
  | none => exact ⟨s.now, by simp [advanceTo], fun l hl => by cases hl⟩

theorem execRetainedCommit_pending {s : State} (h : Up s) (hp : s.retPending = true) :
    execRetainedCommit s = .next (commitRecord (toCommit s)) := by
  unfold execRetainedCommit
  rw [if_neg (by simp [h, hp])]
  rfl

/-! ### The obligation -/

theorem admitted_retCtl_resets {s : State} {v : Word} (hl : s.live = true) (hr : retCtlRefused v s = false)
    (hs : s.st.staged = []) :
    ∃ t, exec (.factoryResetCommand v) s = .next t ∧ t.boot.record = {} ∧ t.pw.phase = .bringUp ∧ DataPathReset s t
      ∧ t.boot.nextCause = some (s.boot.nextCause.getD (5, 0)) ∧ t.st.vault = s.st.vault := by
  have c := factoryWritten_carried s
  have h : (factoryWritten s).st.staged = [] := by rw [factoryWritten_st, hs]
  refine ⟨_, execFactoryResetCommand_admitted hl hr, factoryMarked_record _, ?_, factoryMarked_dataPathReset ?_, ?_, ?_⟩
  · rw [factoryMarked_pw, tableReset_phase]
  · exact dataPathReset_of_carried c (tableReset_dataPathReset h _ _ _ _ _ _)
  · rw [factoryMarked_nextCause, tableReset_nextCause h, c.nextCause]
  · rw [factoryMarked_st, tableReset_vault h, c.vault]

theorem retainedCommit_settles {s : State} (h : Up s) (hp : s.retPending = true) :
    ∃ t, exec .retainedCommit s = .next t ∧ t.retPending = false ∧ t.boot.record = s.liveRecord
      ∧ t.boot.commits = satAdd s.boot.commits 1 ∧ (∀ l, s.boot.lastRecord = some l → l + 1000000 ≤ t.now)
      ∧ t.rings = s.rings ∧ StoreKept s t := by
  obtain ⟨n, hn, hlast⟩ := toCommit_eq s
  have he : exec .retainedCommit s = .next (commitRecord (advanceTo n s)) := by
    rw [← hn]
    exact execRetainedCommit_pending h hp
  have hst : (commitRecord (advanceTo n s)).st = s.st := writeRecord_st _ _
  refine ⟨_, he, commitRecord_retPending _, commitRecord_record _, commitRecord_commits _, fun l hl => ?_,
    writeRecord_rings _ _, hst, by simp [hst]⟩
  calc l + 1000000 ≤ n := hlast l hl
    _ ≤ (advanceTo n s).now := le_max_right _ _
    _ = (commitRecord (advanceTo n s)).now := (writeRecord_now _ _).symm

/-- Settles O34: the trial and the refused write by the command's equation, the admitted write by what a reset of Table
3-3 leaves, the commit by what writing a record changes. -/
theorem recordAndSlotsCommit : Obligations.RecordAndSlotsCommit := by
  refine ⟨fun s t0 hc ht hb hp ha => ?_, fun s v hl hr => ?_, fun s v => admitted_retCtl_resets,
    fun s => retainedCommit_settles⟩
  · exact ⟨_, execTrialConfirm_slotB hc ht hb hp ha, rfl, rfl, rfl, rfl, le_max_right _ _, rfl, rfl, fun _ => rfl⟩
  · exact execFactoryResetCommand_refused hl ((retCtlRefused_iff v s).mpr hr)

end Sys2Proof.Proofs

/-! Commands entering a ring (06): what a write to TRB_GO does where it latches no command, and from that the statement
about a TRB_GO that is lost. -/

namespace Sys2Proof.Proofs

open Sys2Proof Sys2Proof.Machine

/-! ### An access out of NAP (R28) -/

theorem wakeNap_of_nap {s : State} (h : s.pw.pstate = .nap) : wakeNap s = wake s := if_pos h

theorem wakeNap_of_ne_nap {s : State} (h : s.pw.pstate ≠ .nap) : wakeNap s = s := if_neg h

/-! ### A write to TRB_GO that latches nothing (R44, R101, R102) -/

/-- Before RDY, and with GO = 0, TRB_GO is not acted on: not even NAP is left. -/
theorem execTrbGo_inert {s : State} {v : Word} (h : s.pw.rdy = false ∨ bit v 0 = false) (r : Ring) :
    execTrbGo r v s = .next s := by
  rw [execTrbGo, if_pos h]

/-- From RDY with GO = 1, READY as it stood before the access decides; where it is 0 the write is lost and counted. -/
theorem execTrbGo_lost {s : State} {r : Ring} {v : Word} (hrdy : s.pw.rdy = true) (hgo : bit v 0 = true)
    (hready : s.readyBit r = false) :
    execTrbGo r v s
      = .next ((wakeNap s).onRing r (fun x => { x with lost := true, lostCnt := satAdd x.lostCnt 1 })) := by
  have acted : ¬ (s.pw.rdy = false ∨ bit v 0 = false) := by simp [hrdy, hgo]
  rw [execTrbGo, if_neg acted, if_neg (by simp [hready])]

theorem exec_trbGo (r : Ring) (v : Word) (s : State) : exec (.trbGo r v) s = execTrbGo r v s := rfl

/-- Settles O6: a lost TRB_GO out of NAP and in it, then the two writes that are not acted on. -/
theorem lostTrbGoOnlyCounts : Obligations.LostTrbGoOnlyCounts := by
  intro s r v
  rw [exec_trbGo]
  refine ⟨fun hrdy hgo hready awake => ?_, fun hrdy hgo hready nap => ?_, fun hgo => ?_, fun hrdy => ?_⟩
  · rw [execTrbGo_lost hrdy hgo hready, wakeNap_of_ne_nap awake]
  · rw [execTrbGo_lost hrdy hgo hready, wakeNap_of_nap nap]
  · exact execTrbGo_inert (.inr hgo) r
  · exact execTrbGo_inert (.inl hrdy) r

end Sys2Proof.Proofs

/-! Cairns (08): how a wait is classified and ends, and what a signal to another tenant's cairn does; from that the
statements about Table 8-2, WAIT at the head and blocked signals. -/

namespace Sys2Proof.Proofs

open Sys2Proof Sys2Proof.Machine Sys2Proof.Safety Sys2Proof.Laws

/-! ### Table 8-2 (R147) -/

/-- Settles O15: the four bands of D, as the definition of the classes cuts them. -/
theorem waitClassesOfTable : Obligations.WaitClassesOfTable := by
  intro target value
  unfold classify
  dsimp only
  refine ⟨fun h => ?_, fun h1 h2 => ?_, fun h1 h2 => ?_, fun h => ?_⟩
  · rw [if_pos h]
  · rw [if_neg (by omega), if_pos (by omega)]
  · rw [if_neg (by omega), if_neg (by omega), if_pos (by omega)]
  · rw [if_neg (by omega), if_neg (by omega), if_neg (by omega)]

/-! ### A command rewritten in place

What a command asks for lies in its TRB; entering at the head, and going on after a wait, leave that and what its answer
and its reads depend on. -/

/-- Command `d` is `c` with its bookkeeping moved on: TRB, number, distance, reads and snooped overflow stay. -/
structure SameWork (c d : Cmd) : Prop where
  cid : d.cid = c.cid
  trb : d.trb = c.trb
  remaining : d.remaining = c.remaining
  plan : d.plan = c.plan
  trunc : d.trunc = c.trunc

namespace SameWork

variable {c d e : Cmd}

theorem refl (c : Cmd) : SameWork c c := by constructor <;> rfl

theorem trans (h : SameWork c d) (k : SameWork d e) : SameWork c e :=
  ⟨k.cid.trans h.cid, k.trb.trans h.trb, k.remaining.trans h.remaining, k.plan.trans h.plan, k.trunc.trans h.trunc⟩

theorem op (h : SameWork c d) : d.op = c.op := by simp [Cmd.op, h.trb]
theorem tag (h : SameWork c d) : d.tag = c.tag := by simp [Cmd.tag, h.trb]
theorem f (h : SameWork c d) (off n : Nat) : d.f off n = c.f off n := by simp [Cmd.f, h.trb]

end SameWork

theorem stopWaiting_sameWork (now : Nat) (c : Cmd) : SameWork c (stopWaiting now c) := by
  unfold stopWaiting
  split
  · constructor <;> rfl
  · exact .refl c

theorem slowClock_sameWork (s : State) (c : Cmd) : SameWork c (slowClock s c) := by
  unfold slowClock
  split
  · constructor <;> rfl
  · exact .refl c

/-! ### The queue of a ring -/

theorem queue_of_headCmd {s : State} {r : Ring} {c : Cmd} (h : headCmd s r = some c) :
    ∃ rest, s.rings[r].queue = c :: rest := by
  unfold headCmd at h
  dsimp only at h
  split at h
  · cases h
  · split at h
    · cases h
    next d rest hq =>
      split at h
      · cases h
      · obtain rfl := Option.some.inj h
        exact ⟨rest, hq⟩

theorem find_head {x : RingSt} {c : Cmd} {rest : List Cmd} (h : x.queue = c :: rest) : x.find c.cid = some c := by
  simp [RingSt.find, h]

theorem modCmd_queue_head {s : State} {r : Ring} {c : Cmd} {rest : List Cmd} {n : Nat}
    (h : s.rings[r].queue = c :: rest) (hn : c.cid = n) (f : Cmd → Cmd) :
    (modCmd r n f s).rings[r].queue = f c :: rest.map (fun d => if d.cid = n then f d else d) := by
  rw [modCmd, State.onRing_same]
  simp only [RingSt.mod, h, List.map_cons, hn, if_true]

@[simp] theorem modCmd_cairns (r : Ring) (n : Nat) (f : Cmd → Cmd) (s : State) : (modCmd r n f s).cairns = s.cairns := rfl
@[simp] theorem modCmd_st (r : Ring) (n : Nat) (f : Cmd → Cmd) (s : State) : (modCmd r n f s).st = s.st := rfl

theorem modCmd_waiting (r : Ring) (n : Nat) (f : Cmd → Cmd) (s : State) :
    (modCmd r n f s).rings[r].waiting = s.rings[r].waiting := by
  rw [modCmd, State.onRing_same]
  rfl

theorem modCmd_others (r : Ring) (n : Nat) (f : Cmd → Cmd) (s : State) : OtherRings s (modCmd r n f s) r :=
  fun q hq => State.onRing_other s r _ q hq

/-- Two rewrites of the commands with one number are one. -/
theorem modCmd_modCmd (r : Ring) (n : Nat) (f g : Cmd → Cmd) (hg : ∀ c, (g c).cid = c.cid) (s : State) :
    modCmd r n f (modCmd r n g s) = modCmd r n (fun c => f (g c)) s := by
  have twice : ∀ c : Cmd, (if (if c.cid = n then g c else c).cid = n then f (if c.cid = n then g c else c)
      else (if c.cid = n then g c else c)) = if c.cid = n then f (g c) else c := by
    intro c
    by_cases hc : c.cid = n <;> simp [hc, hg]
  have ring : ∀ x : RingSt, (x.mod n g).mod n f = x.mod n (fun c => f (g c)) := by
    intro x
    simp [RingSt.mod, Function.comp_def, twice]
  simp [modCmd, State.onRing, modAt, ring]

/-! ### The last entry of a command no transfer failed for -/

theorem answered_of_rings {s s' t t' : State} {r : Ring} {c d : Cmd} {status : Byte} {d0 : Dword} {d1 : Word}
    (hs : s'.rings[r].waiting = s.rings[r].waiting) (ht : t'.rings[r] = t.rings[r]) (htag : d.tag = c.tag)
    (h : Answered s' t r d status d0 d1) : Answered s t' r c status d0 d1 := by
  simpa only [Answered, hs, ht, htag] using h

/-- Completing the head's command answers with the status and details given, where no message of it was cut short and its
work is no transfer of the Massif (R113, R115). -/
theorem complete_answers {s : State} {r : Ring} {c : Cmd} {rest : List Cmd} {status : Byte} {d0 d1 : Nat}
    (hq : s.rings[r].queue = c :: rest) (ht : c.trunc = none) (ha : usesArray c = false) (hd : status ≠ stDISCARDED) :
    Answered s (complete r c status d0 d1 s) r c status (BitVec.ofNat 64 d0) (BitVec.ofNat 32 d1) := by
  have w := stopWaiting_sameWork s.now c
  have plain : withTrunc (stopWaiting s.now c) (withBad (stopWaiting s.now c) { status, d0, d1 })
      = { status, d0, d1 } := by
    unfold usesArray at ha
    simp only [withBad, w.op, ha, Bool.not_false, or_true, if_true, withTrunc, w.trunc, ht]
  refine ⟨entryFor s r (stopWaiting s.now c) { status, d0, d1 }, ?_, ?_⟩
  · rw [pushEntry_rings, modAt_same, find_head hq]
    rfl
  · simp only [entryFor, plain, if_neg hd]
    exact ⟨w.tag, rfl, rfl, rfl, rfl⟩

/-! ### What leaves an array at rest

Signals and entries change no wheel, engine, crag or lane, and give no command a read. -/

/-- From `s` to `t` nothing that `ArrayAtRest` speaks of begins to move. -/
structure ArrayUntouched (s t : State) : Prop where
  bs : t.cfg.bs = s.cfg.bs
  wheels : t.ma.wheels = s.ma.wheels
  rowan : t.ma.rowan = s.ma.rowan
  crags : t.ma.crags = s.ma.crags
  lanes : t.ma.lanes = s.ma.lanes
  plans : ∀ r : Ring, (∀ c ∈ s.rings[r].queue ++ s.rings[r].past, c.plan = []) →
    ∀ c ∈ t.rings[r].queue ++ t.rings[r].past, c.plan = []

namespace ArrayUntouched

variable {s t u : State}

theorem trans (a : ArrayUntouched s t) (b : ArrayUntouched t u) : ArrayUntouched s u :=
  ⟨b.bs.trans a.bs, b.wheels.trans a.wheels, b.rowan.trans a.rowan, b.crags.trans a.crags, b.lanes.trans a.lanes,
    fun r h => b.plans r (a.plans r h)⟩

theorem of_rings (hcfg : t.cfg = s.cfg) (hma : t.ma = s.ma) (hr : t.rings = s.rings) : ArrayUntouched s t :=
  ⟨by rw [hcfg], by rw [hma], by rw [hma], by rw [hma], by rw [hma], fun r h => by rw [hr]; exact h⟩

theorem refl (s : State) : ArrayUntouched s s := .of_rings rfl rfl rfl

theorem atRest (a : ArrayUntouched s t) (h : ArrayAtRest s) : ArrayAtRest t where
  wheels := by rw [a.wheels]; exact h.wheels
  engines := by rw [a.rowan]; exact h.engines
  reads r := a.plans r (h.reads r)
  crags n := by
    have := h.crags n
    rwa [State.hasPes, State.programOn, ← a.bs, ← a.crags] at this
  taps := by rw [a.lanes]; exact h.taps

/-- Units go on after such a step; an array at rest stays as it is. -/
theorem goesOn (a : ArrayUntouched s t) {o : Host.Outcome State Fault Refusal} (ho : o = .next (resumeUnits t)) :
    GoesOn s t o :=
  ⟨ho, fun h => by rw [ho, resumeUnits_rest (a.atRest h)]⟩

/-- Steps that leave the array untouched, one after the other. -/
theorem foldl {β : Type} {f : State → β → State} (h : ∀ s b, ArrayUntouched s (f s b)) (l : List β) (s : State) :
    ArrayUntouched s (l.foldl f s) := by
  induction l generalizing s with
  | nil => exact .refl s
  | cons b l ih => exact (h s b).trans (ih _)

end ArrayUntouched

/-- A change of one ring that gives no command a read. -/
theorem onRing_untouched {r : Ring} {f : RingSt → RingSt} (s : State)
    (hf : ∀ x, (∀ c ∈ x.queue ++ x.past, c.plan = []) → ∀ c ∈ (f x).queue ++ (f x).past, c.plan = []) :
    ArrayUntouched s (s.onRing r f) := by
  refine ⟨rfl, rfl, rfl, rfl, rfl, fun q h => ?_⟩
  by_cases hq : q = r
  · subst hq
    rw [State.onRing_same]
    exact hf _ h
  · rw [State.onRing_other s r f q hq]
    exact h

theorem modCmd_untouched (r : Ring) (n : Nat) {f : Cmd → Cmd} (hf : ∀ c, (f c).plan = c.plan) (s : State) :
    ArrayUntouched s (modCmd r n f s) := by
  refine onRing_untouched s fun x hx c hc => ?_
  simp only [RingSt.mod, ← List.map_append, List.mem_map] at hc
  obtain ⟨d, hd, rfl⟩ := hc
  split
  · rw [hf, hx d hd]
  · exact hx d hd

theorem complete_untouched (r : Ring) (c : Cmd) (status : Byte) (d0 d1 : Nat) (s : State) :
    ArrayUntouched s (complete r c status d0 d1 s) := by
  have dropped : ∀ (e : Entry) (n : Nat), ArrayUntouched s (s.onRing r fun x =>
      RingSt.drop { x with waiting := x.waiting ++ [e] } n) := by
    refine fun e n => onRing_untouched s fun x hx d hd => hx d ?_
    simp only [RingSt.drop, List.mem_append, List.mem_filter] at hd ⊢
    exact hd.imp And.left And.left
  have ended : ∀ u : State, ArrayUntouched u (endLoad u) := fun u =>
    have k : DataKept { u with cfg := { u.cfg with loading := false } } (endLoad u) := busyOff_kept 2 _
    ⟨by rw [k.cfg], by rw [k.ma], by rw [k.ma], by rw [k.ma], by rw [k.ma], fun q h => by rw [k.rings]; exact h⟩
  unfold complete pushEntry
  dsimp only
  split
  · exact (dropped _ _).trans (ended _)
  · exact dropped _ _

/-! ### A command that asks for no capacity and streams nothing (R108, R114, R338) -/

/-- The command at its ring's head, with the ring's PASID as it stands when the head is reached (R110). -/
def reached (s : State) (r : Ring) (c : Cmd) : Cmd :=
  if c.atHead then c else { c with atHead := true, pasid := if s.rings[r].pasidV then some s.rings[r].pasid else none }

/-- The command with its checks passed, waiting no longer. -/
def passed (s : State) (c : Cmd) : Cmd := slowClock s { stopWaiting s.now c with started := true }

/-- The command as it starts in the step in which it reaches the head. -/
def begun (s : State) (r : Ring) (c : Cmd) : Cmd := passed s (stopWaiting s.now (reached s r c))

theorem reached_sameWork (s : State) (r : Ring) (c : Cmd) : SameWork c (reached s r c) := by
  unfold reached
  split
  · exact .refl c
  · constructor <;> rfl

theorem passed_sameWork (s : State) (c : Cmd) : SameWork c (passed s c) :=
  have started : SameWork (stopWaiting s.now c) { stopWaiting s.now c with started := true } := by constructor <;> rfl
  ((stopWaiting_sameWork s.now c).trans started).trans (slowClock_sameWork s _)

theorem begun_sameWork (s : State) (r : Ring) (c : Cmd) : SameWork c (begun s r c) :=
  ((reached_sameWork s r c).trans (stopWaiting_sameWork s.now _)).trans (passed_sameWork s _)

/-- Reaching the head, the end of its wait and the start of a command are one rewrite of it. -/
theorem modCmd_begun (s : State) (r : Ring) (n : Nat) :
    modCmd r n (passed s) (modCmd r n (stopWaiting s.now) (reachHead r n s)) = modCmd r n (begun s r) s := by
  rw [show reachHead r n s = modCmd r n (reached s r) s from rfl,
    modCmd_modCmd _ _ _ _ fun c => (reached_sameWork s r c).cid,
    modCmd_modCmd _ _ _ _ fun c => ((reached_sameWork s r c).trans (stopWaiting_sameWork s.now _)).cid]
  rfl

theorem tapFenced_nil (s : State) : tapFenced s [] = none := by simp [tapFenced]

theorem tapFull_nil (s : State) : tapFull s [] = false := by simp [tapFull, LaneSt.full]

/-- A command that enters, needs no resource and passes no tap acts in the step in which it starts. -/
theorem headStep_enters {s : State} {r : Ring} {c : Cmd} {code : Nat} {act : Cmd → State → State} (h : Enters s r c code)
    (hn : needs s c = []) (ht : ∀ u, tapsOf u r c = []) (ha : usesArray c = false) :
    headStep r code act s = act (begun s r c) (modCmd r c.cid (begun s r) s) := by
  obtain ⟨hh, hop, hp, hs, hc, -⟩ := h
  obtain ⟨rest, hq⟩ := queue_of_headCmd hh
  have found : (modCmd r c.cid (begun s r) s).rings[r].find c.cid = some (begun s r c) := by
    have := find_head (modCmd_queue_head hq rfl (begun s r))
    rwa [(begun_sameWork s r c).cid] at this
  have acts : ∀ u, u = modCmd r c.cid (begun s r) s →
      (match u.rings[r].find c.cid with | some d => act d u | none => u)
        = act (begun s r c) (modCmd r c.cid (begun s r) s) := by
    rintro _ rfl
    rw [found]
  unfold headStep
  rw [hh]
  dsimp only
  rw [if_neg (fun k => k.1 hop), if_neg (by omega), if_neg (by simp [hs]), hc, hn]
  dsimp only [takeGrants]
  rw [ht, tapFenced_nil, tapFull_nil]
  dsimp only
  rw [if_neg (by simp [ha])]
  exact acts _ (modCmd_begun s r c.cid)

/-! ### WAIT at the head (R156) -/

theorem exec_wait (r : Ring) (s : State) : exec (.wait r) s = .next (headStep r 0x06 (waitAct r) s) := rfl

/-- WAIT asks for no resource, and no snoop stands on it. -/
theorem headStep_wait {s : State} {r : Ring} {c : Cmd} (h : Enters s r c 6) :
    headStep r 0x06 (waitAct r) s = waitAct r (begun s r c) (modCmd r c.cid (begun s r) s) := by
  have ⟨_, hop, _⟩ := h
  exact headStep_enters h (by simp [needs, hop]) (by simp [tapsOf, hop]) (by simp [usesArray, hop])

/-- VALUE of the cairn a WAIT names. -/
def waitedValue (s : State) (c : Cmd) : Word := s.cairns[ix 127 (c.f 0x10 1)].value

/-- The class of a WAIT against its cairn as it stands. -/
def waitClass (s : State) (c : Cmd) : WaitClass := classify (BitVec.ofNat 32 (c.f 0x14 4)) (waitedValue s c)

section
variable {s : State} {c : Cmd} (hc : c.remaining = none)
include hc

theorem waitAct_satisfied (h : waitClass s c = .satisfied) (r : Ring) :
    waitAct r c s = complete r c stOK (waitedValue s c).toNat 0 s := by
  unfold waitClass waitedValue at h
  simp only [waitAct, waitedValue, hc, h, Option.isSome_none, Bool.false_eq_true, if_false]

theorem waitAct_ahead {d : Nat} (h : waitClass s c = .ahead d) (r : Ring) :
    waitAct r c s = modCmd r c.cid (fun c => { c with remaining := some d }) s := by
  unfold waitClass waitedValue at h
  simp only [waitAct, hc, h, Option.isSome_none, Bool.false_eq_true, if_false]

theorem waitAct_outOfRange (h : waitClass s c = .outOfRange) (r : Ring) :
    waitAct r c s = complete r c stRANGE 0x14 (waitedValue s c).toNat s := by
  unfold waitClass waitedValue at h
  simp only [waitAct, waitedValue, hc, h, Option.isSome_none, Bool.false_eq_true, if_false]

end

theorem waitedValue_begun (s : State) (r : Ring) (c : Cmd) (n : Nat) :
    waitedValue (modCmd r n (begun s r) s) (begun s r c) = waitedValue s c := by
  simp only [waitedValue, modCmd_cairns, (begun_sameWork s r c).f]

theorem waitClass_begun (s : State) (r : Ring) (c : Cmd) (n : Nat) :
    waitClass (modCmd r n (begun s r) s) (begun s r c) = waitClass s c := by
  rw [waitClass, waitedValue_begun, (begun_sameWork s r c).f, waitClass]

/-- The started command completes: one entry joins its ring's, and nothing else of the machine changes. -/
theorem complete_begun {s : State} {r : Ring} {c : Cmd} (h : Enters s r c 6) {status : Byte} {d0 d1 : Nat}
    (hd : status ≠ stDISCARDED) {t : State}
    (ht : t = complete r (begun s r c) status d0 d1 (modCmd r c.cid (begun s r) s)) :
    Answered s t r c status (BitVec.ofNat 64 d0) (BitVec.ofNat 32 d1)
      ∧ t.cairns = s.cairns ∧ OtherRings s t r ∧ StoreKept s t := by
  obtain ⟨hh, hop, -, -, -, htrunc, -⟩ := h
  obtain ⟨rest, hq⟩ := queue_of_headCmd hh
  have w := begun_sameWork s r c
  have answered := complete_answers (d0 := d0) (d1 := d1) (modCmd_queue_head hq rfl (begun s r)) (w.trunc.trans htrunc)
    (by simp [usesArray, w.op, hop]) hd
  have hst : t.st = s.st := by rw [ht, complete, pushEntry_st]; rfl
  refine ⟨answered_of_rings (modCmd_waiting _ _ _ _) (by rw [ht]) w.tag answered, ?_, fun q hq => ?_, hst, fun a => by rw [hst]⟩
  · rw [ht, complete, pushEntry_cairns]; rfl
  · rw [ht, complete, pushEntry_others _ _ _ _ q hq, modCmd_others _ _ _ _ q hq]

section
variable {s : State} {r : Ring} {c : Cmd} (h : Pre.wait s r c)
include h

theorem wait_satisfied (hc : waitClass s c = .satisfied) : ∃ t, exec (.wait r) s = .next t
    ∧ Answered s t r c stOK (BitVec.ofNat 64 (waitedValue s c).toNat) 0
    ∧ t.cairns = s.cairns ∧ OtherRings s t r ∧ StoreKept s t := by
  obtain ⟨henters, hrem, -⟩ := h
  have step := waitAct_satisfied ((begun_sameWork s r c).remaining.trans hrem) ((waitClass_begun s r c c.cid).trans hc) r
  rw [waitedValue_begun, ← headStep_wait henters] at step
  exact ⟨_, exec_wait r s, complete_begun henters (by decide) step⟩

theorem wait_outOfRange (hc : waitClass s c = .outOfRange) : ∃ t, exec (.wait r) s = .next t
    ∧ Answered s t r c stRANGE 0x14 (waitedValue s c)
    ∧ t.cairns = s.cairns ∧ OtherRings s t r ∧ StoreKept s t := by
  obtain ⟨henters, hrem, -⟩ := h
  have step := waitAct_outOfRange ((begun_sameWork s r c).remaining.trans hrem) ((waitClass_begun s r c c.cid).trans hc) r
  rw [waitedValue_begun, ← headStep_wait henters] at step
  have done := complete_begun henters (by decide) step
  rw [BitVec.ofNat_toNat, BitVec.setWidth_eq] at done
  exact ⟨_, exec_wait r s, done⟩

theorem wait_ahead {d : Nat} (hc : waitClass s c = .ahead d) : ∃ t c', exec (.wait r) s = .next t
    ∧ t.rings[r].queue.head? = some c' ∧ c'.cid = c.cid ∧ c'.remaining = some d
    ∧ t.rings[r].waiting = s.rings[r].waiting ∧ t.cairns = s.cairns ∧ OtherRings s t r ∧ StoreKept s t := by
  obtain ⟨henters, hrem, -⟩ := h
  have w := begun_sameWork s r c
  have step := waitAct_ahead (w.remaining.trans hrem) ((waitClass_begun s r c c.cid).trans hc) r
  rw [← headStep_wait henters, w.cid] at step
  obtain ⟨rest, hq⟩ := queue_of_headCmd henters.1
  have held := modCmd_queue_head (modCmd_queue_head hq rfl (begun s r)) w.cid (fun c => { c with remaining := some d })
  refine ⟨_, { begun s r c with remaining := some d }, exec_wait r s, ?_, w.cid, rfl, ?_⟩
  · rw [step, held, List.head?_cons]
  · rw [step]
    exact ⟨by rw [modCmd_waiting, modCmd_waiting], rfl,
      fun q hne => by rw [modCmd_others _ _ _ _ q hne, modCmd_others _ _ _ _ q hne], rfl, fun _ => rfl⟩

end

/-! ### A signal applied (R148 to R150)

VALUE rises first, then each ring's head is looked at, then peers and units. -/

/-- The first part of a signal: VALUE risen, with the report of the signal, monitors and the publication owed. -/
def valueRaised (c : Cairn) (kind id : Nat) (add : Word) (s : State) : State :=
  announcing 17 (fun s => s.onCairn c (fun x =>
    let y := { x with
      value := s.cairns[c].value + add, lastKind := BitVec.ofNat 4 kind, lastId := BitVec.ofNat 8 id
      lastAdd := add, sigCount := x.sigCount + 1 }
    if add = 0 then y else monAfter add.toNat { y with pubOwed := y.pubOwed || y.pubEn })) s

/-- The second part: each ring's head. -/
def ringsWoken (c : Cairn) (add value : Word) (s : State) : State :=
  (List.finRange 16).foldl (fun s r => ringWaitAfter c add.toNat value r s) s

/-- The last part: the signal is forwarded, unless it came over the Pair link, and waits of units end or shorten. -/
def spread (c : Cairn) (kind : Nat) (add : Word) (s : State) : State :=
  let s := if kind = 7 then s else (List.finRange 4).foldl (fun s e => forwardOn c add e s) s
  { s with ma := { s.ma with waits := s.ma.waits.filterMap (unitWaitAfter c add.toNat) } }

theorem applySignal_eq (c : Cairn) (kind id : Nat) (add : Word) (s : State) : applySignal c kind id add s
    = spread c kind add (ringsWoken c add (s.cairns[c].value + add) (valueRaised c kind id add s)) := rfl

theorem announcing_rest (v : Vec) (f : State → State) (s : State) : DataKept (f s) (announcing v f s) := by
  unfold announcing
  dsimp only
  split
  · exact msixFire_kept v _
  · exact .refl _

theorem valueRaised_rings (c : Cairn) (kind id : Nat) (add : Word) (s : State) :
    (valueRaised c kind id add s).rings = s.rings := (announcing_rest _ _ s).rings

theorem valueRaised_untouched (c : Cairn) (kind id : Nat) (add : Word) (s : State) :
    ArrayUntouched s (valueRaised c kind id add s) :=
  .of_rings (announcing_rest _ _ s).cfg (announcing_rest _ _ s).ma (valueRaised_rings c kind id add s)

/-- Forwarding queues the signal at a peer, or counts what is lost. -/
theorem forwardOn_kept (c : Cairn) (add : Word) (e : Peer) (s : State) :
    (forwardOn c add e s).rings = s.rings ∧ (forwardOn c add e s).ma = s.ma ∧ (forwardOn c add e s).cfg = s.cfg := by
  unfold forwardOn
  dsimp only
  split
  · exact ⟨rfl, rfl, rfl⟩
  · split
    · exact ⟨rfl, rfl, rfl⟩
    · split <;> simp
    · split <;> simp
    · exact ⟨rfl, rfl, rfl⟩

theorem forwardOn_untouched (c : Cairn) (add : Word) (s : State) (e : Peer) : ArrayUntouched s (forwardOn c add e s) :=
  have ⟨hr, hma, hcfg⟩ := forwardOn_kept c add e s
  .of_rings hcfg hma hr

theorem spread_rings (c : Cairn) (kind : Nat) (add : Word) (s : State) : (spread c kind add s).rings = s.rings := by
  unfold spread
  dsimp only
  split
  · rfl
  · exact foldl_keeps State.rings _ (fun s e => (forwardOn_kept c add e s).1) _ s

theorem spread_untouched (c : Cairn) (kind : Nat) (add : Word) (s : State) : ArrayUntouched s (spread c kind add s) := by
  have filtered : ∀ u : State, ArrayUntouched u
      { u with ma := { u.ma with waits := u.ma.waits.filterMap (unitWaitAfter c add.toNat) } } :=
    fun u => ⟨rfl, rfl, rfl, rfl, rfl, fun _ h => h⟩
  unfold spread
  dsimp only
  split
  · exact filtered s
  · exact (ArrayUntouched.foldl (forwardOn_untouched c add) _ s).trans (filtered _)

/-! ### A ring's head after a signal (R148, R156) -/

theorem ringWaitAfter_pending {s : State} {r : Ring} {w : Cmd} {rest : List Cmd} {d : Nat} {c : Cairn}
    (hq : s.rings[r].queue = w :: rest) (hd : w.remaining = some d) (hw : w.op = 6 ∧ w.f 0x10 1 = c.val) (add : Nat)
    (value : Word) : ringWaitAfter c add value r s = if d ≤ add then complete r w stOK value.toNat 1 s
      else modCmd r w.cid (fun w => { w with remaining := some (d - add) }) s := by
  unfold ringWaitAfter
  rw [hq]
  dsimp only
  rw [hd]
  dsimp only
  rw [if_pos hw]

/-- The three things a signal may do at a ring: nothing, the end of its head's WAIT, a shorter distance. -/
theorem ringWaitAfter_cases (c : Cairn) (add : Nat) (value : Word) (r : Ring) (s : State) :
    ringWaitAfter c add value r s = s ∨ (∃ w, ringWaitAfter c add value r s = complete r w stOK value.toNat 1 s)
      ∨ ∃ n left, ringWaitAfter c add value r s = modCmd r n (fun w => { w with remaining := left }) s := by
  unfold ringWaitAfter
  split
  · exact .inl rfl
  · split
    · exact .inl rfl
    · split
      · split
        · exact .inr (.inl ⟨_, rfl⟩)
        · exact .inr (.inr ⟨_, _, rfl⟩)
      · exact .inl rfl

theorem ringWaitAfter_others (c : Cairn) (add : Nat) (value : Word) (r : Ring) (s : State) :
    OtherRings s (ringWaitAfter c add value r s) r := by
  intro q hq
  obtain h | ⟨w, h⟩ | ⟨n, left, h⟩ := ringWaitAfter_cases c add value r s
  · rw [h]
  · rw [h, complete, pushEntry_others _ _ _ _ q hq]
  · rw [h, modCmd_others _ _ _ _ q hq]

theorem ringWaitAfter_untouched (c : Cairn) (add : Nat) (value : Word) (s : State) (r : Ring) :
    ArrayUntouched s (ringWaitAfter c add value r s) := by
  obtain h | ⟨w, h⟩ | ⟨n, left, h⟩ := ringWaitAfter_cases c add value r s
  · rw [h]
    exact .refl s
  · rw [h]
    exact complete_untouched _ _ _ _ _ s
  · rw [h]
    exact modCmd_untouched r n (f := fun w => { w with remaining := left }) (fun _ => rfl) s

/-- Of steps that each change their own ring, over rings all different, only its own changes ring `r`. -/
theorem foldl_own_ring {f : State → Ring → State} (hf : ∀ s q, OtherRings s (f s q) q) {r : Ring} {l : List Ring}
    (hl : l.Nodup) (s : State) : if r ∈ l then ∃ u, u.rings[r] = s.rings[r] ∧ (l.foldl f s).rings[r] = (f u r).rings[r]
      else (l.foldl f s).rings[r] = s.rings[r] := by
  induction l generalizing s with
  | nil => rw [if_neg (by simp)]; rfl
  | cons q l ih =>
    obtain ⟨hq, hl⟩ := List.nodup_cons.mp hl
    have tail := ih hl (f s q)
    rw [List.foldl_cons]
    by_cases hr : r = q
    · subst hr
      rw [if_neg hq] at tail
      rw [if_pos (by simp)]
      exact ⟨s, rfl, tail⟩
    · simpa only [List.mem_cons, hr, false_or, hf s q r hr] using tail

/-- What a signal does to a ring is what it does at that ring's head. -/
theorem applySignal_ring (c : Cairn) (kind id : Nat) (add : Word) (s : State) (r : Ring) :
    ∃ u, u.rings[r] = s.rings[r]
      ∧ (applySignal c kind id add s).rings[r] = (ringWaitAfter c add.toNat (s.cairns[c].value + add) r u).rings[r] := by
  have once := foldl_own_ring (r := r) (fun u q => ringWaitAfter_others c add.toNat (s.cairns[c].value + add) q u)
    (List.nodup_finRange 16) (valueRaised c kind id add s)
  rw [if_pos (List.mem_finRange r), valueRaised_rings] at once
  rwa [applySignal_eq, spread_rings]

theorem applySignal_untouched (c : Cairn) (kind id : Nat) (add : Word) (s : State) :
    ArrayUntouched s (applySignal c kind id add s) :=
  ((valueRaised_untouched c kind id add s).trans
    (ArrayUntouched.foldl (ringWaitAfter_untouched c add.toNat (s.cairns[c].value + add)) (List.finRange 16) _)).trans
    (spread_untouched c kind add _)

/-! ### A write to a signal page (R153) -/

/-- From RDY, with a bit-stream loaded, an aligned write of an ADD to a cairn's add word is a signal of the page's
tenant. -/
theorem exec_signalPageAdd_word {s : State} (t : Tenant) (c : Cairn) {v : Word} (hrdy : s.pw.rdy = true)
    (hl : s.cfg.loaded = true) (h0 : v ≠ 0) (h31 : bit v 31 = false) :
    exec (.signalPageAdd t (8 * c.val) 4 v) s = .next (resumeUnits (signalFrom t c 6 t.val v s)) := by
  have hc : 8 * c.val < 0x400 := by omega
  have word : ix 127 c.val = c := dif_pos c.isLt
  have write : pageWrite t (8 * c.val) 4 v s = signalFrom t c 6 t.val v s := by
    have applied : ¬ (v = 0 ∨ bit v 31 = true) := not_or.mpr ⟨h0, by simpa only [Bool.not_eq_true] using h31⟩
    simp only [pageWrite, signalFrom, hc, Nat.mul_div_cancel_left _ (show 0 < 8 by decide), word, hl, Nat.mul_mod_right,
      if_true, decide_true, BEq.rfl, Bool.and_true, Bool.true_eq_false, false_or, applied, if_false, ite_not]
  calc exec (.signalPageAdd t (8 * c.val) 4 v) s
      = .next (if s.pw.rdy = false then s else resumeUnits (pageWrite t (8 * c.val) 4 v s)) := rfl
    _ = _ := by rw [if_neg (by simp [hrdy]), write]

/-! ### A pending WAIT and the signal that reaches it (R148, R156) -/

section
variable {s : State} {r : Ring} {c : Cmd} {d : Nat} {k : Cairn} {add : Word} (h : Pre.pendingWait s r c d k)
  (hl : s.cfg.loaded = true) (h0 : add ≠ 0) (h31 : bit add 31 = false)
include h hl h0 h31

/-- A write to the signal page of the cairn's owner is the signal itself, and the units it wakes go on. -/
theorem ownPageAdd_goesOn : GoesOn s (applySignal k 6 s.cairns[k].owner.val add s)
    (exec (.signalPageAdd s.cairns[k].owner (8 * k.val) 4 add) s) := by
  refine (applySignal_untouched k 6 _ add s).goesOn ?_
  rw [exec_signalPageAdd_word _ _ h.1 hl h0 h31, signalFrom, if_pos rfl]

theorem pendingWait_satisfied (hd : d ≤ add.toNat) :
    ∃ t, GoesOn s t (exec (.signalPageAdd s.cairns[k].owner (8 * k.val) 4 add) s)
      ∧ Answered s t r c stOK (BitVec.ofNat 64 (s.cairns[k].value + add).toNat) 1 := by
  refine ⟨_, ownPageAdd_goesOn h hl h0 h31, ?_⟩
  obtain ⟨-, ⟨rest, hq⟩, hrem, hop, hk, htrunc⟩ := h
  obtain ⟨u, hu, ht⟩ := applySignal_ring k 6 s.cairns[k].owner.val add s r
  rw [ringWaitAfter_pending (hu ▸ hq) hrem ⟨hop, hk⟩, if_pos hd] at ht
  have answered : Answered u _ r c stOK _ 1 := complete_answers (d0 := (s.cairns[k].value + add).toNat) (d1 := 1)
    (hu ▸ hq) htrunc (by simp [usesArray, hop]) (by decide)
  exact answered_of_rings (by rw [hu]) ht rfl answered

theorem pendingWait_shortened (hd : add.toNat < d) :
    ∃ t c', GoesOn s t (exec (.signalPageAdd s.cairns[k].owner (8 * k.val) 4 add) s)
      ∧ t.rings[r].queue.head? = some c' ∧ c'.cid = c.cid ∧ c'.remaining = some (d - add.toNat)
      ∧ t.rings[r].waiting = s.rings[r].waiting := by
  refine ⟨_, { c with remaining := some (d - add.toNat) }, ownPageAdd_goesOn h hl h0 h31, ?_⟩
  obtain ⟨-, ⟨rest, hq⟩, hrem, hop, hk, -⟩ := h
  obtain ⟨u, hu, ht⟩ := applySignal_ring k 6 s.cairns[k].owner.val add s r
  rw [ringWaitAfter_pending (hu ▸ hq) hrem ⟨hop, hk⟩, if_neg (by omega)] at ht
  rw [ht, modCmd_queue_head (hu ▸ hq) rfl, modCmd_waiting, hu]
  exact ⟨rfl, rfl, rfl, rfl⟩

end

/-- Settles O16: a WAIT at the head by the class of its distance, a pending one by what a signal does at a ring's head. -/
theorem waitIsClassifiedAtHead : Obligations.WaitIsClassifiedAtHead :=
  ⟨fun _ _ _ h => ⟨wait_satisfied h, wait_outOfRange h, fun _ => wait_ahead h⟩, fun _ _ _ _ _ _ h hl h0 h31 =>
    ⟨pendingWait_satisfied h hl h0 h31, pendingWait_shortened h hl h0 h31⟩⟩

/-! ### A signal to another tenant's cairn (R155) -/

section
variable (c : Cairn) (kind id : Nat) (s : State)

theorem blockSignal_cairn : (blockSignal c kind id s).cairns[c] = { s.cairns[c] with
    xblock := satAdd s.cairns[c].xblock 1, blkKind := BitVec.ofNat 4 kind, blkId := BitVec.ofNat 8 id } := by
  rw [blockSignal, raiseEvent_cairns, State.onCairn_same]

theorem blockSignal_owner (k : Cairn) : (blockSignal c kind id s).cairns[k].owner = s.cairns[k].owner := by
  by_cases hk : k = c
  · rw [hk, blockSignal_cairn]
  · rw [blockSignal, raiseEvent_cairns, State.onCairn_other _ _ _ _ hk]

theorem blockSignal_st : (blockSignal c kind id s).st = s.st := by rw [blockSignal, raiseEvent_st]; rfl
theorem blockSignal_rings : (blockSignal c kind id s).rings = s.rings := by rw [blockSignal, raiseEvent_rings]; rfl
theorem blockSignal_cfg : (blockSignal c kind id s).cfg = s.cfg := by rw [blockSignal, raiseEvent_cfg]; rfl
theorem blockSignal_ma : (blockSignal c kind id s).ma = s.ma := by rw [blockSignal, raiseEvent_ma]; rfl
theorem blockSignal_tenants : (blockSignal c kind id s).tenants = s.tenants := (raiseEvent_kept _ _ _ _ _).tenants

theorem blockSignal_untouched : ArrayUntouched s (blockSignal c kind id s) :=
  .of_rings (blockSignal_cfg c kind id s) (blockSignal_ma c kind id s) (blockSignal_rings c kind id s)

theorem blockSignal_ringTenant (r : Ring) : (blockSignal c kind id s).ringTenant r = s.ringTenant r := by
  simp only [State.ringTenant, blockSignal_tenants]

end

theorem signalFrom_foreign {s : State} {t : Tenant} {c : Cairn} (h : s.cairns[c].owner ≠ t) (kind id : Nat) (add : Word) :
    signalFrom t c kind id add s = blockSignal c kind id s := if_neg h

/-! An event announces itself in the log, the management queue and the pins: the engine runs on. -/

theorem msixFire_running (v : Vec) (s : State) : (msixFire v s).running = s.running := by
  unfold msixFire
  split
  · rfl
  · split <;> rfl

theorem alertPin_running (s : State) : (alertPin s).running = s.running := by
  unfold alertPin
  dsimp only
  split <;> rfl

theorem offerEvent_running (e : EvRec) (s : State) : (offerEvent e s).running = s.running := by
  unfold offerEvent
  split
  · rfl
  · exact alertPin_running _

theorem logEvent_running (code : Nat) (u : Byte) (a0 a1 : Word) (s : State) :
    (logEvent code u a0 a1 s).running = s.running := by
  unfold logEvent
  dsimp only
  split
  · rfl
  · split
    · rfl
    · exact offerEvent_running _ _

theorem raiseEvent_running (code : Nat) (u : Byte) (a0 a1 : Word) (s : State) :
    (raiseEvent code u a0 a1 s).running = s.running := by
  unfold raiseEvent announcing
  dsimp only
  split
  · exact (msixFire_running _ _).trans (logEvent_running code u a0 a1 s)
  · exact logEvent_running code u a0 a1 s

theorem blockSignal_headCmd (c : Cairn) (kind id : Nat) (s : State) (r : Ring) :
    headCmd (blockSignal c kind id s) r = headCmd s r := by
  have running : (blockSignal c kind id s).running = s.running := raiseEvent_running _ _ _ _ _
  simp only [headCmd, running, blockSignal_rings]

/-! ### SIGNAL to another tenant's cairn -/

/-- Check 4 of Table 6-6 names the cairn's field. -/
theorem headCheck_foreignSignal {s : State} {r : Ring} {c : Cmd} (hop : c.op = 5) (hw : wellFormedTrb c.trb = true)
    (hl : s.cfg.loaded = true) (hk : c.f 0x10 1 ≤ 127) (ho : s.cairns[ix 127 (c.f 0x10 1)].owner ≠ s.ringTenant r) :
    headCheck s r c = some { status := stFOREIGN, d0 := 0x10 } := by
  have configured : unconfigured s r c = false := by simp [unconfigured, hop]
  have foreign : foreignField s r c = some 0x10 := by
    simp only [foreignField, hop, hk, decide_true, Bool.true_and, bne_iff_ne, ne_eq, ho, not_false_eq_true, if_true]
  unfold headCheck
  dsimp only
  rw [if_neg (by simp [hw]), if_neg (by simp [hl]), if_neg (by simp [configured]), foreign]

theorem exec_signal (r : Ring) (s : State) :
    exec (.signal r) s = .next (resumeUnits (headStep r 0x05 (signalAct r) (blockedAtHead r s))) := rfl

section
variable {s : State} {r : Ring} {c : Cmd} (hh : headCmd s r = some c) (hop : c.op = 5)
  (hp : s.rings[r].past.length < 64) (hs : c.started = false)
include hh hop hp hs

theorem blockedAtHead_foreign (hc : headCheck s r c = some { status := stFOREIGN, d0 := 0x10 }) :
    blockedAtHead r s = blockSignal (ix 127 (c.f 0x10 1)) 1 r.val s := by
  unfold blockedAtHead
  rw [hh]
  dsimp only
  rw [if_pos ⟨hop, by simp [hs], decide_eq_true hp⟩, hc]
  exact if_pos rfl

/-- A command that fails a check of Table 6-6 completes at once with that check's outcome (R108). -/
theorem headStep_refused {act : Cmd → State → State} {o : Outc} (hc : headCheck s r c = some o) :
    headStep r 0x05 act s = pushEntry r c o s := by
  unfold headStep
  rw [hh]
  dsimp only
  rw [if_neg (fun k => k.1 hop), if_neg (by omega), if_neg (by simp [hs]), hc]

/-- The foreign SIGNAL is counted as a blocked signal and completes FOREIGN, and no cairn's VALUE changes. -/
theorem foreignSignal_completes (hw : wellFormedTrb c.trb = true) (hl : s.cfg.loaded = true) (hk : c.f 0x10 1 ≤ 127)
    (ht : c.trunc = none) (ho : s.cairns[ix 127 (c.f 0x10 1)].owner ≠ s.ringTenant r) :
    ∃ t, GoesOn s t (exec (.signal r) s) ∧ Answered s t r c stFOREIGN 0x10 0
      ∧ t.cairns[ix 127 (c.f 0x10 1)].value = s.cairns[ix 127 (c.f 0x10 1)].value
      ∧ t.cairns[ix 127 (c.f 0x10 1)].xblock = satAdd s.cairns[ix 127 (c.f 0x10 1)].xblock 1 := by
  have hb := blockedAtHead_foreign hh hop hp hs (headCheck_foreignSignal hop hw hl hk ho)
  obtain ⟨u, hu⟩ : ∃ u, u = blockSignal (ix 127 (c.f 0x10 1)) 1 r.val s := ⟨_, rfl⟩
  have hrings : u.rings = s.rings := by rw [hu, blockSignal_rings]
  have hcu : headCheck u r c = some { status := stFOREIGN, d0 := 0x10 } := by
    refine headCheck_foreignSignal hop hw (by rw [hu, blockSignal_cfg, hl]) hk ?_
    rwa [hu, blockSignal_owner, blockSignal_ringTenant]
  have step : headStep r 0x05 (signalAct r) u = complete r c stFOREIGN 0x10 0 u :=
    headStep_refused (by rw [hu, blockSignal_headCmd, hh]) hop (by rw [hrings]; exact hp) hs hcu
  have untouched : ArrayUntouched s (complete r c stFOREIGN 0x10 0 u) :=
    .trans (by rw [hu]; exact blockSignal_untouched _ _ _ s) (complete_untouched r c _ _ _ u)
  obtain ⟨rest, hq⟩ := queue_of_headCmd hh
  have answered : Answered u _ r c stFOREIGN 0x10 0 := complete_answers (d0 := 0x10) (d1 := 0) (by rw [hrings]; exact hq)
    ht (by simp [usesArray, hop]) (by decide)
  refine ⟨_, untouched.goesOn (by rw [exec_signal, hb, ← hu, step]), answered_of_rings (by rw [hrings]) rfl rfl answered, ?_, ?_⟩
  · rw [complete, pushEntry_cairns, hu, blockSignal_cairn]
  · rw [complete, pushEntry_cairns, hu, blockSignal_cairn]

end

/-! ### A signal of a unit (R152) -/

/-- A running unit in ACTIVE that does not sleep signals under its tenant. -/
theorem exec_unitSignal {s : State} {u : SigUnit} (c : Cairn) {v : Word} (hrun : s.unitRuns u = true)
    (hawake : s.asleep u = false) (hactive : s.pw.pstate = .active) (h0 : v ≠ 0) (h31 : bit v 31 = false) :
    exec (.unitSignal u c v) s = .next (resumeUnits (signalFrom (s.unitTenant u) c (sigKind u) (sigId u) v s)) := by
  have up : wake s = s := by rw [wake, hactive]
  calc exec (.unitSignal u c v) s
      = .next (if s.unitRuns u ∧ !s.asleep u ∧ v ≠ 0 ∧ bit v 31 = false
          then resumeUnits (signalFrom (s.unitTenant u) c (sigKind u) (sigId u) v (wake s)) else s) := rfl
    _ = _ := by rw [if_pos ⟨hrun, by simp [hawake], h0, h31⟩, up]

/-- Settles O17: a blocked signal counts at the cairn and changes nothing else of it; pages and units signal through the
same operation, and a ring's SIGNAL is refused by check 4. -/
theorem foreignSignalsAreBlocked : Obligations.ForeignSignalsAreBlocked := by
  refine ⟨fun s t c kind id add ho => ?_, fun s t c v hrdy hl h0 h31 _ => ?_, fun s u c v hrun hawake hactive h0 h31 _ => ?_,
    fun s r c hh hop hp hs hw hl hk ht _ ho => ?_⟩
  · rw [signalFrom_foreign ho, blockSignal_cairn]
    exact ⟨rfl, rfl, blockSignal_st c kind id s⟩
  · exact exec_signalPageAdd_word t c hrdy hl h0 h31
  · exact exec_unitSignal c hrun hawake hactive h0 h31
  · exact foreignSignal_completes hh hop hp hs hw hl hk ht ho

end Sys2Proof.Proofs

/-! Events (19.5): what of the log each of the three fates of an event changes, and from that the statement about R387 to
R389. -/

namespace Sys2Proof.Proofs

open Sys2Proof Sys2Proof.Machine Sys2Proof.Safety Sys2Proof.Laws

/-! ### The log is written before an event is announced -/

theorem msixFire_wd (v : Vec) (s : State) : (msixFire v s).wd = s.wd := by
  unfold msixFire
  split
  · rfl
  · split <;> rfl

theorem alertPin_wd (s : State) : (alertPin s).wd = s.wd := by
  unfold alertPin
  dsimp only
  split <;> rfl

theorem offerEvent_wd (e : EvRec) (s : State) : (offerEvent e s).wd = s.wd := by
  unfold offerEvent
  split
  · rfl
  · exact alertPin_wd _

theorem raiseEvent_wd (code : Nat) (u : Byte) (a0 a1 : Word) (s : State) :
    (raiseEvent code u a0 a1 s).wd = (logEvent code u a0 a1 s).wd := by
  unfold raiseEvent announcing
  dsimp only
  split
  · exact msixFire_wd _ _
  · rfl

/-! ### The three fates of an event (R387 to R389) -/

/-- A record of the pair was written within the last 1 ms (R389). -/
def writtenRecently (s : State) (code : Nat) (u : Byte) : Bool :=
  s.wd.recent.any (fun x => x.1 == BitVec.ofNat 16 code && x.2.1 == u && decide (s.now < x.2.2 + 1000))

/-- The entry of the log that EVT_TAIL names. -/
def tailSlot (s : State) : Fin 256 := ix 255 (s.wd.eTail.toNat % 256)

/-- The record of an event (Table 19-4). -/
def eventRecord (s : State) (code : Nat) (u : Byte) (a0 a1 : Word) : EvRec :=
  { code := BitVec.ofNat 16 code, sev := eventSev code, unit := u, a0 := a0, a1 := a1, stamp := s.stamp }

/-- The watchdog block with a record at EVT_TAIL, EVT_TAIL on by one and the record's time under its pair (R387, R389). -/
def recordAtTail (s : State) (e : EvRec) : Watch :=
  { s.wd with
    log := modAt s.wd.log (tailSlot s) (fun _ => e)
    eTail := s.wd.eTail + 1
    recent := (e.code, e.unit, s.now) :: s.wd.recent.filter (fun x => decide (s.now < x.2.2 + 1000)) }

section
variable {s : State} {code : Nat} {u : Byte} (a0 a1 : Word)

theorem raiseEvent_suppressed (recent : writtenRecently s code u = true) :
    (raiseEvent code u a0 a1 s).wd = { s.wd with eSupp := satAdd s.wd.eSupp 1 } := by
  have suppressed : logEvent code u a0 a1 s = { s with wd := { s.wd with eSupp := satAdd s.wd.eSupp 1 } } := if_pos recent
  rw [raiseEvent_wd, suppressed]

theorem raiseEvent_lost (fresh : writtenRecently s code u = false) (full : s.wd.eTail - s.wd.eHead = 256) :
    (raiseEvent code u a0 a1 s).wd = { s.wd with eOvf := satAdd s.wd.eOvf 1 } := by
  have lost : logEvent code u a0 a1 s = { s with wd := { s.wd with eOvf := satAdd s.wd.eOvf 1 } } :=
    (if_neg (ne_true_of_eq_false fresh)).trans (if_pos full)
  rw [raiseEvent_wd, lost]

theorem raiseEvent_recorded (fresh : writtenRecently s code u = false) (room : s.wd.eTail - s.wd.eHead ≠ 256) :
    (raiseEvent code u a0 a1 s).wd = recordAtTail s (eventRecord s code u a0 a1) := by
  have recorded : logEvent code u a0 a1 s = offerEvent (eventRecord s code u a0 a1)
      { s with wd := recordAtTail s (eventRecord s code u a0 a1) } :=
    (if_neg (ne_true_of_eq_false fresh)).trans (if_neg room)
  rw [raiseEvent_wd, recorded, offerEvent_wd]

end

theorem recordAtTail_same (s : State) (e : EvRec) : (recordAtTail s e).log[tailSlot s] = e := modAt_same _ _ _

theorem recordAtTail_other (s : State) (e : EvRec) {i : Fin 256} (h : i ≠ tailSlot s) :
    (recordAtTail s e).log[i] = s.wd.log[i] := modAt_other _ _ _ _ h

/-- Settles O19: each fate's equation for the watchdog block gives its clause, and an event keeps everything that does
not announce it. -/
theorem eventsAreLoggedAtTail : Obligations.EventsAreLoggedAtTail := by
  intro s code u a0 a1
  have kept := raiseEvent_kept code u a0 a1 s
  refine ⟨fun recent => ?suppressed, fun fresh full => ?lost, fun fresh room => ?recorded,
    kept.rings, kept.cairns, ⟨kept.st, fun _ => by rw [kept.st]⟩, kept.cfg, kept.adm, kept.ma⟩
  case suppressed =>
    rw [raiseEvent_suppressed a0 a1 recent]
    exact ⟨rfl, rfl, rfl⟩
  case lost =>
    rw [raiseEvent_lost a0 a1 fresh full]
    exact ⟨rfl, rfl, rfl⟩
  case recorded =>
    rw [raiseEvent_recorded a0 a1 fresh room]
    have atTail := recordAtTail_same s (eventRecord s code u a0 a1)
    exact ⟨rfl, congrArg EvRec.code atTail, congrArg EvRec.unit atTail, congrArg EvRec.a0 atTail,
      congrArg EvRec.a1 atTail, List.mem_cons_self, fun i hi => recordAtTail_other s _ hi⟩

end Sys2Proof.Proofs

/-! The machine at rest: what one step is, and the state after reset. -/

namespace Sys2Proof.Proofs

open Sys2Proof Sys2Proof.Machine Sys2Proof.Safety Sys2Proof.Laws

/-- Settles O1. -/
theorem stepRunsFrontCommand : Obligations.StepRunsFrontCommand :=
  ⟨fun _ _ _ h => step_cons h, fun _ h => step_nil h⟩

/-- Settles O4: every clause is read off the reset values. -/
theorem resetMeetsInvariants : Obligations.ResetMeetsInvariants := by
  refine ⟨rfl, rfl, rfl, rfl, rfl, rfl, rfl, fun r => ?_, rfl, fun h => nomatch h⟩
  have ring : State.reset.rings[r] = { } := by
    simp [State.reset]
  rw [ring]
  exact ⟨rfl, rfl, rfl⟩

/-! ### What frame equations give -/

theorem storeKept_of_st {s t : State} (h : t.st = s.st) : StoreKept s t := ⟨h, fun a => by rw [h]⟩

theorem otherRings_of_rings {s t : State} (h : t.rings = s.rings) (r : Ring) : OtherRings s t r := fun q _ => by rw [h]

theorem onRing_otherRings (s : State) (r : Ring) (f : RingSt → RingSt) : OtherRings s (s.onRing r f) r :=
  fun q hq => State.onRing_other s r f q hq

end Sys2Proof.Proofs

/-! The registers of a ring (06, 07): the set-up of its completions, and the heads the host writes. -/

namespace Sys2Proof.Proofs

open Sys2Proof Sys2Proof.Machine Sys2Proof.Safety Sys2Proof.Laws

/-! ### The set-up of a ring's completions (R112) -/

/-- A register write from RDY is acted on. -/
theorem afterRdy {s t : State} (h : s.pw.rdy = true) :
    (Host.Outcome.next (if s.pw.rdy = false then s else t) : Host.Outcome State Fault Refusal) = .next t := by
  rw [if_neg (by simp [h])]

theorem exec_cplRingSetup {s : State} (h : s.pw.rdy = true) (r : Ring) (reg : CplReg) (v : Word) :
    exec (.cplRingSetup r reg v) s = .next (cplSetup r reg v s) := afterRdy h

/-- The set-up that waits at ring `r`, or the values in force where none does. -/
def setupOf (s : State) (r : Ring) : BitVec 20 × Word × BitVec 13 :=
  s.rings[r].setup.getD (s.rings[r].baseLo, s.rings[r].baseHi, s.rings[r].depth)

section
variable {s : State} {r : Ring} {v : Word} (hload : s.cfg.loading = false)
include hload

theorem cplSetup_baseLo : cplSetup r .baseLo v s = setExp .applied
    (s.onRing r fun x => { x with setup := some (fld v 12 20, (setupOf s r).2.1, (setupOf s r).2.2) }) :=
  if_neg (by simp [hload])

theorem cplSetup_baseHi : cplSetup r .baseHi v s = setExp .applied
    (s.onRing r fun x => { x with setup := some ((setupOf s r).1, v, (setupOf s r).2.2) }) :=
  if_neg (by simp [hload])

theorem cplSetup_depth_of_valid (hd : fld v 0 13 = 0 ∨ validDepth (fld v 0 13).toNat = true) :
    cplSetup r .depth v s = setExp .applied
      (s.onRing r fun x => { x with setup := some ((setupOf s r).1, (setupOf s r).2.1, fld v 0 13) }) :=
  (if_neg (by simp [hload])).trans (if_pos hd)

theorem cplSetup_depth_of_invalid (h0 : fld v 0 13 ≠ 0) (hd : validDepth (fld v 0 13).toNat = false) :
    cplSetup r .depth v s = setExp .range s :=
  (if_neg (by simp [hload])).trans (if_neg (not_or.mpr ⟨h0, by rw [hd]; decide⟩))

end

/-- At the ring's idle point, outside its reset and hold-up, what waits takes effect. -/
theorem exec_cplRingSetupTakesEffect {s : State} {r : Ring} (idle : s.rings[r].idlePoint = true)
    (reset : s.rings[r].inReset = false) (up : s.pw.phase ≠ .holdUp) :
    exec (.cplRingSetupTakesEffect r) s = .next (s.onRing r (·.applySetup)) :=
  congrArg _ (if_pos ⟨idle, by rw [reset]; rfl, up⟩)

theorem applySetup_of_some {x : RingSt} {lo : BitVec 20} {hi : Word} {d : BitVec 13} (h : x.setup = some (lo, hi, d)) :
    x.applySetup = { x with baseLo := lo, baseHi := hi, depth := d, setup := none, head := 0, tail := 0, phase := true
                            seq := 0, latches := 0, unconsumed := 0, faulted := false } := by
  rw [RingSt.applySetup, h]

/-- Settles O8: each register's write as `cplSetup` gives it, then the set-up in force at the idle point. -/
theorem ringSetupWaitsForIdlePoint : Obligations.RingSetupWaitsForIdlePoint := by
  intro s r v hrdy hload
  refine ⟨fun h0 hd => ?_, fun hd => ?_, ?_, ?_, fun lo hi d hs idle reset up => ?_⟩
  · rw [exec_cplRingSetup hrdy, cplSetup_depth_of_invalid hload h0 hd]
  · refine ⟨_, (exec_cplRingSetup hrdy r _ v).trans (congrArg _ (cplSetup_depth_of_valid hload hd)), ?_, ?_, rfl,
      onRing_otherRings s r _, storeKept_of_st rfl⟩ <;> simp [setExp]
  · refine ⟨_, (exec_cplRingSetup hrdy r _ v).trans (congrArg _ (cplSetup_baseLo hload)), ?_, ?_, onRing_otherRings s r _⟩ <;> simp [setExp]
  · refine ⟨_, (exec_cplRingSetup hrdy r _ v).trans (congrArg _ (cplSetup_baseHi hload)), ?_, ?_, onRing_otherRings s r _⟩ <;> simp [setExp]
  · refine ⟨_, exec_cplRingSetupTakesEffect idle reset up, ?_⟩
    rw [State.onRing_same, applySetup_of_some hs]
    exact ⟨rfl, rfl, rfl, rfl, rfl, rfl, rfl, rfl, onRing_otherRings s r _, storeKept_of_st rfl⟩

/-! ### Heads the host writes (R113, R134, R388) -/

/-- The entries that a write of CPL_HEAD would consume, with a ring in force. -/
def consumedBy (s : State) (r : Ring) (v : Word) : Nat :=
  ((fld v 0 12).toNat + s.rings[r].depth.toNat - s.rings[r].head.toNat) % s.rings[r].depth.toNat

section
variable {s : State} {r : Ring} {v : Word} (hload : s.cfg.loading = false)
include hload

theorem cplHead_of_written (h0 : 0 < s.rings[r].depth.toNat) (hi : (fld v 0 12).toNat < s.rings[r].depth.toNat)
    (hn : consumedBy s r v ≤ s.rings[r].unconsumed) :
    cplHead r v s = setExp .applied (s.onRing r fun x => { x with
      head := fld v 0 12, unconsumed := x.unconsumed - consumedBy s r v }) := by
  have free : ¬ (s.rings[r].depth.toNat ≤ (fld v 0 12).toNat ∨ s.rings[r].unconsumed < consumedBy s r v) := by omega
  exact (if_neg (by simp [hload])).trans ((if_neg h0.ne').trans (if_neg free))

theorem cplHead_of_unwritten (h0 : 0 < s.rings[r].depth.toNat)
    (hn : s.rings[r].unconsumed < consumedBy s r v ∨ s.rings[r].depth.toNat ≤ (fld v 0 12).toNat) :
    cplHead r v s = setExp .range s :=
  (if_neg (by simp [hload])).trans ((if_neg h0.ne').trans (if_pos hn.symm))

theorem deferHead_of_passing (h : (s.rings[r].dTail - s.rings[r].dHead).toNat < (fld v 8 7 - s.rings[r].dHead).toNat) :
    deferHead r v s = setExp .range s :=
  (if_neg (by simp [hload])).trans (if_pos h)

theorem deferHead_of_written (h : (fld v 8 7 - s.rings[r].dHead).toNat ≤ (s.rings[r].dTail - s.rings[r].dHead).toNat) :
    deferHead r v s = setExp .applied (s.onRing r fun x => { x with dHead := fld v 8 7 }) :=
  (if_neg (by simp [hload])).trans (if_neg h.not_gt)

end

/-- Settles O9: the three heads, each as its own function cuts the cases. -/
theorem headsFreeOnlyWrittenEntries : Obligations.HeadsFreeOnlyWrittenEntries := by
  refine ⟨fun s r v hrdy hload h0 => ⟨fun hi hn => ?_, fun hn => ?_⟩,
    fun s r v hrdy => ⟨fun hload h => ?_, fun hload h => ?_, fun h => ?_, fun h => ?_⟩⟩
  · exact (afterRdy hrdy).trans (congrArg _ (cplHead_of_written hload h0 hi hn))
  · exact (afterRdy hrdy).trans (congrArg _ (cplHead_of_unwritten hload h0 hn))
  · exact (afterRdy hrdy).trans (congrArg _ (deferHead_of_passing hload h))
  · exact (afterRdy hrdy).trans (congrArg _ (deferHead_of_written hload h))
  · exact (afterRdy hrdy).trans (congrArg _ (if_pos h))
  · exact (afterRdy hrdy).trans (congrArg _ (if_neg h.not_gt))

end Sys2Proof.Proofs

/-! A command latched (06, 07): what a write to TRB_GO with READY 1 leaves, and how an ABORT_TAG is answered. -/

namespace Sys2Proof.Proofs

open Sys2Proof Sys2Proof.Machine Sys2Proof.Safety Sys2Proof.Laws

/-! ### An access out of NAP changes crags alone (R28, R29) -/

/-- What is no part of the Massif, of power or of the free values stays. -/
structure MassifOnly (s t : State) : Prop where
  rings : t.rings = s.rings
  cairns : t.cairns = s.cairns
  st : t.st = s.st
  nextCid : t.nextCid = s.nextCid
  now : t.now = s.now
  tenants : t.tenants = s.tenants
  cfg : t.cfg = s.cfg

theorem reloadCrag_massifOnly (s : State) (n : Crag) : MassifOnly s (reloadCrag s n) := by constructor <;> rfl

theorem reloadCrags_massifOnly (l : List Crag) (s : State) : MassifOnly s (l.foldl reloadCrag s) where
  rings := foldl_keeps State.rings _ (fun s n => (reloadCrag_massifOnly s n).rings) l s
  cairns := foldl_keeps State.cairns _ (fun s n => (reloadCrag_massifOnly s n).cairns) l s
  st := foldl_keeps State.st _ (fun s n => (reloadCrag_massifOnly s n).st) l s
  nextCid := foldl_keeps State.nextCid _ (fun s n => (reloadCrag_massifOnly s n).nextCid) l s
  now := foldl_keeps State.now _ (fun s n => (reloadCrag_massifOnly s n).now) l s
  tenants := foldl_keeps State.tenants _ (fun s n => (reloadCrag_massifOnly s n).tenants) l s
  cfg := foldl_keeps State.cfg _ (fun s n => (reloadCrag_massifOnly s n).cfg) l s

theorem wake_massifOnly (s : State) : MassifOnly s (wake s) := by
  unfold wake
  split
  · constructor <;> rfl
  · constructor <;> rfl
  · obtain ⟨hr, hc, hs, hn, ht, hten, hcfg⟩ := reloadCrags_massifOnly (List.finRange 32)
      { s with pw := { s.pw with pstate := .active, reqPend := s.pw.stateReq == 2 } }
    exact ⟨hr, hc, hs, hn, ht, hten, hcfg⟩

theorem wakeNap_massifOnly (s : State) : MassifOnly s (wakeNap s) := by
  unfold wakeNap
  split
  · exact wake_massifOnly s
  · constructor <;> rfl

/-! ### A command joins its ring (R103, R109) -/

theorem execTrbGo_ready {s : State} {r : Ring} {v : Word} (hrdy : s.pw.rdy = true) (hgo : bit v 0 = true)
    (hready : s.readyBit r = true) : exec (.trbGo r v) s = .next (latch r (wakeNap s)) := by
  have acted : ¬ (s.pw.rdy = false ∨ bit v 0 = false) := by simp [hrdy, hgo]
  rw [exec_trbGo, execTrbGo, if_neg acted, if_pos hready]

/-- The command a latch makes of the TRB bytes as they stand; a FENCE takes its scope with it (R120). -/
def latched (s : State) (r : Ring) : Cmd :=
  let c : Cmd := { cid := s.nextCid, latchNo := s.rings[r].latches % 65536, trb := s.rings[r].trb
                   durable := s.rings[r].durable || bit s.rings[r].trb 8 }
  let sc := if c.op = 0x04 then fenceScope s r c else ([], [])
  { c with scopeWait := sc.1, scope := sc.2 }

/-- The ring counts one more latch, and a stall window may start. -/
def counted (s : State) (r : Ring) : State :=
  State.onRing { s with nextCid := s.nextCid + 1 } r fun y => startStall s.now s.rings[r].busy { y with
    latches := y.latches + 1
    uncovered := if coveredOp (latched s r).op then y.uncovered ++ [((latched s r).cid, (latched s r).tag)]
                 else y.uncovered }

theorem latch_eq (r : Ring) (s : State) : latch r s =
    let s3 := if (latched s r).op = 0x30 then latchAbort r (latched s r) (counted s r)
      else (counted s r).onRing r (fun y => { y with queue := y.queue ++ [latched s r] })
    if (latched s r).op = 0x40 then busyOn 2 { s3 with cfg := { s3.cfg with loading := true } }
    else if (latched s r).op = 0x10 then markStep (s.ringTenant r) s3 else s3 := rfl

theorem startStall_queue (now : Nat) (was : Bool) (x : RingSt) : (startStall now was x).queue = x.queue := by
  unfold startStall; split <;> rfl
theorem startStall_past (now : Nat) (was : Bool) (x : RingSt) : (startStall now was x).past = x.past := by
  unfold startStall; split <;> rfl
theorem startStall_trb (now : Nat) (was : Bool) (x : RingSt) : (startStall now was x).trb = x.trb := by
  unfold startStall; split <;> rfl
theorem startStall_waiting (now : Nat) (was : Bool) (x : RingSt) : (startStall now was x).waiting = x.waiting := by
  unfold startStall; split <;> rfl
theorem startStall_aborts (now : Nat) (was : Bool) (x : RingSt) : (startStall now was x).aborts = x.aborts := by
  unfold startStall; split <;> rfl

section
variable (s : State) (r : Ring)

theorem latched_trb : (latched s r).trb = s.rings[r].trb := rfl
theorem latched_op : (latched s r).op = trbN s.rings[r].trb 0 1 := rfl

theorem counted_queue : (counted s r).rings[r].queue = s.rings[r].queue := by
  rw [counted, State.onRing_same, startStall_queue]
theorem counted_past : (counted s r).rings[r].past = s.rings[r].past := by
  rw [counted, State.onRing_same, startStall_past]
theorem counted_trb : (counted s r).rings[r].trb = s.rings[r].trb := by
  rw [counted, State.onRing_same, startStall_trb]
theorem counted_waiting : (counted s r).rings[r].waiting = s.rings[r].waiting := by
  rw [counted, State.onRing_same, startStall_waiting]
theorem counted_aborts : (counted s r).rings[r].aborts = s.rings[r].aborts := by
  rw [counted, State.onRing_same, startStall_aborts]
theorem counted_others : OtherRings s (counted s r) r := fun q hq => State.onRing_other _ r _ q hq

end

/-- A latched command other than ABORT_TAG joins the end of its ring's queue. -/
theorem latch_queues {s : State} {r : Ring} (h : trbN s.rings[r].trb 0 1 ≠ 0x30) :
    (latch r s).rings = ((counted s r).onRing r (fun y => { y with queue := y.queue ++ [latched s r] })).rings
      ∧ (latch r s).cairns = s.cairns ∧ (latch r s).st = s.st ∧ (latch r s).nextCid = s.nextCid + 1 := by
  rw [latch_eq]
  dsimp only
  rw [if_neg (show ¬ (latched s r).op = 0x30 from h)]
  split
  · rename_i hload
    have k := busyOn_kept 2 { ((counted s r).onRing r fun y => { y with queue := y.queue ++ [latched s r] }) with
      cfg := { s.cfg with loading := true } }
    exact ⟨k.rings, k.cairns, k.st, k.nextCid⟩
  · split <;> exact ⟨rfl, rfl, rfl, rfl⟩

theorem trbGo_queues {s : State} {r : Ring} {v : Word} (h : Pre.trbGo s r v) :
    ∃ t c, exec (.trbGo r v) s = .next t ∧ t.rings[r].queue = s.rings[r].queue ++ [c] ∧ c.trb = s.rings[r].trb
      ∧ c.cid = s.nextCid ∧ c.latchNo = s.rings[r].latches % 65536 ∧ t.nextCid = s.nextCid + 1
      ∧ t.rings[r].trb = s.rings[r].trb ∧ t.rings[r].waiting = s.rings[r].waiting
      ∧ OtherRings s t r ∧ t.cairns = s.cairns ∧ StoreKept s t := by
  obtain ⟨hrdy, hgo, hready, hop⟩ := h
  obtain ⟨hr, hc, hs, hn, -⟩ := wakeNap_massifOnly s
  have awake : (wakeNap s).rings[r] = s.rings[r] := by rw [hr]
  obtain ⟨lr, lc, ls, ln⟩ := latch_queues (s := wakeNap s) (r := r) (by rwa [awake])
  refine ⟨_, latched (wakeNap s) r, execTrbGo_ready hrdy hgo hready, ?_, ?_, hn, ?_, by rw [ln, hn], ?_, ?_, ?_,
    lc.trans hc, storeKept_of_st (ls.trans hs)⟩
  · rw [lr, State.onRing_same, counted_queue, awake]
  · rw [latched_trb, awake]
  · exact congrArg (fun x : RingSt => x.latches % 65536) awake
  · rw [lr, State.onRing_same, counted_trb, awake]
  · rw [lr, State.onRing_same, counted_waiting, awake]
  · intro q hq
    rw [lr, State.onRing_other _ _ _ _ hq, counted_others _ _ q hq, hr]

/-- An ABORT_TAG latched on a ring that holds nothing finds no target. -/
theorem latchAbort_of_empty {s : State} {r : Ring} {c : Cmd} (hq : s.rings[r].queue = []) (hp : s.rings[r].past = [])
    (ha : s.rings[r].aborts = []) (hw : s.rings[r].waiting = []) : latchAbort r c s = s.onRing r fun x =>
      { x with aborts := x.aborts ++ [{ cmd := c, reject := !wellFormedTrb c.trb, resetOnly := s.rings[r].resetOnly }] } := by
  unfold latchAbort
  simp only [hq, hp, ha, hw, List.nil_append, List.flatMap_nil, List.map_nil, List.filter_nil, List.foldl_nil,
    Option.isSome_none, Option.map_none, Option.getD_none]

theorem trbGo_latchesAbort {s : State} {r : Ring} {v : Word} (h : Pre.trbGoAbort s r v) :
    ∃ t a, exec (.trbGo r v) s = .next t ∧ t.rings[r].aborts = [a] ∧ a.cmd.trb = s.rings[r].trb
      ∧ a.found = false ∧ a.caught = none ∧ a.reject = !wellFormedTrb s.rings[r].trb ∧ t.rings[r].queue = []
      ∧ OtherRings s t r ∧ StoreKept s t := by
  obtain ⟨hrdy, hgo, hready, hop, hq, hp, hw, ha⟩ := h
  obtain ⟨hr, hc, hs, -⟩ := wakeNap_massifOnly s
  have awake : (wakeNap s).rings[r] = s.rings[r] := by rw [hr]
  have latch : latch r (wakeNap s) = latchAbort r (latched (wakeNap s) r) (counted (wakeNap s) r) := by
    have op : (latched (wakeNap s) r).op = 0x30 := by rw [latched_op, awake, hop]
    rw [latch_eq, if_pos op]
    dsimp only
    rw [op, if_neg (by decide), if_neg (by decide)]
  rw [latchAbort_of_empty (by rw [counted_queue, awake, hq]) (by rw [counted_past, awake, hp])
    (by rw [counted_aborts, awake, ha]) (by rw [counted_waiting, awake, hw])] at latch
  refine ⟨_,
    { cmd := latched (wakeNap s) r, reject := !wellFormedTrb (latched (wakeNap s) r).trb
      resetOnly := (counted (wakeNap s) r).rings[r].resetOnly },
    (execTrbGo_ready hrdy hgo hready).trans (congrArg _ latch), ?_, ?_, rfl, rfl, ?_, ?_, ?_, storeKept_of_st hs⟩
  · rw [State.onRing_same, counted_aborts, awake, ha]
    rfl
  · rw [latched_trb, awake]
  · rw [latched_trb, awake]
  · rw [State.onRing_same, counted_queue, awake, hq]
  · intro q hq
    rw [State.onRing_other _ _ _ _ hq, counted_others _ _ q hq, hr]

/-- Settles O5: a latch of a queued command, and one of ABORT_TAG on a ring that holds nothing. -/
theorem trbGoLatchesCommand : Obligations.TrbGoLatchesCommand :=
  ⟨fun _ _ _ h => trbGo_queues h, fun _ _ _ h => trbGo_latchesAbort h⟩

/-! ### An ABORT_TAG answered (R138, R139) -/

theorem drop_of_absent {x : RingSt} {n : Nat} (h : x.find n = none) : x.drop n = x := by
  unfold RingSt.find at h
  split at h
  · cases h
  next hq =>
    have keep : ∀ l : List Cmd, l.find? (·.cid == n) = none → l.filter (·.cid != n) = l := by
      intro l hl
      refine List.filter_eq_self.mpr fun c hc => ?_
      simpa using List.find?_eq_none.mp hl c hc
    rw [RingSt.drop, keep _ hq, keep _ h]

/-- A status that no cut message and no failed beat touches is the entry's (R115). -/
theorem entryFor_other {s : State} {r : Ring} {c : Cmd} {o : Outc} (hok : o.status ≠ stOK) (hpo : o.status ≠ stPOISONED)
    (hd : o.status ≠ stDISCARDED) : entryFor s r c o = { entryOf c o with done := min (doneUnits s r c) 0xFFFFFFFF } := by
  have bad : withBad c o = o := by
    unfold withBad
    rw [if_neg hok, if_neg hpo, ite_self]
  have cut : withTrunc c o = o := by
    unfold withTrunc
    split
    · exact if_neg fun h => hok h.1
    · rfl
  simp only [entryFor, bad, cut, if_neg hd]

theorem entryFor_caught (s : State) (r : Ring) (c : Cmd) (d0 d1 : Nat) :
    entryFor s r c { status := stCAUGHT, d0, d1 }
      = { entryOf c { status := stCAUGHT, d0, d1 } with done := min (doneUnits s r c) 0xFFFFFFFF } :=
  have caught : stCAUGHT ≠ stOK ∧ stCAUGHT ≠ stPOISONED ∧ stCAUGHT ≠ stDISCARDED := by decide
  entryFor_other caught.1 caught.2.1 caught.2.2

/-- An entry of a command that holds no queue entry: only the entries that wait change. -/
theorem complete_absent {s : State} {r : Ring} {c : Cmd} (status : Byte) (d0 d1 : Nat) (hf : s.rings[r].find c.cid = none) :
    (complete r c status d0 d1 s).rings[r] = { s.rings[r] with
      waiting := s.rings[r].waiting ++ [entryFor s r (stopWaiting s.now c) { status, d0, d1 }] } := by
  rw [pushEntry_rings, modAt_same]
  simp only [hf, Option.getD_none, (stopWaiting_sameWork s.now c).cid]
  exact drop_of_absent hf

theorem stopWaiting_tag (now : Nat) (c : Cmd) : (stopWaiting now c).tag = c.tag := (stopWaiting_sameWork now c).tag

section
variable {s : State} {r : Ring} {a : AbortRec} {rest : List AbortRec}

theorem exec_abortTag (h : Up s) (hr : s.rings[r].inReset = false) (ha : s.rings[r].aborts = a :: rest) :
    exec (.abortTag r) s = .next (answerAbort r a (s.onRing r fun x => { x with aborts := rest })) := by
  change Host.Outcome.next _ = _
  rw [if_neg (by simp only [h.1, h.2, hr]; simp), ha]

/-- The record taken from the ring answers its ABORT_TAG: one entry, and nothing else changes. -/
theorem abort_answered {status : Byte} {d0 d1 : Nat} (hf : s.rings[r].find a.cmd.cid = none) (hok : status ≠ stOK)
    (hpo : status ≠ stPOISONED) (hd : status ≠ stDISCARDED) :
    let t := complete r a.cmd status d0 d1 (s.onRing r fun x => { x with aborts := rest })
    Answered s t r a.cmd status (BitVec.ofNat 64 d0) (BitVec.ofNat 32 d1) ∧ t.rings[r].queue = s.rings[r].queue
      ∧ t.rings[r].past = s.rings[r].past ∧ t.rings[r].aborts = rest ∧ OtherRings s t r ∧ StoreKept s t := by
  intro t
  have ring := complete_absent (s := s.onRing r fun x => { x with aborts := rest }) (r := r) (c := a.cmd) status d0 d1
    (by rw [State.onRing_same]; exact hf)
  rw [State.onRing_same, entryFor_other hok hpo hd] at ring
  refine ⟨⟨_, by rw [ring], ?_⟩, by rw [ring], by rw [ring], by rw [ring], ?_, storeKept_of_st (pushEntry_st _ _ _ _)⟩
  · exact ⟨stopWaiting_tag _ _, rfl, rfl, rfl, rfl⟩
  · intro q hq
    rw [pushEntry_others _ _ _ _ q hq, State.onRing_other _ _ _ _ hq]

/-- In TAG mode the caught command's own entry comes first. -/
theorem abort_caught {d : Cmd} {d0 d1 : Nat} (hf : s.rings[r].find a.cmd.cid = none) (hd : s.rings[r].find d.cid = none) :
    let t := complete r a.cmd stCAUGHT d0 d1 (complete r d stCAUGHT 0 0 (s.onRing r fun x => { x with aborts := rest }))
    ∃ e1 e2, t.rings[r].waiting = s.rings[r].waiting ++ [e1, e2] ∧ e1.tag = d.tag ∧ e1.status = stCAUGHT
      ∧ e2.tag = a.cmd.tag ∧ e2.status = stCAUGHT ∧ t.rings[r].aborts = rest ∧ OtherRings s t r ∧ StoreKept s t := by
  intro t
  have first := complete_absent (s := s.onRing r fun x => { x with aborts := rest }) (r := r) (c := d) stCAUGHT 0 0
    (by rw [State.onRing_same]; exact hd)
  have second := complete_absent (s := complete r d stCAUGHT 0 0 (s.onRing r fun x => { x with aborts := rest }))
    (r := r) (c := a.cmd) stCAUGHT d0 d1 (by rw [first, State.onRing_same]; exact hf)
  rw [first, State.onRing_same] at second
  refine ⟨_, _, (congrArg RingSt.waiting second).trans (List.append_assoc _ _ _), ?_, ?_, ?_, ?_,
    congrArg RingSt.aborts second, ?_, ?_⟩
  · rw [entryFor_caught]
    exact stopWaiting_tag _ _
  · rw [entryFor_caught]
    rfl
  · rw [entryFor_caught]
    exact stopWaiting_tag _ _
  · rw [entryFor_caught]
    rfl
  · intro q hq
    rw [pushEntry_others _ _ _ _ q hq, pushEntry_others _ _ _ _ q hq, State.onRing_other _ _ _ _ hq]
  · exact storeKept_of_st ((pushEntry_st _ _ _ _).trans (pushEntry_st _ _ _ _))

end

/-- Settles O10: the four ways `answerAbort` goes. -/
theorem abortTagIsAnswered : Obligations.AbortTagIsAnswered := by
  rintro s r a rest ⟨up, hreset, ha, -, -, hf⟩
  have step := exec_abortTag up hreset ha
  unfold answerAbort at step
  dsimp only at step
  refine ⟨fun rej => ?_, fun rej ro => ?_, fun rej ro miss => ?_, fun d rej ro hit hop htr hd => ?_⟩
  · rw [if_pos rej] at step
    exact ⟨_, step, abort_answered hf (by decide) (by decide) (by decide)⟩
  · rw [if_neg (by simp [rej]), if_pos ro] at step
    exact ⟨_, step, abort_answered hf (by decide) (by decide) (by decide)⟩
  · rw [if_neg (by simp [rej]), if_neg (by simp [ro]), miss] at step
    obtain ⟨answered, -, -, gone, others, kept⟩ := abort_answered (s := s) (r := r) (rest := rest) (status := stMISSED)
      (d0 := a.cmd.f 0x10 2 + if a.found then 65536 else 0) (d1 := if a.found then a.targetNo else 0)
      hf (by decide) (by decide) (by decide)
    exact ⟨_, step, answered, gone, others, kept⟩
  · rw [if_neg (by simp [rej]), if_neg (by simp [ro]), hit] at step
    obtain ⟨e1, e2, rest⟩ := abort_caught (s := s) (r := r) (rest := rest) (a := a) (d := d)
      (d0 := a.cmd.f 0x10 2 + if a.found then 65536 else 0) (d1 := if a.found then a.targetNo else 0) hf hd
    exact ⟨_, e1, e2, step, rest⟩

end Sys2Proof.Proofs

/-! What an announcement leaves: everything but the records that leave the engine, the event log, the management queue,
the MSI-X table and the alert pin. -/

namespace Sys2Proof.Proofs

open Sys2Proof Sys2Proof.Machine Sys2Proof.Safety Sys2Proof.Laws

/-- The state without the parts in which an event announces itself. -/
def quiet (s : State) : State :=
  { s with
    bus := []
    pw := { s.pw with smbAlert := false }
    link := { s.link with msix := Vector.replicate 18 {} }
    wd := { s.wd with log := Vector.replicate 256 {}, eTail := 0, eSupp := 0, eOvf := 0, recent := [] }
    mg := { s.mg with waiting := [] } }

theorem msixFire_quiet (v : Vec) (s : State) : quiet (msixFire v s) = quiet s := by
  unfold msixFire
  split
  · rfl
  · split <;> rfl

theorem announcing_quiet (v : Vec) (f : State → State) (s : State) : quiet (announcing v f s) = quiet (f s) := by
  unfold announcing
  dsimp only
  split
  · exact msixFire_quiet v _
  · rfl

theorem alertPin_quiet (s : State) : quiet (alertPin s) = quiet s := by
  unfold alertPin
  dsimp only
  split <;> rfl

theorem offerEvent_quiet (e : EvRec) (s : State) : quiet (offerEvent e s) = quiet s := by
  unfold offerEvent
  split
  · rfl
  · exact alertPin_quiet _

theorem logEvent_quiet (code : Nat) (u : Byte) (a0 a1 : Word) (s : State) : quiet (logEvent code u a0 a1 s) = quiet s := by
  unfold logEvent
  dsimp only
  split
  · rfl
  · split
    · rfl
    · exact offerEvent_quiet _ _

theorem raiseEvent_quiet (code : Nat) (u : Byte) (a0 a1 : Word) (s : State) : quiet (raiseEvent code u a0 a1 s) = quiet s :=
  (announcing_quiet _ _ s).trans (logEvent_quiet code u a0 a1 s)

/-! ### The records that leave stay in their order -/

theorem msixFire_bus (v : Vec) (s : State) : s.bus <+: (msixFire v s).bus := by
  unfold msixFire
  split
  · exact List.prefix_rfl
  · split
    · exact List.prefix_rfl
    · exact List.prefix_append _ _

theorem announcing_bus (v : Vec) (f : State → State) (s : State) : (f s).bus <+: (announcing v f s).bus := by
  unfold announcing
  dsimp only
  split
  · exact msixFire_bus v _
  · exact List.prefix_rfl

theorem alertPin_bus (s : State) : s.bus <+: (alertPin s).bus := by
  unfold alertPin
  dsimp only
  split
  · exact List.prefix_rfl
  · exact List.prefix_append _ _

theorem offerEvent_bus (e : EvRec) (s : State) : s.bus <+: (offerEvent e s).bus := by
  unfold offerEvent
  split
  · exact List.prefix_append _ _
  · refine List.IsPrefix.trans ?_ (alertPin_bus _)
    exact List.prefix_rfl

theorem logEvent_bus (code : Nat) (u : Byte) (a0 a1 : Word) (s : State) : s.bus <+: (logEvent code u a0 a1 s).bus := by
  unfold logEvent
  dsimp only
  split
  · exact List.prefix_rfl
  · split
    · exact List.prefix_rfl
    · refine List.IsPrefix.trans ?_ (offerEvent_bus _ _)
      exact List.prefix_rfl

theorem raiseEvent_bus (code : Nat) (u : Byte) (a0 a1 : Word) (s : State) : s.bus <+: (raiseEvent code u a0 a1 s).bus :=
  (logEvent_bus code u a0 a1 s).trans (announcing_bus _ _ s)

end Sys2Proof.Proofs

/-! Completion entries (06, 07): where COMPLETION_ENTRY_WRITE puts them, and what it does where it cannot. -/

namespace Sys2Proof.Proofs

open Sys2Proof Sys2Proof.Machine Sys2Proof.Safety Sys2Proof.Laws

/-! ### A ring after an entry is written (R113, R122, R127, R132) -/

/-- The ring's uncovered set without what the entry covers (R122). -/
def covered (e : Entry) (x : RingSt) : RingSt :=
  { x with uncovered := if e.covers = [] ∨ e.status ≠ stOK then x.uncovered
                        else x.uncovered.filter (fun p => !e.covers.contains p.1) }

/-- FENCEs still queued learn that the entry's command completed. -/
def toldFences (e : Entry) (x : RingSt) : RingSt :=
  { x with queue :=
      if e.last then x.queue.map (fun c => if c.scope.contains e.cid then
        { c with scopeWait := c.scopeWait.filter (· != e.cid), scopeBad := c.scopeBad || !(e.status == 0) } else c)
      else if e.status = 0 then x.queue
      else x.queue.map (fun c => if c.scope.contains e.cid then { c with scopeBad := true } else c) }

theorem coverBy_ring (e : Entry) (s : State) (q : Ring) : (coverBy e s).rings[q] = covered e s.rings[q] := by
  unfold coverBy covered
  split
  · rfl
  · exact mapBank_getElem _ _ q

/-- The entry's address and attributes, as the ATPU gives them. -/
def entryTarget (s : State) (r : Ring) : Nat × Tlp :=
  match s.fate (s.ringKey r) s.rings[r].entryAddr true false with
  | .go xa t => (xa, t)
  | _ => (s.rings[r].entryAddr, {})

/-- The record of an entry's write. -/
def entryWritten (s : State) (r : Ring) (e : Entry) : BusOut :=
  .entry r.val (entryTarget s r).1 (entryBits e s.rings[r].seq s.rings[r].phase s.rings[r].deferOwed) (entryTarget s r).2

theorem writeEntry_eq (r : Ring) (e : Entry) (s : State) : writeEntry r e s =
    let s2 := announcing ⟨r.val, by omega⟩ (fun s => s.onRing r (·.afterEntry s.now e))
      (emit (entryWritten s r e) (coverBy e s))
    if e.last then leaveScopes e.cid (e.status == 0) s2
    else if e.status = 0 then s2 else spoilScopes e.cid s2 := rfl

section
variable (r : Ring) (e : Entry) (s : State)

/-- What the entry's write leaves of the rings: the covered sets, the ring's registers, the FENCEs told. -/
theorem writeEntry_ring (q : Ring) : (writeEntry r e s).rings[q] = toldFences e
    (if q = r then (covered e s.rings[r]).afterEntry s.now e else covered e s.rings[q]) := by
  have now : (coverBy e s).now = s.now := by unfold coverBy; split <;> rfl
  have written : ∀ t : State, t.rings = (announcing ⟨r.val, by omega⟩ (fun s => s.onRing r (·.afterEntry s.now e))
      (emit (entryWritten s r e) (coverBy e s))).rings →
      t.rings[q] = if q = r then (covered e s.rings[r]).afterEntry s.now e else covered e s.rings[q] := by
    intro t ht
    rw [ht, (announcing_rest _ _ _).rings]
    by_cases hq : q = r
    · subst hq
      rw [if_pos rfl, State.onRing_same, ← coverBy_ring, ← now]
      rfl
    · rw [if_neg hq, State.onRing_other _ _ _ _ hq, ← coverBy_ring]
      rfl
  rw [writeEntry_eq]
  dsimp only
  by_cases hl : e.last = true
  · simp only [if_pos hl, leaveScopes, mapBank_getElem, written _ rfl, toldFences]
  · by_cases h0 : e.status = 0
    · rw [if_neg hl, if_pos h0, written _ rfl, toldFences, if_neg hl, if_pos h0]
    · simp only [if_neg hl, if_neg h0, spoilScopes, mapBank_getElem, written _ rfl, toldFences]

theorem writeEntry_kept : (writeEntry r e s).st = s.st ∧ (writeEntry r e s).cairns = s.cairns := by
  have k := announcing_rest ⟨r.val, by omega⟩ (fun s => s.onRing r (·.afterEntry s.now e))
    (emit (entryWritten s r e) (coverBy e s))
  have cover : (coverBy e s).st = s.st ∧ (coverBy e s).cairns = s.cairns := by unfold coverBy; split <;> exact ⟨rfl, rfl⟩
  have shown := And.intro (k.st.trans cover.1) (k.cairns.trans cover.2)
  rw [writeEntry_eq]
  dsimp only
  split
  · exact shown
  · split
    · exact shown
    · exact shown

theorem writeEntry_mem_bus : entryWritten s r e ∈ (writeEntry r e s).bus := by
  have shown := (announcing_bus ⟨r.val, by omega⟩ (fun s => s.onRing r (·.afterEntry s.now e))
    (emit (entryWritten s r e) (coverBy e s))).subset (a := entryWritten s r e) (by simp [emit])
  rw [writeEntry_eq]
  dsimp only
  split
  · exact shown
  · split
    · exact shown
    · exact shown

end

/-! ### COMPLETION_ENTRY_WRITE by the fate of its write -/

section
variable {s : State} {r : Ring} {e : Entry} {rest : List Entry} (h : Pre.entry s r e rest)
include h

theorem exec_completionEntryWrite : exec (.completionEntryWrite r) s =
    .next (match s.fate (s.ringKey r) s.rings[r].entryAddr true false with
      | .fail c => entryFault r c s
      | .wait => askTranslation (s.ringKey r) s.rings[r].entryAddr true s
      | .go .. => writeEntry r e (s.onRing r (fun x => { x with waiting := rest }))) := by
  obtain ⟨⟨hrdy, hph⟩, hreset, hfault, hfree, hw⟩ := h
  change Host.Outcome.next _ = _
  rw [if_neg (by simp only [hrdy, hph, hreset, hfault]; simp; omega), hw] <;> rfl

theorem exec_entry_go {xa : Nat} {p : Tlp} (go : s.fate (s.ringKey r) s.rings[r].entryAddr true false = .go xa p) :
    exec (.completionEntryWrite r) s = .next (writeEntry r e (s.onRing r (fun x => { x with waiting := rest }))) := by
  rw [exec_completionEntryWrite h, go]

theorem exec_entry_wait (wait : s.fate (s.ringKey r) s.rings[r].entryAddr true false = .wait) :
    exec (.completionEntryWrite r) s = .next (askTranslation (s.ringKey r) s.rings[r].entryAddr true s) := by
  rw [exec_completionEntryWrite h, wait]

theorem exec_entry_fail {c : Cause} (fail : s.fate (s.ringKey r) s.rings[r].entryAddr true false = .fail c) :
    exec (.completionEntryWrite r) s = .next (entryFault r c s) := by
  rw [exec_completionEntryWrite h, fail]

end

/-- Taking the entry from those that wait does not move its address. -/
theorem entryTarget_taken {s : State} {r : Ring} {rest : List Entry} {xa : Nat} {p : Tlp}
    (go : s.fate (s.ringKey r) s.rings[r].entryAddr true false = .go xa p) :
    entryTarget (s.onRing r fun x => { x with waiting := rest }) r = (xa, p) := by
  have same : ∀ t : State, t.rings[r] = { s.rings[r] with waiting := rest } → t.link = s.link → t.tenants = s.tenants →
      t.fate (t.ringKey r) t.rings[r].entryAddr true false = .go xa p := by
    intro t hr hl ht
    rw [← go]
    simp only [State.fate, State.ringKey, State.ringTenant, State.pasidOf, State.translated, State.deniedPage, hr, hl, ht]
    rfl
  have taken := same (s.onRing r fun x => { x with waiting := rest }) (State.onRing_same s r _) rfl rfl
  rw [entryTarget, taken]

/-- A write no PASID denies goes, once its page is known or translation is off (R94, R97). -/
theorem fate_go {s : State} {k : Key} {a : Nat} (write data : Bool) (hk : k.denied = false)
    (ht : s.link.atsEn = true → (s.translated k a write).isSome = true) : ∃ xa p, s.fate k a write data = .go xa p
      ∧ (s.link.atsEn = false → xa = a ∧ p.pasid = k.pasid) := by
  unfold State.fate
  rw [if_neg (by simp [hk])]
  by_cases off : s.link.atsEn = false
  · rw [if_pos off]
    exact ⟨_, _, rfl, fun _ => ⟨rfl, rfl⟩⟩
  · obtain ⟨e, he⟩ := Option.isSome_iff_exists.mp (ht (by simpa using off))
    rw [if_neg off, he]
    exact ⟨_, _, rfl, fun k => absurd k off⟩

theorem fate_denied {s : State} {k : Key} (a : Nat) (write data : Bool) (hk : k.denied = true) :
    s.fate k a write data = .fail .noPasid := if_pos hk

section
variable (r : Ring) (c : Cause) (s : State)

/-- A failed entry write stalls its ring and is counted; the entry stays (Table 5-8, R99). -/
theorem entryFault_ring : (entryFault r c s).rings[r] = { s.rings[r] with faulted := true } := by
  rw [entryFault, raiseEvent_rings]
  exact State.onRing_same _ _ _

theorem entryFault_others : OtherRings s (entryFault r c s) r := by
  intro q hq
  rw [entryFault, raiseEvent_rings]
  exact State.onRing_other _ _ _ _ hq

theorem entryFault_st : (entryFault r c s).st = s.st := by rw [entryFault, raiseEvent_st]; rfl

theorem entryFault_fltCnt : (entryFault r c s).link.fltCnt = satAdd s.link.fltCnt 1 :=
  congrArg (fun u : State => u.link.fltCnt) (raiseEvent_quiet 0x0303 (ringUnit r) 0 0 _)

end

theorem headCmd_of_faulted {s : State} {r : Ring} (h : s.rings[r].faulted = true) : headCmd s r = none := by
  unfold headCmd
  dsimp only
  rw [if_pos (.inr (.inr (by rw [RingSt.stalled, h]; rfl)))]

/-- A translation asked for is among those awaited, once (R94). -/
theorem askTranslation_awaits (k : Key) (a : Nat) (write : Bool) (s : State) :
    ∃ q ∈ (askTranslation k a write s).link.atsWait, q.key = k ∧ q.addr = pageOf a ∧ q.write = write ∧ q.stale = false := by
  unfold askTranslation
  split
  next asked =>
    obtain ⟨q, hq, hm⟩ := List.any_eq_true.mp asked
    simp only [Bool.and_eq_true, beq_iff_eq, Bool.not_eq_true'] at hm
    exact ⟨q, hq, hm.1.1.1, hm.1.1.2, hm.1.2, hm.2⟩
  next => exact ⟨_, List.mem_append_right _ (List.mem_singleton_self _), rfl, rfl, rfl, rfl⟩

theorem askTranslation_rings (k : Key) (a : Nat) (write : Bool) (s : State) : (askTranslation k a write s).rings = s.rings := by
  unfold askTranslation; split <;> rfl
theorem askTranslation_st (k : Key) (a : Nat) (write : Bool) (s : State) : (askTranslation k a write s).st = s.st := by
  unfold askTranslation; split <;> rfl

/-- Settles O7: the entry written, the failed write, and the write that waits for its page. -/
theorem completionEntriesFillTheRing : Obligations.CompletionEntriesFillTheRing := by
  refine ⟨fun s r e rest h hd ht => ?_, fun s r e rest h => ⟨fun c fail => ?_, fun hd => fate_denied _ _ _ hd, fun wait => ?_⟩⟩
  · obtain ⟨xa, p, go, off⟩ := fate_go (s := s) (a := s.rings[r].entryAddr) true false hd ht
    have bus := writeEntry_mem_bus r e (s.onRing r fun x => { x with waiting := rest })
    have after := writeEntry_ring r e (s.onRing r fun x => { x with waiting := rest }) r
    rw [if_pos rfl, State.onRing_same] at after
    rw [entryWritten, entryTarget_taken go, State.onRing_same] at bus
    obtain ⟨kst, kcairns⟩ := writeEntry_kept r e (s.onRing r fun x => { x with waiting := rest })
    refine ⟨_, if s.rings[r].tail.toNat + 1 = s.rings[r].depth.toNat then 0 else s.rings[r].tail + 1, xa, p,
      exec_entry_go h go, ?_⟩
    rw [after]
    refine ⟨rfl, bus, off, ?_, rfl, ?_, rfl, rfl, rfl, rfl, rfl, rfl, rfl, kcairns, storeKept_of_st kst⟩
    · simp only [toldFences, RingSt.afterEntry, covered, decide_eq_true_eq]
    · simp only [toldFences, RingSt.afterEntry, covered, decide_eq_true_eq]
  · refine ⟨_, exec_entry_fail h fail, ?_⟩
    have ring := entryFault_ring r c s
    refine ⟨by rw [ring, h.2.2.2.2], by rw [ring], ?_, by rw [ring], entryFault_fltCnt r c s, ?_,
      entryFault_others r c s, storeKept_of_st (entryFault_st r c s)⟩
    · rw [ring]; rfl
    · exact headCmd_of_faulted (by rw [ring])
  · exact ⟨_, exec_entry_wait h wait, askTranslation_rings _ _ _ s, storeKept_of_st (askTranslation_st _ _ _ s),
      askTranslation_awaits _ _ _ s⟩

end Sys2Proof.Proofs

/-! Commands at the head of a ring (06 to 08): the checks of Table 6-6, and the ends of FLUSH, FENCE and SIGNAL. -/

namespace Sys2Proof.Proofs

open Sys2Proof Sys2Proof.Machine Sys2Proof.Safety Sys2Proof.Laws

/-! ### The checks of Table 6-6 (R46, R108, R114) -/

theorem headCheck_illFormed {c : Cmd} (h : wellFormedTrb c.trb = false) (s : State) (r : Ring) :
    headCheck s r c = some { status := stREFUSED } := if_pos h

theorem headCheck_preLoad {s : State} {c : Cmd} (h : wellFormedTrb c.trb = true) (hl : s.cfg.loaded = false)
    (hp : preLoadOp c.op = false) (r : Ring) : headCheck s r c = some { status := stNOT_ADMITTED } :=
  (if_neg (by simp [h])).trans (if_pos ⟨hl, hp⟩)

/-- No check of Table 6-6 answers OK. -/
theorem headCheck_not_ok {s : State} {r : Ring} {c : Cmd} {o : Outc} (h : headCheck s r c = some o) : o.status ≠ stOK := by
  have refused : stREFUSED ≠ stOK := by decide
  have notAdmitted : stNOT_ADMITTED ≠ stOK := by decide
  have foreign : stFOREIGN ≠ stOK := by decide
  have range : stRANGE ≠ stOK := by decide
  unfold headCheck at h
  dsimp only at h
  split at h
  · exact Option.some.inj h ▸ refused
  split at h
  · exact Option.some.inj h ▸ notAdmitted
  split at h
  · exact Option.some.inj h ▸ notAdmitted
  split at h
  · exact Option.some.inj h ▸ foreign
  split at h
  · exact Option.some.inj h ▸ range
  split at h
  · exact Option.some.inj h ▸ refused
  split at h
  · exact Option.some.inj h ▸ notAdmitted
  · cases h

/-- A head command whose checks fail completes with the outcome of the first that does. -/
theorem headStep_checked {s : State} {r : Ring} {c : Cmd} {code : Nat} {act : Cmd → State → State} {o : Outc}
    (hh : headCmd s r = some c) (hop : c.op = code) (hp : s.rings[r].past.length < 64) (hs : c.started = false)
    (hc : headCheck s r c = some o) : headStep r code act s = pushEntry r c o s := by
  unfold headStep
  rw [hh]
  dsimp only
  rw [if_neg (fun k => k.1 hop), if_neg (by omega), if_neg (by simp [hs]), hc]

/-- The last entry of a command the ring holds, with no message cut short and no failed beat, other than a load's. -/
theorem pushEntry_last {s : State} {r : Ring} {c : Cmd} {o : Outc} (hf : s.rings[r].find c.cid = some c)
    (h40 : c.op ≠ 0x40) (hm : o.more = false) : pushEntry r c o s = s.onRing r fun x =>
      { x.drop c.cid with waiting := x.waiting ++ [entryFor s r (stopWaiting s.now c) o] } := by
  have w := stopWaiting_sameWork s.now c
  unfold pushEntry
  simp only [hf, Option.getD_some, w.op, if_neg h40, hm, Bool.false_eq_true, if_false, w.cid]
  rfl

theorem stopWaiting_badBeats (now : Nat) (c : Cmd) : (stopWaiting now c).badBeats = c.badBeats := by
  unfold stopWaiting
  split <;> rfl

/-- Settles O12: a refused head is one entry of its ring, the order of the checks, and a started command acts. -/
theorem headChecksComeFirst : Obligations.HeadChecksComeFirst := by
  refine ⟨?_, fun s r c => ⟨fun h => ?_, fun h hl hp => ?_, fun o h => headCheck_not_ok h⟩,
    fun s r c code act h => headStep_started h⟩
  · intro s r c code act o hh hop hp hs hc h40 ht hb hf hm hd
    have w := stopWaiting_sameWork s.now c
    refine ⟨_, (headStep_checked hh hop hp hs hc).trans (pushEntry_last hf h40 hm), ?_⟩
    rw [entryFor_plain (w.trunc.trans ht) ((stopWaiting_badBeats _ _).trans hb) hd]
    exact ⟨w.tag, rfl, by simp [entryOf, hm], rfl⟩
  · rw [headCheck_illFormed h]
    rfl
  · rw [headCheck_preLoad h hl hp]
    rfl

/-! ### A command that starts keeps its scope (R120) -/

theorem begun_scope (s : State) (r : Ring) (c : Cmd) : (begun s r c).scope = c.scope
    ∧ (begun s r c).scopeWait = c.scopeWait ∧ (begun s r c).scopeBad = c.scopeBad := by
  have waited : ∀ d : Cmd, (stopWaiting s.now d).scope = d.scope ∧ (stopWaiting s.now d).scopeWait = d.scopeWait
      ∧ (stopWaiting s.now d).scopeBad = d.scopeBad := by
    intro d
    unfold stopWaiting
    split <;> exact ⟨rfl, rfl, rfl⟩
  have slowed : ∀ d : Cmd, (slowClock s d).scope = d.scope ∧ (slowClock s d).scopeWait = d.scopeWait
      ∧ (slowClock s d).scopeBad = d.scopeBad := by
    intro d
    unfold slowClock
    split <;> exact ⟨rfl, rfl, rfl⟩
  have head : (reached s r c).scope = c.scope ∧ (reached s r c).scopeWait = c.scopeWait
      ∧ (reached s r c).scopeBad = c.scopeBad := by
    unfold reached
    split <;> exact ⟨rfl, rfl, rfl⟩
  simp [begun, passed, slowed, waited, head]

/-- The ring after the last entry of a command it holds whose work is no transfer of the Massif. -/
theorem complete_ring {s : State} {r : Ring} {c : Cmd} {status : Byte} {d0 d1 : Nat} (hf : s.rings[r].find c.cid = some c)
    (ht : c.trunc = none) (ha : usesArray c = false) (hd : status ≠ stDISCARDED) :
    (complete r c status d0 d1 s).rings[r] = { s.rings[r].drop c.cid with waiting := s.rings[r].waiting ++
      [{ entryOf (stopWaiting s.now c) { status, d0, d1 } with
         done := min (doneUnits s r (stopWaiting s.now c)) 0xFFFFFFFF }] } := by
  have w := stopWaiting_sameWork s.now c
  have plain : withTrunc (stopWaiting s.now c) (withBad (stopWaiting s.now c) { status, d0, d1 })
      = { status, d0, d1 } := by
    unfold usesArray at ha
    simp only [withBad, w.op, ha, Bool.not_false, or_true, if_true, withTrunc, w.trunc, ht]
  rw [pushEntry_rings, modAt_same]
  simp only [hf, Option.getD_some, entryFor, plain, if_neg hd, w.cid]
  rfl

/-- The one entry that joins those that wait. -/
theorem answered_of_ring {s t : State} {r : Ring} {c : Cmd} {status : Byte} {d0 d1 done n : Nat} {y : RingSt}
    (h : t.rings[r] = { y with
      waiting := s.rings[r].waiting ++ [{ entryOf (stopWaiting n c) { status, d0, d1 } with done }] }) :
    Answered s t r c status (BitVec.ofNat 64 d0) (BitVec.ofNat 32 d1) :=
  ⟨_, by rw [h], stopWaiting_tag n c, rfl, rfl, rfl, rfl⟩

theorem modCmd_ring_find {s : State} {r : Ring} {c : Cmd} {rest : List Cmd} (f : Cmd → Cmd)
    (hq : s.rings[r].queue = c :: rest) : (modCmd r c.cid f s).rings[r].find (f c).cid = some (f c) :=
  find_head (modCmd_queue_head hq rfl f)

/-! ### FENCE (R121, R122, R127) -/

theorem exec_fence (r : Ring) (s : State) : exec (.fence r) s = .next (headStep r 0x04 (fenceAct r) s) := rfl

theorem headStep_fence {s : State} {r : Ring} {c : Cmd} (h : Enters s r c 4) :
    headStep r 0x04 (fenceAct r) s = fenceAct r (begun s r c) (modCmd r c.cid (begun s r) s) :=
  headStep_enters h (by simp [needs, h.2.1]) (fun u => by simp [tapsOf, h.2.1]) (by simp [usesArray, h.2.1])

section
variable {s : State} {r : Ring} {c : Cmd} (h : Enters s r c 4) {status : Byte} (hd : status ≠ stDISCARDED)
include h hd

/-- What the entry of a FENCE that starts and ends in one step leaves. -/
theorem fence_entry : let t := complete r (begun s r c) status 0 0 (modCmd r c.cid (begun s r) s)
    (∃ e, t.rings[r].waiting = s.rings[r].waiting ++ [e] ∧ e.tag = c.tag ∧ e.status = status ∧ e.last = true
      ∧ e.d0 = 0 ∧ e.d1 = 0 ∧ e.covers = if status = stOK then c.scope else [])
    ∧ (∀ q : Ring, t.rings[q].uncovered = s.rings[q].uncovered) ∧ OtherRings s t r ∧ StoreKept s t ∧ t.cairns = s.cairns := by
  intro t
  obtain ⟨rest, hq⟩ := queue_of_headCmd h.1
  have w := begun_sameWork s r c
  have hop : (begun s r c).op = 4 := w.op.trans h.2.1
  have htr : (begun s r c).trunc = none := by
    obtain ⟨-, -, -, -, -, ht, -⟩ := h
    exact w.trunc.trans ht
  have others : OtherRings s t r := fun q hq => by
    rw [pushEntry_others _ _ _ _ q hq, modCmd_others _ _ _ _ q hq]
  have ring := complete_ring (status := status) (d0 := 0) (d1 := 0) (modCmd_ring_find _ hq) htr
    (by simp [usesArray, hop]) hd
  rw [modCmd_waiting] at ring
  have v := stopWaiting_sameWork (modCmd r c.cid (begun s r) s).now (begun s r c)
  have scope : (stopWaiting (modCmd r c.cid (begun s r) s).now (begun s r c)).scope = c.scope := by
    rw [← (begun_scope s r c).1]
    unfold stopWaiting
    split <;> rfl
  refine ⟨⟨_, congrArg RingSt.waiting ring, v.tag.trans w.tag, rfl, rfl, rfl, rfl, ?_⟩, fun q => ?_, others,
    storeKept_of_st (pushEntry_st _ _ _ _), pushEntry_cairns _ _ _ _⟩
  · simp only [entryOf, v.op, hop, scope, true_and]
  · by_cases hq : q = r
    · subst hq
      rw [ring, modCmd, State.onRing_same]
      rfl
    · rw [others q hq]

end

theorem fence_settles {s : State} {r : Ring} {c : Cmd} (h : Pre.fence s r c) (hl : c.f 0x11 1 = 0) :
    exec (.fence r) s = .next (complete r (begun s r c) (if c.scopeBad then stREFUSED else stOK) 0 0
      (modCmd r c.cid (begun s r) s)) := by
  obtain ⟨enters, hwait, -⟩ := h
  obtain ⟨-, wait, bad⟩ := begun_scope s r c
  have level : levelReached (modCmd r c.cid (begun s r) s) (begun s r c) = true := by
    simp [levelReached, (begun_sameWork s r c).f, hl]
  rw [exec_fence, headStep_fence enters, fenceAct, if_neg (by simp [wait, hwait, level]), bad]
  split <;> rfl

theorem fence_waits {s : State} {r : Ring} {c : Cmd} (h : Started s r c 4) (hw : c.scopeWait ≠ []) :
    exec (.fence r) s = .next s := by
  rw [exec_fence, headStep_started h, fenceAct, if_pos (.inl hw)]

/-- The OK entry of a FENCE covers its scope as it is written, and nothing else leaves an uncovered set. -/
theorem written_covers {s : State} {r : Ring} {e : Entry} (h : e.status = stOK) (q : Ring) :
    (writeEntry r e s).rings[q].uncovered = (covered e s.rings[q]).uncovered := by
  rw [writeEntry_ring]
  have ok : (e.last && e.status != 0) = false := by simp [h, stOK]
  by_cases hq : q = r
  · subst hq
    simp only [if_true, toldFences, RingSt.afterEntry, ok, Bool.false_eq_true, if_false]
  · rw [if_neg hq]
    rfl

theorem mem_covered {e : Entry} (h : e.status = stOK) (x : RingSt) (p : Nat × BitVec 16) :
    p ∈ (covered e x).uncovered ↔ p ∈ x.uncovered ∧ p.1 ∉ e.covers := by
  by_cases none : e.covers = []
  · simp [covered, none]
  · simp [covered, none, h]

/-! ### FLUSH (R119, R136) -/

/-- Each ring's FLUSHes that have reached their scope complete. -/
def settleRing (s : State) (q : Ring) : State :=
  (s.rings[q].past.filter (fun c => c.op == 3)).foldl
    (fun s c => if flushReached s q c then complete q c stOK 0 0 s else s) s

theorem settleFlushes_eq (s : State) : settleFlushes s = (List.finRange 16).foldl settleRing s := rfl

/-- Of steps over elements all different, where only `r`'s changes the state and nothing is left to do after it, that step
is what happens. -/
theorem foldl_single {β : Type} {f : State → β → State} {r : β} {s : State} {l : List β} (hr : r ∈ l) (hl : l.Nodup)
    (before : ∀ q ∈ l, q ≠ r → f s q = s) (after : ∀ q ∈ l, q ≠ r → f (f s r) q = f s r) : l.foldl f s = f s r := by
  induction l with
  | nil => cases hr
  | cons q l ih =>
    obtain ⟨hq, hl⟩ := List.nodup_cons.mp hl
    rw [List.foldl_cons]
    by_cases e : q = r
    · subst e
      exact foldl_still fun p hp => after p (List.mem_cons_of_mem _ hp) fun k => hq (k ▸ hp)
    · rw [before q List.mem_cons_self e]
      exact ih ((List.mem_cons.mp hr).resolve_left (Ne.symm e)) hl
        (fun p hp => before p (List.mem_cons_of_mem _ hp)) (fun p hp => after p (List.mem_cons_of_mem _ hp))

theorem settleRing_none {s : State} {q : Ring} (h : s.rings[q].past.filter (fun c => c.op == 3) = []) :
    settleRing s q = s := by
  rw [settleRing, h]
  rfl

theorem settleFlushes_none {s : State} (h : ∀ q : Ring, s.rings[q].past.filter (fun c => c.op == 3) = []) :
    settleFlushes s = s := by
  rw [settleFlushes_eq]
  exact foldl_still fun q _ => settleRing_none (h q)

/-- Where one ring alone holds FLUSHes past its head, they alone complete. -/
theorem settleFlushes_single {s : State} {r : Ring} (h : ∀ q : Ring, q ≠ r → s.rings[q].past = [])
    (others : OtherRings s (settleRing s r) r) : settleFlushes s = settleRing s r := by
  have none : ∀ u : State, OtherRings s u r → ∀ q ∈ List.finRange 16, q ≠ r → settleRing u q = u := by
    intro u hu q _ hq
    exact settleRing_none (by rw [hu q hq, h q hq]; rfl)
  rw [settleFlushes_eq]
  exact foldl_single (List.mem_finRange r) (List.nodup_finRange 16) (none s fun _ _ => rfl) (none _ others)

theorem leaveHead_queue {x : RingSt} {c : Cmd} (hq : x.queue = [c]) :
    x.leaveHead c.cid = { x with queue := [], past := x.past ++ [{ c with atHead := false }] } := by
  simp [RingSt.leaveHead, hq]

theorem exec_flush (r : Ring) (s : State) : exec (.flush r) s = .next (headStep r 0x03 (flushAct r) s) := rfl

theorem headStep_flush {s : State} {r : Ring} {c : Cmd} (h : Enters s r c 3) :
    headStep r 0x03 (flushAct r) s = flushAct r (begun s r c) (modCmd r c.cid (begun s r) s) :=
  headStep_enters h (by simp [needs, h.2.1]) (fun u => by simp [tapsOf, h.2.1]) (by simp [usesArray, h.2.1])

/-- A FLUSH past its ring's head with nothing of its scope before it completes. -/
theorem settleRing_flush {u : State} {r : Ring} {d : Cmd} (hq : u.rings[r].queue = []) (hp : u.rings[r].past = [d])
    (hop : d.op = 3) (hscope : d.f 0x10 1 = 0) (hst : u.st.staged = []) :
    settleRing u r = complete r d stOK 0 0 u := by
  have done : flushReached u r d = true := by
    rw [flushReached, flushRings, if_pos hscope]
    simp only [List.all_cons, List.all_nil, hq, hp, hst, List.nil_append, List.any_cons, List.any_nil, hop]
    rfl
  rw [settleRing, hp]
  simp [hop, done]

theorem flush_completes {s : State} {r : Ring} {c : Cmd} (h : Pre.flush s r c) :
    ∃ t, exec (.flush r) s = .next t ∧ Answered s t r c stOK 0 0 ∧ t.rings[r].queue = [] ∧ t.rings[r].past = []
      ∧ OtherRings s t r ∧ StoreKept s t ∧ t.cairns = s.cairns := by
  obtain ⟨enters, hpast, hscope, hq, hst⟩ := h
  have w := begun_sameWork s r c
  obtain ⟨d, hd⟩ : ∃ d : Cmd, d = { begun s r c with atHead := false } := ⟨_, rfl⟩
  have v : SameWork c d := hd ▸ w.trans (by constructor <;> rfl)
  obtain ⟨u, hu⟩ : ∃ u, u = leaveHead r (begun s r c).cid (modCmd r c.cid (begun s r) s) := ⟨_, rfl⟩
  have ring : u.rings[r] = { s.rings[r] with queue := [], past := [d] } := by
    have head : (modCmd r c.cid (begun s r) s).rings[r] = { s.rings[r] with queue := [begun s r c], past := [] } := by
      rw [modCmd, State.onRing_same, RingSt.mod, hq, hpast r]
      simp
    rw [hu, leaveHead, State.onRing_same, leaveHead_queue (by rw [head]), head, hd]
    rfl
  have others : OtherRings s u r := fun q hq => by
    rw [hu, leaveHead, State.onRing_other _ _ _ _ hq, modCmd_others _ _ _ _ q hq]
  have step : settleRing u r = complete r d stOK 0 0 u :=
    settleRing_flush (by rw [ring]) (by rw [ring]) (v.op.trans enters.2.1) (by rw [v.f, hscope]) (by rw [hu]; exact hst)
  have after : OtherRings u (settleRing u r) r := step ▸ pushEntry_others _ _ _ _
  have settled := settleFlushes_single (fun q hq => by rw [others q hq, hpast q]) after
  have entry := complete_ring (s := u) (r := r) (c := d) (status := stOK) (d0 := 0) (d1 := 0)
    (by rw [ring]; simp [RingSt.find]) (by rw [v.trunc]; exact enters.2.2.2.2.2.1)
    (by simp [usesArray, v.op, enters.2.1]) (by decide)
  rw [ring] at entry
  refine ⟨complete r d stOK 0 0 u, ?_, ?_, ?_, ?_, ?_, ?_, ?_⟩
  · rw [exec_flush, headStep_flush enters, flushAct, ← hu, settled, step]
  · exact answered_of_rings (s' := u) (by rw [ring]) rfl v.tag (answered_of_ring (by rw [entry, ring]))
  · rw [entry]; rfl
  · rw [entry]; simp [RingSt.drop]
  · exact fun q hq => by rw [pushEntry_others _ _ _ _ q hq, others q hq]
  · exact storeKept_of_st ((pushEntry_st _ _ _ _).trans (by rw [hu]; rfl))
  · exact (pushEntry_cairns _ _ _ _).trans (by rw [hu]; rfl)

/-- Settles O13: FLUSH; FENCE refused, answered and waiting; and what the OK entry of a FENCE covers as it is written. -/
theorem flushAndFenceAnswerForScope : Obligations.FlushAndFenceAnswerForScope := by
  refine ⟨fun s r c h => flush_completes h, fun s r c h hl => ⟨fun bad => ?_, fun ok => ?_⟩,
    fun s r c h hw => fence_waits h hw, fun s r e rest h hd off ok => ?_⟩
  · have step := fence_settles h hl
    rw [if_pos bad] at step
    obtain ⟨⟨e, hw, htag, hstat, hlast, h0, h1, -⟩, unc, others, kept, -⟩ := fence_entry h.1 (status := stREFUSED) (by decide)
    exact ⟨_, step, ⟨e, hw, htag, hstat, h0, h1, hlast⟩, unc, others, kept⟩
  · have step := fence_settles h hl
    rw [if_neg (by simp [ok])] at step
    obtain ⟨⟨e, hw, htag, hstat, hlast, -, -, hcov⟩, unc, others, kept, cairns⟩ := fence_entry h.1 (status := stOK) (by decide)
    exact ⟨_, e, step, hw, htag, hstat, hlast, hcov, unc, others, kept, cairns⟩
  · obtain ⟨xa, p, go, -⟩ := fate_go (s := s) (k := s.ringKey r) (a := s.rings[r].entryAddr) true false hd
      fun on => absurd on (by simp [off])
    have same : ∀ q : Ring, (writeEntry r e (s.onRing r fun x => { x with waiting := rest })).rings[q].uncovered
        = (covered e s.rings[q]).uncovered := by
      intro q
      rw [written_covers ok]
      by_cases hq : q = r
      · subst hq
        rw [State.onRing_same]
        rfl
      · rw [State.onRing_other _ _ _ _ hq]
    refine ⟨_, exec_entry_go h go, fun q p hp => ?_, fun q p hp hn => ?_⟩
    · rw [same q, mem_covered ok] at hp
      exact hp.symm
    · rw [same q, mem_covered ok]
      exact ⟨hp, hn⟩

/-! ### SIGNAL (R123, R149, R151) -/

theorem ringWaitAfter_st (c : Cairn) (add : Nat) (value : Word) (r : Ring) (s : State) :
    (ringWaitAfter c add value r s).st = s.st := by
  obtain h | ⟨w, h⟩ | ⟨n, left, h⟩ := ringWaitAfter_cases c add value r s
  · rw [h]
  · rw [h, complete, pushEntry_st]
  · rw [h]; rfl

theorem ringWaitAfter_cairns (c : Cairn) (add : Nat) (value : Word) (r : Ring) (s : State) :
    (ringWaitAfter c add value r s).cairns = s.cairns := by
  obtain h | ⟨w, h⟩ | ⟨n, left, h⟩ := ringWaitAfter_cases c add value r s
  · rw [h]
  · rw [h, complete, pushEntry_cairns]
  · rw [h]; rfl

/-- Forwarding changes the peer's queue, and may announce. -/
theorem forwardOn_data (c : Cairn) (add : Word) (e : Peer) (s : State) :
    (forwardOn c add e s).st = s.st ∧ (forwardOn c add e s).cairns = s.cairns := by
  unfold forwardOn
  dsimp only
  split
  · exact ⟨rfl, rfl⟩
  · split
    · exact ⟨rfl, rfl⟩
    · split <;> simp
    · split <;> simp
    · exact ⟨rfl, rfl⟩

theorem spread_st (c : Cairn) (kind : Nat) (add : Word) (s : State) : (spread c kind add s).st = s.st := by
  unfold spread
  dsimp only
  split
  · rfl
  · exact foldl_keeps State.st _ (fun s e => (forwardOn_data c add e s).1) _ s

theorem spread_cairns (c : Cairn) (kind : Nat) (add : Word) (s : State) : (spread c kind add s).cairns = s.cairns := by
  unfold spread
  dsimp only
  split
  · rfl
  · exact foldl_keeps State.cairns _ (fun s e => (forwardOn_data c add e s).2) _ s

theorem monAfter_signal (add : Nat) (x : CairnSt) : (monAfter add x).value = x.value ∧ (monAfter add x).sigCount = x.sigCount
    ∧ (monAfter add x).lastKind = x.lastKind := by
  unfold monAfter
  split
  · exact ⟨rfl, rfl, rfl⟩
  · split <;> exact ⟨rfl, rfl, rfl⟩
  · exact ⟨rfl, rfl, rfl⟩

/-- The cairns after a signal: one VALUE risen, one more signal counted, the others as they were. -/
theorem applySignal_cairns (c : Cairn) (kind id : Nat) (add : Word) (s : State) :
    (applySignal c kind id add s).cairns[c].value = s.cairns[c].value + add
      ∧ (applySignal c kind id add s).cairns[c].sigCount = s.cairns[c].sigCount + 1
      ∧ (applySignal c kind id add s).cairns[c].lastKind = BitVec.ofNat 4 kind
      ∧ ∀ k : Cairn, k ≠ c → (applySignal c kind id add s).cairns[k] = s.cairns[k] := by
  have kept : (applySignal c kind id add s).cairns = (valueRaised c kind id add s).cairns := by
    rw [applySignal_eq, spread_cairns, ringsWoken]
    exact foldl_keeps State.cairns _ (fun s r => ringWaitAfter_cairns c _ _ r s) _ _
  rw [kept, valueRaised, (announcing_rest _ _ s).cairns]
  refine ⟨?_, ?_, ?_, fun k hk => State.onCairn_other s c _ k hk⟩
  all_goals
    rw [State.onCairn_same]
    dsimp only
    split
    · rfl
    · simp only [monAfter_signal]

theorem applySignal_st (c : Cairn) (kind id : Nat) (add : Word) (s : State) : (applySignal c kind id add s).st = s.st := by
  rw [applySignal_eq, spread_st, ringsWoken, foldl_keeps State.st _ fun s r => ringWaitAfter_st c _ _ r s]
  exact (announcing_rest _ _ s).st

/-- A ring whose head is no WAIT is not touched by a signal. -/
theorem applySignal_ring_of_head {s : State} {r : Ring} {w : Cmd} {rest : List Cmd} (hq : s.rings[r].queue = w :: rest)
    (hw : w.op ≠ 6) (c : Cairn) (kind id : Nat) (add : Word) : (applySignal c kind id add s).rings[r] = s.rings[r] := by
  obtain ⟨u, hu, ht⟩ := applySignal_ring c kind id add s r
  rw [ht, ← hu]
  have head : u.rings[r].queue = w :: rest := hu ▸ hq
  unfold ringWaitAfter
  rw [head]
  dsimp only
  split
  · rfl
  · rw [if_neg fun k => hw k.1]

theorem blockedAtHead_passing {s : State} {r : Ring} {c : Cmd} (hh : headCmd s r = some c) (hc : headCheck s r c = none) :
    blockedAtHead r s = s := by
  unfold blockedAtHead
  rw [hh]
  dsimp only
  split
  · rw [hc]
  · rfl

theorem headStep_signal {s : State} {r : Ring} {c : Cmd} (h : Enters s r c 5) :
    headStep r 0x05 (signalAct r) s = signalAct r (begun s r c) (modCmd r c.cid (begun s r) s) :=
  headStep_enters h (by simp [needs, h.2.1]) (fun u => by simp [tapsOf, h.2.1]) (by simp [usesArray, h.2.1])

theorem exec_signal_enters {s : State} {r : Ring} {c : Cmd} (h : Enters s r c 5) : exec (.signal r) s =
    .next (resumeUnits (signalAct r (begun s r c) (modCmd r c.cid (begun s r) s))) := by
  obtain ⟨hh, -, -, -, hc, -⟩ := id h
  rw [exec_signal, blockedAtHead_passing hh hc, headStep_signal h]

/-- With no uncovered command before it a SIGNAL adds, and completes with the VALUE it made. -/
theorem signalAct_covered {s : State} {r : Ring} {c : Cmd} {k : Cairn} (hk : ix 127 (c.f 0x10 1) = k)
    (hu : uncoveredBefore s.rings[r] c.cid = false) (hf : s.rings[r].uncovered.any (fun p => decide (p.1 < c.cid)) = false) :
    signalAct r c s = complete r c stOK
      (applySignal k 1 r.val (BitVec.ofNat 32 (c.f 0x14 4)) s).cairns[k].value.toNat 0
      (applySignal k 1 r.val (BitVec.ofNat 32 (c.f 0x14 4)) s) := by
  subst hk
  unfold signalAct
  dsimp only
  rw [if_neg (ne_true_of_eq_false hu), if_neg (ne_true_of_eq_false hf)]

theorem modCmd_uncovered (r : Ring) (n : Nat) (f : Cmd → Cmd) (s : State) :
    (modCmd r n f s).rings[r].uncovered = s.rings[r].uncovered := by
  rw [modCmd, State.onRing_same]
  rfl

theorem modCmd_begun_untouched (r : Ring) (n : Nat) (s : State) : ArrayUntouched s (modCmd r n (begun s r) s) :=
  modCmd_untouched r n (fun c => (begun_sameWork s r c).plan) s

section
variable {s : State} {r : Ring} {c : Cmd} (h : Enters s r c 5)
include h

/-- The entry with which a SIGNAL that starts ends, on any state whose ring is as the start left it. -/
theorem signal_entry {u : State} (hu : u.rings[r] = (modCmd r c.cid (begun s r) s).rings[r]) {status : Byte} (d0 d1 : Nat)
    (hd : status ≠ stDISCARDED) : Answered s (complete r (begun s r c) status d0 d1 u) r c status
      (BitVec.ofNat 64 d0) (BitVec.ofNat 32 d1) := by
  obtain ⟨hh, hop, -, -, -, ht, -⟩ := h
  obtain ⟨rest, hq⟩ := queue_of_headCmd hh
  have w := begun_sameWork s r c
  have entry := complete_ring (s := u) (r := r) (c := begun s r c) (status := status) (d0 := d0) (d1 := d1)
    (by rw [hu]; exact modCmd_ring_find _ hq) (w.trunc.trans ht) (by simp [usesArray, w.op, hop]) hd
  exact answered_of_rings (s' := u) (by rw [hu, modCmd_waiting]) rfl w.tag (answered_of_ring entry)

theorem signal_unfenced (hu : ∃ p ∈ s.rings[r].uncovered, p.1 < c.cid ∧ ∀ e ∈ s.rings[r].waiting, p.1 ∉ e.covers) :
    ∃ t, GoesOn s t (exec (.signal r) s) ∧ Answered s t r c stUNFENCED 0 0
      ∧ t.cairns = s.cairns ∧ OtherRings s t r ∧ StoreKept s t := by
  obtain ⟨p, hp, hlt, hcov⟩ := hu
  have w := begun_sameWork s r c
  have before : uncoveredBefore (modCmd r c.cid (begun s r) s).rings[r] (begun s r c).cid = true := by
    rw [uncoveredBefore, modCmd_uncovered, modCmd_waiting, w.cid]
    refine List.any_eq_true.mpr ⟨p, hp, ?_⟩
    simp [hlt]
    exact hcov
  have act : signalAct r (begun s r c) (modCmd r c.cid (begun s r) s)
      = complete r (begun s r c) stUNFENCED 0 0 (modCmd r c.cid (begun s r) s) := if_pos before
  have untouched := (modCmd_begun_untouched r c.cid s).trans (complete_untouched r (begun s r c) stUNFENCED 0 0 _)
  refine ⟨_, untouched.goesOn (by rw [exec_signal_enters h, act]), signal_entry h rfl 0 0 (by decide),
    pushEntry_cairns _ _ _ _, ?_, storeKept_of_st (pushEntry_st _ _ _ _)⟩
  exact fun q hq => by rw [pushEntry_others _ _ _ _ q hq, modCmd_others _ _ _ _ q hq]

theorem signal_adds {k : Cairn} (hk : ix 127 (c.f 0x10 1) = k) (hu : ∀ p ∈ s.rings[r].uncovered, c.cid ≤ p.1) :
    ∃ t v, GoesOn s t (exec (.signal r) s) ∧ v = s.cairns[k].value + BitVec.ofNat 32 (c.f 0x14 4)
      ∧ t.cairns[k].value = v ∧ Answered s t r c stOK (BitVec.ofNat 64 v.toNat) 0
      ∧ t.cairns[k].sigCount = s.cairns[k].sigCount + 1
      ∧ (∀ j : Cairn, j ≠ k → t.cairns[j] = s.cairns[j]) ∧ StoreKept s t := by
  have w := begun_sameWork s r c
  obtain ⟨rest, hq⟩ := queue_of_headCmd h.1
  have none : ∀ p ∈ (modCmd r c.cid (begun s r) s).rings[r].uncovered, ¬ p.1 < (begun s r c).cid := by
    rw [modCmd_uncovered, w.cid]
    exact fun p hp => (hu p hp).not_gt
  have unfenced : uncoveredBefore (modCmd r c.cid (begun s r) s).rings[r] (begun s r c).cid = false :=
    List.any_eq_false.mpr fun p hp => by simp [none p hp]
  have fenced : (modCmd r c.cid (begun s r) s).rings[r].uncovered.any (fun p => decide (p.1 < (begun s r c).cid)) = false :=
    List.any_eq_false.mpr fun p hp => by simp [none p hp]
  obtain ⟨u, huEq⟩ : ∃ u, u = applySignal k 1 r.val (BitVec.ofNat 32 (c.f 0x14 4)) (modCmd r c.cid (begun s r) s) := ⟨_, rfl⟩
  have act : signalAct r (begun s r c) (modCmd r c.cid (begun s r) s)
      = complete r (begun s r c) stOK u.cairns[k].value.toNat 0 u := by
    rw [signalAct_covered (k := k) (by rw [w.f, hk]) unfenced fenced, w.f, ← huEq]
  have untouched : ArrayUntouched s (complete r (begun s r c) stOK u.cairns[k].value.toNat 0 u) := by
    refine ((modCmd_begun_untouched r c.cid s).trans ?_).trans (complete_untouched r (begun s r c) _ _ _ u)
    rw [huEq]
    exact applySignal_untouched _ _ _ _ _
  have ring : u.rings[r] = (modCmd r c.cid (begun s r) s).rings[r] := by
    rw [huEq]
    exact applySignal_ring_of_head (modCmd_queue_head hq rfl _) (by rw [w.op, h.2.1]; decide) _ _ _ _
  obtain ⟨hval, hcount, -, hothers⟩ := applySignal_cairns k 1 r.val (BitVec.ofNat 32 (c.f 0x14 4)) (modCmd r c.cid (begun s r) s)
  rw [← huEq] at hval hcount hothers
  refine ⟨_, u.cairns[k].value, untouched.goesOn (by rw [exec_signal_enters h, act]), hval, ?_,
    signal_entry h ring _ 0 (by decide), ?_, fun j hj => ?_, storeKept_of_st ?_⟩
  · rw [pushEntry_cairns]
  · rw [pushEntry_cairns, hcount]; rfl
  · rw [pushEntry_cairns, hothers j hj]; rfl
  · rw [pushEntry_st, huEq, applySignal_st]; rfl

end

/-- Settles O14: a SIGNAL with an uncovered command before it, and one with none. -/
theorem signalAddsAndReports : Obligations.SignalAddsAndReports :=
  fun _ _ _ h => ⟨signal_unfenced h.1, signal_adds h.1 rfl⟩

end Sys2Proof.Proofs

/-! The reset of a ring (06, 07, 19): RING_RESET of a ring that holds nothing, its end, and the reset a stall brings. -/

namespace Sys2Proof.Proofs

open Sys2Proof Sys2Proof.Machine Sys2Proof.Safety Sys2Proof.Laws

/-! ### Work of a stopped command on the array -/

/-- The state without the Massif and the reads in flight for it. -/
def offArray (s : State) : State := { s with ma := {}, link := { s.link with reads := [] } }

theorem offArray_ma (m : Massif) (s : State) : offArray { s with ma := m } = offArray s := rfl
theorem offArray_reads (l : List (ReadReq)) (s : State) : offArray { s with link := { s.link with reads := l } } = offArray s := rfl
theorem onWheel_offArray (w : Wheel) (f : WheelSt → WheelSt) (s : State) : offArray (s.onWheel w f) = offArray s := rfl
theorem onCrag_offArray (n : Crag) (f : CragSt → CragSt) (s : State) : offArray (s.onCrag n f) = offArray s := rfl
theorem shiftReads_offArray (w : Wheel) (b n : Nat) (s : State) : offArray (shiftReads w b n s) = offArray s := rfl
theorem dropOutputs_offArray (n : Crag) (s : State) : offArray (dropOutputs n s) = offArray s := rfl

theorem dropSpan_offArray (w : Wheel) (b n : Nat) (l : List Strm) (s : State) : offArray (dropSpan w b n l s) = offArray s := by
  unfold dropSpan
  dsimp only
  split
  · rw [dropOutputs_offArray, onCrag_offArray, onWheel_offArray, shiftReads_offArray, offArray_reads]
  · rw [onWheel_offArray, shiftReads_offArray, offArray_reads]

theorem noteRest_offArray (n : Crag) (s : State) : offArray (noteRest n s) = offArray s := onCrag_offArray _ _ s

theorem removeStreams_offArray (cid : Nat) (s : State) : offArray (removeStreams cid s) = offArray s := by
  refine foldl_keeps offArray _ (fun s w => ?_) _ s
  dsimp only
  generalize (if s.ma.wheels[w].output then none else cmdSpan cid 0 s.ma.wheels[w].streams) = span
  cases span with
  | none => rfl
  | some p => exact (noteRest_offArray _ _).trans (dropSpan_offArray _ _ _ _ s)

theorem abortContexts_offArray (cid : Nat) (s : State) : offArray (abortContexts cid s) = offArray s := by
  unfold abortContexts leaveEngines
  dsimp only
  rw [offArray_ma, offArray_ma, removeStreams_offArray]

theorem dropCmdXfers_none {s : State} (h : ∀ e : Peer, s.pair.peers[e].xfers = []) (cid : Nat) : dropCmdXfers cid s = s := by
  unfold dropCmdXfers
  refine foldl_still fun e _ => ?_
  rw [h e, List.filter_nil, List.foldl_nil]

/-- What stopping a command's work elsewhere leaves, where no transfer of the Pair link is open: it changes the array,
the reads in flight, and whose a Vault operation is (R141, R230). -/
structure WorkStopped (s t : State) : Prop where
  rings : t.rings = s.rings
  tenants : t.tenants = s.tenants
  now : t.now = s.now
  mem : t.st.mem = s.st.mem
  staged : t.st.staged = s.st.staged
  atsEn : t.link.atsEn = s.link.atsEn
  pasidEn : t.link.pasidEn = s.link.pasidEn

theorem workStopped_of_offArray {s t : State} (h : offArray t = offArray s) : WorkStopped s t where
  rings := (congrArg State.rings h :)
  tenants := (congrArg State.tenants h :)
  now := (congrArg State.now h :)
  mem := (congrArg (fun u : State => u.st.mem) h :)
  staged := (congrArg (fun u : State => u.st.staged) h :)
  atsEn := (congrArg (fun u : State => u.link.atsEn) h :)
  pasidEn := (congrArg (fun u : State => u.link.pasidEn) h :)

theorem stopElsewhere_stopped {s : State} (h : ∀ e : Peer, s.pair.peers[e].xfers = []) (cid : Nat) :
    WorkStopped s (stopElsewhere cid s) := by
  have array := abortContexts_offArray cid s
  unfold stopElsewhere
  generalize abortContexts cid s = u at array
  have pair : u.pair = s.pair := (congrArg State.pair array :)
  rw [dropCmdXfers_none (by rw [pair]; exact h)]
  obtain ⟨hr, ht, hn, hm, hs, ha, hp⟩ := workStopped_of_offArray array
  dsimp only
  split
  · split
    · exact ⟨hr, ht, hn, hm, hs, ha, hp⟩
    · exact ⟨hr, ht, hn, hm, hs, ha, hp⟩
  · exact ⟨hr, ht, hn, hm, hs, ha, hp⟩

/-! ### What a reset begins with -/

/-- The ring stopped, what it staged released and its reads dropped, before anything else of its commands ends (R140). -/
def resetBegun (r : Ring) (stall : Bool) (s : State) : State :=
  let s1 := s.onRing r (fun x => { x with
    inReset := true, resetCause := if stall then 2 else 1, rstCause := if stall then 2 else 1
    dying := dyingOf s r stall, queue := [], past := [], aborts := [], waiting := [], unreported := 0, discarded := 0
    stallFrom := none })
  { s1 with
    st := { s1.st with staged := releaseStaged r ((dyingOf s r stall).map (·.entry.cid)) s1.st.staged }
    link := { s1.link with
      reads := s1.link.reads.map (fun q =>
      if q.key.ring == r && (match q.what with | .cmd .. => true | _ => false) then { q with what := .dropped } else q)
      atsBad := s1.link.atsBad.filter (fun x => x.1.ring != r) } }

theorem beginReset_eq {r : Ring} {s : State} (h : s.rings[r].queue.any (fun c => c.op == 0x40) = false) (stall : Bool) :
    beginReset r stall s = settleFlushes (tryDiscards r
      (((dyingOf s r stall).map (·.entry.cid)).foldl (fun s cid => stopElsewhere cid s) (resetBegun r stall s))) := by
  unfold beginReset
  dsimp only
  rw [if_neg (ne_true_of_eq_false h)]
  rfl

theorem resetBegun_ring (r : Ring) (stall : Bool) (s : State) : (resetBegun r stall s).rings[r] = { s.rings[r] with
    inReset := true, resetCause := if stall then 2 else 1, rstCause := if stall then 2 else 1
    dying := dyingOf s r stall, queue := [], past := [], aborts := [], waiting := [], unreported := 0, discarded := 0
    stallFrom := none } := State.onRing_same _ _ _

theorem resetBegun_others (r : Ring) (stall : Bool) (s : State) : OtherRings s (resetBegun r stall s) r :=
  fun _ hq => State.onRing_other _ _ _ _ hq

theorem resetBegun_kept (r : Ring) (stall : Bool) (s : State) : (resetBegun r stall s).cairns = s.cairns
    ∧ (resetBegun r stall s).cfg = s.cfg ∧ (resetBegun r stall s).st.mem = s.st.mem
    ∧ (resetBegun r stall s).st.vault = s.st.vault := ⟨rfl, rfl, rfl, rfl⟩

theorem programsRun_of_unstaged {s : State} (h : s.st.staged = []) (r : Ring) : programsRun s r = false := by
  rw [programsRun, h]
  rfl

theorem programsRun_of_alive {s : State} {r : Ring} (h : s.rings[r].dying = []) : programsRun s r = false := by
  refine List.any_eq_false.mpr fun g _ => ?_
  rw [h]
  simp

theorem releaseStaged_none (r : Ring) (l : List Staged) : releaseStaged r [] l = l := by
  unfold releaseStaged
  simp

/-- With nothing stopped there is nothing to report. -/
theorem tryDiscards_none {s : State} {r : Ring} (h : s.rings[r].dying = []) : tryDiscards r s = s.onRing r fun x =>
    { x with dying := [], stallFrom := none } := by
  have filtered : ∀ l : List (Nat × BitVec 16), l.filter (fun p => !([] : List Nat).contains p.1) = l := by simp
  unfold tryDiscards
  rw [programsRun_of_alive h, if_neg (by decide), entriesWait, h, if_neg (by simp)]
  unfold writeDiscards
  rw [h]
  simp only [List.map_nil, List.foldl_nil, List.length_nil, satAdd_zero, filtered]

/-- A ring that no longer holds a FLUSH past its head is not touched by those that settle. -/
theorem settleRing_others (s : State) (q : Ring) : OtherRings s (settleRing s q) q := by
  have fold : ∀ (l : List Cmd) (u : State), OtherRings u
      (l.foldl (fun s c => if flushReached s q c then complete q c stOK 0 0 s else s) u) q := by
    intro l
    induction l with
    | nil => exact fun u _ _ => rfl
    | cons c l ih =>
      intro u p hp
      rw [List.foldl_cons, ih _ p hp]
      split
      · exact pushEntry_others _ _ _ _ p hp
      · rfl
  exact fold _ s

theorem settleFlushes_ring {s : State} {r : Ring} (h : s.rings[r].past = []) : (settleFlushes s).rings[r] = s.rings[r] := by
  have own := foldl_own_ring settleRing_others (r := r) (List.nodup_finRange 16) s
  rw [if_pos (List.mem_finRange r)] at own
  obtain ⟨u, hu, ht⟩ := own
  rw [settleFlushes_eq, ht, settleRing_none (by rw [hu, h]; rfl), hu]

theorem pushEntry_now (r : Ring) (c : Cmd) (o : Outc) (s : State) : (pushEntry r c o s).now = s.now := by
  unfold pushEntry
  dsimp only
  split
  · exact (busyOff_kept 2 _).now
  · rfl

theorem settleFlushes_keeps {γ : Type} (g : State → γ) (hg : ∀ q c s, g (complete q c stOK 0 0 s) = g s) (s : State) :
    g (settleFlushes s) = g s := by
  refine foldl_keeps g _ (fun s q => foldl_keeps g _ (fun s c => ?_) _ s) _ s
  split
  · exact hg _ _ _
  · rfl

theorem settleFlushes_st (s : State) : (settleFlushes s).st = s.st :=
  settleFlushes_keeps State.st (fun _ _ _ => pushEntry_st _ _ _ _) s

theorem settleFlushes_now (s : State) : (settleFlushes s).now = s.now :=
  settleFlushes_keeps State.now (fun _ _ _ => pushEntry_now _ _ _ _) s

/-! ### RING_RESET and its end (R125, R140 to R142) -/

theorem exec_ringReset {s : State} {r : Ring} (h : Up s) (hl : s.cfg.loading = false) (hr : s.rings[r].inReset = false) :
    exec (.ringReset r) s = .next (beginReset r false (setExp .applied s)) := by
  change Host.Outcome.next _ = _
  rw [if_neg (by simp only [h.1, h.2]; simp), hl]
  dsimp only
  rw [if_neg (ne_true_of_eq_false hr)]
  rfl

theorem dyingOf_none {s : State} {r : Ring} (hq : s.rings[r].queue = []) (hp : s.rings[r].past = [])
    (ha : s.rings[r].aborts = []) (hw : s.rings[r].waiting = []) (stall : Bool) : dyingOf s r stall = [] := by
  unfold dyingOf
  simp only [hq, hp, ha, hw]
  rfl

/-- A ring that holds nothing stops, and that is all. -/
theorem beginReset_empty {s : State} {r : Ring} (hq : s.rings[r].queue = []) (hp : s.rings[r].past = [])
    (ha : s.rings[r].aborts = []) (hw : s.rings[r].waiting = [])
    (hf : ∀ q : Ring, s.rings[q].past.filter (fun c => c.op == 3) = []) (stall : Bool) :
    beginReset r stall s = (resetBegun r stall s).onRing r fun x => { x with dying := [], stallFrom := none } := by
  have none := dyingOf_none hq hp ha hw stall
  rw [beginReset_eq (by rw [hq]; rfl), none]
  rw [List.map_nil, List.foldl_nil, tryDiscards_none (by rw [resetBegun_ring]; exact none)]
  refine settleFlushes_none fun q => ?_
  by_cases hq : q = r
  · subst hq
    rw [State.onRing_same, resetBegun_ring]
    rfl
  · rw [State.onRing_other _ _ _ _ hq, resetBegun_others _ _ _ q hq, hf q]

theorem readyBit_of_inReset {s : State} {r : Ring} (h : s.rings[r].inReset = true) : s.readyBit r = false := by
  unfold State.readyBit
  dsimp only
  rw [h]
  simp

theorem ringReset_empty {s : State} {r : Ring} (h : Pre.ringReset s r) :
    ∃ t, exec (.ringReset r) s = .next t ∧ t.rings[r].inReset = true ∧ t.readyBit r = false
      ∧ t.rings[r].discarded = 0 ∧ t.rings[r].unreported = 0 ∧ t.rings[r].rstCause = 1 ∧ t.cfg.expResult = 0
      ∧ t.rings[r].head = s.rings[r].head ∧ t.rings[r].tail = s.rings[r].tail ∧ t.rings[r].phase = s.rings[r].phase
      ∧ t.rings[r].log = s.rings[r].log ∧ OtherRings s t r ∧ t.cairns = s.cairns
      ∧ (∀ a, readByte t.st.mem a = readByte s.st.mem a) ∧ t.st.vault = s.st.vault := by
  obtain ⟨up, hl, hr, hq, hp, ha, hw, -, hf⟩ := h
  have step := (exec_ringReset up hl hr).trans (congrArg _ (beginReset_empty (s := setExp .applied s) hq hp ha hw hf false))
  have kept := resetBegun_kept r false (setExp .applied s)
  have others := resetBegun_others r false (setExp .applied s)
  have ring := resetBegun_ring r false (setExp .applied s)
  generalize resetBegun r false (setExp .applied s) = u at step kept others ring
  obtain ⟨cairns, cfg, mem, vault⟩ := kept
  have reset : (u.onRing r fun x => { x with dying := [], stallFrom := none }).rings[r].inReset = true := by
    rw [State.onRing_same, ring]
  refine ⟨_, step, reset, readyBit_of_inReset reset, ?_⟩
  rw [State.onRing_same, ring]
  refine ⟨rfl, rfl, rfl, congrArg Cfg.expResult cfg, rfl, rfl, rfl, rfl, fun q hq => ?_, cairns, fun a => congrArg (readByte · a) mem, vault⟩
  rw [State.onRing_other _ _ _ _ hq, others q hq]
  rfl

theorem ringResetEnd_done {s : State} {r : Ring} (hph : s.pw.phase ≠ .holdUp) (hr : s.rings[r].inReset = true)
    (hrun : programsRun s r = false) (hs : s.rings[r].setup = none) (hd : s.rings[r].dying = []) :
    exec (.ringResetEnd r) s = .next (s.onRing r (fun x => { x with inReset := false, faulted := false })) := by
  have acts : ¬ (s.pw.phase = .holdUp ∨ s.rings[r].inReset = false ∨ programsRun s r = true) := by
    rw [hr, hrun]
    simp [hph]
  have still : entriesWait r s = false := by
    rw [entriesWait, hd]
    rfl
  change Host.Outcome.next _ = _
  have same : ∀ x : RingSt, x.setup = none → x.applySetup = x := fun x hx => by rw [RingSt.applySetup, hx]
  rw [if_neg acts, if_neg (ne_true_of_eq_false still), if_pos hd]
  refine congrArg _ (congrArg (fun v => { s with rings := v }) ?_)
  simp only [modAt, same _ hs]

/-! ### STALL (R378, R379) -/

theorem dyingOf_one {s : State} {r : Ring} {c : Cmd} (hq : s.rings[r].queue = [c]) (hp : s.rings[r].past = [])
    (ha : s.rings[r].aborts = []) (hw : s.rings[r].waiting = []) (stall : Bool) :
    dyingOf s r stall = [dyingCmd s r s.rings[r] stall c] := by
  unfold dyingOf
  simp only [hq, hp, ha, hw]
  rfl

/-- A ring whose entries can be written: translation is off, a PASID is there where one is needed, and an entry is free. -/
structure CanWrite (s : State) (r : Ring) : Prop where
  denied : s.hostDenied r = false
  ats : s.link.atsEn = false
  free : s.rings[r].unconsumed < s.rings[r].depth.toNat
  fault : s.rings[r].faulted = false

theorem CanWrite.go {s : State} {r : Ring} (h : CanWrite s r) :
    ∃ xa p, s.fate (s.ringKey r) s.rings[r].entryAddr true false = .go xa p := by
  obtain ⟨xa, p, go, -⟩ := fate_go (s := s) (k := s.ringKey r) (a := s.rings[r].entryAddr) true false h.denied
    fun on => absurd on (by simp [h.ats])
  exact ⟨xa, p, go⟩

theorem writeIfFree_of_canWrite {s : State} {r : Ring} (h : CanWrite s r) (e : Entry) :
    writeIfFree r e s = (true, writeEntry r e s) := by
  obtain ⟨xa, p, go⟩ := h.go
  unfold writeIfFree
  dsimp only
  rw [go]
  dsimp only
  rw [if_neg (not_or.mpr ⟨h.free.not_ge, by simp only [h.fault]; decide⟩)]

/-- The one DISCARDED entry of the one stopped command is written. -/
def discardOne (r : Ring) (d : Dying) (s : State) : State :=
  writeEntry r { d.entry with stage := 0, more := false, last := true } s

theorem tryDiscards_one {s : State} {r : Ring} {d : Dying} (h : CanWrite s r) (hd : s.rings[r].dying = [d])
    (hst : d.stages = [0]) (hu : s.st.staged = []) : tryDiscards r s = (discardOne r d s).onRing r fun x => { x with
      dying := [], uncovered := x.uncovered.filter (fun p => !([d.entry.cid] : List Nat).contains p.1), stallFrom := none
      discarded := satAdd x.discarded 1, unreported := satAdd x.unreported 0 } := by
  obtain ⟨xa, p, go⟩ := h.go
  have written : writeDying r d s = (true, discardOne r d s) := by
    unfold writeDying
    rw [hst]
    exact writeIfFree_of_canWrite h _
  have noWait : entriesWait r s = false := by
    rw [entriesWait, go]
    simp
  unfold tryDiscards
  rw [programsRun_of_unstaged hu, if_neg (by decide), if_neg (ne_true_of_eq_false noWait)]
  unfold writeDiscards
  rw [hd]
  simp only [List.foldl_cons, List.foldl_nil, written]
  rfl

theorem writeEntry_now (r : Ring) (e : Entry) (s : State) : (writeEntry r e s).now = s.now := by
  have k := (announcing_rest ⟨r.val, by omega⟩ (fun s => s.onRing r (·.afterEntry s.now e))
    (emit (entryWritten s r e) (coverBy e s))).now
  have cover : (coverBy e s).now = s.now := by unfold coverBy; split <;> rfl
  have shown := k.trans cover
  rw [writeEntry_eq]
  dsimp only
  split
  · exact shown
  · split
    · exact shown
    · exact shown

theorem CanWrite.of_eq {s t : State} {r : Ring} (h : CanWrite s r) (ht : t.tenants = s.tenants)
    (hp : t.link.pasidEn = s.link.pasidEn) (ha : t.link.atsEn = s.link.atsEn)
    (hv : t.rings[r].pasidV = s.rings[r].pasidV) (hi : t.rings[r].pasid = s.rings[r].pasid)
    (hu : t.rings[r].unconsumed = s.rings[r].unconsumed) (hd : t.rings[r].depth = s.rings[r].depth)
    (hf : t.rings[r].faulted = s.rings[r].faulted) : CanWrite t r where
  denied := by
    have same := h.denied
    simp only [State.hostDenied, State.ringKey, State.ringTenant, State.pasidOf] at same ⊢
    rw [ht, hp, hv, hi]
    exact same
  ats := ha.trans h.ats
  free := by
    rw [hu, hd]
    exact h.free
  fault := hf.trans h.fault

section
variable {s : State} {r : Ring} {c : Cmd} (hq : s.rings[r].queue = [c]) (hp : s.rings[r].past = [])
  (ha : s.rings[r].aborts = []) (hw : s.rings[r].waiting = []) (h40 : c.op ≠ 0x40) (h12 : c.op ≠ 0x12)
  (can : CanWrite s r) (hst : s.st.staged = []) (hx : ∀ e : Peer, s.pair.peers[e].xfers = [])
include hq hp ha hw h40 h12 can hst hx

/-- The reset of a ring that holds one command: it is discarded, and its entry written. -/
theorem beginReset_one (stall : Bool) : let t := beginReset r stall s
    t.rings[r].inReset = true ∧ t.rings[r].rstCause = (if stall then 2 else 1) ∧ t.rings[r].fires = s.rings[r].fires
      ∧ t.rings[r].queue = [] ∧ t.rings[r].discarded = 1 ∧ t.rings[r].unreported = 0 ∧ t.now = s.now
      ∧ t.st.mem = s.st.mem := by
  have one := dyingOf_one hq hp ha hw stall
  have ring := resetBegun_ring r stall s
  have begun : WorkStopped s { resetBegun r stall s with rings := s.rings } :=
    ⟨rfl, rfl, rfl, rfl, by simp [resetBegun, hst, releaseStaged], rfl, rfl⟩
  have begunPair : (resetBegun r stall s).pair = s.pair := rfl
  rw [one] at ring
  intro t
  have eq : t = settleFlushes (tryDiscards r (stopElsewhere (dyingCmd s r s.rings[r] stall c).entry.cid (resetBegun r stall s))) := by
    have load : s.rings[r].queue.any (fun c => c.op == 0x40) = false := by
      rw [hq]
      simp [h40]
    exact (beginReset_eq load stall).trans (by
      rw [one, List.map_cons, List.map_nil, List.foldl_cons, List.foldl_nil])
  generalize resetBegun r stall s = b at eq ring begun begunPair
  have stopped := stopElsewhere_stopped (s := b) (by rw [begunPair]; exact hx) (dyingCmd s r s.rings[r] stall c).entry.cid
  generalize stopElsewhere (dyingCmd s r s.rings[r] stall c).entry.cid b = u at eq stopped
  have uring := ring
  rw [← stopped.rings] at uring
  have canU : CanWrite u r := can.of_eq (stopped.tenants.trans begun.tenants) (stopped.pasidEn.trans begun.pasidEn)
    (stopped.atsEn.trans begun.atsEn) (by rw [uring]) (by rw [uring]) (by rw [uring]) (by rw [uring]) (by rw [uring])
  have tried := tryDiscards_one canU (by rw [uring]) (by simp [dyingCmd, h12])
    (stopped.staged.trans (begun.staged.trans hst))
  have entry := writeEntry_ring r { (dyingCmd s r s.rings[r] stall c).entry with stage := 0, more := false, last := true } u r
  have kept := writeEntry_kept r { (dyingCmd s r s.rings[r] stall c).entry with stage := 0, more := false, last := true } u
  have now := writeEntry_now r { (dyingCmd s r s.rings[r] stall c).entry with stage := 0, more := false, last := true } u
  rw [if_pos rfl, uring] at entry
  unfold discardOne at tried
  generalize writeEntry r { (dyingCmd s r s.rings[r] stall c).entry with stage := 0, more := false, last := true } u = w
    at tried entry kept now
  have settled : t.rings[r] = (tryDiscards r u).rings[r] := by
    rw [eq]
    refine settleFlushes_ring ?_
    rw [tried, State.onRing_same, entry]
    rfl
  rw [settled, tried, State.onRing_same, entry]
  refine ⟨rfl, rfl, rfl, rfl, rfl, rfl, ?_, ?_⟩
  · rw [eq, settleFlushes_now, tried]
    exact now.trans (stopped.now.trans begun.now)
  · rw [eq, settleFlushes_st, tried]
    exact (congrArg Store.mem kept.1).trans (stopped.mem.trans begun.mem)

end

theorem exec_stall {s : State} {r : Ring} {from_ : Nat} (h : Up s) (hr : s.rings[r].inReset = false)
    (hf : s.rings[r].stallFrom = some from_) (hb : s.rings[r].busy = true) : ∃ a0 a1, exec (.stall r) s =
    .next (beginReset r true (raiseEvent 0x0305 (ringUnit r) a0 a1
      ((advanceTo (from_ + 1000 * s.rings[r].stallWin.toNat) s).onRing r (fun x => { x with fires := satAdd x.fires 1 })))) := by
  have acts : ¬ (s.pw.rdy = false ∨ s.pw.phase ≠ .ready ∨ s.rings[r].inReset = true ∨ s.rings[r].busy = false) := by
    rw [h.1, h.2, hr, hb]
    decide
  let oldest := oldestOf (advanceTo (from_ + 1000 * s.rings[r].stallWin.toNat) s) r
  refine ⟨BitVec.ofNat 32 oldest.1, BitVec.ofNat 32 oldest.2, ?_⟩
  change Host.Outcome.next _ = _
  rw [hf]
  dsimp only
  rw [if_neg acts]

theorem stall_discards {s : State} {r : Ring} {from_ : Nat} {c : Cmd} (h : Pre.stall s r from_ c) :
    ∃ t, exec (.stall r) s = .next t ∧ t.rings[r].inReset = true ∧ t.rings[r].rstCause = 2
      ∧ t.rings[r].fires = satAdd s.rings[r].fires 1 ∧ t.rings[r].queue = []
      ∧ from_ + 1000 * s.rings[r].stallWin.toNat ≤ t.now
      ∧ t.rings[r].discarded = 1 ∧ t.rings[r].unreported = 0 ∧ (∀ a, readByte t.st.mem a = readByte s.st.mem a) := by
  obtain ⟨up, hr, hfrom, hq, hp, ha, hw, hfree, hfault, hden, hats, hst, hop, hx⟩ := h
  obtain ⟨a0, a1, step⟩ := exec_stall up hr hfrom (by simp only [RingSt.busy, hq]; rfl)
  have k := raiseEvent_kept 0x0305 (ringUnit r) a0 a1
    ((advanceTo (from_ + 1000 * s.rings[r].stallWin.toNat) s).onRing r (fun x => { x with fires := satAdd x.fires 1 }))
  have q := raiseEvent_quiet 0x0305 (ringUnit r) a0 a1
    ((advanceTo (from_ + 1000 * s.rings[r].stallWin.toNat) s).onRing r (fun x => { x with fires := satAdd x.fires 1 }))
  generalize raiseEvent 0x0305 (ringUnit r) a0 a1
    ((advanceTo (from_ + 1000 * s.rings[r].stallWin.toNat) s).onRing r (fun x => { x with fires := satAdd x.fires 1 })) = u
    at step k q
  have ring : u.rings[r] = { s.rings[r] with fires := satAdd s.rings[r].fires 1 } := by
    rw [k.rings]
    exact State.onRing_same _ _ _
  have ats : u.link.atsEn = s.link.atsEn := (congrArg (fun v : State => v.link.atsEn) q :)
  have pasid : u.link.pasidEn = s.link.pasidEn := (congrArg (fun v : State => v.link.pasidEn) q :)
  have can : CanWrite s r := ⟨hden, hats, hfree, hfault⟩
  obtain ⟨reset, cause, fires, queue, discarded, unreported, now, mem⟩ := beginReset_one (s := u) (r := r) (c := c)
    (by rw [ring, hq]) (by rw [ring, hp]) (by rw [ring, ha]) (by rw [ring, hw]) (by rw [hop]; decide) (by rw [hop]; decide)
    (can.of_eq k.tenants pasid ats (by rw [ring]) (by rw [ring]) (by rw [ring]) (by rw [ring]) (by rw [ring]))
    (by rw [k.st]; exact hst) (by rw [k.pair]; exact hx) true
  refine ⟨_, step, reset, cause, fires.trans (by rw [ring]), queue, ?_, discarded, unreported, fun a => ?_⟩
  · rw [now, k.now]
    exact le_max_right _ _
  · rw [mem, k.st]
    rfl

/-- Settles O11: RING_RESET of a ring that holds nothing, the end of a reset, and STALL. -/
theorem ringResetsDiscard : Obligations.RingResetsDiscard :=
  ⟨⟨fun _ _ h => ringReset_empty h, fun _ _ hph hr hrun hs hd => ringResetEnd_done hph hr hrun hs hd⟩,
    fun _ _ _ _ h => stall_discards h⟩

end Sys2Proof.Proofs

/-! Signals and waits of units, the signal pages, and the publications of cairns (08). -/

namespace Sys2Proof.Proofs

open Sys2Proof Sys2Proof.Machine Sys2Proof.Safety Sys2Proof.Laws

/-! ### Signals of units and of the pages (R149, R153, R157) -/

theorem signalFrom_own {s : State} {t : Tenant} {c : Cairn} (h : s.cairns[c].owner = t) (kind id : Nat) (add : Word) :
    signalFrom t c kind id add s = applySignal c kind id add s := if_pos h

theorem exec_unitWait {s : State} {u : SigUnit} (c : Cairn) (v : Word) (m : WaitMode) (hrun : s.unitRuns u = true)
    (hawake : s.asleep u = false) : exec (.unitWait u c v m) s = .next (match classify v s.cairns[c].value with
      | .satisfied => s
      | .ahead d => { s with ma := { s.ma with waits := s.ma.waits ++
          [{ unit := u, cairn := c, target := v, mode := m, left := some d }] } }
      | .outOfRange =>
        raiseEvent 0x0403 (BitVec.ofNat 8 (sigNum u)) (BitVec.ofNat 32 c.val) v
          { s with ma := { s.ma with waits := s.ma.waits ++
            [{ unit := u, cairn := c, target := v, mode := m, left := none }] } }) :=
  congrArg _ (if_pos ⟨hrun, by rw [hawake]; rfl⟩)

/-- A write of a page that is no signal is counted at the cairn it covers, and announced. -/
theorem exec_signalPageAdd_rejected {s : State} (t : Tenant) {c : Cairn} {off size : Nat} {v : Word} (hrdy : s.pw.rdy = true)
    (hbad : s.cfg.loaded = false ∨ v = 0 ∨ bit v 31 = true ∨ size ≠ 4 ∨ off ≠ 8 * c.val) (hc : off / 8 = c.val)
    (hoff : off < 0x400) : exec (.signalPageAdd t off size v) s = .next (resumeUnits (rejectSignal c 6 t.val s)) := by
  have covers : ix 127 (off / 8) = c := by
    rw [hc]
    exact dif_pos c.isLt
  have broken : (decide (off < 0x400) && off % 8 == 0 && size == 4) = false ∨ s.cfg.loaded = false ∨ v = 0
      ∨ bit v 31 = true := by
    rcases hbad with h | h | h | h | h
    · exact .inr (.inl h)
    · exact .inr (.inr (.inl h))
    · exact .inr (.inr (.inr h))
    · exact .inl (by simp [h])
    · have : off % 8 ≠ 0 := by omega
      exact .inl (by simp [this])
  have write : pageWrite t off size v s = rejectSignal c 6 t.val s := by
    unfold pageWrite
    dsimp only
    rw [if_pos broken, if_pos hoff, covers]
  calc exec (.signalPageAdd t off size v) s
      = .next (if s.pw.rdy = false then s else resumeUnits (pageWrite t off size v s)) := rfl
    _ = _ := by rw [if_neg (by simp [hrdy]), write]

section
variable (c : Cairn) (kind id : Nat) (s : State)

theorem rejectSignal_untouched : ArrayUntouched s (rejectSignal c kind id s) :=
  .of_rings (raiseEvent_kept _ _ _ _ _).cfg (raiseEvent_kept _ _ _ _ _).ma (raiseEvent_kept _ _ _ _ _).rings

theorem rejectSignal_st : (rejectSignal c kind id s).st = s.st := (raiseEvent_kept _ _ _ _ _).st

end

/-! ### Publications (R161) -/

section
variable {s : State} {c : Cairn} (hrdy : s.pw.rdy = true) (hen : s.cairns[c].pubEn = true) (howed : s.cairns[c].pubOwed = true)
include hrdy hen howed

/-- The address of a cairn's publication. -/
def pubAddr (x : CairnSt) : Nat := x.pubHi.toNat * 2 ^ 32 + x.pubLo.toNat * 8

/-- The cairn with its publication made, or given up. -/
def pubMade (c : Cairn) (s : State) : State := s.onCairn c (fun x => { x with pubOwed := false })

theorem exec_cairnPublication : exec (.cairnPublication c) s =
    .next (match s.fate (s.ringKey s.cairns[c].pubRing) (pubAddr s.cairns[c]) true false with
      | .go xa t => emit (.publication c.val xa s.cairns[c].value (s.cairns[c].value ^^^ 0xFFFFFFFF) t) (pubMade c s)
      | .wait => askTranslation (s.ringKey s.cairns[c].pubRing) (pubAddr s.cairns[c]) true s
      | .fail why =>
        raiseEvent 0x0404 0xFF (BitVec.ofNat 32 c.val) 0
          (takeDenials (s.ringKey s.cairns[c].pubRing) true (keyFlt (s.ringKey s.cairns[c].pubRing) (pubAddr s.cairns[c]) why true
            ((pubMade c s).onCairn c (fun x => { x with pubFlt := true }))))) := by
  have acts : ¬ (s.pw.rdy = false ∨ s.cairns[c].pubEn = false ∨ s.cairns[c].pubOwed = false) := by
    rw [hrdy, hen, howed]
    decide
  change Host.Outcome.next _ = _
  rw [if_neg acts] <;> rfl

end

theorem fate_untranslated {s : State} {k : Key} (a : Nat) (write : Bool) (hk : k.denied = false) (off : s.link.atsEn = false) :
    s.fate k a write false = .go a { pasid := k.pasid } := (if_neg (by simp [hk])).trans (if_pos off)

theorem fate_translated {s : State} {k : Key} {a : Nat} {write : Bool} {e : AtcEnt} (hk : k.denied = false)
    (on : s.link.atsEn = true) (he : s.translated k a write = some e) :
    s.fate k a write false = .go (e.xaddr + (a - e.addr)) { xlat := true } := by
  unfold State.fate
  rw [if_neg (by simp [hk]), if_neg (by simp [on]), he]

/-- A publication whose write fails its check is given up, with PUB_FLT set and the failure counted. -/
theorem publication_failed {s : State} {c : Cairn} {t : State} {k : Key} {a : Nat} {why : Cause}
    (h : t = raiseEvent 0x0404 0xFF (BitVec.ofNat 32 c.val) 0
      (takeDenials k true (keyFlt k a why true ((pubMade c s).onCairn c (fun x => { x with pubFlt := true }))))) :
    t.cairns[c].pubFlt = true ∧ t.cairns[c].pubOwed = false ∧ t.cairns[c].value = s.cairns[c].value
      ∧ t.link.fltCnt = satAdd s.link.fltCnt 1 ∧ StoreKept s t := by
  have made : (takeDenials k true (keyFlt k a why true ((pubMade c s).onCairn c (fun x => { x with pubFlt := true })))).cairns[c]
      = { s.cairns[c] with pubOwed := false, pubFlt := true } := by
    refine (State.onCairn_same (pubMade c s) c _).trans ?_
    rw [pubMade, State.onCairn_same]
  rw [← raiseEvent_cairns 0x0404 0xFF (BitVec.ofNat 32 c.val) 0, ← h] at made
  refine ⟨by rw [made], by rw [made], by rw [made], ?_, storeKept_of_st ?_⟩
  · rw [h]
    exact congrArg (fun u : State => u.link.fltCnt) (raiseEvent_quiet 0x0404 0xFF (BitVec.ofNat 32 c.val) 0 _)
  · rw [h, raiseEvent_st]
    rfl

/-- Settles O18: a unit's signal and wait, a page's write accepted and rejected, and a publication by the fate of its write. -/
theorem unitsPagesAndPublications : Obligations.UnitsPagesAndPublications := by
  refine ⟨fun s u c v m hrun hawake hactive => ⟨fun h0 h31 ho => ?_, fun hc => ?_, fun d hc => ?_, fun hc => ?_⟩,
    fun s t c v hrdy => ⟨fun hl h0 h31 ho => ?_, fun off size hbad hc hoff => ?_⟩,
    fun s c k a hrdy hen howed hk ha => ?_⟩
  · have step := exec_unitSignal c hrun hawake hactive h0 h31
    rw [signalFrom_own ho] at step
    obtain ⟨value, -, kind, others⟩ := applySignal_cairns c (sigKind u) (sigId u) v s
    exact ⟨_, (applySignal_untouched _ _ _ _ s).goesOn step, value, kind, others, storeKept_of_st (applySignal_st _ _ _ _ s)⟩
  · rw [exec_unitWait c v m hrun hawake, hc]
  · rw [exec_unitWait c v m hrun hawake, hc]
  · have step := exec_unitWait c v m hrun hawake
    rw [hc] at step
    have k := raiseEvent_kept 0x0403 (BitVec.ofNat 8 (sigNum u)) (BitVec.ofNat 32 c.val) v
      { s with ma := { s.ma with waits := s.ma.waits ++ [{ unit := u, cairn := c, target := v, mode := m, left := none }] } }
    exact ⟨_, step, congrArg Massif.waits k.ma, k.cairns, storeKept_of_st k.st⟩
  · have step := exec_signalPageAdd_word t c hrdy hl h0 h31
    rw [signalFrom_own ho] at step
    obtain ⟨value, -, kind, others⟩ := applySignal_cairns c 6 t.val v s
    exact ⟨_, (applySignal_untouched _ _ _ _ s).goesOn step, value, kind, others, storeKept_of_st (applySignal_st _ _ _ _ s)⟩
  · have k := (raiseEvent_kept 0x0402 0xFF (BitVec.ofNat 32 c.val) (BitVec.ofNat 32 (6 * 256 + t.val % 256))
      (s.onCairn c (fun x => { x with sigRej := satAdd x.sigRej 1, blkKind := BitVec.ofNat 4 6, blkId := BitVec.ofNat 8 t.val }))).cairns
    have rejected : (rejectSignal c 6 t.val s).cairns = _ := k
    refine ⟨_, (rejectSignal_untouched c 6 t.val s).goesOn (exec_signalPageAdd_rejected t hrdy hbad hc hoff), ?_, ?_, ?_,
      storeKept_of_st (rejectSignal_st c 6 t.val s)⟩
    · rw [rejected, State.onCairn_same]
    · rw [rejected, State.onCairn_same]
    · exact fun j hj => by rw [rejected, State.onCairn_other _ _ _ _ hj]
  · subst hk ha
    have step := exec_cairnPublication hrdy hen howed
    refine ⟨fun hd off => ?_, fun e hd on he => ?_, fun wait => ?_, fun why fail => ?_⟩
    · rw [fate_untranslated _ _ hd off] at step
      exact step
    · rw [show s.fate _ (pubAddr s.cairns[c]) true false = _ from fate_translated hd on he] at step
      exact step
    · rw [show s.fate _ (pubAddr s.cairns[c]) true false = .wait from wait] at step
      exact step
    · rw [show s.fate _ (pubAddr s.cairns[c]) true false = .fail why from fail] at step
      exact ⟨_, step, publication_failed rfl⟩

end Sys2Proof.Proofs

/-! Attention (02, 05): MSI-X messages sent again or let through, and RB_N. -/

namespace Sys2Proof.Proofs

open Sys2Proof Sys2Proof.Machine Sys2Proof.Safety Sys2Proof.Laws

/-! ### MSI-X (R89) -/

theorem modAt_modAt {α : Type} {n : Nat} (v : Vector α n) (i : Fin n) (f g : α → α) :
    modAt (modAt v i f) i g = modAt v i (fun x => g (f x)) := by
  simp [modAt]

/-- The state with another MSI-X table. -/
def withMsix (table : Vector MsixVec 18) (s : State) : State := { s with link := { s.link with msix := table } }

/-- The write that clears a vector's mask. -/
def maskOff (v : Vec) (s : State) : State := withMsix (modAt s.link.msix v (fun x => { x with mask := false })) s

/-- An unmasked vector's message leaves. -/
theorem msixFire_unmasked {v : Vec} {s : State} (hen : s.link.msixEn = true) (hm : s.link.msixMask = false)
    (hv : s.link.msix[v].mask = false) : msixFire v s = emit (.msix v.val s.link.msix[v].addr s.link.msix[v].data {})
      (withMsix (modAt s.link.msix v (fun x => { x with sent := s.now })) s) := by
  unfold msixFire
  rw [if_neg (by simp [hen]), if_neg (by rw [hm, hv]; decide)]
  rfl

theorem exec_msixRepeat {s : State} {v : Vec} (h : Pre.msix s v) :
    exec (.msixRepeat v) s = .next (msixFire v (advanceTo (s.link.msix[v].sent + 1000) s)) := by
  obtain ⟨hen, -, hp, hph⟩ := h
  exact congrArg _ (if_pos ⟨hp, hen, hph⟩)

/-- One vector's part of a flush: its Pending Bit clears, and its message goes while it is pending. -/
def flushVec (s : State) (v : Vec) : State :=
  if s.link.msix[v].pend && !s.link.msix[v].mask then
    if s.vecPending v then msixFire v (withMsix (modAt s.link.msix v (fun x => { x with pend := false })) s)
    else withMsix (modAt s.link.msix v (fun x => { x with pend := false })) s
  else s

theorem msixFlush_eq {s : State} (hen : s.link.msixEn = true) (hm : s.link.msixMask = false) :
    msixFlush s = (List.finRange 18).foldl flushVec s := by
  unfold msixFlush
  rw [if_neg (by rw [hen, hm]; decide)]
  rfl

theorem flushVec_still {s : State} {v : Vec} (h : s.link.msix[v].pend = false) : flushVec s v = s := by
  unfold flushVec
  rw [h]
  exact if_neg (by simp)

/-- A vector let through, whose message went. -/
def letThrough (now : Nat) (x : MsixVec) : MsixVec := { x with mask := false, pend := false, sent := now }

/-- The state in which the message of a vector let through has left. -/
def messageSent (s : State) (v : Vec) : State :=
  emit (.msix v.val s.link.msix[v].addr s.link.msix[v].data {}) (withMsix (modAt s.link.msix v (letThrough s.now)) s)

theorem flushVec_sends {s : State} {v : Vec} (h : Pre.msix s v) (hpend : s.link.msix[v].pend = true) :
    flushVec (maskOff v s) v = messageSent s v := by
  obtain ⟨hen, hm, hp, -⟩ := h
  have pending : (maskOff v s).vecPending v = true := hp
  have fired := msixFire_unmasked (v := v) (s := withMsix (modAt (maskOff v s).link.msix v (fun x => { x with pend := false }))
    (maskOff v s)) hen hm (by simp only [maskOff, withMsix, modAt_same])
  unfold flushVec
  rw [if_pos (by simp only [maskOff, withMsix, modAt_same, hpend]; rfl), if_pos pending, fired]
  simp only [maskOff, withMsix, modAt_same, modAt_modAt]
  rfl

theorem messageSent_msix_other (s : State) {v w : Vec} (h : w ≠ v) : (messageSent s v).link.msix[w] = s.link.msix[w] :=
  modAt_other _ _ _ _ h

theorem exec_msixUnmask {s : State} {v : Vec} (h : Pre.msix s v) (hpend : s.link.msix[v].pend = true)
    (alone : ∀ w : Vec, w ≠ v → s.link.msix[w].pend = false) : exec (.msixUnmask v) s = .next (messageSent s v) := by
  have others : ∀ w ∈ List.finRange 18, w ≠ v →
      flushVec (maskOff v s) w
        = maskOff v s :=
    fun w _ hw => flushVec_still (by rw [maskOff, withMsix, modAt_other _ _ _ _ hw, alone w hw])
  have flushed : msixFlush (maskOff v s) = messageSent s v := by
    rw [msixFlush_eq (s := maskOff v s) h.1 h.2.1, ← flushVec_sends h hpend]
    refine foldl_single (List.mem_finRange v) (List.nodup_finRange 18) others fun w _ hw => ?_
    rw [flushVec_sends h hpend]
    exact flushVec_still (by rw [messageSent_msix_other s hw, alone w hw])
  calc exec (.msixUnmask v) s
      = .next (if s.pw.phase = .holdUp then s
          else msixFlush (maskOff v s)) := rfl
    _ = _ := by rw [if_neg h.2.2.2, flushed]

/-! ### RB_N (R22, R24) -/

theorem exec_rbNAttentionPulse {s : State} (hb : s.pw.busy = false) (ha : s.attnSum ≠ 0) :
    exec .rbNAttentionPulse s = .next (emit .rbPulse { s with pw := { s.pw with pulsed := true } }) :=
  congrArg _ (if_neg (not_or.mpr ⟨ne_true_of_eq_false hb, ha⟩))

theorem exec_rbNPulseRepeat {s : State} (hb : s.pw.busy = false) (hp : s.pw.pulsed = true) (ha : s.attnSum ≠ 0) :
    exec .rbNPulseRepeat s = .next (emit .rbPulse { s with now := s.now + 1000 }) := by
  have later : advanceTo (s.now + 1000) s = { s with now := s.now + 1000 } := by
    rw [advanceTo, Nat.max_eq_right (Nat.le_add_right _ _)]
  rw [← later]
  exact congrArg _ ((if_neg (by rw [hb, hp]; decide)).trans (if_neg ha))

/-- RB_N ends busy with no cause left, 100 µs or more after busy began. -/
def busyEnded (s : State) : State :=
  let s1 := advanceTo (s.pw.busySince + 100) s
  emit (.rbBusy false) { s1 with pw := { s1.pw with busy := false, pulsed := false } }

theorem exec_rbNBusyEnd {s : State} (hb : s.pw.busy = true) (hc : s.pw.causes = 0) :
    exec .rbNBusyEnd s = .next (busyEnded s) :=
  congrArg _ (if_neg (by rw [hb, hc]; decide))

/-- Settles O20: a message again, a message let through, and the four moves of RB_N. -/
theorem attentionPulsesAndMessages : Obligations.AttentionPulsesAndMessages := by
  refine ⟨fun s v h => ⟨fun hv => ?_, fun hpend alone => ?_⟩, fun s => ⟨fun hb ha => exec_rbNAttentionPulse hb ha,
    fun hb hp ha => exec_rbNPulseRepeat hb hp ha, fun hb hc => ?_, fun _ hc => congrArg _ (if_pos (.inr hc))⟩⟩
  · refine ⟨_, (exec_msixRepeat h).trans (congrArg _ (msixFire_unmasked h.1 h.2.1 hv)), rfl, rfl, ?_,
      fun w hw => modAt_other _ _ _ _ hw, rfl, rfl, storeKept_of_st rfl⟩
    exact congrArg MsixVec.sent (modAt_same s.link.msix v _)
  · have entry : (messageSent s v).link.msix[v] = letThrough s.now s.link.msix[v] := modAt_same _ _ _
    exact ⟨_, exec_msixUnmask h hpend alone, by rw [entry]; rfl, by rw [entry]; rfl, rfl, rfl, rfl, storeKept_of_st rfl⟩
  · exact ⟨_, exec_rbNBusyEnd hb hc, rfl, le_max_right _ _, rfl, rfl, storeKept_of_st rfl⟩

end Sys2Proof.Proofs

/-! Debug access (21): the TAP, DBG_XFER accesses by their space and level, and sessions with their halts. -/

namespace Sys2Proof.Proofs

open Sys2Proof Sys2Proof.Machine Sys2Proof.Safety Sys2Proof.Laws

/-! ### What a debug access leaves alone -/

theorem engineKept_refl (s : State) : EngineKept s s := ⟨rfl, rfl, rfl, rfl, rfl, rfl, storeKept_of_st rfl⟩

theorem engineKept_trans {s t u : State} (a : EngineKept s t) (b : EngineKept t u) : EngineKept s u := by
  obtain ⟨hr, hc, hw, hcfg, hl, hp, hst, -⟩ := a
  obtain ⟨kr, kc, kw, kcfg, kl, kp, kst, -⟩ := b
  exact ⟨kr.trans hr, kc.trans hc, kw.trans hw, kcfg.trans hcfg, kl.trans hl, kp.trans hp, storeKept_of_st (kst.trans hst)⟩

theorem dbg_engineKept (d : Debug) (s : State) : EngineKept s { s with dbg := d } :=
  ⟨rfl, rfl, rfl, rfl, rfl, rfl, storeKept_of_st rfl⟩

theorem draw_engineKept (s : State) : EngineKept s (draw s).2 := ⟨rfl, rfl, rfl, rfl, rfl, rfl, storeKept_of_st rfl⟩

theorem tapped_engineKept (s : State) : EngineKept s (Tapped s) := ⟨rfl, rfl, rfl, rfl, rfl, rfl, storeKept_of_st rfl⟩

/-! ### The TAP (R398) -/

section
variable {s : State} (hv : s.pw.vauxOn = true)
include hv

/-- From 3.3 Vaux an instruction is shifted in. -/
theorem tapSelect_on (code : Byte) (f : State → State) :
    tapSelect code f s = f { s with dbg := { s.dbg with ir := code } } := if_neg (by simp [hv])

theorem exec_tapBypass {code : Byte} (h0 : code ≠ 0) (h1 : code ≠ 1) (h2 : code ≠ 2) (h3 : code ≠ 0x21) :
    exec (.tapBypass code) s = .next (emit (.tdo 0) { s with dbg := { s.dbg with ir := code } }) := by
  refine (congrArg _ (if_neg ?_)).trans (congrArg Host.Outcome.next (tapSelect_on hv code _))
  exact fun h => h.elim h0 fun h => h.elim h1 fun h => h.elim h2 h3

theorem exec_tapSamplePreload : ∃ t, exec .tapSamplePreload s = .next t ∧ t.dbg.ir = 2
    ∧ t.bus = s.bus ++ [.tdo (t.dbg.boundary.zeroExtend 72)] ∧ EngineKept s t :=
  ⟨_, congrArg Host.Outcome.next (tapSelect_on hv _ _), rfl, rfl, rfl, rfl, rfl, rfl, rfl, rfl, storeKept_of_st rfl⟩

/-! ### An access (Table 21-3) -/

theorem exec_dbgNop (hw : s.dbgWorks = true) :
    exec .dbgNop s = .next { Tapped s with dbg := { (Tapped s).dbg with op := 0 } } := by
  change Host.Outcome.next _ = _
  rw [if_neg (by rw [hv, hw]; decide), tapSelect_on hv]
  rfl

theorem dbgXfer_deep (hd : s.pw.phase = .deep) (op : BitVec 2) (addr : Nat) (f : State → DbgSt × Option Word × State) :
    dbgXfer op addr f s = dbgDone op addr .unpowered none (Tapped s) := by
  have works : s.dbgWorks = true := by rw [State.dbgWorks, hd]
  unfold dbgXfer
  rw [if_neg (by rw [hv, works]; decide), tapSelect_on hv]
  exact if_pos hd

end

/-- An access whose space has answered: the answer stands in the port. -/
def dbgAnswer (op : BitVec 2) (addr : Nat) (r : DbgSt × Option Word × State) : State := dbgDone op addr r.1 r.2.1 r.2.2

theorem dbgXfer_debugged {s : State} (h : Debugged s) (op : BitVec 2) (addr : Nat) (f : State → DbgSt × Option Word × State) :
    dbgXfer op addr f s = dbgAnswer op addr (f (Tapped s)) := by
  obtain ⟨hv, hw, hd⟩ := h
  unfold dbgXfer
  rw [if_neg (by rw [hv, hw]; decide), tapSelect_on hv]
  exact if_neg hd

section
variable (op : BitVec 2) (addr : Nat) (st : DbgSt) (v : Option Word) (s : State)

theorem dbgDone_engineKept : EngineKept s (dbgDone op addr st v s) := by
  cases v with
  | none => exact engineKept_trans (draw_engineKept s) (dbg_engineKept _ _)
  | some w => exact dbg_engineKept _ _

/-- What an answer leaves of the port: the session stays. -/
theorem dbgDone_dbg : ∃ x, (dbgDone op addr st v s).dbg = { s.dbg with
    op := op, status := st.code, addr := BitVec.ofNat 32 addr, data := x } ∧ ∀ w, v = some w → x = w := by
  cases v with
  | none => exact ⟨_, rfl, fun _ h => nomatch h⟩
  | some w => exact ⟨w, rfl, fun _ h => Option.some.inj h⟩

end

/-- An access that its space answers without a change to the engine. -/
theorem dbgAnswer_engineKept {s : State} (op : BitVec 2) (addr : Nat) {r : DbgSt × Option Word × State}
    (h : EngineKept s r.2.2) : EngineKept s (dbgAnswer op addr r) := engineKept_trans h (dbgDone_engineKept _ _ _ _ _)

theorem dbgAnswer_status (op : BitVec 2) (addr : Nat) (r : DbgSt × Option Word × State) :
    (dbgAnswer op addr r).dbg.status = r.1.code ∧ (dbgAnswer op addr r).dbg.op = op := by
  obtain ⟨x, h, -⟩ := dbgDone_dbg op addr r.1 r.2.1 r.2.2
  exact ⟨congrArg Debug.status h, congrArg Debug.op h⟩

/-! ### The three spaces (R402, R403, Tables 21-4, 21-6) -/

theorem exec_dbgRead0 {s : State} (h : Debugged s) (addr : Nat) :
    exec (.dbgRead 0 addr) s = .next (dbgAnswer 1 addr (readSpace0 addr (Tapped s))) :=
  congrArg Host.Outcome.next (dbgXfer_debugged h 1 addr _)

theorem exec_dbgWrite0 {s : State} (h : Debugged s) (addr : Nat) (v : Word) :
    exec (.dbgWrite 0 addr v) s = .next (dbgAnswer 2 addr (writeSpace0 addr v (Tapped s))) :=
  congrArg Host.Outcome.next (dbgXfer_debugged h 2 addr _)

theorem exec_dbgWrite2 {s : State} (h : Debugged s) (addr : Nat) (v : Word) :
    exec (.dbgWrite 2 addr v) s = .next (dbgAnswer 2 addr (writeSpace2 addr v (Tapped s))) :=
  congrArg Host.Outcome.next (dbgXfer_debugged h 2 addr _)

/-- Of an access refused outright the port says why, and nothing else changes. -/
theorem refused_access {s : State} {op : BitVec 2} {addr : Nat} {st : DbgSt} {r : DbgSt × Option Word × State}
    (h : r = (st, none, Tapped s)) : (dbgAnswer op addr r).dbg.status = st.code ∧ (dbgAnswer op addr r).dbg.op = op
      ∧ EngineKept s (dbgAnswer op addr r) := by
  subst h
  obtain ⟨status, op'⟩ := dbgAnswer_status op addr (st, none, Tapped s)
  exact ⟨status, op', dbgAnswer_engineKept op addr (tapped_engineKept s)⟩

theorem readSpace0_inspect {s : State} {addr : Nat} (hl : s.dbg.level ≠ 0) (hlive : s.dbg.live = false) (h4 : addr % 4 = 0)
    (hr : addr < 0x4000000) (hs : addr ≠ 0x60014) : readSpace0 addr s = (.ok, some (regWord s addr), s) := by
  unfold readSpace0
  rw [if_neg hl, if_neg (by omega)]
  dsimp only
  rw [if_neg hs, if_neg (ne_true_of_eq_false hlive)]

theorem readSpace0_unmapped {s : State} {addr : Nat} (hl : s.dbg.level ≠ 0) (ha : addr % 4 ≠ 0 ∨ 0x4000000 ≤ addr) :
    readSpace0 addr s = (.addr, none, s) := (if_neg hl).trans (if_pos ha)

theorem writeSpace0_stores {s : State} {addr : Nat} (v : Word) (hl : s.dbg.level = 2) (h4 : addr % 4 = 0)
    (hr : addr < 0x4000000) : writeSpace0 addr v s = (.ok, none, storeAt true addr 4 (v.zeroExtend 512) s) :=
  (if_neg (by simp [hl])).trans (if_neg (by omega))

theorem writeSpace2_token {s : State} {addr : Nat} (v : Word) (ha : addr < 0x1000) (h4 : addr % 4 = 0) :
    writeSpace2 addr v s
      = (.ok, none, { s with dbg := { s.dbg with token := writeBytes addr (bytesLE 4 v) s.dbg.token } }) :=
  (if_pos ha).trans (if_pos h4)

/-- Settles O59: the TAP from 3.3 Vaux, then an access of each space at each level. -/
theorem debugAccessNeedsItsLevel : Obligations.DebugAccessNeedsItsLevel := by
  refine ⟨fun s hv => ⟨congrArg Host.Outcome.next (tapSelect_on hv _ _), fun b => congrArg Host.Outcome.next (tapSelect_on hv _ _),
      fun code h0 h1 h2 h3 => exec_tapBypass hv h0 h1 h2 h3, exec_tapSamplePreload hv, exec_dbgNop hv,
      fun hd space addr => ?_⟩, fun s addr v h => ⟨fun hl => ⟨?_, fun ha h4 => ?_⟩, fun hl => ?_,
      fun hl hlive h4 hr hs => ?_, fun hl ha => ?_, fun hl h4 hr => ?_⟩⟩
  · obtain ⟨x, port, -⟩ := dbgDone_dbg 1 addr .unpowered none (Tapped s)
    exact ⟨_, congrArg Host.Outcome.next (dbgXfer_deep hv hd 1 addr _), congrArg Debug.status port, congrArg Debug.op port,
      engineKept_trans (tapped_engineKept s) (dbgDone_engineKept _ _ _ _ _)⟩
  · exact ⟨_, exec_dbgRead0 h addr, refused_access (st := .denied) (if_pos hl)⟩
  · refine ⟨_, exec_dbgWrite2 h addr v, ?_⟩
    rw [writeSpace2_token v ha h4]
    obtain ⟨x, port, -⟩ := dbgDone_dbg 2 addr .ok none
      { Tapped s with dbg := { (Tapped s).dbg with token := writeBytes addr (bytesLE 4 v) (Tapped s).dbg.token } }
    exact ⟨congrArg Debug.status port, congrArg Debug.token port,
      dbgAnswer_engineKept 2 addr (engineKept_trans (tapped_engineKept s) (dbg_engineKept _ _))⟩
  · exact ⟨_, exec_dbgWrite0 h addr v, refused_access (st := .denied) (if_pos hl)⟩
  · refine ⟨_, exec_dbgRead0 h addr, ?_⟩
    rw [readSpace0_inspect (s := Tapped s) hl hlive h4 hr hs]
    obtain ⟨x, port, data⟩ := dbgDone_dbg 1 addr .ok (some (regWord (Tapped s) addr)) (Tapped s)
    exact ⟨congrArg Debug.status port, (congrArg Debug.data port).trans (data _ rfl), congrArg Debug.addr port,
      dbgAnswer_engineKept 1 addr (tapped_engineKept s)⟩
  · obtain ⟨status, -, kept⟩ := refused_access (s := s) (op := 1) (addr := addr) (readSpace0_unmapped (s := Tapped s) hl ha)
    exact ⟨_, exec_dbgRead0 h addr, status, kept⟩
  · refine ⟨_, exec_dbgWrite0 h addr v, ?_⟩
    rw [writeSpace0_stores (s := Tapped s) v hl h4 hr]
    obtain ⟨x, port, -⟩ := dbgDone_dbg 2 addr .ok none (storeAt true addr 4 (v.zeroExtend 512) (Tapped s))
    exact ⟨congrArg Debug.status port, rfl, rfl, rfl⟩

end Sys2Proof.Proofs

/-! Debug sessions (21): authorisation, LIVE_READ, HALT and RESUME, and the end of a session. -/

namespace Sys2Proof.Proofs

open Sys2Proof Sys2Proof.Machine Sys2Proof.Safety Sys2Proof.Laws

/-! ### DBG_CTL as a command writes it (Table 21-6) -/

/-- DBG_CTL's RW fields. -/
def ctlBits (live halt : Bool) : Word := img [(bN live, 1), (bN halt, 0)]

theorem ctlBits_auth (live halt : Bool) : bit (setBit (ctlBits live halt) 31 true) 31 = true := by
  revert live halt
  decide

theorem ctlBits_end (live halt : Bool) : bit (setBit (ctlBits live halt) 30 true) 30 = true
    ∧ bit (setBit (ctlBits live halt) 30 true) 31 = false := by
  revert live halt
  decide

theorem ctlBits_live (live halt on : Bool) : bit (setBit (ctlBits live halt) 1 on) 31 = false
    ∧ bit (setBit (ctlBits live halt) 1 on) 30 = false ∧ bit (setBit (ctlBits live halt) 1 on) 1 = on
    ∧ bit (setBit (ctlBits live halt) 1 on) 0 = halt := by
  revert live halt on
  decide

theorem ctlBits_halt (live halt on : Bool) : bit (setBit (ctlBits live halt) 0 on) 31 = false
    ∧ bit (setBit (ctlBits live halt) 0 on) 30 = false ∧ bit (setBit (ctlBits live halt) 0 on) 1 = live
    ∧ bit (setBit (ctlBits live halt) 0 on) 0 = on := by
  revert live halt on
  decide

/-- A write of DBG_CTL, as its answer stands in the port. -/
def ctlAnswer (v : Word) (s : State) : State :=
  dbgAnswer 2 0 ((dbgCtlWrite v (Tapped s)).1, none, (dbgCtlWrite v (Tapped s)).2)

theorem dbgStore_ctl {s : State} (h : Debugged s) (v : Word) : dbgStore 1 0 v s = ctlAnswer v s :=
  dbgXfer_debugged h 2 0 _

/-- What an answer without data leaves of the session. -/
theorem ctlAnswer_dbg {v : Word} {s u : State} {st : DbgSt} (h : dbgCtlWrite v (Tapped s) = (st, u)) :
    ∃ x, (ctlAnswer v s).dbg = { u.dbg with op := 2, status := st.code, addr := 0, data := x } := by
  obtain ⟨x, hx, -⟩ := dbgDone_dbg 2 0 st none u
  refine ⟨x, ?_⟩
  rw [ctlAnswer, h]
  exact hx

theorem ctlAnswer_engineKept {v : Word} {s u : State} {st : DbgSt} (h : dbgCtlWrite v (Tapped s) = (st, u))
    (k : EngineKept (Tapped s) u) : EngineKept s (ctlAnswer v s) := by
  rw [ctlAnswer, h]
  exact dbgAnswer_engineKept 2 0 (engineKept_trans (tapped_engineKept s) k)

/-! ### Authorisation (R399) -/

section
variable {s : State} {v : Word} (hl : s.dbg.level = 0)
include hl

theorem dbgCtlWrite_auth (ha : bit v 31 = true) (hb : s.dbg.authBusy = false) : dbgCtlWrite v s = (.ok, startAuth s) :=
  (if_pos hl).trans ((if_neg (by simp [ha])).trans (if_neg (by simp [hb])))

theorem dbgCtlWrite_authBusy (ha : bit v 31 = true) (hb : s.dbg.authBusy = true) : dbgCtlWrite v s = (.busy, s) :=
  (if_pos hl).trans ((if_neg (by simp [ha])).trans (if_pos hb))

end

theorem startAuth_engineKept (s : State) : EngineKept s (startAuth s) :=
  ⟨rfl, rfl, rfl, rfl, rfl, rfl, storeKept_of_st rfl⟩

theorem dbgLog_engineKept (kind : Byte) (s : State) : EngineKept s (dbgLog kind s) :=
  ⟨rfl, rfl, rfl, rfl, rfl, rfl, storeKept_of_st rfl⟩

theorem auth_at_none {s : State} (h : Debugged s) (hl : s.dbg.level = 0) :
    (s.dbg.authBusy = false → ∃ t, exec .dbgAuth s = .next t ∧ t.dbg.authBusy = true ∧ t.dbg.level = 0 ∧ t.dbg.status = 0
        ∧ EngineKept s t)
      ∧ (s.dbg.authBusy = true → ∃ t, exec .dbgAuth s = .next t ∧ t.dbg.status = 5 ∧ t.dbg.level = 0 ∧ EngineKept s t) := by
  have auth : bit (setBit (ctlNow s.dbg) 31 true) 31 = true := ctlBits_auth _ _
  have step : exec .dbgAuth s = .next (ctlAnswer (setBit (ctlNow s.dbg) 31 true) s) :=
    congrArg Host.Outcome.next (dbgStore_ctl h _)
  refine ⟨fun hb => ?_, fun hb => ?_⟩
  · have write := dbgCtlWrite_auth (s := Tapped s) hl auth hb
    obtain ⟨x, port⟩ := ctlAnswer_dbg write
    exact ⟨_, step, congrArg Debug.authBusy port, (congrArg Debug.level port).trans hl, congrArg Debug.status port,
      ctlAnswer_engineKept write (startAuth_engineKept _)⟩
  · have write := dbgCtlWrite_authBusy (s := Tapped s) hl auth hb
    obtain ⟨x, port⟩ := ctlAnswer_dbg write
    exact ⟨_, step, congrArg Debug.status port, (congrArg Debug.level port).trans hl,
      ctlAnswer_engineKept write (engineKept_refl _)⟩

theorem authComplete_admitted {s : State} {cert sig : Bool} (hb : s.dbg.authBusy = true) (hp : s.pw.phase ≠ .holdUp)
    (ok : tokenOk s cert sig = true) (open_ : s.dbg.locked = false) : exec (.dbgAuthComplete cert sig) s =
    .next (dbgLog 1 { s with dbg := { s.dbg with
      authBusy := false, level := BitVec.ofNat 2 (readByte s.dbg.token 8).toNat } }) := by
  change Host.Outcome.next _ = _
  rw [if_neg (by rw [hb]; simp [hp])]
  dsimp only
  rw [if_pos (by rw [ok, open_]; rfl)]

/-- One more failed verification, which saturates (R399). -/
def authFailed (s : State) : BitVec 2 := if s.dbg.authFails = 3 then 3 else s.dbg.authFails + 1

theorem authComplete_failed {s : State} {cert sig : Bool} (hb : s.dbg.authBusy = true) (hp : s.pw.phase ≠ .holdUp)
    (bad : tokenOk s cert sig = false ∨ s.dbg.locked = true) : exec (.dbgAuthComplete cert sig) s =
    .next (dbgLog 3 { s with dbg := { s.dbg with
      authBusy := false, authFails := authFailed s, locked := s.dbg.locked || authFailed s == 3 } }) := by
  change Host.Outcome.next _ = _
  rw [if_neg (by rw [hb]; simp [hp])]
  dsimp only
  rw [if_neg]
  · rfl
  · rcases bad with h | h
    · rw [h]; simp
    · rw [h]; simp

/-! ### Halts (R405, R407) -/

theorem arrayAtRest_same {s t : State} (h : ArrayAtRest s) (hcfg : t.cfg = s.cfg) (hma : t.ma = s.ma)
    (hr : t.rings = s.rings) : ArrayAtRest t := (ArrayUntouched.of_rings hcfg hma hr).atRest h

/-- The Steward goes on: with no window write held over and the array at rest, only the port changes. -/
theorem resumeSteward_halted {s : State} (hh : s.dbg.halted = true) (hw : s.dbg.winWait = []) (ha : ArrayAtRest s) :
    resumeSteward s = dbgLog 8 { s with dbg := { s.dbg with
      halted := false, forced := false, held := 0, heldRing := 0, winWait := [] } } := by
  unfold resumeSteward
  rw [if_neg (by simp [hh]), hw]
  exact pumpWheels_rest (arrayAtRest_same ha rfl rfl rfl)

theorem resumeSteward_running {s : State} (hh : s.dbg.halted = false) : resumeSteward s = s := if_pos hh

/-- What a resume leaves: no halt, and what a halt held is released. -/
theorem resumeSteward_dbg {s : State} (hw : s.dbg.winWait = []) (ha : ArrayAtRest s) :
    EngineKept s (resumeSteward s) ∧ (resumeSteward s).dbg.halted = false
      ∧ (resumeSteward s).dbg.haltPend = s.dbg.haltPend ∧ (resumeSteward s).dbg.live = s.dbg.live
      ∧ (s.dbg.halted = true → (resumeSteward s).dbg.held = 0) := by
  cases hh : s.dbg.halted with
  | false =>
    rw [resumeSteward_running hh]
    exact ⟨engineKept_refl s, hh, rfl, rfl, fun h => nomatch h⟩
  | true =>
    rw [resumeSteward_halted hh hw ha]
    exact ⟨engineKept_trans (dbg_engineKept _ _) (dbgLog_engineKept 8 _), rfl, rfl, rfl, fun _ => rfl⟩

/-- What setting LIVE_READ leaves. -/
theorem setLive_dbg (on : Bool) (s : State) : EngineKept s (setLive on s) ∧ (setLive on s).dbg.live = on
    ∧ (setLive on s).dbg.halted = s.dbg.halted ∧ (setLive on s).dbg.haltPend = s.dbg.haltPend
    ∧ (setLive on s).dbg.winWait = s.dbg.winWait ∧ (setLive on s).dbg.held = s.dbg.held := by
  unfold setLive
  split
  next h => exact ⟨engineKept_refl s, h, rfl, rfl, rfl, rfl⟩
  next => exact ⟨engineKept_trans (dbg_engineKept _ _) (dbgLog_engineKept _ _), rfl, rfl, rfl, rfl, rfl⟩

theorem setLive_atRest {s : State} (on : Bool) (h : ArrayAtRest s) : ArrayAtRest (setLive on s) := by
  unfold setLive
  split
  · exact h
  · exact arrayAtRest_same h rfl rfl rfl

/-- At CONTROL a write of DBG_CTL that neither starts a verification nor ends the session sets LIVE_READ and HALT. -/
theorem dbgCtlWrite_control {s : State} {v : Word} (hl : s.dbg.level = 2) (ha : bit v 31 = false) (he : bit v 30 = false) :
    dbgCtlWrite v s = (.ok, setHalt (bit v 0) (setLive (bit v 1) s)) := by
  unfold dbgCtlWrite
  dsimp only
  rw [if_neg (by rw [hl]; decide), if_neg (by rw [hl]; simp), if_neg (fun k => ne_true_of_eq_false ha k.1),
    if_neg (ne_true_of_eq_false ha), if_neg (ne_true_of_eq_false he), if_pos hl]

theorem dbgCtlWrite_end {s : State} {v : Word} (hl : s.dbg.level = 2) (ha : bit v 31 = false) (he : bit v 30 = true) :
    dbgCtlWrite v s = (.ok, endSession s) := by
  unfold dbgCtlWrite
  dsimp only
  rw [if_neg (by rw [hl]; decide), if_neg (by rw [hl]; simp), if_neg (fun k => ne_true_of_eq_false ha k.1),
    if_neg (ne_true_of_eq_false ha), if_pos he]

section
variable {s : State} (hw : s.dbg.winWait = []) (ha : ArrayAtRest s)

theorem setHalt_on (s : State) : EngineKept s (setHalt true s) ∧ (setHalt true s).dbg.halted = s.dbg.halted
    ∧ (setHalt true s).dbg.live = s.dbg.live ∧ (s.dbg.halted = false → (setHalt true s).dbg.haltPend = true) := by
  rw [setHalt, if_pos rfl]
  cases hh : s.dbg.halted with
  | true => exact ⟨engineKept_refl s, hh, rfl, fun h => nomatch h⟩
  | false => exact ⟨dbg_engineKept _ _, hh, rfl, fun _ => rfl⟩

include hw ha

theorem setHalt_off : EngineKept s (setHalt false s) ∧ (setHalt false s).dbg.halted = false
    ∧ (setHalt false s).dbg.haltPend = false ∧ (setHalt false s).dbg.live = s.dbg.live
    ∧ (s.dbg.halted = true → (setHalt false s).dbg.held = 0) := by
  have rest : ArrayAtRest { s with dbg := { s.dbg with haltPend := false } } :=
    arrayAtRest_same ha rfl rfl rfl
  obtain ⟨kept, halted, pend, live, held⟩ := resumeSteward_dbg (s := { s with dbg := { s.dbg with haltPend := false } }) hw rest
  exact ⟨engineKept_trans (dbg_engineKept _ _) kept, halted, pend, live, held⟩

theorem endSession_dbg : EngineKept s (endSession s) ∧ (endSession s).dbg.level = 0 ∧ (endSession s).dbg.live = false
    ∧ (endSession s).dbg.halted = false := by
  obtain ⟨kept, halted, -⟩ := setHalt_off hw ha
  obtain ⟨kept', live, halted', -⟩ := setLive_dbg false (setHalt false s)
  exact ⟨engineKept_trans kept (engineKept_trans kept' (engineKept_trans (dbgLog_engineKept 2 _) (dbg_engineKept _ _))),
    rfl, live, halted'.trans halted⟩

end

/-- A write of LIVE_READ and HALT at CONTROL: the port shows it, and the engine is as LIVE_READ and HALT leave it. -/
theorem control_write {s : State} (hl : s.dbg.level = 2) {v : Word} {live halt : Bool} (ha : bit v 31 = false)
    (he : bit v 30 = false) (h1 : bit v 1 = live) (h0 : bit v 0 = halt)
    (k : EngineKept (Tapped s) (setHalt halt (setLive live (Tapped s)))) :
    EngineKept s (ctlAnswer v s) ∧ (∃ x, (ctlAnswer v s).dbg =
      { (setHalt halt (setLive live (Tapped s))).dbg with op := 2, status := 0, addr := 0, data := x }) := by
  have write := dbgCtlWrite_control (s := Tapped s) hl ha he
  rw [h1, h0] at write
  exact ⟨ctlAnswer_engineKept write k, ctlAnswer_dbg write⟩

section
variable {s : State} (h : Pre.session s) (hl : s.dbg.level = 2)
include h

/-- The state in which HALT is judged: LIVE_READ written, the array still at rest. -/
theorem liveWritten (on : Bool) : EngineKept (Tapped s) (setLive on (Tapped s)) ∧ (setLive on (Tapped s)).dbg.live = on
    ∧ (setLive on (Tapped s)).dbg.halted = s.dbg.halted ∧ (setLive on (Tapped s)).dbg.haltPend = s.dbg.haltPend
    ∧ (setLive on (Tapped s)).dbg.winWait = [] ∧ ArrayAtRest (setLive on (Tapped s)) := by
  obtain ⟨kept, live, halted, pend, wait, -⟩ := setLive_dbg on (Tapped s)
  have rest : ArrayAtRest (Tapped s) := arrayAtRest_same h.2.2 rfl rfl rfl
  exact ⟨kept, live, halted, pend, wait.trans h.2.1, setLive_atRest on rest⟩

include hl

theorem liveRead_control (on : Bool) : ∃ t, exec (.liveRead on) s = .next t ∧ t.dbg.live = on
    ∧ t.dbg.halted = s.dbg.halted ∧ t.dbg.status = 0 ∧ EngineKept s t := by
  obtain ⟨noAuth, noEnd, live, halt⟩ := ctlBits_live s.dbg.live (s.dbg.halted || s.dbg.haltPend) on
  obtain ⟨kept, hlive, hhalted, -, hwait, rest⟩ := liveWritten h on
  have halts : ∀ b, b = (s.dbg.halted || s.dbg.haltPend) → EngineKept (Tapped s) (setHalt b (setLive on (Tapped s)))
      ∧ (setHalt b (setLive on (Tapped s))).dbg.live = on
      ∧ (setHalt b (setLive on (Tapped s))).dbg.halted = s.dbg.halted := by
    intro b hb
    cases b with
    | true =>
      obtain ⟨k, halted, l, -⟩ := setHalt_on (setLive on (Tapped s))
      exact ⟨engineKept_trans kept k, l.trans hlive, halted.trans hhalted⟩
    | false =>
      obtain ⟨k, halted, -, l, -⟩ := setHalt_off hwait rest
      have off : s.dbg.halted = false := ((Bool.or_eq_false_iff).mp hb.symm).1
      exact ⟨engineKept_trans kept k, l.trans hlive, halted.trans off.symm⟩
  obtain ⟨k, l, hd⟩ := halts _ rfl
  obtain ⟨kept', x, port⟩ := control_write hl noAuth noEnd live halt k
  exact ⟨_, congrArg Host.Outcome.next (dbgStore_ctl h.1 _), (congrArg Debug.live port).trans l,
    (congrArg Debug.halted port).trans hd, congrArg Debug.status port, kept'⟩

theorem halt_control (hh : s.dbg.halted = false) : ∃ t, exec .halt s = .next t ∧ t.dbg.haltPend = true
    ∧ t.dbg.halted = false ∧ EngineKept s t := by
  obtain ⟨noAuth, noEnd, live, halt⟩ := ctlBits_halt s.dbg.live (s.dbg.halted || s.dbg.haltPend) true
  obtain ⟨kept, -, hhalted, -⟩ := liveWritten h s.dbg.live
  obtain ⟨k, halted, -, pend⟩ := setHalt_on (setLive s.dbg.live (Tapped s))
  obtain ⟨kept', x, port⟩ := control_write hl noAuth noEnd live halt (engineKept_trans kept k)
  exact ⟨_, congrArg Host.Outcome.next (dbgStore_ctl h.1 _), (congrArg Debug.haltPend port).trans (pend (hhalted.trans hh)),
    (congrArg Debug.halted port).trans (halted.trans (hhalted.trans hh)), kept'⟩

theorem resume_control : ∃ t, exec .resume s = .next t ∧ t.dbg.halted = false ∧ t.dbg.haltPend = false
    ∧ (s.dbg.halted = true → t.dbg.held = 0) ∧ EngineKept s t := by
  obtain ⟨noAuth, noEnd, live, halt⟩ := ctlBits_halt s.dbg.live (s.dbg.halted || s.dbg.haltPend) false
  obtain ⟨kept, -, hhalted, -, hwait, rest⟩ := liveWritten h s.dbg.live
  obtain ⟨k, halted, pend, -, held⟩ := setHalt_off hwait rest
  obtain ⟨kept', x, port⟩ := control_write hl noAuth noEnd live halt (engineKept_trans kept k)
  exact ⟨_, congrArg Host.Outcome.next (dbgStore_ctl h.1 _), (congrArg Debug.halted port).trans halted,
    (congrArg Debug.haltPend port).trans pend, fun hh => (congrArg Debug.held port).trans (held (hhalted.trans hh)), kept'⟩

theorem dbgEnd_control : ∃ t, exec .dbgEnd s = .next t ∧ t.dbg.level = 0 ∧ t.dbg.live = false ∧ t.dbg.halted = false
    ∧ EngineKept s t := by
  obtain ⟨ends, noAuth⟩ := ctlBits_end s.dbg.live (s.dbg.halted || s.dbg.haltPend)
  have rest : ArrayAtRest (Tapped s) := arrayAtRest_same h.2.2 rfl rfl rfl
  obtain ⟨kept, level, live, halted⟩ := endSession_dbg (s := Tapped s) h.2.1 rest
  have write := dbgCtlWrite_end (s := Tapped s) hl noAuth ends
  obtain ⟨x, port⟩ := ctlAnswer_dbg write
  exact ⟨_, congrArg Host.Outcome.next (dbgStore_ctl h.1 _), (congrArg Debug.level port).trans level,
    (congrArg Debug.live port).trans live, (congrArg Debug.halted port).trans halted, ctlAnswer_engineKept write kept⟩

end

/-- A halt that is requested reaches its boundary, or is forced. -/
theorem exec_stewardHalted {s : State} (hp : s.dbg.haltPend = true) (hph : s.pw.phase ≠ .holdUp) : exec .stewardHalted s =
    .next (dbgLog 6 { s with dbg := { s.dbg with haltPend := false, halted := true } }) :=
  congrArg Host.Outcome.next (if_neg (not_or.mpr ⟨by simp [hp], hph⟩))

theorem exec_haltForced {s : State} (hp : s.dbg.haltPend = true) (hph : s.pw.phase ≠ .holdUp) (held : BitVec 6) (r : Ring) :
    exec (.haltForced held r) s = .next (dbgLog 7 { s with dbg := { s.dbg with
      haltPend := false, halted := true, forced := true, held := held
      heldRing := if bit held 0 then BitVec.ofNat 4 r.val else 0 } }) :=
  congrArg Host.Outcome.next (if_neg (not_or.mpr ⟨by simp [hp], hph⟩))

/-- Settles O60: authorisation and its end, the commands of a session at CONTROL, and the halt itself. -/
theorem debugSessionsHaltAndResume : Obligations.DebugSessionsHaltAndResume := by
  refine fun s => ⟨auth_at_none, fun hb hp cert sig => ⟨fun ok open_ => ?_, fun bad => ?_⟩,
    fun h hl => ⟨liveRead_control h hl, halt_control h hl, resume_control h hl, dbgEnd_control h hl⟩,
    fun hp hph => ⟨?_, fun held r => ?_⟩, fun hp => congrArg Host.Outcome.next (if_pos (.inl hp))⟩
  · exact ⟨_, authComplete_admitted hb hp ok open_, rfl, rfl, rfl,
      engineKept_trans (dbg_engineKept _ _) (dbgLog_engineKept 1 _)⟩
  · refine ⟨_, authComplete_failed hb hp bad, rfl, rfl, fun third => ?_,
      engineKept_trans (dbg_engineKept _ _) (dbgLog_engineKept 3 _)⟩
    have fails : authFailed s = 3 := by rw [authFailed, third]; decide
    change (s.dbg.locked || authFailed s == 3) = true
    rw [fails]
    simp
  · exact ⟨_, exec_stewardHalted hp hph, rfl, rfl, engineKept_trans (dbg_engineKept _ _) (dbgLog_engineKept 6 _)⟩
  · exact ⟨_, exec_haltForced hp hph held r, rfl, rfl, rfl, engineKept_trans (dbg_engineKept _ _) (dbgLog_engineKept 7 _)⟩

end Sys2Proof.Proofs

/-! The management path (18): the endpoint, its requests, marks and views of units, firmware update and key messages. -/

namespace Sys2Proof.Proofs

open Sys2Proof Sys2Proof.Machine Sys2Proof.Safety Sys2Proof.Laws

/-! ### Which requests are served (R57, R362) -/

section
variable {s : State} (hv : s.pw.vauxOn = true)
include hv

theorem serveRequest_always (f : State → State) : serveRequest .always f s = f s :=
  (if_neg (by simp [hv])).trans (if_pos rfl)

theorem serveRequest_deep (hd : s.pw.phase = .deep) {need : MgmtNeed} (hn : need ≠ .always) (f : State → State) :
    serveRequest need f s
      = reply "ERROR_NOT_READY" [] (emit (.pin "WAKE_N" true) { s with pw := { s.pw with wakeN := true } }) :=
  (if_neg (by simp [hv])).trans ((if_neg hn).trans (if_pos hd))

theorem serveRequest_monitoring (hd : s.pw.phase ≠ .deep) (f : State → State) : serveRequest .monitoring f s = f s := by
  unfold serveRequest
  rw [if_neg (by simp [hv]), if_neg (by decide), if_neg hd, if_neg (fun h => h.2 rfl), if_neg (by decide)]

theorem serveRequest_update (hd : s.pw.phase ≠ .deep) (hh : s.pw.phase ≠ .holdUp) (f : State → State) :
    serveRequest .update f s = f s := by
  unfold serveRequest
  rw [if_neg (by simp [hv]), if_neg (by decide), if_neg hd, if_neg (fun h => hh h.1), if_neg (by decide)]

theorem serveRequest_control (h : Up s) (f : State → State) : serveRequest .control f s = f s := by
  unfold serveRequest
  rw [if_neg (by simp [hv]), if_neg (by decide), if_neg (by rw [h.2]; decide), if_neg (by rw [h.2]; decide), if_pos (.inl rfl),
    if_pos h, if_neg (by decide)]

theorem serveRequest_dataPath (h : Up s) (ha : s.pw.pstate = .active) (f : State → State) :
    serveRequest .dataPath f s = f s := by
  unfold serveRequest
  rw [if_neg (by simp [hv]), if_neg (by decide), if_neg (by rw [h.2]; decide), if_neg (by rw [h.2]; decide), if_pos (.inr rfl),
    if_pos h, if_pos rfl, wakeNap_of_ne_nap (by rw [ha]; decide)]

end

/-! ### SMB_ALERT_N follows what waits (R363) -/

theorem alertPin_mg (s : State) : (alertPin s).mg = s.mg := by
  unfold alertPin
  dsimp only
  split <;> rfl

theorem alertPin_smbAlert (s : State) : (alertPin s).pw.smbAlert = (s.mg.i3c.isNone && !s.mg.waiting.isEmpty) := by
  unfold alertPin
  dsimp only
  split
  next h => exact h.symm
  next => rfl

theorem alertPin_rings (s : State) : (alertPin s).rings = s.rings := (alertPin_kept s).rings
theorem alertPin_store (s : State) : StoreKept s (alertPin s) := storeKept_of_st (alertPin_kept s).st

section
variable {s : State} (hv : s.pw.vauxOn = true)
include hv

theorem exec_i3cDynamicAddress (a : BitVec 7) :
    exec (.i3cDynamicAddress a) s = .next (alertPin { s with mg := { s.mg with i3c := some a } }) :=
  congrArg Host.Outcome.next (if_pos hv)

theorem exec_rstdaa : exec .rstdaa s = .next (alertPin { s with mg := { s.mg with i3c := none } }) :=
  congrArg Host.Outcome.next (if_pos hv)

theorem setPowerCap_up (h : Up s) (w : Nat) : exec (.setPowerCap w) s =
    .next (if w < 120 ∨ 240 < w then reply "ERROR_INVALID_DATA" [] s
      else reply "SUCCESS" [] { s with pw := { s.pw with mgmtCap := BitVec.ofNat 8 w } }) :=
  congrArg Host.Outcome.next (serveRequest_control hv h _)

theorem unitSensor (hd : s.pw.phase ≠ .deep) (u : Nat) :
    exec (.sensorReading (.unitState u)) s = .next (readSensor (.unitState u) s) :=
  congrArg Host.Outcome.next (serveRequest_monitoring hv hd _)

theorem poll_none (hd : s.pw.phase ≠ .deep) (hw : s.mg.waiting = []) :
    exec .pollForPlatformEventMessage s = .next (emit (.mgmt "no event" []) s) := by
  refine congrArg Host.Outcome.next ((serveRequest_monitoring hv hd _).trans ?_)
  dsimp only
  rw [hw]
  rfl

theorem poll_oldest (hd : s.pw.phase ≠ .deep) {v : EvRec} {rest : List EvRec} (hw : s.mg.waiting = v :: rest) :
    exec .pollForPlatformEventMessage s
      = .next (alertPin (reply "event" v.bytes { s with mg := { s.mg with waiting := rest } })) := by
  refine congrArg Host.Outcome.next ((serveRequest_monitoring hv hd _).trans ?_)
  dsimp only
  rw [hw]

end

/-- Settles O56: each request by what serves it, in the order of the statement. -/
theorem managementRequestsAnswer : Obligations.ManagementRequestsAnswer := by
  intro s hv
  refine ⟨fun eid => congrArg Host.Outcome.next (serveRequest_always hv _), fun a => ?_, ?_, fun cmd => ⟨?_, ?_⟩, fun h => ?_,
    fun hd w => congrArg Host.Outcome.next (serveRequest_deep hv hd (by decide) _), fun h w => ⟨fun lo hi => ?_, fun out => ?_⟩,
    fun hm => ⟨fun on => congrArg Host.Outcome.next (serveRequest_monitoring hv hm.2 _), poll_none hv hm.2,
      fun v rest hw => ?_, fun stale u => ?_, fun fresh u => ?_⟩, congrArg Host.Outcome.next (serveRequest_always hv _)⟩
  · refine ⟨_, exec_i3cDynamicAddress hv a, ?_, ?_, ?_, alertPin_rings _, alertPin_store _⟩
    · rw [alertPin_mg]
    · rw [alertPin_smbAlert]; rfl
    · rw [alertPin_mg]
  · refine ⟨_, exec_rstdaa hv, ?_, ?_, ?_, alertPin_rings _, alertPin_store _⟩
    · rw [alertPin_mg]
    · rw [alertPin_smbAlert]; rfl
    · rw [alertPin_mg]
  · exact ⟨_, _, congrArg Host.Outcome.next (serveRequest_always hv _), List.append_assoc _ _ _, rfl, rfl, storeKept_of_st rfl⟩
  · exact ⟨_, _, congrArg Host.Outcome.next (serveRequest_always hv _), List.append_assoc _ _ _, rfl, rfl, storeKept_of_st rfl⟩
  · exact ⟨_, _, congrArg Host.Outcome.next (serveRequest_always hv _), List.append_assoc _ _ _, rfl, rfl, storeKept_of_st rfl⟩
  · rw [setPowerCap_up hv h, if_neg (by omega)]
    rfl
  · rw [setPowerCap_up hv h, if_pos out]
    rfl
  · refine ⟨_, poll_oldest hv hm.2 hw, by rw [alertPin_mg]; rfl, ?_, alertPin_rings _, alertPin_store _⟩
    exact (alertPin_bus _).subset (List.mem_append_right _ (List.mem_singleton_self _))
  · exact (unitSensor hv hm.2 u).trans (congrArg Host.Outcome.next (if_pos stale))
  · refine (unitSensor hv hm.2 u).trans (congrArg Host.Outcome.next ((if_neg (ne_true_of_eq_false fresh)).trans ?_))
    have shown : s.mg.view[u.val]? = some s.mg.view[u] := Vector.getElem?_eq_getElem u.isLt
    rw [shown]
    rfl

/-! ### Marks of units (R368, Table 18-8) -/

/-- What a mark and its consequences leave alone. -/
structure MarkKept (s t : State) : Prop where
  mgmtOff : t.cfg.mgmtOff = s.cfg.mgmtOff
  crags : t.ma.crags = s.ma.crags
  lanes : t.ma.lanes = s.ma.lanes
  rings : t.rings = s.rings
  st : t.st = s.st

theorem MarkKept.refl (s : State) : MarkKept s s := by constructor <;> rfl

theorem MarkKept.trans {s t u : State} (a : MarkKept s t) (b : MarkKept t u) : MarkKept s u :=
  ⟨b.mgmtOff.trans a.mgmtOff, b.crags.trans a.crags, b.lanes.trans a.lanes, b.rings.trans a.rings, b.st.trans a.st⟩

theorem MarkKept.of_dataKept {s t : State} (h : DataKept s t) : MarkKept s t :=
  ⟨by rw [h.cfg], by rw [h.ma], by rw [h.ma], h.rings, h.st⟩

theorem MarkKept.foldl {β : Type} {f : State → β → State} (h : ∀ s b, MarkKept s (f s b)) (l : List β) (s : State) :
    MarkKept s (l.foldl f s) := by
  induction l generalizing s with
  | nil => exact .refl s
  | cons b l ih => exact (h s b).trans (ih _)

theorem reply_kept (kind : String) (bytes : List Byte) (s : State) : MarkKept s (reply kind bytes s) := by
  constructor <;> rfl

theorem assignXfers_kept (k : Nat) (s : State) : MarkKept s (assignXfers k s) := by
  induction k generalizing s with
  | zero => exact .refl s
  | succ k ih =>
    unfold assignXfers
    split
    · exact .trans (by constructor <;> rfl) (ih _)
    · exact .refl s

theorem refreshView_kept (s : State) : MarkKept s (refreshView s) := by
  unfold refreshView
  dsimp only
  split <;> (constructor <;> rfl)

theorem recapOne_kept (k : Res) (s : State) : MarkKept s (recapOne k s) := by
  have arb : ∀ a, MarkKept s (s.onArb k fun _ => a) := fun a => by constructor <;> rfl
  unfold recapOne
  dsimp only
  split
  · split
    · exact arb _
    · exact (arb _).trans (.of_dataKept (raiseEvent_kept _ _ _ _ _))
  · split
    · split
      · exact arb _
      · exact (arb _).trans (.of_dataKept (raiseEvent_kept _ _ _ _ _))
    · exact arb _

theorem recap_kept (s : State) : MarkKept s (recap s) := .foldl (fun s k => recapOne_kept k s) _ s

theorem requeue_one_kept (e : Eng) (s : State) : MarkKept s (requeue e 1 s) := by
  unfold requeue
  dsimp only
  exact .trans (by constructor <;> rfl) (assignXfers_kept _ _)

theorem markedOffline_kept (u : Nat) (s : State) : MarkKept s (markedOffline u s) := by
  unfold markedOffline
  dsimp only
  split
  · split
    · exact .of_dataKept (raiseEvent_kept _ _ _ _ _)
    · exact .refl s
  · split
    · exact requeue_one_kept _ s
    · split
      · exact .trans (by constructor <;> rfl) (recap_kept _)
      · exact .refl s

theorem mem_nIns (a b : Nat) (l : List Nat) : b ∈ nIns a l ↔ b = a ∨ b ∈ l := by
  induction l with
  | nil => simp [nIns]
  | cons c l ih =>
    unfold nIns
    split
    · simp
    · split
      next h => simp [h]
      next => simp only [List.mem_cons, ih, or_left_comm]

theorem mem_nDel (a b : Nat) (l : List Nat) : b ∈ nDel a l ↔ b ≠ a ∧ b ∈ l := by
  simp [nDel, and_comm]

section
variable {s : State} (h : Up s) (hv : s.pw.vauxOn = true) (ha : s.pw.pstate = .active)
include h hv ha

theorem unitOffline_refused {u : Nat} (hu : s.cfg.mgmtOff.contains u = false) (hr : offlineRefused s u = true) :
    exec (.unitOffline u) s = .next (emit (.mgmt "ERROR_INVALID_DATA" []) s) :=
  congrArg Host.Outcome.next ((serveRequest_dataPath hv h ha _).trans
    ((if_neg (ne_true_of_eq_false hu)).trans (if_pos hr)))

/-- The mark of a unit. -/
def withMark (l : List Nat) (s : State) : State := { s with cfg := { s.cfg with mgmtOff := l } }

theorem unitOffline_marks {u : Nat} (hu : s.cfg.mgmtOff.contains u = false) (hr : offlineRefused s u = false) :
    exec (.unitOffline u) s
      = .next (reply "SUCCESS" [] (refreshView (markedOffline u (withMark (nIns u s.cfg.mgmtOff) s)))) :=
  congrArg Host.Outcome.next ((serveRequest_dataPath hv h ha _).trans
    ((if_neg (ne_true_of_eq_false hu)).trans (if_neg (ne_true_of_eq_false hr))))

theorem unitOnline_refused (u : Nat) (hs : s.viewStale = true) :
    exec (.unitOnline u) s = .next (emit (.mgmt "ERROR_INVALID_DATA" []) s) :=
  congrArg Host.Outcome.next ((serveRequest_dataPath hv h ha _).trans (if_pos (.inl hs)))

/-- The port behind a Pair unit may come up again. -/
def portUnmarked (u : Nat) (s : State) : State :=
  if 76 ≤ u then s.onPort (ix 1 (u - 76)) (fun x => { x with mgmtOff := false }) else s

theorem unitOnline_unmarks {u : Nat} (hu : u < 78) (hs : s.viewStale = false) : ∃ n, exec (.unitOnline u) s
    = .next (reply "SUCCESS" [] (assignXfers n
      (refreshView (recap (portUnmarked u (withMark (nDel u s.cfg.mgmtOff) s)))))) :=
  ⟨_, congrArg Host.Outcome.next ((serveRequest_dataPath hv h ha _).trans
    (if_neg (not_or.mpr ⟨ne_true_of_eq_false hs, by omega⟩)))⟩

end

theorem portUnmarked_kept (u : Nat) (s : State) : MarkKept s (portUnmarked u s) := by
  unfold portUnmarked
  split
  · constructor <;> rfl
  · exact .refl s

/-! ### Views (R365, R366) -/

theorem exec_viewAck {s : State} {g : BitVec 16} {v : Vector Byte 78} (hs : s.mg.sent = [(g, v)]) :
    exec (.viewAck g) s = .next { s with
      mg := { s.mg with view := v, sent := [] }
      cfg := { s.cfg with
        mgGen := g, skew := s.cfg.skew && !(g == s.cfg.dpGen), stale := s.cfg.stale && !(g == s.cfg.dpGen) } } := by
  have found : s.mg.sent.find? (fun p => p.1 == g) = some (g, v) := by simp [hs]
  have later : (s.mg.sent.dropWhile (fun q => q.1 != g)).drop 1 = [] := by simp [hs]
  change Host.Outcome.next _ = _
  rw [found]
  dsimp only
  rw [later]

theorem exec_viewSkew {s : State} (hr : s.stewardRuns = true) (hg : s.cfg.dpGen ≠ s.cfg.mgGen) (hs : s.cfg.skew = false) :
    exec .viewSkew s = .next (raiseEvent 0x0A03 0xFF (BitVec.ofNat 32 s.cfg.dpGen.toNat) (BitVec.ofNat 32 s.cfg.mgGen.toNat)
      { s with cfg := { s.cfg with skew := true, stale := true } }) :=
  congrArg Host.Outcome.next (if_neg (not_or.mpr ⟨by simp [hr], not_or.mpr ⟨hg, ne_true_of_eq_false hs⟩⟩))

/-- Settles O57: UNIT_OFFLINE refused and served, UNIT_ONLINE served and refused, VIEW_ACK and VIEW_SKEW. -/
theorem unitMarksAndViews : Obligations.UnitMarksAndViews := by
  refine fun s h hv ha => ⟨fun u hu hr => unitOffline_refused h hv ha hu hr, fun u hu hr => ?_, fun u hu hs => ?_,
    fun u hs => unitOnline_refused h hv ha u hs, fun g v hsent => ?_, fun hr hg hs => ?_⟩
  · have k := (markedOffline_kept u (withMark (nIns u s.cfg.mgmtOff) s)).trans
      ((refreshView_kept _).trans (reply_kept "SUCCESS" [] _))
    refine ⟨_, unitOffline_marks h hv ha hu hr, fun v => ?_, k.crags, k.lanes, k.rings, storeKept_of_st k.st⟩
    rw [k.mgmtOff]
    exact mem_nIns u v _
  · obtain ⟨n, step⟩ := unitOnline_unmarks h hv ha hu hs
    have k := (portUnmarked_kept u (withMark (nDel u s.cfg.mgmtOff) s)).trans
      ((recap_kept _).trans ((refreshView_kept _).trans ((assignXfers_kept n _).trans (reply_kept "SUCCESS" [] _))))
    refine ⟨_, step, fun v => ?_, k.crags, k.rings, storeKept_of_st k.st⟩
    rw [k.mgmtOff]
    exact mem_nDel u v _
  · refine ⟨_, exec_viewAck hsent, rfl, rfl, rfl, fun hg => ?_, rfl, storeKept_of_st rfl⟩
    subst hg
    simp
  · have k := raiseEvent_kept 0x0A03 0xFF (BitVec.ofNat 32 s.cfg.dpGen.toNat) (BitVec.ofNat 32 s.cfg.mgGen.toNat)
      { s with cfg := { s.cfg with skew := true, stale := true } }
    refine ⟨_, exec_viewSkew hr hg hs, congrArg Cfg.skew k.cfg, ?_, k.rings, storeKept_of_st k.st⟩
    rw [State.viewStale, k.cfg]
    rfl

end Sys2Proof.Proofs

/-! Firmware update and key messages (12, 18): the slots of the boot firmware, and the key slots. -/

namespace Sys2Proof.Proofs

open Sys2Proof Sys2Proof.Machine Sys2Proof.Safety Sys2Proof.Laws

/-! ### The two firmware slots (R59, R364) -/

theorem slot_modSlot_same (b : Bool) (f : FwSlot → FwSlot) (x : Boot) : (modSlot b f x).slot b = f (x.slot b) := by
  cases b <;> rfl

theorem slot_modSlot_other (b : Bool) (f : FwSlot → FwSlot) (x : Boot) : (modSlot b f x).slot (!b) = x.slot (!b) := by
  cases b <;> rfl

section
variable {s : State} (hm : Managed s) (hh : s.pw.phase ≠ .holdUp)
include hm hh

theorem requestUpdate_admitted (ht : s.boot.trial = false) (hl : s.cfg.loading = false) (hu : s.boot.update = .idle) :
    exec .requestUpdate s
      = .next (emit (.mgmt "SUCCESS" []) { s with boot := { s.boot with update := .receiving, updImage := [] } }) :=
  congrArg Host.Outcome.next ((serveRequest_update hm.1 hm.2 hh _).trans (if_neg (by rw [ht, hl, hu]; decide)))

theorem requestUpdate_retried (hb : s.boot.trial = true ∨ s.cfg.loading = true ∨ s.boot.update ≠ .idle) :
    exec .requestUpdate s = .next (emit (.mgmt "RETRY_REQUEST_UPDATE" []) s) :=
  congrArg Host.Outcome.next ((serveRequest_update hm.1 hm.2 hh _).trans (if_pos hb))

section
variable (hu : s.boot.update = .receiving)
include hu

theorem firmwareUpdateData_writes (off : Nat) (bytes : List Byte) : exec (.firmwareUpdateData off bytes) s
    = .next { s with boot := { modSlot s.boot.updateB (fun y => { y with st := 4 }) s.boot with
        updImage := writeBytes off bytes s.boot.updImage } } :=
  congrArg Host.Outcome.next ((serveRequest_update hm.1 hm.2 hh _).trans (if_neg (fun k => k hu)))

theorem verifyComplete_passes {svn : BitVec 16} (ver : Word) (hs : s.boot.svnFloor.toNat ≤ svn.toNat) :
    exec (.verifyComplete true svn ver) s = .next (reply "SUCCESS" [] { s with
      boot := { modSlot s.boot.updateB (fun y => { y with st := 4, svn := svn, ver := ver }) s.boot with
        update := .verified } }) :=
  congrArg Host.Outcome.next ((serveRequest_update hm.1 hm.2 hh _).trans
    ((if_neg (fun k => k hu)).trans (if_pos (by simp [hs]))))

theorem verifyComplete_fails {ok : Bool} {svn : BitVec 16} (ver : Word) (hb : ok = false ∨ svn.toNat < s.boot.svnFloor.toNat) :
    exec (.verifyComplete ok svn ver) s = .next (reply "VERIFICATION_FAILED" [] { s with
      boot := { modSlot s.boot.updateB (fun y => { y with st := 4 }) s.boot with update := .idle, updImage := [] } }) := by
  have bad : ¬ (ok && decide (s.boot.svnFloor.toNat ≤ svn.toNat)) = true := by
    rcases hb with h | h
    · simp [h]
    · simp [h]
  exact congrArg Host.Outcome.next ((serveRequest_update hm.1 hm.2 hh _).trans
    ((if_neg (fun k => k hu)).trans (if_neg bad)))

end

theorem activateFirmware_pends (hu : s.boot.update = .verified) : exec .activateFirmware s = .next (reply "SUCCESS" [] { s with
    boot := { modSlot s.boot.updateB (fun y => { y with st := 3 }) s.boot with update := .idle, updImage := [] } }) :=
  congrArg Host.Outcome.next ((serveRequest_update hm.1 hm.2 hh _).trans (if_neg (fun k => k hu)))

theorem activateFirmware_unverified (hu : s.boot.update ≠ .verified) :
    exec .activateFirmware s = .next (emit (.mgmt "ERROR" []) s) :=
  congrArg Host.Outcome.next ((serveRequest_update hm.1 hm.2 hh _).trans (if_pos hu))

/-- Firmware update: the slot being updated takes the image, the other never changes. -/
theorem firmware_update :
    (s.boot.trial = false → s.cfg.loading = false → s.boot.update = .idle → exec .requestUpdate s
      = .next (emit (.mgmt "SUCCESS" []) { s with boot := { s.boot with update := .receiving, updImage := [] } }))
    ∧ (s.boot.trial = true ∨ s.cfg.loading = true ∨ s.boot.update ≠ .idle →
      exec .requestUpdate s = .next (emit (.mgmt "RETRY_REQUEST_UPDATE" []) s))
    ∧ (s.boot.update = .receiving →
      (∀ off bytes, ∃ t, exec (.firmwareUpdateData off bytes) s = .next t ∧ (t.boot.slot s.boot.updateB).st = 4
        ∧ t.boot.updImage = writeBytes off bytes s.boot.updImage ∧ t.boot.slot (!s.boot.updateB) = s.boot.slot (!s.boot.updateB)
        ∧ t.rings = s.rings ∧ StoreKept s t)
      ∧ (∀ svn ver, s.boot.svnFloor.toNat ≤ svn.toNat → ∃ t, exec (.verifyComplete true svn ver) s = .next t
        ∧ t.boot.update = .verified ∧ (t.boot.slot s.boot.updateB).svn = svn ∧ (t.boot.slot s.boot.updateB).ver = ver
        ∧ t.boot.slot (!s.boot.updateB) = s.boot.slot (!s.boot.updateB) ∧ t.rings = s.rings ∧ StoreKept s t)
      ∧ (∀ ok svn ver, ok = false ∨ svn.toNat < s.boot.svnFloor.toNat → ∃ t, exec (.verifyComplete ok svn ver) s = .next t
        ∧ t.boot.update = .idle ∧ (t.boot.slot s.boot.updateB).st = 4
        ∧ t.boot.slot (!s.boot.updateB) = s.boot.slot (!s.boot.updateB) ∧ t.rings = s.rings ∧ StoreKept s t))
    ∧ (s.boot.update = .verified → ∃ t, exec .activateFirmware s = .next t ∧ (t.boot.slot s.boot.updateB).st = 3
      ∧ t.boot.update = .idle ∧ t.boot.slot (!s.boot.updateB) = s.boot.slot (!s.boot.updateB) ∧ t.rings = s.rings
      ∧ StoreKept s t)
    ∧ (s.boot.update ≠ .verified → exec .activateFirmware s = .next (emit (.mgmt "ERROR" []) s)) := by
  have same : ∀ f : FwSlot → FwSlot, (modSlot s.boot.updateB f s.boot).slot s.boot.updateB = f (s.boot.slot s.boot.updateB) :=
    fun f => slot_modSlot_same _ f _
  have other : ∀ f : FwSlot → FwSlot,
      (modSlot s.boot.updateB f s.boot).slot (!s.boot.updateB) = s.boot.slot (!s.boot.updateB) :=
    fun f => slot_modSlot_other _ f _
  refine ⟨requestUpdate_admitted hm hh, requestUpdate_retried hm hh, fun hu => ⟨fun off bytes => ?_, fun svn ver hs => ?_,
    fun ok svn ver hb => ?_⟩, fun hu => ?_, activateFirmware_unverified hm hh⟩
  · exact ⟨_, firmwareUpdateData_writes hm hh hu off bytes, congrArg FwSlot.st (same _), rfl, other _, rfl, storeKept_of_st rfl⟩
  · exact ⟨_, verifyComplete_passes hm hh hu ver hs, rfl, congrArg FwSlot.svn (same _), congrArg FwSlot.ver (same _), other _, rfl,
      storeKept_of_st rfl⟩
  · exact ⟨_, verifyComplete_fails hm hh hu ver hb, rfl, congrArg FwSlot.st (same _), other _, rfl, storeKept_of_st rfl⟩
  · exact ⟨_, activateFirmware_pends hm hh hu, congrArg FwSlot.st (same _), rfl, other _, rfl, storeKept_of_st rfl⟩

end

/-! ### Key messages (R241, R353, R354, R358) -/

/-- What a KEY_LOAD makes of its slot. -/
def keyLoaded (alg tenant : Nat) (label : BitVec 16) (key : List Byte) (y : KeySt) : KeySt :=
  { y with
    loaded := true, alg := keyAlg alg, owner := ix 7 tenant, label := label
    inner := hmacPad (keyAlg alg) 0x36 key, outer := hmacPad (keyAlg alg) 0x5C key }

/-- Zeroising a slot fails to read back: the slot is fenced in the view of the units, and announced. -/
theorem zeroFail_slot_kept (k : KSlot) (s : State) : (zeroFail (.slot k) s).ma = s.ma ∧ (zeroFail (.slot k) s).rings = s.rings
    ∧ (zeroFail (.slot k) s).st = s.st := by
  have view : ∀ t : State, (refreshView t).ma = t.ma := by
    intro t
    unfold refreshView
    dsimp only
    split <;> rfl
  unfold zeroFail
  dsimp only
  refine ⟨(view _).trans ?_, (refreshView_kept _).rings.trans ?_, (refreshView_kept _).st.trans ?_⟩
  · rw [raiseEvent_ma, raiseEvent_ma]
  · rw [raiseEvent_rings, raiseEvent_rings]
  · rw [raiseEvent_st, raiseEvent_st]

section
variable {s : State} (h : Up s) (hv : s.pw.vauxOn = true) (ha : s.pw.pstate = .active)
include h hv ha

theorem keyMessage_unqualified (hk : s.cfg.spdmKey = false) (slot alg tenant : Nat) (label : BitVec 16) (key : List Byte)
    (fails : Nat) : exec (.keyLoad slot alg tenant label key) s = .next (emit (.mgmt "SPDM ERROR SessionRequired" []) s)
      ∧ exec (.keyZero slot fails) s = .next (emit (.mgmt "SPDM ERROR SessionRequired" []) s)
      ∧ exec .keyList s = .next (emit (.mgmt "SPDM ERROR SessionRequired" []) s) :=
  have turned : ∀ f : State → State, underSession f s = emit (.mgmt "SPDM ERROR SessionRequired" []) s :=
    fun _ => if_neg (ne_true_of_eq_false hk)
  ⟨congrArg Host.Outcome.next ((serveRequest_dataPath hv h ha _).trans (turned _)),
    congrArg Host.Outcome.next ((serveRequest_dataPath hv h ha _).trans (turned _)),
    congrArg Host.Outcome.next ((serveRequest_control hv h _).trans (turned _))⟩

variable (hk : s.cfg.spdmKey = true)
include hk

theorem keyLoad_loads {slot alg tenant : Nat} {label : BitVec 16} {key : List Byte} (hp : Pre.keyLoad s slot alg tenant key) :
    exec (.keyLoad slot alg tenant label key) s
      = .next (reply "KEY_LOAD" [] (s.onKey (ix 31 slot) (keyLoaded alg tenant label key))) := by
  obtain ⟨hslot, halg, hten, h1, h256, hkeep, hgiven⟩ := hp
  refine congrArg Host.Outcome.next ((serveRequest_dataPath hv h ha _).trans ((if_pos hk).trans (if_neg ?_)))
  rintro (k | k | k | k | k | k | k)
  · omega
  · omega
  · omega
  · omega
  · omega
  · exact ne_true_of_eq_false hkeep k
  · rcases hgiven with g | g
    · rw [g] at k
      exact absurd k.1 (by decide)
    · exact k.2 g

theorem keyLoad_turnedAway {slot : Nat} (alg tenant : Nat) (label : BitVec 16) (key : List Byte)
    (hb : 31 < slot ∨ s.ma.keys[ix 31 slot].keep = true) : exec (.keyLoad slot alg tenant label key) s
      = .next (emit (.mgmt "SPDM ERROR InvalidRequest" []) s) := by
  refine congrArg Host.Outcome.next ((serveRequest_dataPath hv h ha _).trans ((if_pos hk).trans (if_pos ?_)))
  rcases hb with b | b
  · exact .inl b
  · exact .inr (.inr (.inr (.inr (.inr (.inl b)))))

theorem keyZero_zeroes {slot : Nat} (hs : slot ≤ 31) (hkeep : s.ma.keys[ix 31 slot].keep = false) (fails : Nat) :
    exec (.keyZero slot fails) s = .next (reply "KEY_ZERO" [] (if 2 ≤ fails then zeroFail (.slot (ix 31 slot)) (zeroKey (ix 31 slot) s)
      else zeroKey (ix 31 slot) s)) :=
  congrArg Host.Outcome.next ((serveRequest_dataPath hv h ha _).trans ((if_pos hk).trans
    (if_neg (not_or.mpr ⟨by omega, ne_true_of_eq_false hkeep⟩))))

/-- A zeroised slot holds no key, whether or not it reads back. -/
theorem keyZero_empties {slot : Nat} (hs : slot ≤ 31) (hkeep : s.ma.keys[ix 31 slot].keep = false) (fails : Nat) :
    ∃ t, exec (.keyZero slot fails) s = .next t
        ∧ t.ma.keys[ix 31 slot].loaded = false ∧ t.ma.keys[ix 31 slot].inner = [] ∧ t.ma.keys[ix 31 slot].outer = []
        ∧ (∀ k : KSlot, k ≠ ix 31 slot → t.ma.keys[k] = s.ma.keys[k]) ∧ t.rings = s.rings ∧ StoreKept s t := by
  have step := keyZero_zeroes h hv ha hk hs hkeep fails
  have zeroed : ∀ u : State, u.ma = (zeroKey (ix 31 slot) s).ma → u.rings = s.rings → u.st = s.st →
      u.ma.keys[ix 31 slot].loaded = false ∧ u.ma.keys[ix 31 slot].inner = [] ∧ u.ma.keys[ix 31 slot].outer = []
        ∧ (∀ k : KSlot, k ≠ ix 31 slot → u.ma.keys[k] = s.ma.keys[k]) ∧ u.rings = s.rings ∧ StoreKept s u := by
    intro u hma hr hst
    have entry := State.onKey_same s (ix 31 slot) (fun x =>
      { x with loaded := false, alg := .sha256, owner := 0, label := 0, inner := [], outer := [] })
    rw [hma, zeroKey, entry]
    exact ⟨rfl, rfl, rfl, fun k hk => State.onKey_other _ _ _ _ hk, hr, storeKept_of_st hst⟩
  by_cases hf : 2 ≤ fails
  · rw [if_pos hf] at step
    obtain ⟨hma, hr, hst⟩ := zeroFail_slot_kept (ix 31 slot) (zeroKey (ix 31 slot) s)
    generalize zeroFail (.slot (ix 31 slot)) (zeroKey (ix 31 slot) s) = u at step hma hr hst
    exact ⟨_, step, zeroed (reply "KEY_ZERO" [] u) hma hr hst⟩
  · rw [if_neg hf] at step
    exact ⟨_, step, zeroed _ rfl rfl rfl⟩

end

/-- Settles O58: firmware update, then key messages outside a qualifying session and inside one. -/
theorem firmwareAndKeysKeepTheirPlace : Obligations.FirmwareAndKeysKeepTheirPlace := by
  refine ⟨fun s hm hh => firmware_update hm hh, fun s h hv ha => ⟨fun m c u =>
    congrArg Host.Outcome.next (serveRequest_control hv h _), keyMessage_unqualified h hv ha, fun hk =>
    ⟨fun slot alg tenant label key hp => ?_, fun slot alg tenant label key hb => keyLoad_turnedAway h hv ha hk _ _ _ _ hb,
      fun slot hs hkeep fails => keyZero_empties h hv ha hk hs hkeep fails,
      congrArg Host.Outcome.next ((serveRequest_control hv h _).trans (if_pos hk))⟩⟩⟩
  have entry : (s.onKey (ix 31 slot) (keyLoaded alg tenant label key)).ma.keys[ix 31 slot] = _ := State.onKey_same _ _ _
  refine ⟨_, keyLoad_loads h hv ha hk hp, ?_⟩
  change (s.onKey (ix 31 slot) (keyLoaded alg tenant label key)).ma.keys[ix 31 slot].loaded = true ∧ _
  rw [entry]
  exact ⟨rfl, congrArg KeySt.owner entry, congrArg KeySt.label entry, congrArg KeySt.inner entry, congrArg KeySt.outer entry,
    fun k hk => State.onKey_other _ _ _ _ hk, rfl, rfl, storeKept_of_st rfl⟩

end Sys2Proof.Proofs

/-! EXPERT level (04): the arm, the code, the lock, and the fields that take effect at their idle point. -/

namespace Sys2Proof.Proofs

open Sys2Proof Sys2Proof.Machine Sys2Proof.Safety Sys2Proof.Laws

theorem bit_setBit {w : Nat} (x : BitVec w) (i : Nat) (b : Bool) {j : Nat} (hj : j < w) :
    bit (setBit x i b) j = if j = i then b else bit x j := by
  unfold setBit
  have power : (BitVec.ofNat w (2 ^ i)).getLsbD j = decide (j = i) := by
    rw [BitVec.getLsbD_ofNat, Nat.testBit_two_pow]
    simp [hj, eq_comm]
  cases b with
  | true =>
    rw [if_pos rfl]
    simp only [bit, BitVec.getLsbD_or, power]
    by_cases h : j = i <;> simp [h]
  | false =>
    rw [if_neg (by decide)]
    simp only [bit, BitVec.getLsbD_and, BitVec.getLsbD_not, power, hj, decide_true, Bool.true_and]
    by_cases h : j = i <;> simp [h]

/-! ### The arm (R76) -/

/-- The arm open, with the NONCE drawn. -/
def armOpened (t : Tenant) (s : State) : State :=
  let n : BitVec 16 := fld (draw s).1 0 16
  { (draw s).2 with cfg := { s.cfg with arm := some t, armAt := s.now, nonce := if n = 0 then 1 else n } }

theorem exec_expertArm {s : State} (h : s.pw.rdy = true) (t : Tenant) :
    exec (.expertArm t 0x5E7A) s = .next (armOpened t s) :=
  (afterRdy h).trans (congrArg Host.Outcome.next (if_neg (fun k => k rfl)))

theorem exec_expertArm_other {s : State} (h : s.pw.rdy = true) (t : Tenant) {v : BitVec 16} (hv : v ≠ 0x5E7A) :
    exec (.expertArm t v) s = .next s :=
  (afterRdy h).trans (congrArg Host.Outcome.next (if_pos hv))

theorem armOpened_nonce (t : Tenant) (s : State) : (armOpened t s).cfg.nonce ≠ 0 := by
  unfold armOpened
  dsimp only
  split
  · decide
  · assumption

theorem exec_expertArmExpire {s : State} (h : s.cfg.arm ≠ none) :
    exec .expertArmExpire s = .next (closeArm (advanceTo (s.cfg.armAt + 1000) s)) :=
  congrArg Host.Outcome.next (if_neg (by simpa using h))

/-! ### The code and the lock (R76, R77) -/

theorem exec_expertUnlock {s : State} (h : s.pw.rdy = true) (t : Tenant) (v : BitVec 16) :
    exec (.expertUnlock t v) s = .next (expertUnlock t v s) := afterRdy h

theorem expertUnlock_opens {s : State} {t : Tenant} {v : BitVec 16} (h : Pre.unlock s t v) :
    expertUnlock t v s = { closeArm s with cfg := { (closeArm s).cfg with
      unlocked := setBit s.cfg.unlocked t.val true, fails := s.cfg.fails.set t 0 } } := by
  obtain ⟨-, ha, hc, hv, hl⟩ := h
  exact if_pos ⟨ha, hc, hv, hl⟩

theorem expertUnlock_fails {s : State} {t : Tenant} {v : BitVec 16} (hrdy : s.pw.rdy = true) (h : ¬ Pre.unlock s t v) :
    expertUnlock t v s = failUnlock t (closeArm s) := by
  refine if_neg fun k => h ?_
  obtain ⟨ha, hc, hv, hl⟩ := k
  exact ⟨hrdy, ha, hc, hv, hl⟩

/-- A failed unlock counts one; the third locks out, and is announced. -/
theorem failUnlock_cfg (t : Tenant) (s : State) : (failUnlock t s).cfg.unlocked = s.cfg.unlocked
    ∧ (failUnlock t s).cfg.fails[t] = s.cfg.fails[t] + 1 ∧ (failUnlock t s).cfg.arm = s.cfg.arm
    ∧ (failUnlock t s).st = s.st ∧ (2 ≤ s.cfg.fails[t] → bit (failUnlock t s).cfg.lockout t.val = true) := by
  have counted : (s.cfg.fails.set t (s.cfg.fails[t] + 1))[t] = s.cfg.fails[t] + 1 := by simp
  unfold failUnlock
  dsimp only
  split
  next h => exact ⟨rfl, counted, rfl, rfl, fun h2 => h.resolve_left (by omega)⟩
  next =>
    have k := raiseEvent_kept 0x0205 0xFF (BitVec.ofNat 32 t.val) 0 { s with cfg := { s.cfg with
      fails := s.cfg.fails.set t (s.cfg.fails[t] + 1), lockout := setBit s.cfg.lockout t.val true } }
    refine ⟨(congrArg Cfg.unlocked k.cfg :), (congrArg (fun c : Cfg => c.fails[t]) k.cfg).trans counted, (congrArg Cfg.arm k.cfg :),
      k.st, fun _ => (congrArg (fun c : Cfg => bit c.lockout t.val) k.cfg).trans ?_⟩
    rw [bit_setBit _ _ _ t.isLt, if_pos rfl]

theorem exec_expertLock {s : State} (h : s.pw.rdy = true) (t : Tenant) : exec (.expertLock t 0) s =
    .next { s with cfg := { s.cfg with unlocked := setBit s.cfg.unlocked t.val false } } :=
  (afterRdy h).trans (congrArg Host.Outcome.next (if_neg (fun k => k rfl)))

/-- A tenant's bit set, and the others as they were. -/
theorem bit_setTenant (x : Byte) (t : Tenant) (b : Bool) : bit (setBit x t.val b) t.val = b
    ∧ ∀ w : Tenant, w ≠ t → bit (setBit x t.val b) w.val = bit x w.val :=
  ⟨by rw [bit_setBit _ _ _ t.isLt, if_pos rfl],
    fun w hw => by rw [bit_setBit _ _ _ w.isLt, if_neg fun h => hw (Fin.ext h)]⟩

/-! ### Fields that wait for their idle point (R75, R167) -/

theorem setPend_none (f : FieldId) (s : State) : (setPend f none s).pendOf f = none := by
  simp [State.pendOf, setPend]

/-- The wheel with the depth that waited for it. -/
def depthApplied (w : Wheel) (n : Nat) (s : State) : State :=
  (setPend (.depth w) none s).onWheel w (fun x => { x with depth := BitVec.ofNat 5 n })

theorem exec_depthTakesEffect {s : State} {w : Wheel} {n : Nat} (hph : s.pw.phase ≠ .holdUp)
    (hp : s.pendOf (.depth w) = some n) (hi : s.wheelIdle w = true) :
    exec (.expertWriteTakesEffect (.depth w)) s = .next (pumpWheels (depthApplied w n s)) := by
  change Host.Outcome.next _ = _
  rw [if_neg hph, hp]
  exact congrArg Host.Outcome.next (if_pos hi)

theorem depthApplied_atRest {s : State} (w : Wheel) (n : Nat) (h : ArrayAtRest s) : ArrayAtRest (depthApplied w n s) where
  wheels v hv := by
    have rest := h.wheels v
    by_cases hw : v = w
    · subst hw
      rw [depthApplied, State.onWheel_same] at hv ⊢
      exact rest hv
    · rw [depthApplied, State.onWheel_other _ _ _ _ hw] at hv ⊢
      exact rest hv
  engines := h.engines
  reads := h.reads
  crags := h.crags
  taps := h.taps

theorem exec_ceilTakesEffect {s : State} {n : Nat} (hph : s.pw.phase ≠ .holdUp) (hp : s.pendOf .stepCeil = some n)
    (hs : s.scanning = false) : exec (.expertWriteTakesEffect .stepCeil) s = .next (applyCeil n (setPend .stepCeil none s)) := by
  change Host.Outcome.next _ = _
  rw [if_neg hph, hp]
  exact congrArg Host.Outcome.next (if_neg (ne_true_of_eq_false hs))

/-- Settles O22: the arm, the code right and wrong, the lock, the arm's end, and the two fields that wait. -/
theorem expertLevelGatesWrites : Obligations.ExpertLevelGatesWrites := by
  refine ⟨fun s t v hrdy => ⟨?_, exec_expertArm_other hrdy t, fun h => ?_, fun h => ?_, ?_, fun h => ?_⟩,
    fun s n hph => ⟨fun w hp hi => ?_, fun hp hs => ?_⟩⟩
  · exact ⟨_, exec_expertArm hrdy t, rfl, armOpened_nonce t s, rfl, rfl, rfl, storeKept_of_st rfl⟩
  · have opened := bit_setTenant s.cfg.unlocked t true
    refine ⟨_, (exec_expertUnlock hrdy t v).trans (congrArg Host.Outcome.next (expertUnlock_opens h)), opened.1, ?_, rfl, rfl,
      opened.2, storeKept_of_st rfl⟩
    simp
  · obtain ⟨unlocked, fails, arm, st, lockout⟩ := failUnlock_cfg t (closeArm s)
    exact ⟨_, (exec_expertUnlock hrdy t v).trans (congrArg Host.Outcome.next (expertUnlock_fails hrdy h)), unlocked, fails, lockout,
      arm, storeKept_of_st st⟩
  · have locked := bit_setTenant s.cfg.unlocked t false
    exact ⟨_, exec_expertLock hrdy t, locked.1, locked.2, storeKept_of_st rfl⟩
  · exact ⟨_, exec_expertArmExpire h, rfl, rfl, le_max_right _ _, rfl, storeKept_of_st rfl⟩
  · have step := exec_depthTakesEffect hph hp hi
    refine ⟨depthApplied w n s, ⟨step, fun rest => ?_⟩, ?_, setPend_none _ s, fun v hv => ?_, rfl, storeKept_of_st rfl⟩
    · rw [step, pumpWheels_rest (depthApplied_atRest w n rest)]
    · rw [depthApplied, State.onWheel_same]
    · rw [depthApplied, State.onWheel_other _ _ _ _ hv]
      rfl
  · exact ⟨_, exec_ceilTakesEffect hph hp hs, rfl, setPend_none _ s, rfl, rfl, storeKept_of_st rfl⟩

end Sys2Proof.Proofs

/-! Power states, the clock and its limits (02). -/

namespace Sys2Proof.Proofs

open Sys2Proof Sys2Proof.Machine Sys2Proof.Safety Sys2Proof.Laws

/-! ### What an accounting of capacity leaves of power -/

/-- The power block without the alert pin, which an announcement may move. -/
def quietPower (p : Power) : Power := { p with smbAlert := false }

theorem raiseEvent_power (code : Nat) (u : Byte) (a0 a1 : Word) (s : State) :
    quietPower (raiseEvent code u a0 a1 s).pw = quietPower s.pw := congrArg State.pw (raiseEvent_quiet code u a0 a1 s)

theorem recapOne_power (k : Res) (s : State) : quietPower (recapOne k s).pw = quietPower s.pw := by
  unfold recapOne
  dsimp only
  split
  · split
    · rfl
    · exact raiseEvent_power _ _ _ _ _
  · split
    · split
      · rfl
      · exact raiseEvent_power _ _ _ _ _
    · rfl

theorem recap_power (s : State) : quietPower (recap s).pw = quietPower s.pw :=
  foldl_keeps (fun s : State => quietPower s.pw) _ (fun s k => recapOne_power k s) _ s

/-! ### STATE_REQ, NAP and IDLE (R28) -/

section
variable {s : State} (h : Up s) (hl : s.cfg.loading = false)
include h hl

theorem stateReqWrite_up (v : BitVec 2) : stateReqWrite v s = setExp .applied (stateReq v s) :=
  (if_neg (by simp [h.1])).trans (if_neg (by simp [hl]))

end

/-- STATE_REQ written. -/
def withReq (v : BitVec 2) (s : State) : State :=
  { s with pw := { s.pw with stateReq := v, reqPend := v == 2 && s.pw.pstate != .nap } }

theorem stateReq_nap (s : State) : stateReq 2 s = withReq 2 s := by
  unfold stateReq
  exact if_pos rfl

theorem stateReq_active (s : State) : stateReq 0 s = wake (withReq 0 s) := by
  unfold stateReq
  exact (if_neg (by decide)).trans (if_pos (Or.inl rfl))

theorem stateReq_auto_nap {s : State} (h : s.pw.pstate = .nap) : stateReq 1 s = wake (withReq 1 s) := by
  unfold stateReq
  exact (if_neg (by decide)).trans (if_pos (Or.inr h))

theorem stateReq_auto_awake {s : State} (h : s.pw.pstate ≠ .nap) : stateReq 1 s = withReq 1 s := by
  have auto : ¬ (1 : BitVec 2) = 0 := by decide
  unfold stateReq
  exact (if_neg (by decide)).trans (if_neg (not_or.mpr ⟨auto, h⟩))

/-- Awake, the engine is ACTIVE; out of NAP a request for NAP waits again. -/
theorem wake_pw (s : State) : (wake s).pw = { s.pw with
    pstate := .active, reqPend := if s.pw.pstate = .nap then s.pw.stateReq == 2 else s.pw.reqPend } := by
  unfold wake
  split
  next h => rw [h, if_neg (by decide), ← h]
  next h => rw [h, if_neg (by decide)]
  next h =>
    rw [foldl_keeps State.pw reloadCrag (fun _ _ => rfl), h, if_pos rfl]

theorem exec_napEntry {s : State} (h : Up s) (hp : s.pw.reqPend = true) (hq : s.quiescent = true) :
    exec .napEntry s = .next { s with pw := { s.pw with pstate := .nap, reqPend := false } } :=
  congrArg Host.Outcome.next (if_pos ⟨h.1, h.2, hp, hq⟩)

theorem exec_napEntry_busy {s : State} (hq : s.quiescent = false) : exec .napEntry s = .next s :=
  congrArg Host.Outcome.next (if_neg fun k => ne_true_of_eq_false hq k.2.2.2)

theorem exec_idleEntry {s : State} (h : Up s) (hr : s.pw.stateReq = 1) (hp : s.pw.pstate = .active) (hw : s.cragWork = false) :
    exec .idleEntry s = .next { s with pw := { s.pw with pstate := .idle } } :=
  congrArg Host.Outcome.next (if_pos ⟨h.1, h.2, hr, hp, by rw [hw]; rfl⟩)

/-! ### A crag's store after NAP (R29) -/

/-- The crag holds its program's initial state, but for the bytes of its store, which are free values. -/
def Reloaded (p : ProgSec) (x : CragSt) : Prop := x.body = p.initial ∧ (∃ k, x.undefinedSince = some k) ∧ x.written = []

theorem reloadCrag_same {s : State} {n : Crag} {p : ProgSec} (h : s.programOn n = some p) :
    Reloaded p (reloadCrag s n).ma.crags[n] := by
  unfold reloadCrag
  rw [h]
  dsimp only
  rw [State.onCrag_same]
  exact ⟨rfl, ⟨_, rfl⟩, rfl⟩

theorem reloadCrag_other {s : State} {n m : Crag} (h : n ≠ m) : (reloadCrag s m).ma.crags[n] = s.ma.crags[n] :=
  State.onCrag_other _ _ _ _ h

theorem reloadCrag_programOn (s : State) (m n : Crag) : (reloadCrag s m).programOn n = s.programOn n := by
  have same : (reloadCrag s m).ma.crags[n].used = s.ma.crags[n].used ∧ (reloadCrag s m).ma.crags[n].prog = s.ma.crags[n].prog := by
    by_cases h : n = m
    · subst h
      unfold reloadCrag
      dsimp only
      rw [State.onCrag_same]
      exact ⟨rfl, rfl⟩
    · rw [reloadCrag_other h]
      exact ⟨rfl, rfl⟩
  unfold State.programOn
  dsimp only
  rw [same.1, same.2]
  rfl

theorem reloadCrags_reloaded {p : ProgSec} {n : Crag} (l : List Crag) {s : State} (h : s.programOn n = some p)
    (hn : n ∈ l ∨ Reloaded p s.ma.crags[n]) : Reloaded p (l.foldl reloadCrag s).ma.crags[n] := by
  induction l generalizing s with
  | nil => exact hn.resolve_left List.not_mem_nil
  | cons m l ih =>
    refine ih (by rw [reloadCrag_programOn, h]) ?_
    by_cases hm : n = m
    · subst hm
      exact .inr (reloadCrag_same h)
    · rw [reloadCrag_other hm]
      exact hn.imp_left fun k => (List.mem_cons.mp k).resolve_left hm

theorem wake_reloads {s : State} {n : Crag} {p : ProgSec} (hn : s.pw.pstate = .nap) (h : s.programOn n = some p) :
    Reloaded p (wake s).ma.crags[n] := by
  unfold wake
  rw [hn]
  exact reloadCrags_reloaded _ (by exact h) (.inl (List.mem_finRange n))

/-- The bytes of a reloaded crag: its store's are free values, the others its program's initial state. -/
theorem reloaded_byte {p : ProgSec} {x : CragSt} (h : Reloaded p x) : ∃ k, x.undefinedSince = some k
    ∧ (∀ o, scanStore o = true → x.byte o = Config.freeByte k o) ∧ (∀ o, scanStore o = false → x.byte o = readByte p.initial o) := by
  obtain ⟨body, ⟨k, hk⟩, written⟩ := h
  refine ⟨k, hk, fun o ho => ?_, fun o ho => ?_⟩
  · unfold CragSt.byte
    rw [hk]
    exact if_pos (by rw [ho, written]; rfl)
  · unfold CragSt.byte
    rw [hk]
    exact (if_neg (by rw [ho]; simp)).trans (by rw [body])

/-- Settles O27: STATE_REQ by its value, the entries of NAP and IDLE, and a crag's store after NAP. -/
theorem powerStatesAndNap : Obligations.PowerStatesAndNap := by
  refine ⟨fun s h hl => ⟨?_, ?_, ?_, exec_napEntry h, exec_napEntry_busy, exec_idleEntry h⟩, fun s n p h hl hn hp => ?_⟩
  · exact ⟨_, congrArg Host.Outcome.next ((stateReqWrite_up h hl 2).trans (congrArg _ (stateReq_nap s))), rfl, rfl, rfl, rfl, rfl, rfl,
      storeKept_of_st rfl⟩
  · obtain ⟨hr, hc, hst, -⟩ := wake_massifOnly (withReq 0 s)
    have pw := wake_pw (withReq 0 s)
    refine ⟨_, congrArg Host.Outcome.next ((stateReqWrite_up h hl 0).trans (congrArg _ (stateReq_active s))), congrArg Power.stateReq pw,
      (congrArg Power.reqPend pw).trans ?_, congrArg Power.pstate pw, hr, hc, storeKept_of_st hst⟩
    exact ite_self _
  · by_cases hn : s.pw.pstate = .nap
    · obtain ⟨hr, hc, hst, -⟩ := wake_massifOnly (withReq 1 s)
      have pw := wake_pw (withReq 1 s)
      refine ⟨_, congrArg Host.Outcome.next ((stateReqWrite_up h hl 1).trans (congrArg _ (stateReq_auto_nap hn))),
        congrArg Power.stateReq pw, (congrArg Power.reqPend pw).trans (ite_self _), ?_, hr, hc, storeKept_of_st hst⟩
      rw [if_pos hn]
      exact congrArg Power.pstate pw
    · refine ⟨_, congrArg Host.Outcome.next ((stateReqWrite_up h hl 1).trans (congrArg _ (stateReq_auto_awake hn))), rfl, rfl, ?_,
        rfl, rfl, storeKept_of_st rfl⟩
      rw [if_neg hn]
      rfl
  · obtain ⟨-, -, hst, -⟩ := wake_massifOnly (withReq 0 s)
    have pw := wake_pw (withReq 0 s)
    have reloaded : Reloaded p (wake (withReq 0 s)).ma.crags[n] := wake_reloads (s := withReq 0 s) hn hp
    obtain ⟨k, hk, store, rest⟩ := reloaded_byte reloaded
    exact ⟨_, k, congrArg Host.Outcome.next ((stateReqWrite_up h hl 0).trans (congrArg _ (stateReq_active s))),
      congrArg Power.pstate pw, reloaded.1, hk, storeKept_of_st hst, store, rest⟩

/-! ### The clock (R38, R40, R429) -/

theorem railFor_bounds (w : BitVec 2) : 130 ≤ (railFor w).toNat ∧ (railFor w).toNat ≤ 170 := by
  have small : min 170 (max 130 (Config.stepRail w)) < 2 ^ 8 := by omega
  rw [railFor, BitVec.toNat_ofNat, Nat.mod_eq_of_lt small]
  omega

theorem changeStep_power (w : BitVec 2) (p : Power) : (changeStep w p).step = w ∧ (changeStep w p).stepWant = none
    ∧ (changeStep w p).arrayV = railFor w ∧ (changeStep w p).memStep = p.memStep := by
  unfold changeStep
  split <;> exact ⟨rfl, rfl, rfl, rfl⟩

section
variable {s : State} (h : Up s)
include h

theorem exec_clkStepChange {w : BitVec 2} (hw : s.pw.stepWant = some w) (hs : s.scanning = false) :
    exec .clkStepChange s = .next { s with pw := changeStep w s.pw } := by
  change Host.Outcome.next _ = _
  rw [if_neg (by rw [h.2]; decide), hw]
  exact congrArg Host.Outcome.next (if_neg (ne_true_of_eq_false hs))

omit h in
theorem exec_clkStepChange_scanning (hs : s.scanning = true) : exec .clkStepChange s = .next s := by
  change Host.Outcome.next _ = _
  split
  · rfl
  · rw [if_pos hs]

/-- The steps that the measurements allow. -/
def measured (m : PowerMeas) (s : State) : State :=
  { s with pw := { s.pw with
    capStep := if m.meets16 then 0 else if m.meets08 then 1 else 2
    memStep := if s.pw.brake then 2 else if m.meets04 then 0 else if m.meetsHalf then 1 else 2 } }

theorem exec_dvfsEval (m : PowerMeas) (hn : s.pw.pstate ≠ .nap) :
    exec (.dvfsEval m) s = .next (recap (askStep (measured m s))) :=
  congrArg Host.Outcome.next (if_neg (by rw [h.1, h.2]; simp [hn]))

/-- The rail as AVS_ADJUST moves it: towards what is asked, at most 20 steps of 5 mV. -/
def railMoved (mv v : Nat) : Nat :=
  let want := min 170 (max 130 (ceilDiv mv 5))
  if want < v then max want (v - 20) else min want (v + 20)

omit h in
theorem railMoved_bounds (mv : Nat) {v : Nat} (lo : 130 ≤ v) (hi : v ≤ 170) :
    130 ≤ railMoved mv v ∧ railMoved mv v ≤ 170 ∧ railMoved mv v ≤ v + 20 ∧ v ≤ railMoved mv v + 20 := by
  unfold railMoved
  dsimp only
  split <;> omega

/-- The rail moved. -/
def railSet (mv : Nat) (s : State) : State :=
  { s with pw := { s.pw with arrayV := BitVec.ofNat 8 (railMoved mv s.pw.arrayV.toNat) } }

/-- What AVS_ADJUST leaves of power, rings and the store. -/
theorem exec_avsAdjust (mv : Nat) (hn : s.pw.pstate ≠ .nap) : ∃ t, exec (.avsAdjust mv) s = .next t
    ∧ t.pw.arrayV = (railSet mv s).pw.arrayV ∧ (mv ≤ 850 → t.pw.stepWant = s.pw.stepWant) ∧ t.rings = s.rings ∧ StoreKept s t := by
  have acts : ¬ (s.pw.rdy = false ∨ s.pw.phase ≠ .ready ∨ s.pw.pstate = .nap) := by
    rw [h.1, h.2]
    simp [hn]
  by_cases hm : mv ≤ 850
  · exact ⟨railSet mv s, congrArg Host.Outcome.next ((if_neg acts).trans (if_pos hm)), rfl, fun _ => rfl, rfl, storeKept_of_st rfl⟩
  · obtain ⟨u, hu⟩ : ∃ u : State, u = askStep { railSet mv s with
        pw := { (railSet mv s).pw with avsStep := BitVec.ofNat 2 (min 2 (s.pw.step.toNat + 1)) } } := ⟨_, rfl⟩
    have step : exec (.avsAdjust mv) s
        = .next (raiseEvent 0x0104 0xFF (BitVec.ofNat 32 (BitVec.ofNat 2 (min 2 (s.pw.step.toNat + 1))).toNat) 0 u) := by
      rw [hu]
      exact congrArg Host.Outcome.next ((if_neg acts).trans (if_neg hm))
    refine ⟨_, step, ?_, fun k => absurd k hm, ?_, storeKept_of_st ?_⟩
    · refine (congrArg Power.arrayV (raiseEvent_power 0x0104 0xFF _ 0 u)).trans ?_
      rw [hu]
      rfl
    · rw [raiseEvent_rings, hu]
      rfl
    · rw [raiseEvent_st, hu]
      rfl

end

/-! ### The power brake (R34) -/

/-- The brake on: the memory rate step at QUARTER, the one before kept. -/
def braked (s : State) : State := { s with pw := { s.pw with brake := true, memBase := s.pw.memStep, memStep := 2 } }

/-- The brake off: the memory rate step before it returns. -/
def unbraked (s : State) : State := { s with pw := { s.pw with brake := false, memStep := s.pw.memBase } }

theorem exec_pwrbrkNAssert {s : State} (h : s.pw.brake = false) : exec .pwrbrkNAssert s = .next (recap (braked s)) :=
  congrArg Host.Outcome.next (if_neg (ne_true_of_eq_false h))

theorem exec_pwrbrkNDeassert {s : State} (h : s.pw.brake = true) : exec .pwrbrkNDeassert s = .next (recap (unbraked s)) :=
  congrArg Host.Outcome.next (if_pos h)

theorem brake_on_and_off {s : State} (h : s.pw.brake = false) :
    ∃ t u, exec .pwrbrkNAssert s = .next t ∧ t.capEff ≤ 100 ∧ t.pw.memStep = 2 ∧ t.pw.brake = true
      ∧ exec .pwrbrkNDeassert t = .next u ∧ u.pw.memStep = s.pw.memStep ∧ u.capEff = s.capEff ∧ u.pw.brake = false
      ∧ u.rings = s.rings ∧ StoreKept s u := by
  have on := recap_power (braked s)
  have onRings := recap_rings (braked s)
  have onSt := recap_st (braked s)
  have step := exec_pwrbrkNAssert h
  generalize recap (braked s) = t at on onRings onSt step
  have braked : t.pw.brake = true := (congrArg Power.brake on :)
  have off := recap_power (unbraked t)
  have deassert := exec_pwrbrkNDeassert braked
  have offRings := (recap_rings (unbraked t)).trans onRings
  have offSt := (recap_st (unbraked t)).trans onSt
  generalize recap (unbraked t) = u at off offRings offSt deassert
  refine ⟨t, u, step, ?_, (congrArg Power.memStep on :), braked, deassert, ?_, ?_, (congrArg Power.brake off :), offRings,
    storeKept_of_st offSt⟩
  · rw [State.capEff, braked]
    exact (min_le_right _ _).trans (min_le_right _ _)
  · exact (congrArg Power.memStep off).trans (congrArg Power.memBase on)
  · have capW : u.pw.capW = s.pw.capW := (congrArg Power.capW off :).trans (congrArg Power.capW on :)
    have mgmt : u.pw.mgmtCap = s.pw.mgmtCap := (congrArg Power.mgmtCap off :).trans (congrArg Power.mgmtCap on :)
    have aux : u.pw.aux = s.pw.aux := (congrArg Power.aux off :).trans (congrArg Power.aux on :)
    have brake : u.pw.brake = s.pw.brake := (congrArg Power.brake off).trans h.symm
    simp only [State.capEff, capW, mgmt, aux, brake]

/-- The memory rate, the cap's step and the step asked for, as DVFS_EVAL leaves them. -/
theorem dvfs_power (m : PowerMeas) (s : State) : quietPower (recap (askStep (measured m s))).pw
    = quietPower { (measured m s).pw with
        stepWant := if BitVec.ofNat 2 (measured m s).pw.limit = s.pw.step then none
          else some (BitVec.ofNat 2 (measured m s).pw.limit) } :=
  recap_power (askStep (measured m s))

/-- Settles O28: the step change, DVFS_EVAL, AVS_ADJUST and the power brake. -/
theorem clockFollowsItsLimits : Obligations.ClockFollowsItsLimits := by
  refine ⟨fun s h => ⟨fun w hw hs => ?_, exec_clkStepChange_scanning, fun m hn => ?_, fun mv hn lo hi => ?_⟩, fun s h => brake_on_and_off h⟩
  · obtain ⟨step, want, volts, mem⟩ := changeStep_power w s.pw
    obtain ⟨lo, hi⟩ := railFor_bounds w
    exact ⟨_, exec_clkStepChange h hw hs, step, want, by rw [volts]; exact lo, by rw [volts]; exact hi, mem, rfl, rfl, rfl,
      storeKept_of_st rfl⟩
  · have power := dvfs_power m s
    have rings := recap_rings (askStep (measured m s))
    have st := recap_st (askStep (measured m s))
    have step := exec_dvfsEval h m hn
    generalize recap (askStep (measured m s)) = t at power rings st step
    have limit : t.pw.limit = (measured m s).pw.limit := (congrArg Power.limit power :)
    refine ⟨t, step, (congrArg Power.memStep power :), (congrArg Power.capStep power :), ?_, (congrArg Power.step power :), rings,
      storeKept_of_st st⟩
    rw [limit]
    exact (congrArg Power.stepWant power :)
  · obtain ⟨t, step, volts, want, rings, st⟩ := exec_avsAdjust h mv hn
    obtain ⟨lo', hi', up, down⟩ := railMoved_bounds mv lo hi
    have reads : t.pw.arrayV.toNat = railMoved mv s.pw.arrayV.toNat := by
      rw [volts, railSet, BitVec.toNat_ofNat]
      omega
    exact ⟨t, step, by omega, by omega, by omega, by omega, want, rings, st⟩

end Sys2Proof.Proofs

/-! Live capacity and admission (17), and the one command that can stop the model (02). -/

namespace Sys2Proof.Proofs

open Sys2Proof Sys2Proof.Machine Sys2Proof.Safety Sys2Proof.Laws

/-! ### Absolute maximum ratings (R26) -/

theorem exec_supplyRange_beyond (which : Supply) (mv : Int)
    (h : which = .main ∧ (mv < -500 ∨ 14000 < mv) ∨ which = .aux ∧ (mv < -300 ∨ 4000 < mv)) (s : State) :
    exec (.supplyRange which mv) s = .fault .beyondRatings := by
  obtain ⟨rfl, h⟩ | ⟨rfl, h⟩ := h <;> exact if_pos h

theorem exec_supplyRange_within (which : Supply) (mv : Int)
    (h : ¬ (which = .main ∧ (mv < -500 ∨ 14000 < mv) ∨ which = .aux ∧ (mv < -300 ∨ 4000 < mv))) (s : State) :
    ∃ t, exec (.supplyRange which mv) s = .next t := by
  cases which with
  | main => exact ⟨_, if_neg fun k => h (.inl ⟨rfl, k⟩)⟩
  | aux => exact ⟨_, if_neg fun k => h (.inr ⟨rfl, k⟩)⟩

/-- Settles O30: every arm but SUPPLY_RANGE's answers with a next state, and that one stops beyond Table 2-5 only. -/
theorem onlyBeyondRatingsStops : Obligations.OnlyBeyondRatingsStops := by
  refine ⟨fun c s => ?_, fun s mv => ⟨fun h => ?_, fun h => ?_⟩⟩
  · cases c with
    | supplyRange which mv =>
      by_cases h : which = .main ∧ (mv < -500 ∨ 14000 < mv) ∨ which = .aux ∧ (mv < -300 ∨ 4000 < mv)
      · refine .inr ⟨mv, ?_, exec_supplyRange_beyond which mv h s⟩
        exact h.imp (fun k => ⟨by rw [k.1], k.2⟩) (fun k => ⟨by rw [k.1], k.2⟩)
      · exact .inl (exec_supplyRange_within which mv h s)
    | _ => exact .inl ⟨_, rfl⟩
  · exact exec_supplyRange_beyond .main mv (.inl ⟨rfl, h⟩) s
  · exact exec_supplyRange_beyond .aux mv (.inr ⟨rfl, h⟩) s

/-! ### The account of a resource (R347) -/

/-- What the admission of a resource reads once its live capacity is taken again. -/
def recapped (k : Res) (s : State) : Arb :=
  let a := s.adm[k]
  let live := { a with live := satNat 16 (s.liveOf k) }
  if s.liveOf k < a.total then
    { live with breach := true, frac := BitVec.ofNat 11 (fracOf (s.liveOf k) a.total), okSince := none }
  else if a.breach then { live with frac := 1024, okSince := some (a.okSince.getD s.now) }
  else live

theorem recapOne_quiet (k : Res) (s : State) : quiet (recapOne k s) = quiet (s.onArb k fun _ => recapped k s) := by
  unfold recapOne recapped
  dsimp only
  split
  · split
    · rfl
    · exact raiseEvent_quiet _ _ _ _ _
  · split
    · split
      · rfl
      · exact raiseEvent_quiet _ _ _ _ _
    · rfl

theorem recapOne_same (k : Res) (s : State) : (recapOne k s).adm[k] = recapped k s :=
  (congrArg (fun v : State => v.adm[k]) (recapOne_quiet k s)).trans (State.onArb_same s k _)

theorem recapOne_other {k j : Res} (h : j ≠ k) (s : State) : (recapOne k s).adm[j] = s.adm[j] :=
  (congrArg (fun v : State => v.adm[j]) (recapOne_quiet k s)).trans (State.onArb_other s k _ j h)

/-- The state without its admission and the parts in which an event announces itself. -/
def unadmitted (s : State) : State := quiet { s with adm := Vector.replicate 7 {} }

theorem recapOne_unadmitted (k : Res) (s : State) : unadmitted (recapOne k s) = unadmitted s :=
  (congrArg (fun v : State => { v with adm := Vector.replicate 7 {} }) (recapOne_quiet k s) :)

theorem recap_unadmitted (s : State) : unadmitted (recap s) = unadmitted s :=
  foldl_keeps unadmitted _ (fun s k => recapOne_unadmitted k s) _ s

/-- Live capacity is read from the inputs alone. -/
theorem liveOf_of_unadmitted {s t : State} (h : unadmitted t = unadmitted s) (k : Res) : t.liveOf k = s.liveOf k :=
  (congrArg (fun v : State => v.liveOf k) h :)

theorem recapped_recapOne {j k : Res} (h : j ≠ k) (s : State) : recapped j (recapOne k s) = recapped j s := by
  have now : (recapOne k s).now = s.now := (congrArg State.now (recapOne_unadmitted k s) :)
  unfold recapped
  rw [recapOne_other h, liveOf_of_unadmitted (recapOne_unadmitted k s), now]

theorem recaps_adm {l : List Res} (hl : l.Nodup) (s : State) {j : Res} :
    (l.foldl (fun s k => recapOne k s) s).adm[j] = if j ∈ l then recapped j s else s.adm[j] := by
  induction l generalizing s with
  | nil => rfl
  | cons k l ih =>
    obtain ⟨hk, hl⟩ := List.nodup_cons.mp hl
    rw [List.foldl_cons, ih hl]
    by_cases h : j = k
    · subst h
      rw [if_neg hk, if_pos List.mem_cons_self, recapOne_same]
    · rw [recapped_recapOne h, recapOne_other h]
      simp [h]

theorem recap_adm (s : State) (k : Res) : (recap s).adm[k] = recapped k s :=
  (recaps_adm (List.nodup_finRange 7) s).trans (if_pos (List.mem_finRange k))

/-- Every resource's account is that of its inputs; the entries are those it had before. -/
structure Accounted (s t : State) (k : Res) : Prop where
  live : t.adm[k].live = satNat 16 (t.liveOf k)
  ent : t.adm[k].ent = s.adm[k].ent
  breach : t.liveOf k < t.adm[k].total → t.adm[k].breach = true
    ∧ t.adm[k].frac = BitVec.ofNat 11 (fracOf (t.liveOf k) t.adm[k].total)

theorem recapped_ent (k : Res) (s : State) : (recapped k s).ent = s.adm[k].ent := by
  unfold recapped
  dsimp only
  split
  · rfl
  · split <;> rfl

theorem recapped_live (k : Res) (s : State) : (recapped k s).live = satNat 16 (s.liveOf k) := by
  unfold recapped
  dsimp only
  split
  · rfl
  · split <;> rfl

theorem recapped_breach {k : Res} {s : State} (h : s.liveOf k < s.adm[k].total) : (recapped k s).breach = true
    ∧ (recapped k s).frac = BitVec.ofNat 11 (fracOf (s.liveOf k) s.adm[k].total) := by
  unfold recapped
  dsimp only
  rw [if_pos h]
  exact ⟨rfl, rfl⟩

theorem recap_accounted (s : State) (k : Res) : Accounted s (recap s) k := by
  have live := liveOf_of_unadmitted (recap_unadmitted s) k
  have total : (recap s).adm[k].total = s.adm[k].total := by
    rw [recap_adm, Arb.total, recapped_ent, Arb.total]
  refine ⟨?_, ?_, fun h => ?_⟩
  · rw [recap_adm, recapped_live, live]
  · rw [recap_adm, recapped_ent]
  · rw [live, total] at h
    rw [recap_adm, live]
    have := recapped_breach h
    rwa [← total, recap_adm] at this

/-! ### Changes of the inputs -/

theorem refreshView_only (s : State) : ∃ cfg mg, refreshView s = { s with cfg := cfg, mg := mg } := by
  unfold refreshView
  dsimp only
  split
  · exact ⟨s.cfg, s.mg, rfl⟩
  · exact ⟨_, _, rfl⟩

/-- The ONFI channels and the derating of a new capacity. -/
def withCapacity (onfi : BitVec 16) (derated : Bool) (s : State) : State :=
  { s with st := { s.st with onfi := onfi }, pw := { s.pw with derated := derated } }

/-- The link at a new rate, width, mode and tag width. -/
def trained (rate width : BitVec 4) (flit : Bool) (tagw : BitVec 2) (s : State) : State :=
  { s with link := { s.link with rate := rate, width := width, flit := flit, tagw := tagw } }

theorem reportLink_quiet (s : State) : quiet (reportLink s) = quiet s := by
  unfold reportLink
  split
  · exact raiseEvent_quiet _ _ _ _ _
  · rfl

section
variable {s : State} (hb : s.boot.up = true) (hp : s.pw.phase = .ready)
include hb hp

theorem exec_capacityChange (onfi : BitVec 16) (derated : Bool) :
    exec (.capacityChange onfi derated) s = .next (refreshView (recap (withCapacity onfi derated s))) :=
  congrArg Host.Outcome.next (if_neg (by rw [hb, hp]; decide))

omit hb in
theorem exec_linkRetrain_bad {rate width : BitVec 4} {flit : Bool} {tagw : BitVec 2} (h : linkMix rate width flit tagw = false) :
    exec (.linkRetrain rate width flit tagw) s = .next s := by
  change Host.Outcome.next _ = _
  rw [hp]
  exact congrArg Host.Outcome.next (if_pos h)

theorem exec_linkRetrain {rate width : BitVec 4} {flit : Bool} {tagw : BitVec 2} (h : linkMix rate width flit tagw = true) :
    exec (.linkRetrain rate width flit tagw) s = .next (pumpWheels (recap (reportLink (trained rate width flit tagw s)))) := by
  change Host.Outcome.next _ = _
  rw [hp]
  exact congrArg Host.Outcome.next ((if_neg (by rw [h]; decide)).trans (if_neg (by rw [hb]; decide)))

theorem exec_linkMargin (which : Fin 3) :
    exec (.linkMargin which) s = .next (raiseEvent 0x0302 0xFF (BitVec.ofNat 32 which.val) 0 s) :=
  congrArg Host.Outcome.next (if_neg (by rw [hb, hp]; decide))

/-- The breach of a resource ended: FRAC back at 1024. -/
def breachEnded (k : Res) (s : State) : State :=
  s.onArb k (fun a => { a with breach := false, frac := 1024, okSince := none })

omit hb in
theorem exec_breachEnd {k : Res} {t0 : Nat} (h : s.adm[k].okSince = some t0) (hk : s.adm[k].breach = true) :
    exec (.breachEnd k) s
      = .next (raiseEvent 0x0902 0xFF (BitVec.ofNat 32 k.val) 0 (breachEnded k (advanceTo (t0 + 1000) s))) := by
  change Host.Outcome.next _ = _
  rw [h]
  exact congrArg Host.Outcome.next ((if_pos ⟨hk, by rw [hp]; decide⟩).trans (if_pos hk))

end

/-! ### SVC_ENT_WRITE (R342) -/

theorem flagWarn_cfg (kind item : Nat) (s : State) : ∃ cfg, flagWarn kind item s = { s with cfg := cfg } := by
  unfold flagWarn
  split
  · exact ⟨s.cfg, rfl⟩
  · exact ⟨_, rfl⟩

/-- AMOUNT and WEIGHT set in one entry. -/
def withShare (q : Req) (k : Res) (v : Word) (s : State) : State :=
  s.onArb k fun a => { a with ent := modAt a.ent q fun e => { e with amount := fld v 0 16, weight := fld v 16 8 } }

section
variable {s : State} {q : Req} {k : Res} {v : Word}

theorem firstRefusal_one (x : ExpRes) : firstRefusal [x] = x := by cases x <;> rfl

section
variable (hr : s.pw.rdy = true) (hl : s.cfg.loading = false) (hw : fld v 16 8 = s.adm[k].ent[q].weight)
  (ha : fld v 0 16 ≠ s.adm[k].ent[q].amount)
include hr hl hw ha

theorem exec_svcEntWrite_refused (hd : decideAmount s q k (fld v 0 16).toNat ≠ .applied) :
    exec (.svcEntWrite q k v) s = .next (setExp (decideAmount s q k (fld v 0 16).toNat) s) := by
  change Host.Outcome.next _ = _
  rw [if_neg (by rw [hr]; decide)]
  unfold svcWrite
  dsimp only
  rw [hl, if_neg (by decide), if_neg ha, if_pos hw, List.append_nil, firstRefusal_one]
  exact congrArg Host.Outcome.next (if_neg hd)

theorem exec_svcEntWrite (hd : decideAmount s q k (fld v 0 16).toNat = .applied) : ∃ cfg,
    exec (.svcEntWrite q k v) s = .next (setExp .applied (recapOne k { withShare q k v s with cfg := cfg })) := by
  change ∃ cfg, Host.Outcome.next _ = _
  rw [if_neg (by rw [hr]; decide)]
  unfold svcWrite
  dsimp only
  rw [hl, if_neg (by decide), if_neg ha, if_pos hw, List.append_nil, firstRefusal_one, hd, underExp, if_pos rfl]
  by_cases hc : s.adm[k].ent[q].cls = .background
  · obtain ⟨cfg, warned⟩ := flagWarn_cfg 3 (2 * (7 * q.val + k.val)) (withShare q k v s)
    refine ⟨cfg, ?_⟩
    rw [if_neg (not_not_intro hc), if_pos hw, if_neg ha, ← warned]
    rfl
  · refine ⟨s.cfg, ?_⟩
    rw [if_pos hc]
    rfl

end

theorem withShare_entry (s : State) : (withShare q k v s).adm[k].ent[q] = { s.adm[k].ent[q] with
    amount := fld v 0 16, weight := fld v 16 8 } := by
  rw [withShare, State.onArb_same, modAt_same]

theorem withShare_others (s : State) {p : Req} (h : p ≠ q) : (withShare q k v s).adm[k].ent[p] = s.adm[k].ent[p] := by
  rw [withShare, State.onArb_same, modAt_other _ _ _ _ h]

end

/-- Settles O26: capacity after a change of its inputs, the end of a breach, and SVC_ENT_WRITE. -/
theorem capacityIsAdmitted : Obligations.CapacityIsAdmitted := by
  refine ⟨fun s hb hp => ⟨fun onfi derated => ?_, fun _ _ _ _ => exec_linkRetrain_bad hp, fun rate width flit tagw hm => ?_,
    fun k t0 hk hbr => ?_, exec_linkMargin hb hp⟩, fun s q k v hr hl hw ha => ⟨fun hd => ?_, exec_svcEntWrite_refused hr hl hw ha⟩⟩
  · have step := exec_capacityChange hb hp onfi derated
    have acc := recap_accounted (withCapacity onfi derated s)
    have power := recap_power (withCapacity onfi derated s)
    have rings := recap_rings (withCapacity onfi derated s)
    have st := recap_st (withCapacity onfi derated s)
    generalize recap (withCapacity onfi derated s) = u at step acc power rings st
    obtain ⟨cfg, mg, view⟩ := refreshView_only u
    rw [view] at step
    refine ⟨_, step, by rw [st]; rfl, (congrArg Power.derated power :), fun k => ?_, rings, fun a => by rw [st]; rfl⟩
    obtain ⟨live, ent, breach⟩ := acc k
    exact ⟨live, ent, breach⟩
  · have step := exec_linkRetrain hb hp hm
    have reported := reportLink_quiet (trained rate width flit tagw s)
    generalize reportLink (trained rate width flit tagw s) = u at step reported
    have acc := recap_accounted u
    have same := (recap_unadmitted u).trans (congrArg (fun v : State => { v with adm := Vector.replicate 7 {} }) reported :)
    have adm : u.adm = s.adm := (congrArg State.adm reported :)
    generalize recap u = t at step acc same
    refine ⟨t, ⟨step, fun h => ?_⟩, (congrArg (fun v : State => v.link.rate) same :), (congrArg (fun v : State => v.link.width) same :),
      (congrArg (fun v : State => v.link.flit) same :), (congrArg (fun v : State => v.link.tagw) same :), fun k => ?_,
      (congrArg State.rings same :), storeKept_of_st (congrArg State.st same :)⟩
    · have rest : ArrayAtRest t := arrayAtRest_same h (congrArg State.cfg same :) (congrArg State.ma same :) (congrArg State.rings same :)
      rw [step, pumpWheels_rest rest]
    · obtain ⟨live, ent, breach⟩ := acc k
      exact ⟨live, by rw [ent, adm], fun h => (breach h).1⟩
  · have kept := raiseEvent_quiet 0x0902 0xFF (BitVec.ofNat 32 k.val) 0 (breachEnded k (advanceTo (t0 + 1000) s))
    have step := exec_breachEnd hp hk hbr
    generalize raiseEvent 0x0902 0xFF (BitVec.ofNat 32 k.val) 0 (breachEnded k (advanceTo (t0 + 1000) s)) = t at kept step
    have adm : t.adm = (breachEnded k s).adm := (congrArg State.adm kept :)
    have now : t.now = max s.now (t0 + 1000) := (congrArg State.now kept :)
    refine ⟨t, step, ?_, ?_, by omega, fun j hj => ?_, (congrArg State.rings kept :), storeKept_of_st (congrArg State.st kept :)⟩
    · rw [adm, breachEnded, State.onArb_same]
    · rw [adm, breachEnded, State.onArb_same]
    · rw [adm, breachEnded, State.onArb_other _ _ _ _ hj]
  · obtain ⟨cfg, step⟩ := exec_svcEntWrite hr hl hw ha hd
    have same := recapOne_same k { withShare q k v s with cfg := cfg }
    have other := fun j (hj : j ≠ k) => recapOne_other hj { withShare q k v s with cfg := cfg }
    have rest := recapOne_unadmitted k { withShare q k v s with cfg := cfg }
    generalize recapOne k { withShare q k v s with cfg := cfg } = t at step same other rest
    have ent : t.adm[k].ent = (withShare q k v s).adm[k].ent := by rw [same, recapped_ent]
    refine ⟨_, step, ?_, ?_, fun p hp => ?_, fun j hj => ?_, rfl, (congrArg State.rings rest :),
      storeKept_of_st (congrArg State.st rest :)⟩
    · rw [setExp_adm, ent, withShare_entry]
    · rw [setExp_adm, ent, withShare_entry]
    · rw [setExp_adm, ent, withShare_others s hp]
    · rw [setExp_adm, other j hj]
      exact State.onArb_other s k _ j hj

end Sys2Proof.Proofs

/-! Resets, the watchdog's expiry and the hold-up sequence (02, 03, 19). -/

namespace Sys2Proof.Proofs

open Sys2Proof Sys2Proof.Machine Sys2Proof.Safety Sys2Proof.Laws

/-! ### The boot block and the key slots through a reset (R49, R58, R59) -/

theorem modSlot_only (b : Bool) (f : FwSlot → FwSlot) (x : Boot) :
    ∃ slotA slotB, modSlot b f x = { x with slotA := slotA, slotB := slotB } := by
  unfold modSlot
  split
  · exact ⟨x.slotA, _, rfl⟩
  · exact ⟨_, x.slotB, rfl⟩

theorem failTrial_only (x : Boot) :
    ∃ slotA slotB trial, failTrial x = { x with slotA := slotA, slotB := slotB, trial := trial } := by
  unfold failTrial
  split
  · obtain ⟨slotA, slotB, h⟩ := modSlot_only x.bootB (fun y => { y with st := 5 }) x
    exact ⟨slotA, slotB, false, by rw [h]⟩
  · exact ⟨x.slotA, x.slotB, x.trial, rfl⟩

theorem dropUpdate_only (x : Boot) :
    ∃ slotA slotB, dropUpdate x = { x with slotA := slotA, slotB := slotB, update := .idle, updImage := [] } := by
  unfold dropUpdate
  split
  · obtain ⟨slotA, slotB, h⟩ := modSlot_only x.updateB (fun y => { y with st := 4 }) x
    exact ⟨slotA, slotB, by rw [h]⟩
  · exact ⟨x.slotA, x.slotB, rfl⟩

theorem zeroClaims_keys (s : State) : (zeroClaims s).ma.keys = s.ma.keys := by
  unfold zeroClaims
  dsimp only
  rw [foldl_keeps (fun s : State => s.ma.keys) (fun s l => zeroLane l s) fun _ _ => rfl,
    foldl_keeps (fun s : State => s.ma.keys) (fun s n => zeroCrag n s) fun _ _ => rfl]

theorem fencePower_keys (s : State) : (fencePower s).ma.keys = s.ma.keys := by
  unfold fencePower
  refine foldl_keeps (fun s : State => s.ma.keys) _ (fun s u => ?_) _ s
  split
  · rfl
  · split <;> rfl

theorem freshState_keys (ph : Phase) (keys : Bool) (s : State) :
    (freshState ph keys s).ma.keys = if keys then keptKeys s else Vector.replicate 32 {} := by
  unfold freshState
  rw [fencePower_keys]

theorem freshState_boot (ph : Phase) (keys : Bool) (s : State) : (freshState ph keys s).boot
    = { dropUpdate s.boot with up := false, retRej := false, factoryDone := false, recovery := false } := by
  unfold freshState
  rw [fencePower_boot]

theorem freshState_now (ph : Phase) (keys : Bool) (s : State) : (freshState ph keys s).now = s.now := by
  unfold freshState
  exact (congrArg State.now (fencePower_sansMassif _) :)

theorem freshState_key_kept (ph : Phase) (s : State) (k : KSlot) :
    (freshState ph true s).ma.keys[k].loaded = s.ma.keys[k].loaded := by
  rw [freshState_keys, if_pos rfl, keptKeys, mapBank_getElem]

/-- A key slot emptied. -/
abbrev SlotEmpty (x : KeySt) : Prop := x.loaded = false ∧ x.inner = [] ∧ x.outer = []

theorem freshState_key_empty (ph : Phase) (s : State) (k : KSlot) : SlotEmpty (freshState ph false s).ma.keys[k] := by
  rw [freshState_keys, if_neg (by decide), Fin.getElem_fin, Vector.getElem_replicate]
  exact ⟨rfl, rfl, rfl⟩

/-! ### What the steps before a reset keep beside -/

/-- From `s` to `t` the key slots, the count of failed bring-ups, the slot that runs and the time stay. -/
structure BootCarried (s t : State) : Prop where
  keys : t.ma.keys = s.ma.keys
  fails : t.boot.fails = s.boot.fails
  bootB : t.boot.bootB = s.boot.bootB
  now : t.now = s.now

theorem BootCarried.refl (s : State) : BootCarried s s := ⟨rfl, rfl, rfl, rfl⟩

theorem BootCarried.trans {s t u : State} (a : BootCarried s t) (b : BootCarried t u) : BootCarried s u :=
  ⟨b.keys.trans a.keys, b.fails.trans a.fails, b.bootB.trans a.bootB, b.now.trans a.now⟩

theorem commitRecord_bootCarried (s : State) : BootCarried s (commitRecord s) := by
  have k := writeRecord_kept s.liveRecord s
  exact ⟨(congrArg (·.keys) k.ma :), (congrArg Boot.fails k.boot :), (congrArg Boot.bootB k.boot :), k.now⟩

theorem zeroClaims_bootCarried (s : State) : BootCarried s (zeroClaims s) :=
  ⟨zeroClaims_keys s, (congrArg (·.boot.fails) (zeroClaims_sansMassif s) :), (congrArg (·.boot.bootB) (zeroClaims_sansMassif s) :),
    (congrArg State.now (zeroClaims_sansMassif s) :)⟩

theorem noteLoss_bootCarried (loss : Nat) (s : State) : BootCarried s (noteLoss loss s) := by
  unfold noteLoss
  split
  · exact ⟨rfl, rfl, rfl, rfl⟩
  · exact .refl s

theorem noteCause_bootCarried (cause : BitVec 4) (arg : Word) (rechoose : Bool) (s : State) :
    BootCarried s (noteCause cause arg rechoose s) := by
  obtain ⟨slotA, slotB, trial, h⟩ := failTrial_only s.boot
  unfold noteCause
  cases rechoose with
  | false => exact ⟨rfl, rfl, rfl, rfl⟩
  | true =>
    dsimp only
    rw [if_pos rfl, h]
    exact ⟨rfl, rfl, rfl, rfl⟩

theorem busyOn_bootCarried (cause : BitVec 4) (s : State) : BootCarried s (busyOn cause s) := by
  have k := busyOn_kept cause s
  exact ⟨by rw [k.ma], by rw [k.boot], by rw [k.boot], k.now⟩

theorem commitTail_bootCarried (s : State) : BootCarried s (commitTail s) := ⟨rfl, rfl, rfl, rfl⟩

section
variable {s : State} (h : s.st.staged = []) (ph : Phase) (cause : BitVec 4) (arg : Word) (rechoose : Bool) (loss : Nat)
include h

theorem readied_bootCarried : BootCarried s (readied cause arg rechoose true loss s) := by
  have committed : ∀ u : State, BootCarried u (if u.retPending && u.pw.rdy then commitRecord u else u) := by
    intro u
    split
    · exact commitRecord_bootCarried u
    · exact .refl u
  unfold readied
  rw [finishPrograms_none h]
  dsimp only
  rw [if_pos rfl]
  exact ((((commitTail_bootCarried s).trans (committed _)).trans (zeroClaims_bootCarried _)).trans
    ((busyOn_bootCarried 1 _).trans (noteCause_bootCarried cause arg rechoose _))).trans (noteLoss_bootCarried loss _)

theorem tableReset_key_kept (k : KSlot) :
    (tableReset ph cause arg rechoose true loss s).ma.keys[k].loaded = s.ma.keys[k].loaded := by
  rw [tableReset_eq, freshState_key_kept, (readied_bootCarried h cause arg rechoose loss).keys]

theorem tableReset_boot_kept : (tableReset ph cause arg rechoose true loss s).boot.fails = s.boot.fails
    ∧ (tableReset ph cause arg rechoose true loss s).boot.bootB = s.boot.bootB := by
  obtain ⟨-, fails, bootB, -⟩ := readied_bootCarried h cause arg rechoose loss
  rw [tableReset_eq, freshState_boot]
  obtain ⟨slotA, slotB, dropped⟩ := dropUpdate_only (readied cause arg rechoose true loss s).boot
  rw [dropped]
  exact ⟨fails, bootB⟩

theorem tableReset_now : (tableReset ph cause arg rechoose true loss s).now = s.now := by
  rw [tableReset_eq, freshState_now]
  exact (readied_bootCarried h cause arg rechoose loss).now

end

theorem assertPin_only (p : PerstPin) (s : State) :
    ∃ edge pin, assertPin p s = { s with pw := { s.pw with perstEdge := edge, perstN := pin } } := by
  cases p with
  | edge => exact ⟨true, s.pw.perstN, rfl⟩
  | sideband => exact ⟨s.pw.perstEdge, true, rfl⟩

/-- Settles O32: PERST, a hot reset, an FLR and PME_Turn_Off. -/
theorem resetsClearDataPath : Obligations.ResetsClearDataPath := by
  intro s hl hs
  refine ⟨fun p => ?_, ?_, ?_, ?_⟩
  · obtain ⟨edge, pin, pinned⟩ := assertPin_only p (tableReset .inReset 1 0 true true 3 s)
    have step : exec (.perstAssert p) s = .next (assertPin p (tableReset .inReset 1 0 true true 3 s)) :=
      congrArg Host.Outcome.next (congrArg (assertPin p) (if_pos hl))
    rw [pinned] at step
    exact ⟨_, step, tableReset_phase _ _ _ _ _ _, tableReset_dataPathReset hs _ _ _ _ _ _, tableReset_vault hs _ _ _ _ _ _,
      tableReset_nextCause hs _ _ _ _ _ _, tableReset_key_kept hs _ _ _ _ _⟩
  · exact ⟨_, congrArg Host.Outcome.next (if_pos hl), tableReset_phase _ _ _ _ _ _, tableReset_dataPathReset hs _ _ _ _ _ _,
      tableReset_vault hs _ _ _ _ _ _, tableReset_nextCause hs _ _ _ _ _ _, tableReset_key_kept hs _ _ _ _ _⟩
  · exact ⟨_, congrArg Host.Outcome.next (if_pos hl), tableReset_phase _ _ _ _ _ _, tableReset_dataPathReset hs _ _ _ _ _ _,
      tableReset_vault hs _ _ _ _ _ _, tableReset_nextCause hs _ _ _ _ _ _, tableReset_key_kept hs _ _ _ _ _⟩
  · refine ⟨_, congrArg Host.Outcome.next (if_pos hl), tableReset_phase _ _ _ _ _ _, tableReset_dataPathReset hs _ _ _ _ _ _,
      tableReset_vault hs _ _ _ _ _ _, List.mem_append_right _ (List.mem_singleton.mpr rfl), tableReset_nextCause hs _ _ _ _ _ _,
      fun k => (freshState_key_empty _ _ k).1⟩

/-! ### The watchdog (R370 to R376) -/

/-- The watchdog served: a new window, a new sequence number and whatever challenge is drawn. -/
def served (s : State) : State :=
  { (draw s).2 with wd := { s.wd with
      since := s.now, window := 1000 * s.wd.windowS.toNat, seq := s.wd.seq + 1, challenge := (draw s).1
      badTok := false, warn := false } }

/-- A wrong token noted. -/
def doubted (s : State) : State := { s with wd := { s.wd with badTok := true } }

/-- The warning noted at its time, three quarters into the window. -/
def warned (s : State) : State :=
  let s1 := advanceTo (s.wd.since + 750 * s.wd.window) s
  { s1 with wd := { s1.wd with warn := true } }

theorem watched_iff (s : State) : s.watched = true ↔ s.pw.phase = .bringUp ∨ s.pw.phase = .ready := by
  simp [State.watched]

/-- An expiry of a running engine: a reset with cause 4. -/
theorem expire_running {s : State} (h : Up s) (arg : Word) :
    expire arg s = emit .linkDown (tableReset .bringUp 4 arg true true 3 s) := by
  have watched : s.watched = true := (watched_iff s).mpr (.inr h.2)
  unfold expire
  rw [if_neg (by rw [watched]; decide), h.1]
  exact if_pos rfl

/-- The slot that runs marked FAILED after its third failed bring-up (R59). -/
def slotFailed (s : State) : State :=
  { s with boot := { modSlot s.boot.bootB (fun y => { y with st := 5 }) s.boot with fails := 3 } }

theorem slotFailed_boot {s : State} (h : s.boot.bootB = false) :
    (slotFailed s).boot = { s.boot with slotA := { s.boot.slotA with st := 5 }, fails := 3 } := by
  unfold slotFailed
  rw [h]
  rfl

theorem expire_third {s : State} (hp : s.pw.phase = .bringUp) (hr : s.pw.rdy = false) (ht : s.boot.trial = false)
    (hf : s.boot.fails = 2) (arg : Word) :
    expire arg s = slotFailed (emit .linkDown (tableReset .bringUp 4 arg true true 3 s)) := by
  have watched : s.watched = true := (watched_iff s).mpr (.inl hp)
  unfold expire
  rw [if_neg (by rw [watched]; decide), hr, ht, hf]
  exact (if_neg (by decide)).trans (if_pos (by decide))

section
variable {s : State} (h : Up s)
include h

theorem exec_wdtToken_serves : exec (.wdtToken s.wd.token) s = .next (served s) :=
  congrArg Host.Outcome.next ((if_neg (by simp [h])).trans (if_pos rfl))

theorem exec_wdtToken_wrong {v : Word} (hv : v ≠ s.wd.token) (hb : s.wd.badTok = false) :
    exec (.wdtToken v) s = .next (raiseEvent 0x0B02 0xFF 0 0 (doubted s)) :=
  congrArg Host.Outcome.next ((if_neg (by simp [h])).trans ((if_neg hv).trans (if_neg (ne_true_of_eq_false hb))))

theorem exec_wdtToken_wrong_again {v : Word} (hv : v ≠ s.wd.token) (hb : s.wd.badTok = true) :
    exec (.wdtToken v) s = .next (emit .linkDown (tableReset .bringUp 4 1 true true 3 s)) :=
  congrArg Host.Outcome.next ((if_neg (by simp [h])).trans ((if_neg hv).trans ((if_pos hb).trans (expire_running h 1))))

theorem exec_wdtWarn (hw : s.wd.warn = false) : ∃ left, exec .wdtWarn s = .next (raiseEvent 0x0B01 0xFF left 0 (warned s)) := by
  have watched : s.watched = true := (watched_iff s).mpr (.inr h.2)
  exact ⟨_, congrArg Host.Outcome.next (if_neg (by simp [watched, hw]))⟩

end

theorem exec_watchdogExpiry {s : State} (h : s.watched = true) :
    exec .watchdogExpiry s = .next (expire 0 (advanceTo (s.wd.since + 1000 * s.wd.window) s)) :=
  congrArg Host.Outcome.next (if_pos h)

/-- Settles O35: tokens served and refused, the warning and the expiry, before RDY and after it. -/
theorem watchdogServesWarnsExpires : Obligations.WatchdogServesWarnsExpires := by
  refine ⟨fun s v h => ⟨fun hv => ?_, fun hv hb => ?_, fun hv hb hs => ?_⟩, fun s => ⟨fun h hw => ?_, fun h hs => ?_,
    fun hp hr hb ht hu hf hs => ?_⟩⟩
  · subst hv
    exact ⟨_, exec_wdtToken_serves h, rfl, rfl, rfl, rfl, rfl, rfl, storeKept_of_st rfl⟩
  · have k := raiseEvent_kept 0x0B02 0xFF 0 0 (doubted s)
    have q := raiseEvent_quiet 0x0B02 0xFF 0 0 (doubted s)
    exact ⟨_, exec_wdtToken_wrong h hv hb, (congrArg (·.wd.badTok) q :), (congrArg (·.wd.since) q :), (congrArg (·.wd.seq) q :),
      ⟨k.rdy.trans h.1, k.phase.trans h.2⟩, k.rings, storeKept_of_st k.st⟩
  · exact ⟨_, exec_wdtToken_wrong_again h hv hb, tableReset_phase _ _ _ _ _ _, tableReset_dataPathReset hs _ _ _ _ _ _,
      tableReset_nextCause hs _ _ _ _ _ _, tableReset_vault hs _ _ _ _ _ _⟩
  · obtain ⟨left, step⟩ := exec_wdtWarn h hw
    have q := raiseEvent_quiet 0x0B01 0xFF left 0 (warned s)
    generalize raiseEvent 0x0B01 0xFF left 0 (warned s) = t at step q
    have now : t.now = max s.now (s.wd.since + 750 * s.wd.window) := (congrArg State.now q :)
    exact ⟨t, step, (congrArg (·.wd.warn) q :), by omega, (congrArg (·.wd.since) q :), (congrArg State.rings q :),
      storeKept_of_st (congrArg State.st q :)⟩
  · have up : Up (advanceTo (s.wd.since + 1000 * s.wd.window) s) := h
    have later : s.wd.since + 1000 * s.wd.window ≤ (advanceTo (s.wd.since + 1000 * s.wd.window) s).now := Nat.le_max_right _ _
    have step := exec_watchdogExpiry ((watched_iff s).mpr (.inr h.2))
    rw [expire_running up] at step
    refine ⟨_, step, tableReset_phase _ _ _ _ _ _, tableReset_dataPathReset (s := advanceTo _ s) hs _ _ _ _ _ _, ?_,
      tableReset_nextCause (s := advanceTo _ s) hs _ _ _ _ _ _, (tableReset_boot_kept (s := advanceTo _ s) hs _ _ _ _ _).1,
      tableReset_vault (s := advanceTo _ s) hs _ _ _ _ _ _⟩
    have now := tableReset_now (s := advanceTo (s.wd.since + 1000 * s.wd.window) s) hs .bringUp 4 0 true 3
    exact later.trans_eq now.symm
  · have step := exec_watchdogExpiry ((watched_iff s).mpr (.inl hp))
    rw [expire_third (s := advanceTo _ s) hp hr ht hf] at step
    obtain ⟨-, bootB⟩ := tableReset_boot_kept (s := advanceTo (s.wd.since + 1000 * s.wd.window) s) hs .bringUp 4 0 true 3
    refine ⟨_, step, ?_, rfl, tableReset_dataPathReset (s := advanceTo _ s) hs _ _ _ _ _ _⟩
    have slotA : (tableReset .bringUp 4 0 true true 3 (advanceTo (s.wd.since + 1000 * s.wd.window) s)).boot.bootB = false := bootB.trans hb
    exact (congrArg (fun x : Boot => x.slotA.st) (slotFailed_boot (s := emit .linkDown _) slotA)).trans rfl

/-! ### The hold-up sequence (R36, R359, Table 2-11) -/

/-- The state whose registers the hold-up sequence sets to their reset values, with nothing in flight or pending. -/
def heldUp (zeroVerified : Bool) (s : State) : State :=
  let s3 := noteLoss 2 (zeroKeys (zeroClaims s))
  commitTail { s3 with boot := { failTrial s3.boot with
    rechoose := true, holdUpRan := true, mainLost := false
    zeroOk := zeroVerified && true, zeroUnv := !true
    journalLost := s3.boot.journalLost || !true } }

/-- The sequence ended: power-down releases the fences of failed zeroisations. -/
def powerReleased (s : State) : State := if s.pw.phase = .off then { s with wd := { s.wd with powerFenced := [] } } else s

theorem exec_holdUpSequence {s : State} (zv : Bool) (hp : s.pw.phase = .holdUp) (hs : s.st.staged = []) (hr : s.retPending = false) :
    exec (.holdUpSequence zv true) s = .next (powerReleased (freshState (afterHoldUp (heldUp zv s)) false (heldUp zv s))) := by
  change Host.Outcome.next _ = _
  rw [if_neg (not_not_intro hp), finishPrograms_none hs]
  dsimp only
  rw [hr]
  rfl

theorem noteLoss_only (loss : Nat) (s : State) : ∃ boot, noteLoss loss s = { s with boot := boot } := by
  unfold noteLoss
  split
  · exact ⟨_, rfl⟩
  · exact ⟨s.boot, rfl⟩

/-- The journal's tail committed, the zeroisation's outcome noted; power, the queue of commands and the Vault stay. -/
structure HeldUp (zeroVerified : Bool) (s t : State) : Prop where
  pw : t.pw = s.pw
  pending : t.pending = s.pending
  st : t.st = (commitTail s).st
  zeroOk : t.boot.zeroOk = zeroVerified
  holdUpRan : t.boot.holdUpRan = true

theorem heldUp_heldUp (zv : Bool) (s : State) : HeldUp zv s (heldUp zv s) := by
  have zeroed := (zeroKeys_sansMassif (zeroClaims s)).trans (zeroClaims_sansMassif s)
  have same : ∀ (u : State) {boot : Boot}, sansMassif u = { sansMassif s with boot := boot } → HeldUp zv s (commitTail { u with
      boot := { failTrial u.boot with
        rechoose := true, holdUpRan := true, mainLost := false
        zeroOk := zv && true, zeroUnv := !true
        journalLost := u.boot.journalLost || !true } }) := fun u _ hu =>
    ⟨(congrArg State.pw hu :), (congrArg State.pending hu :), (congrArg (fun v => (commitTail v).st) hu :), Bool.and_true zv, rfl⟩
  obtain ⟨boot, noted⟩ := noteLoss_only 2 (zeroKeys (zeroClaims s))
  unfold heldUp
  dsimp only
  rw [noted]
  have : sansMassif { zeroKeys (zeroClaims s) with boot := boot } = { sansMassif s with boot := boot } :=
    (congrArg (fun v : State => { v with boot := boot }) zeroed :)
  exact same _ this

theorem powerReleased_only (s : State) : ∃ fences, powerReleased s = { s with wd := { s.wd with powerFenced := fences } } := by
  unfold powerReleased
  split
  · exact ⟨_, rfl⟩
  · exact ⟨s.wd.powerFenced, rfl⟩

/-! ### The bank and the auxiliary connector (R37, 2.1.1) -/

/-- The bank's measurement noted. -/
def bankNoted (ok : Bool) (s : State) : State := { s with pw := { s.pw with holdupOk := ok } }

section
variable {s : State} (hl : s.live = true)
include hl

section
variable (hu : s.boot.up = true) {mJ : Nat}
include hu

theorem exec_holdupBankCheck_covers (hm : 1400 ≤ mJ) : exec (.holdupBankCheck mJ) s
    = .next (if s.pw.rdy then busyOff 1 (bankNoted true s) else bankNoted true s) := by
  change Host.Outcome.next _ = _
  rw [if_neg (by simp [hl, hu]), checkBank, if_pos hm]
  rfl

theorem exec_holdupBankCheck_short (hm : mJ < 1400) : exec (.holdupBankCheck mJ) s
    = .next (commitTail (raiseEvent 0x0102 0xFF (BitVec.ofNat 32 mJ) 0 (bankNoted false s))) := by
  have no : (raiseEvent 0x0102 0xFF (BitVec.ofNat 32 mJ) 0 (bankNoted false s)).pw.holdupOk = false :=
    (congrArg (fun v : State => v.pw.holdupOk) (raiseEvent_quiet _ _ _ _ _) :)
  change Host.Outcome.next _ = _
  rw [if_neg (by simp [hl, hu]), checkBank, if_neg (Nat.not_le_of_lt hm)]
  exact congrArg Host.Outcome.next (if_neg (ne_true_of_eq_false no))

end

theorem exec_auxConnectorSense_absent : exec (.auxConnectorSense .absent) s
    = .next (askStep (busyOn 6 { s with pw := { s.pw with aux := .absent } })) := congrArg Host.Outcome.next (if_pos hl)

end

/-- RB_N busy with the cause, whatever it was before. -/
theorem busyOn_only (cause : BitVec 4) (s : State) : ∃ bus since pulsed, busyOn cause s = { s with
    bus := bus
    pw := { s.pw with
      busy := true, causes := setBit s.pw.causes cause.toNat true, busySince := since, pulsed := pulsed } } := by
  unfold busyOn
  dsimp only
  split
  next h => exact ⟨s.bus, s.pw.busySince, s.pw.pulsed, by rw [← h]⟩
  next => exact ⟨_, _, _, rfl⟩

/-- The cause taken away. -/
theorem busyOff_only {cause : BitVec 4} (hc : cause.toNat < 8) (s : State) : ∃ causes last,
    busyOff cause s = { s with pw := { s.pw with causes := causes, lastCause := last } } ∧ bit causes cause.toNat = false := by
  unfold busyOff
  split
  · exact ⟨_, _, rfl, by rw [bit_setBit _ _ _ hc, if_pos rfl]⟩
  next h => exact ⟨s.pw.causes, s.pw.lastCause, rfl, Bool.eq_false_of_not_eq_true h⟩

theorem headCmd_absent {s : State} (h : s.pw.aux = .absent) (r : Ring) : headCmd s r = none := by
  have still : s.running = false := by
    rw [State.running, h]
    simp
  exact if_pos (.inl still)

/-- Settles O31: the hold-up sequence, the check of its bank, and the auxiliary connector. -/
theorem holdUpKeepsVaultLosesKeys : Obligations.HoldUpKeepsVaultLosesKeys := by
  refine ⟨fun s zv hp hs hr => ?_, fun s hl hu => ⟨fun mJ hm => ?_, fun mJ hm => ?_, ?_⟩⟩
  · have step := exec_holdUpSequence zv hp hs hr
    obtain ⟨pw, pending, st, zeroOk, ran⟩ := heldUp_heldUp zv s
    generalize heldUp zv s = u at step pw pending st zeroOk ran
    obtain ⟨fences, released⟩ := powerReleased_only (freshState (afterHoldUp u) false u)
    rw [released] at step
    obtain ⟨slotA, slotB, dropped⟩ := dropUpdate_only u.boot
    have boot := freshState_boot (afterHoldUp u) false u
    have store := freshState_st (afterHoldUp u) false u
    have reset := freshState_dataPathReset (afterHoldUp u) false u
    obtain ⟨-, -, rings, loaded, -, -, mem, queued⟩ := reset
    rw [dropped] at boot
    refine ⟨_, step, ?_, freshState_key_empty _ u, fun r => ⟨(rings r).1, (rings r).2.2.1⟩, loaded, mem, ?_, ?_, ?_,
      (congrArg Boot.zeroOk boot).trans zeroOk, (congrArg Boot.holdUpRan boot).trans ran, queued.trans pending⟩
    · change (freshState (afterHoldUp u) false u).pw.phase = _
      rw [freshState_pw, keptPower, afterHoldUp, pw]
    · exact (congrArg Store.vault store).trans (congrArg Store.vault st :)
    · exact (congrArg Store.baseVault store).trans (congrArg Store.baseVault st :)
    · exact (congrArg Store.journal store).trans (congrArg Store.journal st :)
  · have step := exec_holdupBankCheck_covers hl hu hm
    obtain ⟨causes, last, off, clear⟩ := busyOff_only (cause := 1) (by decide) (bankNoted true s)
    cases hr : s.pw.rdy with
    | true =>
      rw [hr, if_pos rfl, off] at step
      exact ⟨_, step, rfl, fun _ => clear, fun k => absurd k (by decide), rfl, rfl, rfl, storeKept_of_st rfl⟩
    | false =>
      rw [hr, if_neg (by decide)] at step
      exact ⟨_, step, rfl, fun k => absurd k (by decide), fun _ => rfl, rfl, rfl, rfl, storeKept_of_st rfl⟩
  · have q := raiseEvent_quiet 0x0102 0xFF (BitVec.ofNat 32 mJ) 0 (bankNoted false s)
    have step := exec_holdupBankCheck_short hl hu hm
    generalize raiseEvent 0x0102 0xFF (BitVec.ofNat 32 mJ) 0 (bankNoted false s) = u at q step
    have st : u.st = s.st := (congrArg State.st q :)
    exact ⟨_, step, (congrArg (fun v : State => v.pw.holdupOk) q :), rfl, (congrArg Store.vault st :), (congrArg Store.vault st :),
      (congrArg Store.mem st :), (congrArg State.rings q :)⟩
  · obtain ⟨bus, since, pulsed, on⟩ := busyOn_only 6 { s with pw := { s.pw with aux := .absent } }
    have step := exec_auxConnectorSense_absent hl
    rw [on] at step
    exact ⟨_, step, rfl, rfl, (bit_setBit s.pw.causes 6 true (by decide)).trans (if_pos rfl), headCmd_absent rfl, rfl,
      storeKept_of_st rfl⟩

end Sys2Proof.Proofs

/-! Bring-up from power to readiness (03). -/

namespace Sys2Proof.Proofs

open Sys2Proof Sys2Proof.Machine Sys2Proof.Safety Sys2Proof.Laws

/-! ### The supplies and RDY (R43, R44) -/

/-- The engine on 3.3 Vaux alone, its endpoint at its reset values. -/
def onVaux (maddr : BitVec 3) (s : State) : State :=
  emit (.rbBusy true) { s with
    pw := { s.pw with
      phase := .vaux, vauxOn := true, maddr := maddr, busy := true, busySince := s.now, causes := 2, pulsed := false }
    boot := { s.boot with nextCause := some (0, 0), rechoose := true }
    wd := { s.wd with powerFenced := [] }
    mg := { waiting := s.mg.waiting } }

theorem exec_auxPowerUp {s : State} (m : BitVec 3) (hl : s.live = false) (hp : s.pw.phase ≠ .holdUp) :
    exec (.auxPowerUp m) s = .next (onVaux m s) :=
  congrArg Host.Outcome.next (if_neg (not_or.mpr ⟨ne_true_of_eq_false hl, hp⟩))

theorem exec_mainPowerReturn_off {s : State} (h : s.pw.phase = .off) :
    exec .mainPowerReturn s = .next { s with pw := { s.pw with mainOn := true, phase := .waitRelease } } := by
  change Host.Outcome.next _ = _
  rw [if_pos h]

/-- The engine running: RDY reads 1, and the watchdog's retained window starts (R44, R369). -/
def nowReady (s : State) : State :=
  { s with
    pw := { s.pw with phase := .ready, rdy := true }
    boot := { s.boot with fails := 0 }
    wd := { s.wd with
      since := s.now, window := 1000 * s.wd.windowS.toNat, bringUp := false, warn := false, rdyAt := s.now
      confirmFrom := if s.boot.trial then some s.now else none } }

theorem exec_rdy {s : State} (hp : s.pw.phase = .bringUp) (hu : s.boot.up = true) (ha : s.pw.aux ≠ .absent) (ho : s.st.op.st ≠ 1) :
    exec .rdy s = .next (if s.pw.holdupOk then busyOff 1 (nowReady s) else nowReady s) := by
  have still : resumeOp (nowReady s) = nowReady s := if_neg ho
  change Host.Outcome.next _ = _
  rw [if_neg (not_or.mpr ⟨not_not_intro hp, not_or.mpr ⟨by rw [hu]; decide, ha⟩⟩)]
  exact congrArg (fun u : State => Host.Outcome.next (if s.pw.holdupOk then busyOff 1 u else u)) still

/-! ### The steps of a reset release with nothing lost (Table 3-2) -/

/-- With A ACTIVE, B EMPTY and both sound, some slot is chosen, and the record's slots stay as they were (R57). -/
theorem bootSlot_clean {x : Boot} (ha : x.slotA.st = 2) (hb : x.slotB.st = 0) : ∃ fails bootB trial fallback,
    bootSlot true true x = some { x with fails := fails, bootB := bootB, trial := trial, fallback := fallback } := by
  unfold bootSlot
  by_cases keep : x.rechoose = false ∧ x.cause ≠ 0 ∧ (if x.bootB then true else true)
  · exact ⟨x.fails, x.bootB, x.trial, x.fallback, if_pos keep⟩
  · have keepA : failLowSvn false x = x := if_neg fun k => by
      have : x.slotA.st = 3 := k.1
      rw [ha] at this
      exact absurd this (by decide)
    have keepB : failLowSvn true x = x := if_neg fun k => by
      have : x.slotB.st = 3 := k.1
      rw [hb] at this
      exact absurd this (by decide)
    have chosen : chooseSlot true true x = some (false, false, false) := by
      unfold chooseSlot
      simp [Boot.slot, ha, hb]
    rw [if_neg keep, keepA, keepB]
    dsimp only
    rw [chosen]
    exact ⟨_, _, _, _, rfl⟩

theorem validRecord_newest {l : List (Nat × Record)} {x : Record} (h : l.head?.map (·.2) = some x) : validRecord 0 l = some x := by
  cases l with
  | nil => cases h
  | cons p l =>
    rw [validRecord, List.find?_cons_of_pos (by simp [bit])]
    exact h

theorem deferSectors_none (r : Ring) (cause : Nat) (s : State) : deferSectors r cause [] s = s := by
  simp [deferSectors, runs]

/-- With no sector lost, nothing is reported and the tail is committed (R47, R309). -/
theorem reportLoss_clean {s : State} (hl : s.st.lostSectors = []) (ht : s.st.tailSecs = []) : reportLoss s
    = commitTail { s with
        st := { s.st with lostSectors := [], tailSecs := [] }
        boot := { s.boot with lossCause := 0, journalLost := false } } := by
  unfold reportLoss
  rw [foldl_still]
  intro r _
  dsimp only
  rw [ht, hl]
  simp only [List.filter_nil, List.map_nil, deferSectors_none]

theorem trainChannels_clean {s : State} (h : s.st.chFailed = 0) : trainChannels 0 s = { s with
    st := { s.st with chInUse := 0xFF, chFailed := 0 }, boot := { s.boot with chLost := 0 } } := by
  unfold trainChannels
  rw [h]
  exact foldl_still fun n _ => if_neg (by simp [bit])

theorem checkBank_full {s : State} {mJ : Nat} (h : 1400 ≤ mJ) : checkBank mJ s = { s with pw := { s.pw with holdupOk := true } } :=
  if_pos h

theorem applySettings_clean {b : BootIn} {s : State} {x : Record} (hf : b.frstLow = false) (hb : b.badRecords = 0)
    (hs : s.boot.stored.head?.map (·.2) = some x) (hc : s.boot.factoryCmd = false) :
    applySettings b s = { applyRecord x s with
      boot := { (applyRecord x s).boot with retSrc := 0, factoryDone := false, factoryCmd := false } } := by
  unfold applySettings
  dsimp only
  rw [hf, if_neg (by decide), hb, validRecord_newest hs]
  dsimp only
  rw [hc]
  rfl

/-! ### The whole of bring-up -/

/-- The state as the steps of Table 3-2 find it, `chosen` the boot block of the slot chosen. -/
def begunBringUp (b : BootIn) (chosen : Boot) (s : State) : State :=
  startWatchdog { s with
    pw := { s.pw with
      phase := .bringUp, causes := 2, frstLow := b.frstLow, perstEdge := false, perstN := false, clkFailed := false }
    boot := { chosen with
      cause := (s.boot.nextCause.getD (0, 0)).1, nextCause := none, rechoose := false, up := true, epoch := s.boot.epoch + 1
      powerLoss := s.boot.holdUpRan, holdUpRan := false, clkFailSeen := false } }

/-- The events of the cause and of a lost reference clock. -/
def bringUpEvents (s u : State) : State :=
  let s2 := raiseEvent 0x0201 0xFF (BitVec.ofNat 32 (s.boot.nextCause.getD (0, 0)).1.toNat) (s.boot.nextCause.getD (0, 0)).2 u
  if s.boot.clkFailSeen then raiseEvent 0x0103 0xFF 0 0 s2 else s2

theorem bringUpEvents_quiet (s u : State) : quiet (bringUpEvents s u) = quiet u := by
  unfold bringUpEvents
  dsimp only
  split
  · exact (raiseEvent_quiet _ _ _ _ _).trans (raiseEvent_quiet _ _ _ _ _)
  · exact raiseEvent_quiet _ _ _ _ _

/-- Capacity, views and the clock's step at the end of bring-up. -/
def bringUpAccounts (s : State) : State := askStep (refreshView (recap (reportLink s)))

/-- The steps of Table 3-2 between the events and the accounts, with every bank, channel, record and sector sound. -/
def bringUpSteps (b : BootIn) (u : State) : State :=
  applySettings b (reportLoss (rebuildVault false (checkBank b.bankmJ (trainChannels b.chFail u))))

/-- What bring-up has reached just before RDY with record `x` (R51, R52). -/
structure BroughtUp (s : State) (x : Record) (t : State) : Prop where
  phase : t.pw.phase = .bringUp
  holdupOk : t.pw.holdupOk = true
  up : t.boot.up = true
  epoch : t.boot.epoch = s.boot.epoch + 1
  cause : t.boot.cause = (s.boot.nextCause.getD (0, 0)).1
  nextCause : t.boot.nextCause = none
  retSrc : t.boot.retSrc = 0
  chInUse : t.st.chInUse = 0xFF
  vault : t.st.vault = s.st.vault
  windowS : t.wd.windowS = x.windowS
  tenants : t.tenants = x.tenants
  rings : ∀ r : Ring, t.rings[r].durable = x.rings[r].durable ∧ t.rings[r].tagCap = x.rings[r].tagCap

theorem bringUpAccounts_broughtUp {s u : State} {x : Record} (h : BroughtUp s x u) : BroughtUp s x (bringUpAccounts u) := by
  obtain ⟨cfg, mg, view⟩ := refreshView_only (recap (reportLink u))
  have same : unadmitted (recap (reportLink u)) = unadmitted u := (recap_unadmitted _).trans
    (congrArg (fun v : State => { v with adm := Vector.replicate 7 {} }) (reportLink_quiet u) :)
  unfold bringUpAccounts
  rw [view]
  generalize recap (reportLink u) = v at same
  constructor
  case phase => exact (congrArg (fun v : State => v.pw.phase) same :).trans h.phase
  case holdupOk => exact (congrArg (fun v : State => v.pw.holdupOk) same :).trans h.holdupOk
  case up => exact (congrArg (fun v : State => v.boot.up) same :).trans h.up
  case epoch => exact (congrArg (fun v : State => v.boot.epoch) same :).trans h.epoch
  case cause => exact (congrArg (fun v : State => v.boot.cause) same :).trans h.cause
  case nextCause => exact (congrArg (fun v : State => v.boot.nextCause) same :).trans h.nextCause
  case retSrc => exact (congrArg (fun v : State => v.boot.retSrc) same :).trans h.retSrc
  case chInUse => exact (congrArg (fun v : State => v.st.chInUse) same :).trans h.chInUse
  case vault => exact (congrArg (fun v : State => v.st.vault) same :).trans h.vault
  case windowS => exact (congrArg (fun v : State => v.wd.windowS) same :).trans h.windowS
  case tenants => exact (congrArg (fun v : State => v.tenants) same :).trans h.tenants
  case rings =>
    have rings : v.rings = u.rings := (congrArg State.rings same :)
    intro r
    change v.rings[r].durable = _ ∧ v.rings[r].tagCap = _
    rw [rings]
    exact h.rings r

section
variable {s : State} {b : BootIn} (h : Pre.release s b)
include h

/-- The middle steps: channels trained, the bank full, nothing lost, and the record live. -/
theorem bringUpSteps_broughtUp {chosen : Boot} (hc : chosen.stored = s.boot.stored ∧ chosen.factoryCmd = s.boot.factoryCmd) {u : State}
    (hu : quiet u = quiet (begunBringUp b chosen s)) : BroughtUp s s.boot.record (bringUpSteps b u) := by
  obtain ⟨-, -, -, -, -, -, chFail, chFailed, bank, bad, stored, frst, -, -, factory, lost, -, -, -⟩ := h
  have failed : u.st.chFailed = 0 := (congrArg (fun v : State => v.st.chFailed) hu :).trans chFailed
  have lost : u.st.lostSectors = [] := (congrArg (fun v : State => v.st.lostSectors) hu :).trans lost
  have stored : u.boot.stored.head?.map (·.2) = some s.boot.record := by
    have : u.boot.stored = chosen.stored := (congrArg (fun v : State => v.boot.stored) hu :)
    rw [this, hc.1, stored]
  have factory : u.boot.factoryCmd = false := by
    have : u.boot.factoryCmd = chosen.factoryCmd := (congrArg (fun v : State => v.boot.factoryCmd) hu :)
    rw [this, hc.2, factory]
  unfold bringUpSteps
  rw [chFail, trainChannels_clean failed, checkBank_full (by rw [bank]; decide)]
  unfold rebuildVault
  rw [if_neg (by decide), reportLoss_clean, applySettings_clean frst bad]
  case hl => exact lost
  case ht => rfl
  case hs => exact stored
  case hc => exact factory
  constructor
  case phase => exact (congrArg (fun v : State => v.pw.phase) hu :)
  case holdupOk => rfl
  case up => exact (congrArg (fun v : State => v.boot.up) hu :)
  case epoch => exact (congrArg (fun v : State => v.boot.epoch) hu :)
  case cause => exact (congrArg (fun v : State => v.boot.cause) hu :)
  case nextCause => exact (congrArg (fun v : State => v.boot.nextCause) hu :)
  case retSrc => rfl
  case chInUse => rfl
  case vault => exact (congrArg (fun v : State => v.st.vault) hu :)
  case windowS => rfl
  case tenants => rfl
  case rings =>
    intro r
    simp [applyRecord]

theorem trained_channels {chosen : Boot} {u : State} (hu : quiet u = quiet (begunBringUp b chosen s)) :
    (checkBank b.bankmJ (trainChannels b.chFail u)).st.chInUse = 0xFF := by
  obtain ⟨-, -, -, -, -, -, chFail, chFailed, bank, -⟩ := h
  have failed : u.st.chFailed = 0 := (congrArg (fun v : State => v.st.chFailed) hu :).trans chFailed
  rw [chFail, trainChannels_clean failed, checkBank_full (by rw [bank]; decide)]

theorem exec_resetRelease : ∃ chosen : Boot, chosen.stored = s.boot.stored ∧ chosen.factoryCmd = s.boot.factoryCmd
    ∧ exec (.resetRelease b) s = .next (bringUpAccounts (bringUpSteps b (bringUpEvents s (begunBringUp b chosen s)))) := by
  have pre := h
  obtain ⟨main, vaux, phase, aux, okA, okB, -, -, -, -, -, -, lost, lost', -, -, -, slotA, slotB⟩ := h
  obtain ⟨fails, bootB, trial, fallback, chosen⟩ :=
    bootSlot_clean (x := { s.boot with cause := (s.boot.nextCause.getD (0, 0)).1 }) slotA slotB
  obtain ⟨boot, hboot⟩ : ∃ boot : Boot, boot = { s.boot with
    cause := (s.boot.nextCause.getD (0, 0)).1, fails := fails, bootB := bootB, trial := trial, fallback := fallback } := ⟨_, rfl⟩
  refine ⟨boot, by rw [hboot], by rw [hboot], ?_⟩
  have channels := trained_channels pre (bringUpEvents_quiet s (begunBringUp b boot s))
  have steps : bringUp b s = bringUpAccounts (bringUpSteps b (bringUpEvents s (begunBringUp b boot s))) := by
    unfold bringUp
    dsimp only
    rw [okA, okB, chosen.trans (congrArg some hboot.symm), lost, lost']
    refine if_neg (not_or.mpr ⟨Bool.false_ne_true, ?_⟩)
    intro none
    have : (0xFF : Byte) = 0 := channels.symm.trans none
    exact absurd this (by decide)
  change Host.Outcome.next _ = _
  rw [if_neg (by rw [main, vaux, phase]; simp), if_neg aux, steps]

end

/-- Settles O33: 3.3 Vaux, main power, a clean reset release and RDY. -/
theorem bringUpReachesReady : Obligations.BringUpReachesReady := by
  refine ⟨fun s m hl hp => ⟨_, exec_auxPowerUp m hl hp, rfl, rfl, rfl, rfl, storeKept_of_st rfl⟩, fun s => exec_mainPowerReturn_off,
    fun s b h => ?_, fun s hp hu ha ho hb => ?_, fun s hp hu ha ho hb => ?_⟩
  · obtain ⟨chosen, hs, hf, step⟩ := exec_resetRelease h
    have t := bringUpAccounts_broughtUp (bringUpSteps_broughtUp h ⟨hs, hf⟩ (bringUpEvents_quiet s (begunBringUp b chosen s)))
    exact ⟨_, step, t.phase, t.up, t.epoch, t.cause, t.nextCause, t.chInUse, t.holdupOk, t.windowS, t.tenants, t.retSrc, t.rings, t.vault⟩
  · have step := exec_rdy hp hu ha ho
    rw [if_neg (ne_true_of_eq_false hb)] at step
    exact ⟨_, step, ⟨rfl, rfl⟩, rfl, rfl⟩
  · have step := exec_rdy hp hu ha ho
    obtain ⟨causes, last, off, clear⟩ := busyOff_only (cause := 1) (by decide) (nowReady s)
    rw [if_pos hb, off] at step
    exact ⟨_, step, ⟨rfl, rfl⟩, rfl, rfl, rfl, rfl, clear, rfl, storeKept_of_st rfl⟩

end Sys2Proof.Proofs

/-! What leaves over the Pair link: packets, signals and the timers of a session (16). -/

namespace Sys2Proof.Proofs

open Sys2Proof Sys2Proof.Machine Sys2Proof.Safety Sys2Proof.Laws

/-! ### A packet leaves (R324) -/

/-- The packet of type `ty` as entry `e` sends it now. -/
def packetOf (e : Peer) (ty : Nat) (psn : Word) (payload : List Byte) (s : State) : BusOut :=
  .pair e.val (pairPacket ty (if ty = 1 then 0 else s.pair.peers[e].peerNonce.getD 0) psn s.pair.peers[e].rxPsn
    (s.pw.pstate == .nap) payload)

theorem pairEmit_eq (e : Peer) (ty : Nat) (psn : Word) (payload : List Byte) (s : State) : pairEmit e ty psn payload s
    = emit (packetOf e ty psn payload s) (s.onPeer e fun p => { p with lastTx := s.now }) := rfl

theorem pairEmit_peer (e : Peer) (ty : Nat) (psn : Word) (payload : List Byte) (s : State) :
    (pairEmit e ty psn payload s).pair.peers[e] = { s.pair.peers[e] with lastTx := s.now } := State.onPeer_same s e _

theorem pairEmit_other {e f : Peer} (h : f ≠ e) (ty : Nat) (psn : Word) (payload : List Byte) (s : State) :
    (pairEmit e ty psn payload s).pair.peers[f] = s.pair.peers[f] := State.onPeer_other s e _ f h

theorem pairRelease_peer (e : Peer) (k : PairPkt) (before after : List PairPkt) (s : State) :
    (pairRelease e k before after s).pair.peers[e] = { s.pair.peers[e] with
      out := before ++ { k with psn := s.pair.peers[e].nextPsn, sent := true, since := s.now, sentAt := s.now } :: after
      nextPsn := s.pair.peers[e].nextPsn + 1, lastTx := s.now } := by
  unfold pairRelease
  dsimp only
  rw [pairEmit_peer, State.onPeer_same]
  rfl

theorem pairRelease_other {e f : Peer} (h : f ≠ e) (k : PairPkt) (before after : List PairPkt) (s : State) :
    (pairRelease e k before after s).pair.peers[f] = s.pair.peers[f] := by
  unfold pairRelease
  dsimp only
  rw [pairEmit_other h, State.onPeer_other _ _ _ _ h]

theorem pairRelease_bus (e : Peer) (k : PairPkt) (before after : List PairPkt) (s : State) :
    (pairRelease e k before after s).bus = s.bus ++ [packetOf e k.ty s.pair.peers[e].nextPsn k.payload s] := by
  unfold pairRelease packetOf
  dsimp only
  rw [pairEmit_eq, packetOf]
  simp only [emit, State.onPeer_bus, State.onPeer_same, State.onPeer_pw]

theorem splitUnsent_first {before : List PairPkt} {k : PairPkt} (hk : k.sent = false) (after acc : List PairPkt)
    (h : before.all (·.sent) = true) : splitUnsent acc (before ++ k :: after) = some (acc ++ before, k, after) := by
  induction before generalizing acc with
  | nil =>
    rw [List.nil_append, splitUnsent, if_neg (ne_true_of_eq_false hk), List.append_nil]
  | cons b before ih =>
    obtain ⟨hb, h⟩ := by simpa using h
    rw [List.cons_append, splitUnsent, if_pos hb, ih (acc ++ [b]) (by simpa using h), List.append_assoc, List.singleton_append]

section
variable {s : State} {e : Peer} (hh : s.pw.phase ≠ .holdUp)
include hh

section
variable (hu : s.pair.peers[e].sess = .up) (hn : s.pair.peers[e].inFlight < 4096)
include hu hn

theorem exec_pairTransmit {before : List PairPkt} {k : PairPkt} {after : List PairPkt} (ho : s.pair.peers[e].out = before ++ k :: after)
    (hb : before.all (·.sent) = true) (hk : k.sent = false) :
    exec (.pairTransmit e) s = .next (pairRelease e k before after s) := by
  change Host.Outcome.next _ = _
  rw [if_neg (not_or.mpr ⟨hh, not_or.mpr ⟨not_not_intro hu, Nat.not_le_of_lt hn⟩⟩), ho, splitUnsent_first hk after [] hb]
  rfl

/-- The signal taken from those that wait to be forwarded, with the entry's next sequence number. -/
def forwarding (e : Peer) (rest : List (Nat × Word)) (s : State) : State :=
  s.onPeer e fun p => { p with fwd := rest, sigSeq := p.sigSeq + 1, sigWait := p.sigWait ++ [p.sigSeq] }

theorem exec_pairSignalForward {c : Nat} {add : Word} {rest : List (Nat × Word)} (hf : s.pair.peers[e].fwd = (c, add) :: rest)
    (ho : s.pair.peers[e].out = []) : exec (.pairSignalForward e) s
      = .next (pairRelease e { ty := 0x20, payload := signalPayload c add s.pair.peers[e].sigSeq } [] [] (forwarding e rest s)) := by
  change Host.Outcome.next _ = _
  rw [if_neg (not_or.mpr ⟨hh, not_or.mpr ⟨not_not_intro hu, not_or.mpr ⟨Nat.not_le_of_lt hn, by rw [ho]; decide⟩⟩⟩), hf, ho]
  rfl

end

/-! ### Timers (R319, R320, R324, R325) -/

theorem exec_ackTimer (hu : s.pair.peers[e].unacked ≠ 0) (hd : s.pair.peers[e].sess ≠ .down) :
    exec (.ackTimer e) s = .next (sendAck e s) := congrArg Host.Outcome.next (if_neg (not_or.mpr ⟨hh, not_or.mpr ⟨hu, hd⟩⟩))

theorem exec_heartbeatTimer (hu : s.pair.peers[e].sess = .up) (hd : s.pair.peers[e].doze = false) : exec (.heartbeatTimer e) s
    = .next (pairSend e 3 [] (advanceTo (s.pair.peers[e].lastTx + 100 * s.pair.peers[e].cfg.liveMs.toNat) s)) :=
  congrArg Host.Outcome.next (if_neg (not_or.mpr ⟨hh, not_or.mpr ⟨not_not_intro hu, ne_true_of_eq_false hd⟩⟩))

theorem exec_helloTimer (ho : s.pair.peers[e].sess = .opening ∨ s.pair.peers[e].sess = .lost) : exec (.helloTimer e) s
    = .next (pairSend e 1 (helloPayload s e) (advanceTo (s.pair.peers[e].lastTx + 100000) s)) :=
  congrArg Host.Outcome.next (if_pos ⟨hh, ho⟩)

theorem exec_retransmitTimer {psn : Word} {k : PairPkt} (h : Pre.retx s e psn k) : exec (.retransmitTimer e psn) s
    = .next (if k.since + 1000 * s.pair.peers[e].cfg.liveMs.toNat ≤ max s.now (k.sentAt + retxAfter k.tries)
        then loseSession e (advanceTo (k.sentAt + retxAfter k.tries) s)
        else resendPkt e k (advanceTo (k.sentAt + retxAfter k.tries) s)) := by
  obtain ⟨hu, ho, sent, hpsn⟩ := h
  have found : s.pair.peers[e].out.find? (fun k => k.sent && k.psn == psn) = some k := by
    rw [ho, List.find?_cons_of_pos (by simp [sent, hpsn])]
  change Host.Outcome.next _ = _
  rw [found]
  exact congrArg Host.Outcome.next (if_neg (not_or.mpr ⟨hh, not_not_intro hu⟩))

theorem exec_pairLost (hu : s.pair.peers[e].sess = .up) (hn : s.pw.pstate ≠ .nap) : exec (.pairLost e) s
    = .next (loseSession e (advanceTo (s.pair.peers[e].lastRx + 1000 * s.pair.peers[e].cfg.liveMs.toNat) s)) :=
  congrArg Host.Outcome.next (if_neg (not_or.mpr ⟨hh, not_or.mpr ⟨not_not_intro hu, hn⟩⟩))

theorem exec_pairSessionTimeout {y : Transfer} (hy : s.pair.peers[e].xfers = [y]) (ho : y.opened = false)
    (hu : s.pair.peers[e].sess ≠ .up) : exec (.pairSessionTimeout e) s
      = .next (endXfer e y 0x60 (advanceTo (y.since + 1000 * s.pair.peers[e].cfg.liveMs.toNat) s)) := by
  have found : s.pair.peers[e].xfers.find? (fun t => !t.opened) = some y := by
    rw [hy, List.find?_cons_of_pos (by rw [ho]; rfl)]
  change Host.Outcome.next _ = _
  rw [found]
  exact congrArg Host.Outcome.next (if_neg (not_or.mpr ⟨hh, hu⟩))

end

theorem exec_pairLost_nap {s : State} (e : Peer) (hn : s.pw.pstate = .nap) : exec (.pairLost e) s = .next s :=
  congrArg Host.Outcome.next (if_pos (.inr (.inr hn)))

/-! ### What a lost session and a packet sent again leave -/

theorem loseSession_lost {s : State} {e : Peer} (h : s.pair.peers[e].sess = .up) : (loseSession e s).pair.peers[e].sess = .lost
    ∧ (loseSession e s).now = s.now ∧ (loseSession e s).rings = s.rings ∧ (loseSession e s).st = s.st := by
  unfold loseSession
  rw [if_pos h]
  have k := raiseEvent_kept 0x0801 0xFF (BitVec.ofNat 32 e.val) 0 (s.onPeer e fun p => { p with sess := .lost })
  exact ⟨by rw [k.pair, State.onPeer_same], k.now, k.rings, k.st⟩

theorem resendPkt_peer (e : Peer) (k : PairPkt) (s : State) : ∃ xfers, (resendPkt e k s).pair.peers[e] = { s.pair.peers[e] with
    retx := satAdd s.pair.peers[e].retx 1
    out := s.pair.peers[e].out.map fun q =>
      if q.sent ∧ q.psn = k.psn then { q with tries := q.tries + 1, sentAt := s.now } else q
    xfers := xfers, lastTx := s.now } := by
  unfold resendPkt
  dsimp only
  rw [pairEmit_peer, State.onPeer_same]
  exact ⟨_, rfl⟩

/-! ### A command that waits on the link ends (R325, R329) -/

theorem pairOutcome_owner {s : State} {r : Ring} {c : Cmd} (hf : s.rings[r].find c.cid = some c) (hop : c.op = 0x20) (o : Outc) :
    pairOutcome (some (r, c.cid)) o s = pushEntry r c o s := by
  unfold pairOutcome
  dsimp only
  rw [hf]
  exact if_neg (by rw [hop]; decide)

/-- A PAIR_SYNC that waits on the link completes; its ring and the link's counts apart nothing changes. -/
theorem pairOutcome_completes {s : State} {r : Ring} {c : Cmd} (hf : s.rings[r].find c.cid = some c) (hop : c.op = 0x20)
    (ht : c.trunc = none) {status : Byte} (hd : status ≠ stDISCARDED) (d0 d1 : Nat) :
    let t := pairOutcome (some (r, c.cid)) { status := status, d0 := d0, d1 := d1 } s
    Answered s t r c status (BitVec.ofNat 64 d0) (BitVec.ofNat 32 d1) ∧ OtherRings s t r ∧ t.st = s.st ∧ t.pair = s.pair
      ∧ t.now = s.now := by
  dsimp only
  rw [pairOutcome_owner hf hop]
  have ring := complete_ring (d0 := d0) (d1 := d1) hf ht (by simp [usesArray, hop]) hd
  refine ⟨answered_of_ring ring, fun q hq => pushEntry_others _ _ _ _ q hq, pushEntry_st _ _ _ _, ?_, ?_⟩
  · rw [pushEntry_last hf (by rw [hop]; decide) rfl]
    rfl
  · rw [pushEntry_last hf (by rw [hop]; decide) rfl]
    rfl

theorem dropXfer_peer (e : Peer) (xfer : Word) (sending : Bool) (s : State) : (dropXfer e xfer sending s).pair.peers[e]
    = { s.pair.peers[e] with xfers := s.pair.peers[e].xfers.filter (fun t => !(t.xfer == xfer && t.sending == sending)) } :=
  State.onPeer_same s e _

theorem sendAck_peer (e : Peer) (s : State) :
    (sendAck e s).pair.peers[e] = { s.pair.peers[e] with unacked := 0, lastTx := s.now } := by
  unfold sendAck pairSend
  rw [pairEmit_peer, State.onPeer_same]
  rfl

theorem sendAck_bus (e : Peer) (s : State) :
    (sendAck e s).bus = s.bus ++ [packetOf e 5 s.pair.peers[e].nextPsn (ackPayload s.pair.peers[e]) s] := by
  unfold sendAck pairSend
  rw [pairEmit_eq, packetOf, packetOf]
  simp only [emit, State.onPeer_bus, State.onPeer_same, State.onPeer_pw]

theorem abortTap_sansMassif (tap : Tap) (s : State) : sansMassif (abortTap tap s) = sansMassif s := by
  unfold abortTap
  rw [foldl_keeps sansMassif]
  exact fun _ _ => rfl

/-- What a transfer's end leaves of the rest: its command answered, the transfer gone (R326, R329). -/
theorem endXfer_completes {s : State} {r : Ring} {c : Cmd} {y : Transfer} (e : Peer) (reason : Nat) (hy : y.owner = some (r, c.cid))
    (hf : s.rings[r].find c.cid = some c) (hop : c.op = 0x20) (ht : c.trunc = none) :
    Answered s (endXfer e y reason s) r c stREFUSED (BitVec.ofNat 64 reason) 0 ∧ OtherRings s (endXfer e y reason s) r
      ∧ (endXfer e y reason s).st = s.st ∧ (endXfer e y reason s).now = s.now ∧ (endXfer e y reason s).pair.peers[e].xfers
        = s.pair.peers[e].xfers.filter (fun t => !(t.xfer == y.xfer && t.sending == y.sending)) := by
  obtain ⟨u, hu, same⟩ : ∃ u, u = (if y.sending || y.secs.isEmpty then s else abortTap .pairRx s) ∧ sansMassif u = sansMassif s := by
    refine ⟨_, rfl, ?_⟩
    split
    · rfl
    · exact abortTap_sansMassif _ s
  have rings : u.rings = s.rings := (congrArg State.rings same :)
  have found : (dropXfer e y.xfer y.sending u).rings[r].find c.cid = some c := by
    change u.rings[r].find c.cid = some c
    rw [rings, hf]
  have done := pairOutcome_completes found hop ht (status := stREFUSED) (by decide) reason 0
  have ended : endXfer e y reason s = pairOutcome (some (r, c.cid)) { status := stREFUSED, d0 := reason }
      (dropXfer e y.xfer y.sending u) := by
    rw [endXfer, hy, hu]
  rw [ended]
  obtain ⟨answered, others, st, pair, now⟩ := done
  refine ⟨?_, fun q hq => ?_, st.trans (congrArg State.st same :), now.trans (congrArg State.now same :), ?_⟩
  · have waiting : (dropXfer e y.xfer y.sending u).rings[r].waiting = s.rings[r].waiting := by
      change u.rings[r].waiting = _
      rw [rings]
    unfold Answered at answered ⊢
    rwa [waiting] at answered
  · rw [others q hq]
    change u.rings[q] = s.rings[q]
    rw [rings]
  · rw [pair, dropXfer_peer]
    exact (congrArg (fun v : State => v.pair.peers[e].xfers.filter (fun t => !(t.xfer == y.xfer && t.sending == y.sending))) same :)

/-- Settles O53: PAIR_TRANSMIT, PAIR_SIGNAL_FORWARD and the timers of a session. -/
theorem packetsAndTimersSend : Obligations.PacketsAndTimersSend := by
  refine ⟨fun s e hh hu hn => ⟨fun before k after ho hb hk => ?_, fun c add rest hf ho => ?_⟩, fun s e hh => ⟨fun hu hd => ?_,
    exec_heartbeatTimer hh, exec_helloTimer hh, fun psn k h => ⟨fun young => ?_, fun old => ?_⟩, fun hu hn => ?_,
    exec_pairLost_nap e, fun y r c hy ho hu hown hf hop ht hb => ?_⟩⟩
  · have peer := pairRelease_peer e k before after s
    exact ⟨_, exec_pairTransmit hh hu hn ho hb hk, by rw [peer], by rw [peer], pairRelease_bus e k before after s,
      fun f hf => pairRelease_other hf k before after s, rfl, storeKept_of_st rfl⟩
  · have peer := pairRelease_peer e { ty := 0x20, payload := signalPayload c add s.pair.peers[e].sigSeq } [] [] (forwarding e rest s)
    rw [forwarding, State.onPeer_same] at peer
    refine ⟨_, _, exec_pairSignalForward hh hu hn hf ho, congrArg PeerSt.fwd peer, congrArg PeerSt.out peer, rfl, rfl, rfl,
      congrArg PeerSt.sigSeq peer, congrArg PeerSt.sigWait peer, congrArg PeerSt.nextPsn peer, rfl, rfl, storeKept_of_st rfl⟩
  · have peer := sendAck_peer e s
    exact ⟨_, exec_ackTimer hh hu hd, by rw [peer], sendAck_bus e s, by rw [peer], rfl, storeKept_of_st rfl⟩
  · have step := exec_retransmitTimer hh h
    obtain ⟨-, out, sent, hpsn⟩ := h
    obtain ⟨xfers, peer⟩ := resendPkt_peer e k (advanceTo (k.sentAt + retxAfter k.tries) s)
    rw [if_neg (Nat.not_le_of_lt young)] at step
    refine ⟨_, step, (congrArg PeerSt.out peer).trans ?_, (congrArg PeerSt.retx peer :), (congrArg PeerSt.nextPsn peer :), rfl,
      storeKept_of_st rfl⟩
    change s.pair.peers[e].out.map _ = _
    rw [out, List.map_singleton, if_pos ⟨sent, rfl⟩]
    rfl
  · have step := exec_retransmitTimer hh h
    obtain ⟨lost, -, rings, st⟩ := loseSession_lost (s := advanceTo (k.sentAt + retxAfter k.tries) s) (e := e) h.1
    rw [if_pos old] at step
    exact ⟨_, step, lost, rings, storeKept_of_st st⟩
  · obtain ⟨lost, now, rings, st⟩ := loseSession_lost (e := e)
      (s := advanceTo (s.pair.peers[e].lastRx + 1000 * s.pair.peers[e].cfg.liveMs.toNat) s) hu
    exact ⟨_, exec_pairLost hh hu hn, lost, now ▸ Nat.le_max_right _ _, rings, storeKept_of_st st⟩
  · have step := exec_pairSessionTimeout hh hy ho hu
    obtain ⟨answered, others, st, now, xfers⟩ := endXfer_completes (y := y) (r := r) (c := c) e 0x60 hown
      (s := advanceTo (y.since + 1000 * s.pair.peers[e].cfg.liveMs.toNat) s) hf hop ht
    refine ⟨_, step, xfers.trans ?_, answered, now ▸ Nat.le_max_right _ _, others, storeKept_of_st st⟩
    change s.pair.peers[e].xfers.filter _ = _
    rw [hy]
    simp

end Sys2Proof.Proofs

/-! Session packets of the Pair link (16): what is accepted, and what HELLO, HELLO_ACK, BYE and ACK move. -/

namespace Sys2Proof.Proofs

open Sys2Proof Sys2Proof.Machine Sys2Proof.Safety Sys2Proof.Laws

/-! ### Acceptance (R317) -/

theorem wakeNap_pair (s : State) : (wakeNap s).pair = s.pair := by
  unfold wakeNap
  split
  · unfold wake
    split
    · rfl
    · rfl
    · exact foldl_keeps State.pair reloadCrag (fun _ _ => rfl) _ _
  · rfl

theorem wakeNap_bus (s : State) : (wakeNap s).bus = s.bus := by
  unfold wakeNap
  split
  · unfold wake
    split
    · rfl
    · rfl
    · exact foldl_keeps State.bus reloadCrag (fun _ _ => rfl) _ _
  · rfl

/-- The entry as an accepted packet leaves it. -/
def metPeer (x : PairRx) (now : Nat) (p : PeerSt) : PeerSt :=
  { p with lastRx := now, doze := x.doze, out := p.out.filter (fun k => !(k.sent && psnLt k.psn x.cumAck)) }

theorem met_peer (s : State) (x : PairRx) (e : Peer) : (Met s x e).pair.peers[e] = metPeer x s.now s.pair.peers[e] := by
  unfold Met cumAcked
  rw [State.onPeer_same, State.onPeer_same, wakeNap_pair]
  rfl

theorem met_other (s : State) (x : PairRx) {e f : Peer} (h : f ≠ e) : (Met s x e).pair.peers[f] = s.pair.peers[f] := by
  unfold Met cumAcked
  rw [State.onPeer_other _ _ _ _ h, State.onPeer_other _ _ _ _ h, wakeNap_pair]

theorem met_massifOnly (s : State) (x : PairRx) (e : Peer) : MassifOnly s (Met s x e) := by
  obtain ⟨rings, cairns, st, nextCid, now, tenants, cfg⟩ := wakeNap_massifOnly s
  exact ⟨rings, cairns, st, nextCid, now, tenants, cfg⟩

section
variable {s : State} {x : PairRx} {e : Peer} {f : Nat × List Byte}

/-- A frame from a VALID entry over a port that is up is looked at. -/
theorem pairAccept_frame (h : Pre.frame s x e) : pairAccept x f s =
    if !pairSound x f || (!(f.1 == 1) && x.session != s.pair.peers[e].nonce) || s.pair.peers[e].sess == .down
        || (!(f.1 == 1) && s.pair.peers[e].sess == .gone) then (none, countDrop (some e) s)
    else
      let s1 := (wakeNap s).onPeer e (fun p => { p with lastRx := s.now, doze := x.doze })
      (some e, if f.1 == 1 then s1 else cumAcked e x.cumAck s1) := by
  obtain ⟨up, port, load, entry⟩ := h
  unfold pairAccept
  have taken : ¬ (s.pw.rdy = false ∨ s.pw.phase ≠ .ready ∨ s.pair.ports[x.port].up = false ∨ s.cfg.loading = true) := by
    rw [up.1, up.2, port, load]
    decide
  rw [if_neg taken, entry]

theorem pairAccept_met (h : Pre.frame s x e) (hs : pairSound x f = true) (hn : x.session = s.pair.peers[e].nonce)
    (hd : s.pair.peers[e].sess ≠ .down) (hg : s.pair.peers[e].sess ≠ .gone) (h1 : f.1 ≠ 1) :
    pairAccept x f s = (some e, Met s x e) := by
  have first : (f.1 == 1) = false := beq_eq_false_iff_ne.mpr h1
  have down := beq_eq_false_iff_ne.mpr hd
  have gone := beq_eq_false_iff_ne.mpr hg
  rw [pairAccept_frame h, hs, hn, first, down, gone, if_neg (by simp)]
  rfl

theorem pairAccept_hello (h : Pre.frame s x e) (hs : pairSound x f = true) (hd : s.pair.peers[e].sess ≠ .down) (h1 : f.1 = 1) :
    pairAccept x f s = (some e, (wakeNap s).onPeer e fun p => { p with lastRx := s.now, doze := x.doze }) := by
  have first : (f.1 == 1) = true := beq_iff_eq.mpr h1
  have down := beq_eq_false_iff_ne.mpr hd
  rw [pairAccept_frame h, hs, first, down, if_neg (by simp)]
  rfl

theorem pairAccept_dropped (h : Pre.frame s x e) (h1 : f.1 ≠ 1)
    (hx : pairSound x f = false ∨ x.session ≠ s.pair.peers[e].nonce) : pairAccept x f s = (none, countDrop (some e) s) := by
  have first : (f.1 == 1) = false := beq_eq_false_iff_ne.mpr h1
  have refused : (!pairSound x f || (!false && x.session != s.pair.peers[e].nonce)) = true := by
    rcases hx with hx | hx
    · rw [hx]
      rfl
    · rw [bne_iff_ne.mpr hx]
      simp
  rw [pairAccept_frame h, first, refused]
  rfl

end

theorem pairAccept_accepted {s : State} {x : PairRx} {e : Peer} {i : Instr} (h : Pre.accepted s x e i) (h1 : (pairFrame i).1 ≠ 1) :
    pairAccept x (pairFrame i) s = (some e, Met s x e) := by
  obtain ⟨frame, sound, nonce, down, gone⟩ := h
  exact pairAccept_met frame sound nonce down gone h1

/-! ### What the end of transfers leaves of a session -/

/-- From `s` to `t` transfers, packets and commands may end: memory, the Vault and the cairns stay, the session of entry
`e` stays, and nothing that left the engine is taken back. -/
structure SessionKept (e : Peer) (s t : State) : Prop where
  mem : t.st.mem = s.st.mem
  vault : t.st.vault = s.st.vault
  cairns : t.cairns = s.cairns
  bus : s.bus <+: t.bus
  sess : t.pair.peers[e].sess = s.pair.peers[e].sess
  peerNonce : t.pair.peers[e].peerNonce = s.pair.peers[e].peerNonce
  list : t.pair.peers[e].list = s.pair.peers[e].list

namespace SessionKept

variable {e : Peer} {s t u : State}

theorem refl (e : Peer) (s : State) : SessionKept e s s := ⟨rfl, rfl, rfl, List.prefix_rfl, rfl, rfl, rfl⟩

theorem trans (a : SessionKept e s t) (b : SessionKept e t u) : SessionKept e s u :=
  ⟨b.mem.trans a.mem, b.vault.trans a.vault, b.cairns.trans a.cairns, a.bus.trans b.bus, b.sess.trans a.sess,
    b.peerNonce.trans a.peerNonce, b.list.trans a.list⟩

theorem foldl {β : Type} {f : State → β → State} (h : ∀ s b, SessionKept e s (f s b)) (l : List β) (s : State) :
    SessionKept e s (l.foldl f s) := by
  induction l generalizing s with
  | nil => exact .refl e s
  | cons b l ih => exact (h s b).trans (ih _)

/-- An entry may change but for its session. -/
theorem onPeer (s : State) {f : PeerSt → PeerSt} (hs : ∀ p, (f p).sess = p.sess) (hn : ∀ p, (f p).peerNonce = p.peerNonce)
    (hl : ∀ p, (f p).list = p.list) : SessionKept e s (s.onPeer e f) :=
  ⟨rfl, rfl, rfl, List.prefix_rfl, by rw [State.onPeer_same, hs], by rw [State.onPeer_same, hn], by rw [State.onPeer_same, hl]⟩

end SessionKept

theorem endLoad_bus (s : State) : (endLoad s).bus = s.bus := by
  unfold endLoad busyOff
  split <;> rfl

theorem endLoad_pair (s : State) : (endLoad s).pair = s.pair := (busyOff_kept 2 _).pair

theorem pushEntry_bus (r : Ring) (c : Cmd) (o : Outc) (s : State) : (pushEntry r c o s).bus = s.bus := by
  unfold pushEntry
  dsimp only
  split
  · exact endLoad_bus _
  · rfl

theorem pushEntry_pair (r : Ring) (c : Cmd) (o : Outc) (s : State) : (pushEntry r c o s).pair = s.pair := by
  unfold pushEntry
  dsimp only
  split
  · exact endLoad_pair _
  · rfl

theorem pushEntry_sessionKept (e : Peer) (r : Ring) (c : Cmd) (o : Outc) (s : State) : SessionKept e s (pushEntry r c o s) := by
  have st := pushEntry_st r c o s
  have pair := pushEntry_pair r c o s
  exact ⟨by rw [st], by rw [st], pushEntry_cairns r c o s, by rw [pushEntry_bus], by rw [pair], by rw [pair], by rw [pair]⟩

theorem modCmd_sessionKept (e : Peer) (r : Ring) (cid : Nat) (f : Cmd → Cmd) (s : State) : SessionKept e s (modCmd r cid f s) :=
  ⟨rfl, rfl, rfl, List.prefix_rfl, rfl, rfl, rfl⟩

theorem sealReport_sessionKept (e : Peer) (r : Ring) (c : Cmd) (n : Nat) (o : Outc) (s : State) :
    SessionKept e s (sealReport r c n o s) := by
  unfold sealReport
  split
  · exact .refl e s
  · exact (modCmd_sessionKept e r c.cid _ s).trans (pushEntry_sessionKept e r c _ _)

theorem pairOutcome_sessionKept (e : Peer) (own : Option (Ring × Nat)) (o : Outc) (s : State) :
    SessionKept e s (pairOutcome own o s) := by
  unfold pairOutcome
  split
  · exact .refl e s
  · split
    · exact .refl e s
    · split
      · exact sealReport_sessionKept e _ _ _ _ _
      · exact pushEntry_sessionKept e _ _ _ _

theorem abortTap_sessionKept (e : Peer) (tap : Tap) (s : State) : SessionKept e s (abortTap tap s) := by
  have same := abortTap_sansMassif tap s
  generalize abortTap tap s = t at same
  have pair : t.pair = s.pair := (congrArg State.pair same :)
  have st : t.st = s.st := (congrArg State.st same :)
  have bus : t.bus = s.bus := (congrArg State.bus same :)
  exact ⟨by rw [st], by rw [st], (congrArg State.cairns same :), by rw [bus], by rw [pair], by rw [pair], by rw [pair]⟩

theorem endXfer_sessionKept (e : Peer) (t : Transfer) (reason : Nat) (s : State) : SessionKept e s (endXfer e t reason s) := by
  have dropped : ∀ u, SessionKept e u (dropXfer e t.xfer t.sending u) := fun u => .onPeer u (fun _ => rfl) (fun _ => rfl) fun _ => rfl
  have outcome := fun u => (dropped u).trans (pairOutcome_sessionKept e t.owner { status := stREFUSED, d0 := reason } _)
  unfold endXfer
  split
  · exact outcome s
  · exact (abortTap_sessionKept e .pairRx s).trans (outcome _)

theorem endXfers_sessionKept (e : Peer) (reason : Nat) (p : Transfer → Bool) (s : State) :
    SessionKept e s (endXfers e reason p s) := .foldl (fun s t => endXfer_sessionKept e t reason s) _ s

theorem peerReopened_sessionKept (e : Peer) (s : State) : SessionKept e s (peerReopened e s) := by
  refine (endXfers_sessionKept e 0x6A (·.opened) s).trans (.trans ?_ (.onPeer _ (fun _ => rfl) (fun _ => rfl) fun _ => rfl))
  exact .onPeer _ (fun _ => rfl) (fun _ => rfl) fun _ => rfl

/-! ### A session that comes UP (R321, R322, R325) -/

theorem raiseEvent_sessionKept (e : Peer) (code : Nat) (u : Byte) (a0 a1 : Word) (s : State) :
    SessionKept e s (raiseEvent code u a0 a1 s) := by
  have k := raiseEvent_kept code u a0 a1 s
  exact ⟨by rw [k.st], by rw [k.st], k.cairns, raiseEvent_bus code u a0 a1 s, by rw [k.pair], by rw [k.pair], by rw [k.pair]⟩

theorem images_sessionKept (e : Peer) (is : List Image) (s : State) : SessionKept e s { s with st := { s.st with images := is } } :=
  ⟨rfl, rfl, rfl, List.prefix_rfl, rfl, rfl, rfl⟩

theorem reconcile_sessionKept (e : Peer) (list : List HoldRec) (s : State) : SessionKept e s (reconcile e list s) := by
  unfold reconcile
  dsimp only
  split
  · exact .refl e s
  · refine .trans (.foldl (fun s i => ?_) _ s) (.foldl (fun s h => ?_) list _)
    · split
      · exact images_sessionKept e _ s
      · exact (images_sessionKept e _ s).trans (raiseEvent_sessionKept e _ _ _ _ _)
    · split
      · split
        · exact .refl e s
        · exact .onPeer s (fun _ => rfl) (fun _ => rfl) fun _ => rfl
      · exact images_sessionKept e _ s

theorem openXfer_sessionKept (e : Peer) (t : Transfer) (s : State) : SessionKept e s (openXfer e t s) := by
  have opened : SessionKept e s (modXfer e t.xfer t.sending (fun t => { t with opened := true }) s) :=
    .onPeer s (fun _ => rfl) (fun _ => rfl) fun _ => rfl
  have queued : ∀ u, SessionKept e u (if t.sending then pairQueue e 0x10 (offerPayload t) u
      else pairQueue e 0x30 (fetchPayload t.xfer t.ownerId t.step) u) := by
    intro u
    split <;> exact .onPeer u (fun _ => rfl) (fun _ => rfl) fun _ => rfl
  unfold openXfer
  split
  · exact opened.trans (.trans (modCmd_sessionKept e _ _ _ _) (queued _))
  · exact opened.trans (queued _)

/-- A session that is UP with the peer's list of copies; memory, the Vault, the cairns and the peer's nonce stay. -/
structure IsUp (e : Peer) (list : List HoldRec) (s t : State) : Prop where
  sess : t.pair.peers[e].sess = .up
  held : t.pair.peers[e].list = list
  peerNonce : t.pair.peers[e].peerNonce = s.pair.peers[e].peerNonce
  mem : t.st.mem = s.st.mem
  vault : t.st.vault = s.st.vault
  cairns : t.cairns = s.cairns
  bus : s.bus <+: t.bus

theorem becomeUp_isUp (e : Peer) (list : List HoldRec) (s : State) : IsUp e list s (becomeUp e list s) := by
  have k : SessionKept e (s.onPeer e fun p => { p with sess := .up, list := list }) (becomeUp e list s) :=
    (reconcile_sessionKept e list _).trans (.foldl (fun s t => openXfer_sessionKept e t s) _ _)
  refine ⟨?_, ?_, ?_, k.mem, k.vault, k.cairns, k.bus⟩
  · rw [k.sess, State.onPeer_same]
  · rw [k.list, State.onPeer_same]
  · rw [k.peerNonce, State.onPeer_same]

/-- The peer's nonce taken; a session that was open reopens first. -/
structure MetNonce (e : Peer) (nonce : Word) (s t : State) : Prop where
  peerNonce : t.pair.peers[e].peerNonce = some nonce
  mem : t.st.mem = s.st.mem
  vault : t.st.vault = s.st.vault
  cairns : t.cairns = s.cairns

theorem meetNonce_met (e : Peer) (nonce : Word) (s : State) : MetNonce e nonce s (meetNonce e nonce s) := by
  have reopened : ∀ u, SessionKept e s u → MetNonce e nonce s (u.onPeer e fun p => { p with peerNonce := some nonce }) :=
    fun u k => ⟨by rw [State.onPeer_same], k.mem, k.vault, k.cairns⟩
  unfold meetNonce
  refine reopened _ ?_
  split
  · split
    · exact .refl e s
    · exact peerReopened_sessionKept e s
  · exact .refl e s

/-! ### BYE and ACK (16.4.1, R324) -/

/-- Images of a tenant not named as drained lose PAIRED. -/
def unpaired (t : Tenant) (drained : List Dword) (s : State) : State :=
  { s with st := { s.st with images := s.st.images.map fun i =>
    if i.tenant = t ∧ drained.contains i.step = false then { i with paired := false } else i } }

theorem unpaired_image {t : Tenant} {drained : List Dword} {s : State} {i : Image} (hi : i ∈ (unpaired t drained s).st.images)
    (ht : i.tenant = t) (hd : i.step ∉ drained) : i.paired = false := by
  obtain ⟨j, -, rfl⟩ := List.mem_map.mp hi
  by_cases hj : j.tenant = t ∧ drained.contains j.step = false
  · rw [if_pos hj]
  · rw [if_neg hj] at ht hd
    exact absurd ⟨ht, by simpa using hd⟩ hj

theorem byeIn_gone (e : Peer) (drained : List Dword) (s : State) : (byeIn e drained s).pair.peers[e].sess = .gone
    ∧ (s.pair.peers[e].cfg.buddy = true → ∀ i ∈ (byeIn e drained s).st.images, i.tenant = s.pair.peers[e].cfg.tenant →
      i.step ∉ drained → i.paired = false) ∧ (byeIn e drained s).st.mem = s.st.mem ∧ (byeIn e drained s).cairns = s.cairns := by
  have k := endXfers_sessionKept e 0x67 (fun _ => true) (s.onPeer e fun p => { p with sess := .gone })
  have said : byeIn e drained s = raiseEvent 0x0802 0xFF (BitVec.ofNat 32 e.val) 0
      (if s.pair.peers[e].cfg.buddy then unpaired s.pair.peers[e].cfg.tenant drained
          (endXfers e 0x67 (fun _ => true) (s.onPeer e fun p => { p with sess := .gone }))
        else endXfers e 0x67 (fun _ => true) (s.onPeer e fun p => { p with sess := .gone })) := rfl
  rw [said]
  generalize endXfers e 0x67 (fun _ => true) (s.onPeer e fun p => { p with sess := .gone }) = u at k
  have gone : u.pair.peers[e].sess = .gone := by rw [k.sess, State.onPeer_same]
  cases s.pair.peers[e].cfg.buddy with
  | true =>
    rw [if_pos rfl]
    have ev := raiseEvent_kept 0x0802 0xFF (BitVec.ofNat 32 e.val) 0 (unpaired s.pair.peers[e].cfg.tenant drained u)
    refine ⟨by rw [ev.pair]; exact gone, fun _ i hi ht hd => ?_, by rw [ev.st]; exact k.mem, ev.cairns.trans k.cairns⟩
    rw [ev.st] at hi
    exact unpaired_image hi ht hd
  | false =>
    rw [if_neg (by decide)]
    have ev := raiseEvent_kept 0x0802 0xFF (BitVec.ofNat 32 e.val) 0 u
    exact ⟨by rw [ev.pair, gone], fun h => absurd h (by decide), by rw [ev.st, k.mem]; rfl, ev.cairns.trans k.cairns⟩

/-- Every sent packet left is above BASE_PSN and not shown received; the session, rings and store stay. -/
structure AckedBy (base : Word) (got : BitVec 512) (e : Peer) (s t : State) : Prop where
  out : ∀ k ∈ t.pair.peers[e].out, k.sent = true → psnLt k.psn base = false ∧ ackBit base got k.psn = false
  sess : t.pair.peers[e].sess = s.pair.peers[e].sess
  rings : t.rings = s.rings
  st : t.st = s.st

theorem resendPkt_acked {base : Word} {got : BitVec 512} {e : Peer} {s t : State} (h : AckedBy base got e s t) (k : PairPkt) :
    AckedBy base got e s (resendPkt e k t) := by
  obtain ⟨xfers, peer⟩ := resendPkt_peer e k t
  refine ⟨fun q hq hs => ?_, (congrArg PeerSt.sess peer).trans h.sess, h.rings, h.st⟩
  rw [peer] at hq
  obtain ⟨p, hp, rfl⟩ := List.mem_map.mp hq
  by_cases c : p.sent ∧ p.psn = k.psn
  · rw [if_pos c]
    exact h.out p hp c.1
  · rw [if_neg c] at hs ⊢
    exact h.out p hp hs

theorem ackIn_acked (e : Peer) (base : Word) (got : BitVec 512) (s : State) : AckedBy base got e s (ackIn e base got s) := by
  have first : AckedBy base got e s (s.onPeer e fun p => { p with
      out := p.out.filter (fun k => !(k.sent && (psnLt k.psn base || ackBit base got k.psn))) }) := by
    refine ⟨fun k hk hs => ?_, by rw [State.onPeer_same], rfl, rfl⟩
    rw [State.onPeer_same] at hk
    simpa [hs] using (List.mem_filter.mp hk).2
  have all : ∀ (l : List PairPkt) (t : State), AckedBy base got e s t → AckedBy base got e s (l.foldl (fun s k => resendPkt e k s) t) := by
    intro l
    induction l with
    | nil => exact fun t h => h
    | cons k l ih => exact fun t h => ih _ (resendPkt_acked h k)
  exact all _ _ first

/-! ### The packets -/

theorem exec_hello {s : State} {x : PairRx} {e : Peer} (nonce epoch : Word) (holds : List HoldRec)
    (h : pairAccept x (pairFrame (.hello x nonce epoch holds)) s = (some e, t)) : exec (.hello x nonce epoch holds) s
      = .next (becomeUp e holds (pairSend e 2 (helloPayload (meetNonce e nonce t) e) (meetNonce e nonce t))) := by
  change Host.Outcome.next _ = _
  rw [h]

theorem exec_helloAck {s : State} {x : PairRx} {e : Peer} (nonce epoch : Word) (holds : List HoldRec)
    (h : pairAccept x (pairFrame (.helloAck x nonce epoch holds)) s = (some e, t)) :
    exec (.helloAck x nonce epoch holds) s = .next (becomeUp e holds (meetNonce e nonce t)) := by
  change Host.Outcome.next _ = _
  rw [h]

theorem exec_bye {s : State} {x : PairRx} {e : Peer} (drained : List Dword)
    (h : pairAccept x (pairFrame (.bye x drained)) s = (some e, t)) : exec (.bye x drained) s = .next (byeIn e drained t) := by
  change Host.Outcome.next _ = _
  rw [h]

theorem exec_ack {s : State} {x : PairRx} {e : Peer} (base : Word) (got : BitVec 512)
    (h : pairAccept x (pairFrame (.ack x base got)) s = (some e, t)) : exec (.ack x base got) s = .next (ackIn e base got t) := by
  change Host.Outcome.next _ = _
  rw [h]

theorem pairSend_packet (e : Peer) (payload : List Byte) (s : State) {nonce : Word} (h : s.pair.peers[e].peerNonce = some nonce) :
    ∃ psn cum dz pl, BusOut.pair e.val (pairPacket 2 nonce psn cum dz pl) ∈ (pairSend e 2 payload s).bus := by
  refine ⟨s.pair.peers[e].nextPsn, s.pair.peers[e].rxPsn, s.pw.pstate == .nap, payload, ?_⟩
  unfold pairSend
  rw [pairEmit_eq, packetOf, h]
  exact List.mem_append_right _ (List.mem_singleton.mpr rfl)

/-- Settles O52: HELLO, HELLO_ACK, BYE and ACK. -/
theorem sessionPacketsMoveSessions : Obligations.SessionPacketsMoveSessions := by
  refine fun s x e nonce epoch holds => ⟨fun hf hs hd => ?_, fun h => ?_, fun drained h => ?_, fun base got h => ?_⟩
  · have step := exec_hello nonce epoch holds (pairAccept_hello hf hs hd rfl)
    obtain ⟨-, cairns, st, -⟩ := wakeNap_massifOnly s
    have met := meetNonce_met e nonce ((wakeNap s).onPeer e fun p => { p with lastRx := s.now, doze := x.doze })
    generalize meetNonce e nonce ((wakeNap s).onPeer e fun p => { p with lastRx := s.now, doze := x.doze }) = u at step met
    have up := becomeUp_isUp e holds (pairSend e 2 (helloPayload u e) u)
    obtain ⟨psn, cum, dz, pl, sent⟩ := pairSend_packet e (helloPayload u e) u met.peerNonce
    refine ⟨_, step, up.sess, ?_, up.held, up.mem.trans (met.mem.trans (by exact congrArg Store.mem st)),
      up.vault.trans (met.vault.trans (by exact congrArg Store.vault st)), ⟨psn, cum, dz, pl, up.bus.subset sent⟩,
      up.cairns.trans (met.cairns.trans cairns)⟩
    rw [up.peerNonce, pairSend, pairEmit_peer]
    exact met.peerNonce
  · have step := exec_helloAck nonce epoch holds (pairAccept_accepted h (by change 2 ≠ 1; decide))
    obtain ⟨-, cairns, st, -⟩ := met_massifOnly s x e
    have met := meetNonce_met e nonce (Met s x e)
    have up := becomeUp_isUp e holds (meetNonce e nonce (Met s x e))
    exact ⟨_, step, up.sess, up.peerNonce.trans met.peerNonce, up.held, up.mem.trans (met.mem.trans (by rw [st])),
      up.vault.trans (met.vault.trans (by rw [st])), up.cairns.trans (met.cairns.trans cairns)⟩
  · have step := exec_bye drained (pairAccept_accepted h (by change 4 ≠ 1; decide))
    obtain ⟨-, cairns, st, -⟩ := met_massifOnly s x e
    obtain ⟨gone, unpaired, mem, same⟩ := byeIn_gone e drained (Met s x e)
    rw [met_peer] at unpaired
    exact ⟨_, step, gone, unpaired, mem.trans (by rw [st]), same.trans cairns⟩
  · have step := exec_ack base got (pairAccept_accepted h (by change 5 ≠ 1; decide))
    obtain ⟨rings, -, st, -⟩ := met_massifOnly s x e
    have acked := ackIn_acked e base got (Met s x e)
    refine ⟨_, step, acked.out, acked.sess.trans ?_, acked.rings.trans rings, storeKept_of_st (acked.st.trans st)⟩
    rw [met_peer]
    rfl

end Sys2Proof.Proofs

/-! Reliable packets of the Pair link (16): those next in order, and the transfers they move. -/

namespace Sys2Proof.Proofs

open Sys2Proof Sys2Proof.Machine Sys2Proof.Safety Sys2Proof.Laws

/-! ### The taps leave all but commands and the Massif (R227 to R234) -/

/-- The state without its rings and its Massif: what the taps leave as it is. -/
def sansWork (s : State) : State := { s with rings := Vector.replicate 16 {}, ma := {} }

theorem noteDriver_sansWork (m : SloeMsg) (n : Nat) (bad ended : Bool) (s : State) :
    sansWork (noteDriver m n bad ended s) = sansWork s := by
  unfold noteDriver
  split <;> rfl

theorem takeBytes_sansWork (l : Lane) (c : Ctx) (bytes : List Byte) (bad ended : Bool) (s : State) :
    sansWork (takeBytes l c bytes bad ended s) = sansWork s := by
  unfold takeBytes
  dsimp only
  split
  · rfl
  · split <;> rfl

theorem ctxFor_sansWork {l : Lane} {it : TapItem} {p : Snoop} {s t : State} {c : Ctx} (h : ctxFor l it p s = some (c, t)) :
    sansWork t = sansWork s := by
  unfold ctxFor at h
  dsimp only at h
  split at h
  · cases h
    rfl
  · split at h
    · cases h
      rfl
    · obtain ⟨d, -, hd⟩ := Option.map_eq_some_iff.mp h
      cases hd
      rfl

theorem endMessage_sansWork (l : Lane) (it : TapItem) (p : Snoop) (s : State) : sansWork (endMessage l it p s) = sansWork s := by
  unfold endMessage
  split
  · rfl
  · split
    · rfl
    · split
      · rfl
      · exact (takeBytes_sansWork _ _ _ _ _ _).trans (noteDriver_sansWork _ _ _ _ _)

theorem feedItem_sansWork (l : Lane) (it : TapItem) (s : State) : sansWork (feedItem l it s) = sansWork s := by
  unfold feedItem
  dsimp only
  split
  · rfl
  · split
    · rfl
    · split
      · exact endMessage_sansWork _ _ _ _
      · split
        · rfl
        · split
          · rfl
          next h => exact (takeBytes_sansWork _ _ _ _ _ _).trans (ctxFor_sansWork h)
      · split
        · rfl
        next h =>
          split
          · exact ctxFor_sansWork h
          · exact (takeBytes_sansWork _ _ _ _ _ _).trans ((noteDriver_sansWork _ _ _ _ _).trans (ctxFor_sansWork h))

theorem snoopEvents_sansWork (tap : Tap) (evs : List TapEv) (own : Option (Ring × Nat)) (len : Nat) (s : State) :
    sansWork (snoopEvents tap evs own len s) = sansWork s :=
  foldl_keeps sansWork _ (fun _ _ => foldl_keeps sansWork _ (fun _ _ => feedItem_sansWork _ _ _) evs _) _ s

theorem snoopRun_sansWork (tap : Tap) (bs : List (Beat × Bool)) (own : Option (Ring × Nat)) (s : State) :
    sansWork (snoopRun tap bs own s) = sansWork s := by
  unfold snoopRun
  dsimp only
  refine (snoopEvents_sansWork _ _ _ _ _).trans ?_
  split
  · rfl
  · split <;> rfl

theorem snoopRx_sansWork (t : Transfer) (new : List (Nat × Sec)) (s : State) : sansWork (snoopRx t new s) = sansWork s := by
  unfold snoopRx
  split
  · rfl
  · exact snoopEvents_sansWork _ _ _ _ _

/-! ### A reliable packet that is next (R324) -/

/-- The entry once a packet was taken as the next in order. -/
def tookPeer (x : PairRx) (now : Nat) (p : PeerSt) : PeerSt :=
  { metPeer x now p with unacked := p.unacked + 1, rxPsn := p.rxPsn + 1 }

theorem took_peer (s : State) (x : PairRx) (e : Peer) : (Took s x e).pair.peers[e] = tookPeer x s.now s.pair.peers[e] := by
  unfold Took
  rw [State.onPeer_same, State.onPeer_same, met_peer]
  rfl

theorem took_other (s : State) (x : PairRx) {e f : Peer} (h : f ≠ e) : (Took s x e).pair.peers[f] = s.pair.peers[f] := by
  unfold Took
  rw [State.onPeer_other _ _ _ _ h, State.onPeer_other _ _ _ _ h, met_other s x h]

theorem took_xferOf (s : State) (x : PairRx) (e : Peer) (xfer : Word) (sending : Bool) :
    (Took s x e).pair.peers[e].xferOf xfer sending = s.pair.peers[e].xferOf xfer sending := by
  rw [took_peer]
  rfl

/-- What neither the Massif, nor power, nor the link's entries is: the same after a packet was taken. -/
def sansLink (s : State) : State := { s with freeIx := 0, ma := { lanes := s.ma.lanes }, pw := {}, pair := {} }

theorem wakeNap_sansLink (s : State) : sansLink (wakeNap s) = sansLink s := by
  unfold wakeNap
  split
  · unfold wake
    split
    · rfl
    · rfl
    · exact foldl_keeps sansLink reloadCrag (fun _ _ => rfl) _ _
  · rfl

theorem took_sansLink (s : State) (x : PairRx) (e : Peer) : sansLink (Took s x e) = sansLink s := by
  have entry : ∀ (u : State) (f : PeerSt → PeerSt), sansLink (u.onPeer e f) = sansLink u := fun _ _ => rfl
  unfold Took Met cumAcked
  rw [entry, entry, entry, entry, wakeNap_sansLink]

theorem took_rings (s : State) (x : PairRx) (e : Peer) : (Took s x e).rings = s.rings :=
  (congrArg State.rings (took_sansLink s x e) :)

theorem took_cairns (s : State) (x : PairRx) (e : Peer) : (Took s x e).cairns = s.cairns :=
  (congrArg State.cairns (took_sansLink s x e) :)

theorem took_st (s : State) (x : PairRx) (e : Peer) : (Took s x e).st = s.st := (congrArg State.st (took_sansLink s x e) :)

theorem took_cfg (s : State) (x : PairRx) (e : Peer) : (Took s x e).cfg = s.cfg := (congrArg State.cfg (took_sansLink s x e) :)

theorem reliable_notHello {x : PairRx} {i : Instr} (h : Reliable x i) : (pairFrame i).1 ≠ 1 := by
  rcases h with ⟨_, _, _, _, _, _, _, rfl⟩ | ⟨_, rfl⟩ | ⟨_, _, rfl⟩ | ⟨_, _, _, rfl⟩ | ⟨_, _, _, rfl⟩ | ⟨_, _, _, rfl⟩
    | ⟨_, _, _, rfl⟩ | ⟨_, _, rfl⟩ | ⟨_, _, _, rfl⟩ <;> simp [pairFrame]

theorem exec_reliable {x : PairRx} {i : Instr} (h : Reliable x i) (s : State) : exec i s = .next (reliable x i s) := by
  rcases h with ⟨_, _, _, _, _, _, _, rfl⟩ | ⟨_, rfl⟩ | ⟨_, _, rfl⟩ | ⟨_, _, _, rfl⟩ | ⟨_, _, _, rfl⟩ | ⟨_, _, _, rfl⟩
    | ⟨_, _, _, rfl⟩ | ⟨_, _, rfl⟩ | ⟨_, _, _, rfl⟩ <;> rfl

/-- A reliable packet next in order reaches the protocol; where its handling leaves no more packets unacknowledged, no
ACK is due. -/
theorem reliable_inOrder_of_le {s : State} {x : PairRx} {e : Peer} {i : Instr} (h : Pre.inOrder s x e i) (hr : Reliable x i)
    (hk : (deliver e i (Took s x e)).pair.peers[e].unacked ≤ (Took s x e).pair.peers[e].unacked) :
    exec i s = .next (deliver e i (Took s x e)) := by
  obtain ⟨accepted, psn, ahead, few⟩ := h
  have next : x.psn = (Met s x e).pair.peers[e].rxPsn := by rw [met_peer, psn]; rfl
  have none : (Met s x e).pair.peers[e].rxAhead = [] := by rw [met_peer, metPeer, ahead]
  rw [exec_reliable hr]
  unfold reliable
  rw [pairAccept_accepted accepted (reliable_notHello hr)]
  dsimp only
  rw [if_pos next, none]
  refine congrArg Host.Outcome.next (if_neg ?_)
  change ¬ 32 ≤ (deliver e i (Took s x e)).pair.peers[e].unacked
  rw [took_peer, tookPeer] at hk
  dsimp only at hk
  omega

theorem reliable_inOrder {s : State} {x : PairRx} {e : Peer} {i : Instr} (h : Pre.inOrder s x e i) (hr : Reliable x i)
    (hk : (deliver e i (Took s x e)).pair.peers[e].unacked = (Took s x e).pair.peers[e].unacked) :
    exec i s = .next (deliver e i (Took s x e)) := reliable_inOrder_of_le h hr hk.le

/-! ### Queued packets and transfers -/

theorem pairQueue_peer (e : Peer) (ty : Nat) (payload : List Byte) (s : State) : (pairQueue e ty payload s).pair.peers[e]
    = { s.pair.peers[e] with out := s.pair.peers[e].out ++ [{ ty := ty, payload := payload }] } := State.onPeer_same s e _

theorem pairQueue_unacked (e : Peer) (ty : Nat) (payload : List Byte) (s : State) :
    (pairQueue e ty payload s).pair.peers[e].unacked = s.pair.peers[e].unacked := by rw [pairQueue_peer]

/-- The DATA packets of some runs of sectors of a transfer. -/
def dataPackets (t : Transfer) (runs_ : List (Nat × Nat)) : List PairPkt :=
  runs_.map fun p => { ty := 0x13, payload := dataPayload t.xfer p.1 ((List.range p.2).map (fun i =>
    ((t.secs.find? (fun q => q.1 == p.1 + i)).map (·.2)).getD {})) }

theorem queueData_peer (e : Peer) (t : Transfer) (runs_ : List (Nat × Nat)) (s : State) : (queueData e t runs_ s).pair.peers[e]
    = { s.pair.peers[e] with out := s.pair.peers[e].out ++ dataPackets t runs_ } := by
  unfold queueData
  induction runs_ generalizing s with
  | nil => simp [dataPackets]
  | cons p l ih =>
    rw [List.foldl_cons, ih, pairQueue_peer]
    simp [dataPackets]

theorem modXfer_peer (e : Peer) (xfer : Word) (sending : Bool) (f : Transfer → Transfer) (s : State) :
    (modXfer e xfer sending f s).pair.peers[e] = { s.pair.peers[e] with
      xfers := s.pair.peers[e].xfers.map (fun t => if t.xfer = xfer ∧ t.sending = sending then f t else t) } := State.onPeer_same s e _

theorem modXfer_xferOf {e : Peer} {xfer : Word} {sending : Bool} {f : Transfer → Transfer} {s : State} {t : Transfer}
    (h : s.pair.peers[e].xferOf xfer sending = some t) (hf : ∀ u : Transfer, u.xfer = xfer → u.sending = sending →
      (f u).xfer = xfer ∧ (f u).sending = sending) :
    (modXfer e xfer sending f s).pair.peers[e].xferOf xfer sending = some (f t) := by
  rw [modXfer_peer]
  unfold PeerSt.xferOf at h ⊢
  dsimp only
  generalize s.pair.peers[e].xfers = l at h
  induction l with
  | nil => cases h
  | cons u l ih =>
    by_cases hu : u.xfer = xfer ∧ u.sending = sending
    · have : (u.xfer == xfer && u.sending == sending) = true := by simp [hu]
      rw [List.find?_cons_of_pos (p := fun t : Transfer => t.xfer == xfer && t.sending == sending) this] at h
      cases h
      rw [List.map_cons, if_pos hu, List.find?_cons_of_pos (by simp [hf _ hu.1 hu.2])]
    · have : ¬ (u.xfer == xfer && u.sending == sending) = true := by simpa using hu
      have skip := fun l => List.find?_cons_of_neg (l := l) (p := fun t : Transfer => t.xfer == xfer && t.sending == sending) this
      rw [skip] at h
      rw [List.map_cons, if_neg hu, skip]
      exact ih h

theorem xferOf_is {p : PeerSt} {xfer : Word} {sending : Bool} {t : Transfer} (h : p.xferOf xfer sending = some t) :
    t.xfer = xfer ∧ t.sending = sending := by
  have := List.find?_some h
  simpa using this

theorem xferOf_dropped (l : List Transfer) (xfer : Word) (sending : Bool) :
    (l.filter (fun t => !(t.xfer == xfer && t.sending == sending))).find? (fun t => t.xfer == xfer && t.sending == sending) = none := by
  rw [List.find?_eq_none]
  intro t ht
  have := (List.mem_filter.mp ht).2
  simpa [imp_iff_not_or] using this

end Sys2Proof.Proofs

/-! OFFER, ACCEPT, DATA, RESEND, REFUSE and HELD (16). -/

namespace Sys2Proof.Proofs

open Sys2Proof Sys2Proof.Machine Sys2Proof.Safety Sys2Proof.Laws

/-! ### OFFER (R327, Table 16-7) -/

section
variable {u : State} {e : Peer} {xfer img : Word} {step : Dword} {total : Nat} {alg : Alg} {root : BitVec 512}
  (hx : (u.pair.peers[e].xferOf xfer false).isNone = true) (ho : u.st.op.st ≠ 1)
include hx ho

theorem offerIn_noWard (hw : u.pair.peers[e].cfg.ward = false) :
    offerIn e xfer img step total alg false root u = pairQueue e 0x12 (refusePayload xfer 0x62) u := by
  have fresh : ¬ (u.pair.peers[e].xferOf xfer false).isSome = true := by rw [Option.isNone_iff_eq_none.mp hx]; decide
  unfold offerIn
  rw [if_neg (by decide)]
  exact (if_neg fresh).trans ((if_neg fun k => ho k.1).trans (if_pos (.inl hw)))

/-- The transfer a ward's OFFER opens. -/
def offered (u : State) (e : Peer) (xfer img : Word) (step : Dword) (total : Nat) (alg : Alg) (root : BitVec 512) : Transfer :=
  { xfer := xfer, sending := false, step := step, img := img, tenant := u.pair.peers[e].cfg.tenant, total := total, root := root
    alg := alg, opened := true, accepted := true, ownerId := u.pair.peers[e].cfg.engineId, since := u.now }

/-- A transfer added to those of an entry. -/
def withXfer (e : Peer) (y : Transfer) (u : State) : State := u.onPeer e fun p => { p with xfers := p.xfers ++ [y] }

theorem offerIn_ward (hw : u.pair.peers[e].cfg.ward = true) (hf : u.pair.peers[e].fencedOut = false) (hc : u.copiesOf e = [])
    (hl : u.rxLane.isSome = true) (hp : ceilDiv total 512 ≤ u.poolFreeBlocks) (hd : u.pair.peers[e].cfg.drain = false) :
    offerIn e xfer img step total alg false root u
      = pairQueue e 0x11 (bytesBE 4 xfer) (withXfer e (offered u e xfer img step total alg root) u) := by
  have fresh : ¬ (u.pair.peers[e].xferOf xfer false).isSome = true := by rw [Option.isNone_iff_eq_none.mp hx]; decide
  have ward : ¬ (u.pair.peers[e].cfg.ward = false ∨ u.pair.peers[e].fencedOut = true) := by rw [hw, hf]; decide
  have room : ¬ (u.poolFreeBlocks < ceilDiv total 512 ∨ (u.pair.peers[e].cfg.drain = true ∧ areaFits u total = false)) := by
    rw [hd]
    simp [hp]
  have lane : ¬ u.rxLane.isNone = true := by
    obtain ⟨l, hl⟩ := Option.isSome_iff_exists.mp hl
    rw [hl]
    simp
  unfold offerIn
  rw [hc, if_neg (by decide)]
  refine (if_neg fresh).trans ((if_neg fun k => ho k.1).trans ((if_neg ward).trans ((if_neg lane).trans ?_)))
  exact (if_neg (by simp)).trans ((if_neg (by simp)).trans (if_neg room))

end

theorem withXfer_xferOf {e : Peer} {y : Transfer} {u : State} (h : (u.pair.peers[e].xferOf y.xfer y.sending).isNone = true) :
    (withXfer e y u).pair.peers[e].xferOf y.xfer y.sending = some y := by
  have none := Option.isNone_iff_eq_none.mp h
  unfold PeerSt.xferOf at none ⊢
  rw [withXfer, State.onPeer_same]
  dsimp only
  rw [List.find?_append, none]
  simp

/-! ### ACCEPT, DATA and RESEND (R326, R328) -/

/-- A transfer accepted. -/
def nowAccepted (t : Transfer) : Transfer := { t with accepted := true }

theorem acceptIn_queues {u : State} {e : Peer} {xfer : Word} {y : Transfer} (hy : u.pair.peers[e].xferOf xfer true = some y)
    (ha : y.accepted = false) : ∃ v, acceptIn e xfer u = queueData e y (sendOrder y.whole) v
      ∧ sansWork v = sansWork (modXfer e xfer true nowAccepted u) := by
  unfold acceptIn
  rw [hy]
  dsimp only
  rw [if_neg (ne_true_of_eq_false ha)]
  refine ⟨_, rfl, ?_⟩
  split
  · rfl
  · exact snoopRun_sansWork _ _ _ _

/-- The transfer with sectors from `sector` on received; those it held there before are replaced. -/
def withSecs (sector : Nat) (secs : List Sec) (y : Transfer) : Transfer :=
  { y with
    secs := y.secs.filter (fun p => p.1 < sector || sector + secs.length ≤ p.1) ++ secs.zipIdx.map (fun p => (sector + p.2, p.1))
    retx := y.retx + (if isResent y sector then 1 else 0) }

/-- A look at a transfer whose header has not come asks for nothing. -/
theorem rxLook_noHeader {t : Transfer} (h : t.sec? 0 = none) : rxLook t = .go t [] := by
  unfold rxLook
  rw [h]

theorem zipIdx_find {sector : Nat} (secs : List Sec) (n k : Nat) :
    (((secs.zipIdx n).map (fun p => (sector + p.2, p.1))).find? (fun p => p.1 == k)).map (·.2)
      = if sector + n ≤ k then secs[k - (sector + n)]? else none := by
  induction secs generalizing n with
  | nil => simp
  | cons b secs ih =>
    rw [List.zipIdx_cons, List.map_cons]
    by_cases h : sector + n = k
    · rw [List.find?_cons_of_pos (by simpa using h), if_pos h.le, h, Nat.sub_self]
      rfl
    · rw [List.find?_cons_of_neg (by simpa using h), ih]
      by_cases hk : sector + (n + 1) ≤ k
      · have : k - (sector + n) = k - (sector + (n + 1)) + 1 := by omega
        rw [if_pos hk, if_pos (by omega), this, List.getElem?_cons_succ]
      · rw [if_neg hk, if_neg (by omega)]

theorem withSecs_sec (y : Transfer) (sector : Nat) (secs : List Sec) (k : Nat) : (withSecs sector secs y).sec? k
    = (((y.secs.filter (fun p => p.1 < sector || sector + secs.length ≤ p.1)).find? (fun p => p.1 == k)).map (·.2)).or
      (if sector ≤ k then secs[k - sector]? else none) := by
  have new := zipIdx_find (sector := sector) secs 0 k
  rw [Nat.add_zero] at new
  rw [← new, Transfer.sec?, withSecs, List.find?_append, Option.map_or]

theorem withSecs_in {y : Transfer} {sector : Nat} {secs : List Sec} {k : Nat} {b : Sec} (h : secs[k]? = some b) :
    (withSecs sector secs y).sec? (sector + k) = some b := by
  obtain ⟨hk, -⟩ := List.getElem?_eq_some_iff.mp h
  have replaced : (y.secs.filter (fun p => p.1 < sector || sector + secs.length ≤ p.1)).find? (fun p => p.1 == sector + k) = none := by
    rw [List.find?_eq_none]
    intro p hp
    have := (List.mem_filter.mp hp).2
    simp only [Bool.or_eq_true, decide_eq_true_eq] at this
    simp only [beq_iff_eq]
    omega
  rw [withSecs_sec, replaced, if_pos (Nat.le_add_right _ _), Nat.add_sub_cancel_left, h]
  rfl

theorem withSecs_out {y : Transfer} {sector : Nat} {secs : List Sec} {k : Nat} (h : k < sector ∨ sector + secs.length ≤ k) :
    (withSecs sector secs y).sec? k = y.sec? k := by
  have new : (if sector ≤ k then secs[k - sector]? else none) = none := by
    split
    · exact List.getElem?_eq_none (by omega)
    · rfl
  have kept : (y.secs.filter (fun p => p.1 < sector || sector + secs.length ≤ p.1)).find? (fun p => p.1 == k)
      = y.secs.find? (fun p => p.1 == k) := by
    rw [List.find?_filter]
    congr 1
    funext p
    by_cases hp : p.1 = k
    · simp [hp, h]
    · simp [hp]
  rw [withSecs_sec, new, kept, Option.or_none]
  rfl

theorem dataIn_holds {u : State} {e : Peer} {xfer : Word} {y : Transfer} {sector : Nat} {secs : List Sec}
    (hy : u.pair.peers[e].xferOf xfer false = some y) (ha : y.accepted = true) (h0 : y.sec? 0 = none) (hs : 1 ≤ sector)
    (h2 : secs.length ≤ 2) (ht : sector + secs.length ≤ y.total) : ∃ v, dataIn e xfer sector secs u
      = modXfer e xfer false (fun _ => withSecs sector secs y) v
      ∧ sansWork v = sansWork (modXfer e xfer false (fun _ => withSecs sector secs y) u) := by
  obtain ⟨v, hv⟩ : ∃ v, v = snoopRx (withSecs sector secs y) (secs.zipIdx.map (fun p => (sector + p.2, p.1)))
      (modXfer e xfer false (fun _ => withSecs sector secs y) u) := ⟨_, rfl⟩
  have same : sansWork v = sansWork (modXfer e xfer false (fun _ => withSecs sector secs y) u) := hv ▸ snoopRx_sansWork _ _ _
  have pair : v.pair = (modXfer e xfer false (fun _ => withSecs sector secs y) u).pair := (congrArg State.pair same :)
  have held : v.pair.peers[e].xferOf xfer false = some (withSecs sector secs y) := by
    have named := xferOf_is hy
    rw [pair, modXfer_xferOf (f := fun _ => withSecs sector secs y) hy fun _ _ _ => named]
  have look : rxLook (withSecs sector secs y) = .go (withSecs sector secs y) [] := by
    refine rxLook_noHeader ?_
    rw [withSecs_out (.inl hs), h0]
  have settle : rxSettle e xfer v = modXfer e xfer false (fun _ => withSecs sector secs y) v := by
    unfold rxSettle
    rw [held]
    dsimp only
    rw [look]
    rfl
  refine ⟨v, ?_, same⟩
  rw [← settle, hv]
  unfold dataIn
  rw [hy]
  exact if_neg (not_or.mpr ⟨by rw [ha]; decide, not_or.mpr ⟨Nat.not_lt_of_le ht, Nat.not_lt_of_le h2⟩⟩)

theorem resendIn_queues {u : State} {e : Peer} {xfer : Word} {y : Transfer} {sector n : Nat}
    (hy : u.pair.peers[e].xferOf xfer true = some y) (ha : y.accepted = true) (hn : sector + n ≤ y.total) :
    resendIn e xfer sector n u = queueData e y (packetRun sector n) u := by
  unfold resendIn
  rw [hy]
  exact if_pos ⟨ha, hn⟩

/-! ### REFUSE and HELD (R329) -/

theorem refuseIn_ends {u : State} {e : Peer} {xfer : Word} {y : Transfer} (why : Byte)
    (hy : u.pair.peers[e].xferOf xfer true = some y) : refuseIn e xfer why u = endXfer e y why.toNat u := by
  unfold refuseIn
  rw [hy]

/-- The entry notes the highest step its peer holds. -/
def noteHeld (e : Peer) (step : Dword) (u : State) : State :=
  u.onPeer e fun p => { p with lastHeld := if p.lastHeld.toNat < step.toNat then step else p.lastHeld }

/-- An image held at the peer. -/
def nowPaired (i : Image) : Image := { i with paired := true }

theorem heldIn_pairs {u : State} {e : Peer} {xfer : Word} {y : Transfer} {step : Dword}
    (hy : u.pair.peers[e].xferOf xfer true = some y) (hf : y.fetchReply = false) : heldIn e xfer false step u
      = pairOutcome y.owner
        { status := stOK, d0 := (noteHeld e step (dropXfer e xfer true u)).pair.peers[e].cfg.engineId.toNat, d1 := min y.retx 0xFFFFFFFF }
        (modImage y.tenant y.img nowPaired (noteHeld e step (dropXfer e xfer true u))) := by
  unfold heldIn
  rw [hy]
  exact (if_neg (ne_true_of_eq_false hf)).trans (if_neg (by decide))

theorem image_modImage {t : Tenant} {img : Word} {f : Image → Image} {u : State} {j : Image}
    (h : (modImage t img f u).image? t img = some j) : ∃ i, j = f i := by
  have found := List.find?_some h
  obtain ⟨i, -, hi⟩ := List.mem_map.mp (List.mem_of_find?_eq_some h)
  refine ⟨i, ?_⟩
  by_cases hm : i.tenant = t ∧ i.img = img
  · rw [← hi, if_pos hm]
  · rw [if_neg hm] at hi
    subst hi
    simp at found
    exact absurd found hm

/-! ### What taking a packet leaves of the engine -/

/-- An engine that has taken a packet: its entry counted it; the rings, the cairns, the store, the configuration and the
blocks of the pool stay. -/
structure TookFrom (s : State) (x : PairRx) (e : Peer) (u : State) : Prop where
  peer : u.pair.peers[e] = tookPeer x s.now s.pair.peers[e]
  other : ∀ f : Peer, f ≠ e → u.pair.peers[f] = s.pair.peers[f]
  rings : u.rings = s.rings
  cairns : u.cairns = s.cairns
  st : u.st = s.st
  cfg : u.cfg = s.cfg
  rxLane : u.rxLane = s.rxLane
  pool : u.poolFreeBlocks = s.poolFreeBlocks

theorem poolUsed_of_transfers {s t : State} (st : t.st = s.st)
    (h : t.pair.peers.toList.map (·.xfers) = s.pair.peers.toList.map (·.xfers)) : t.poolUsed = s.poolUsed := by
  have count : ∀ u : State, u.pair.peers.toList.foldl (fun n p => n + (p.xfers.filter (fun x => !x.sending && x.accepted)).foldl
      (fun n x => n + ceilDiv x.total 512) 0) 0 = (u.pair.peers.toList.map (·.xfers)).foldl (fun n l =>
        n + (l.filter (fun x => !x.sending && x.accepted)).foldl (fun n x => n + ceilDiv x.total 512) 0) 0 := by
    intro u
    rw [List.foldl_map]
  unfold State.poolUsed
  rw [count t, count s, h, st]

theorem took_transfers (s : State) (x : PairRx) (e : Peer) :
    (Took s x e).pair.peers.toList.map (·.xfers) = s.pair.peers.toList.map (·.xfers) := by
  rw [← Vector.toList_map, ← Vector.toList_map]
  refine congrArg Vector.toList (Vector.ext fun i hi => ?_)
  rw [Vector.getElem_map, Vector.getElem_map]
  by_cases h : (⟨i, hi⟩ : Peer) = e
  · have := took_peer s x e
    subst h
    exact (congrArg PeerSt.xfers this).trans rfl
  · exact congrArg PeerSt.xfers (took_other s x h)

theorem took_tookFrom (s : State) (x : PairRx) (e : Peer) : TookFrom s x e (Took s x e) := by
  have rest := took_sansLink s x e
  refine ⟨took_peer s x e, fun f hf => took_other s x hf, (congrArg State.rings rest :), (congrArg State.cairns rest :),
    (congrArg State.st rest :), (congrArg State.cfg rest :), (congrArg State.rxLane rest :), ?_⟩
  have st : (Took s x e).st = s.st := (congrArg State.st rest :)
  have used := poolUsed_of_transfers st (took_transfers s x e)
  have total : (Took s x e).poolTotal = s.poolTotal := (congrArg State.poolTotal rest :)
  rw [State.poolFreeBlocks, State.poolFreeBlocks, used, total]

theorem TookFrom.xferOf {s u : State} {x : PairRx} {e : Peer} (h : TookFrom s x e u) (xfer : Word) (sending : Bool) :
    u.pair.peers[e].xferOf xfer sending = s.pair.peers[e].xferOf xfer sending := by
  rw [h.peer]
  rfl

theorem sealReport_pair (r : Ring) (c : Cmd) (n : Nat) (o : Outc) (s : State) : (sealReport r c n o s).pair = s.pair := by
  unfold sealReport
  split
  · rfl
  · exact pushEntry_pair _ _ _ _

theorem pairOutcome_pair (own : Option (Ring × Nat)) (o : Outc) (s : State) : (pairOutcome own o s).pair = s.pair := by
  unfold pairOutcome
  split
  · rfl
  · split
    · rfl
    · split
      · exact sealReport_pair _ _ _ _ _
      · exact pushEntry_pair _ _ _ _

theorem endXfer_peer (e : Peer) (y : Transfer) (why : Nat) (u : State) : (endXfer e y why u).pair.peers[e] = { u.pair.peers[e] with
    xfers := u.pair.peers[e].xfers.filter (fun t => !(t.xfer == y.xfer && t.sending == y.sending)) } := by
  have pair : (if y.sending || y.secs.isEmpty then u else abortTap .pairRx u).pair = u.pair := by
    split
    · rfl
    · exact (congrArg State.pair (abortTap_sansMassif .pairRx u) :)
  unfold endXfer
  rw [pairOutcome_pair, dropXfer_peer, pair]

/-- Settles O50: each packet of a transfer as the next in order. -/
theorem imageTransfersFollowPackets : Obligations.ImageTransfersFollowPackets := by
  intro s e x xfer img step total alg root
  have took := took_tookFrom s x e
  refine ⟨fun h hx ho hw => ?_, fun h hx ho hw hf hc hl hp hd => ?_, fun y h hy ha => ?_, fun y sector secs h hy ha h0 hs h2 ht => ?_,
    fun y sector n h hy ha hn => ?_, fun y r c why h hy hown hf hop ht hb => ?_, fun y r c i h hy hown hf hop ht hb hr hi => ?_⟩
  · have run := reliable_inOrder h (.inl ⟨_, _, _, _, _, _, _, rfl⟩)
    generalize Took s x e = u at took run
    have act : deliver e (.offer x xfer img step total alg false root) u = _ := offerIn_noWard
      (by rw [took.xferOf]; exact hx) (by rw [took.st]; exact ho) (by rw [took.peer]; exact hw)
    rw [act, pairQueue_unacked] at run
    exact run rfl
  · have run := reliable_inOrder h (.inl ⟨_, _, _, _, _, _, _, rfl⟩)
    generalize Took s x e = u at took run
    have fresh : (u.pair.peers[e].xferOf xfer false).isNone = true := by rw [took.xferOf]; exact hx
    have act : deliver e (.offer x xfer img step total alg false root) u = _ := offerIn_ward fresh
      (by rw [took.st]; exact ho) (by rw [took.peer]; exact hw) (by rw [took.peer]; exact hf)
      (by rw [State.copiesOf, took.st]; exact hc) (by rw [took.rxLane]; exact hl) (by rw [took.pool]; exact hp)
      (by rw [took.peer]; exact hd)
    have found := withXfer_xferOf (y := offered u e xfer img step total alg root) fresh
    rw [act, pairQueue_peer, withXfer, State.onPeer_same] at run
    refine ⟨_, offered u e xfer img step total alg root, run rfl, ?_, rfl, rfl, rfl, rfl, rfl, ?_, took.rings, storeKept_of_st took.st⟩
    · rw [pairQueue_peer]
      exact found
    · rw [Queued, pairQueue_peer, State.onPeer_same]
  · have run := reliable_inOrder h (.inr (.inl ⟨_, rfl⟩))
    generalize Took s x e = u at took run
    have hy' := (took.xferOf xfer true).trans hy
    obtain ⟨v, queued, same⟩ := acceptIn_queues hy' ha
    have act : deliver e (.accept x xfer) u = _ := queued
    have pair : v.pair = (modXfer e xfer true nowAccepted u).pair := (congrArg State.pair same :)
    rw [act, queueData_peer, pair, modXfer_peer] at run
    refine ⟨_, nowAccepted y, run rfl, ?_, rfl, ?_⟩
    · rw [queueData_peer, pair]
      exact modXfer_xferOf hy' fun _ hx hs => ⟨hx, hs⟩
    · rw [queueData_peer, pair, modXfer_peer, ← (xferOf_is hy).1]
      rfl
  · have run := reliable_inOrder h (.inr (.inr (.inr (.inl ⟨_, _, _, rfl⟩))))
    generalize Took s x e = u at took run
    have hy' := (took.xferOf xfer false).trans hy
    obtain ⟨v, held, same⟩ := dataIn_holds hy' ha h0 hs h2 ht
    have act : deliver e (.data x xfer sector secs) u = _ := held
    have pair : v.pair = (modXfer e xfer false (fun _ => withSecs sector secs y) u).pair := (congrArg State.pair same :)
    rw [act, modXfer_peer, pair, modXfer_peer] at run
    have named := xferOf_is hy
    have first : v.pair.peers[e].xferOf xfer false = some (withSecs sector secs y) := by
      rw [pair, modXfer_xferOf (f := fun _ => withSecs sector secs y) hy' fun _ _ _ => named]
    refine ⟨_, withSecs sector secs y, run rfl, ?_, fun k b hb => withSecs_in hb, fun k hk => withSecs_out hk, ?_⟩
    · exact modXfer_xferOf (f := fun _ => withSecs sector secs y) first fun _ _ _ => named
    · rw [modXfer_peer, pair, modXfer_peer]
  · have run := reliable_inOrder h (.inr (.inr (.inr (.inr (.inr (.inl ⟨_, _, _, rfl⟩))))))
    generalize Took s x e = u at took run
    have act : deliver e (.resend x xfer sector n) u = _ := resendIn_queues ((took.xferOf xfer true).trans hy) ha hn
    rw [act, queueData_peer] at run
    exact run rfl
  · have run := reliable_inOrder h (.inr (.inr (.inl ⟨_, _, rfl⟩)))
    generalize Took s x e = u at took run
    have act : deliver e (.refuse x xfer why) u = _ := refuseIn_ends why ((took.xferOf xfer true).trans hy)
    obtain ⟨answered, others, st, -, xfers⟩ := endXfer_completes (s := u) e why.toNat hown (by rw [took.rings]; exact hf) hop ht
    rw [act, endXfer_peer] at run
    refine ⟨_, run rfl, ?_, ?_, fun q hq => ?_, storeKept_of_st (st.trans took.st)⟩
    · unfold Answered at answered ⊢
      rwa [took.rings] at answered
    · unfold PeerSt.xferOf
      rw [xfers, (xferOf_is hy).1, (xferOf_is hy).2]
      exact xferOf_dropped _ _ _
    · rw [others q hq, took.rings]
  · have run := reliable_inOrder h (.inr (.inr (.inr (.inr (.inl ⟨_, _, _, rfl⟩)))))
    generalize Took s x e = u at took run
    have act : deliver e (.held x xfer false step) u = _ := heldIn_pairs ((took.xferOf xfer true).trans hy) hr
    obtain ⟨v, hv⟩ : ∃ v, v = modImage y.tenant y.img nowPaired (noteHeld e step (dropXfer e xfer true u)) := ⟨_, rfl⟩
    have rings : v.rings = s.rings := by
      rw [hv]
      exact took.rings
    have mem : v.st.mem = s.st.mem := by
      rw [hv]
      exact (congrArg Store.mem took.st :)
    have engine : (noteHeld e step (dropXfer e xfer true u)).pair.peers[e].cfg = s.pair.peers[e].cfg := by
      rw [noteHeld, State.onPeer_same, dropXfer_peer, took.peer]
      rfl
    have peer : v.pair.peers[e].unacked = u.pair.peers[e].unacked := by
      have same : v.pair.peers[e] = (noteHeld e step (dropXfer e xfer true u)).pair.peers[e] := by
        rw [hv]
        rfl
      rw [same, noteHeld, State.onPeer_same, dropXfer_peer]
    obtain ⟨answered, others, st, -, -⟩ := pairOutcome_completes (s := v) (by rw [rings]; exact hf) hop ht (status := stOK) (by decide)
      s.pair.peers[e].cfg.engineId.toNat (min y.retx 0xFFFFFFFF)
    rw [act, ← hv, engine, hown, pairOutcome_pair, peer] at run
    refine ⟨_, run rfl, ?_, fun j hj => ?_, fun q hq => ?_, by rw [st, mem]⟩
    · unfold Answered at answered ⊢
      rwa [rings, BitVec.ofNat_toNat] at answered
    · unfold State.image? at hj
      rw [st, hv] at hj
      obtain ⟨i, rfl⟩ := image_modImage hj
      rfl
    · rw [others q hq, rings]

end Sys2Proof.Proofs

/-! Signals and fetches that come over the Pair link (08, 16). -/

namespace Sys2Proof.Proofs

open Sys2Proof Sys2Proof.Machine Sys2Proof.Safety Sys2Proof.Laws

/-! ### An array at rest stays so through a packet (R28) -/

theorem reloadCrags_programOn (l : List Crag) (s : State) (n : Crag) : (l.foldl reloadCrag s).programOn n = s.programOn n := by
  induction l generalizing s with
  | nil => rfl
  | cons m l ih => rw [List.foldl_cons, ih, reloadCrag_programOn]

theorem atRest_of_programs {s t : State} (h : ArrayAtRest s) (wheels : t.ma.wheels = s.ma.wheels) (rowan : t.ma.rowan = s.ma.rowan)
    (lanes : t.ma.lanes = s.ma.lanes) (rings : t.rings = s.rings) (programs : ∀ n, t.programOn n = s.programOn n) : ArrayAtRest t where
  wheels := by rw [wheels]; exact h.wheels
  engines := by rw [rowan]; exact h.engines
  reads := by rw [rings]; exact h.reads
  crags n := by
    unfold State.hasPes
    rw [programs]
    exact h.crags n
  taps := by rw [lanes]; exact h.taps

/-- A used crag reloaded on the way out of NAP holds the program it held. -/
theorem wakeNap_atRest {s : State} (h : ArrayAtRest s) : ArrayAtRest (wakeNap s) := by
  unfold wakeNap
  split
  · unfold wake
    split
    · exact h
    · exact atRest_of_programs h rfl rfl rfl rfl fun _ => rfl
    · refine atRest_of_programs h ?_ ?_ ?_ ?_ fun n => ?_
      · exact foldl_keeps (fun s : State => s.ma.wheels) reloadCrag (fun _ _ => rfl) _ _
      · exact foldl_keeps (fun s : State => s.ma.rowan) reloadCrag (fun _ _ => rfl) _ _
      · exact foldl_keeps (fun s : State => s.ma.lanes) reloadCrag (fun _ _ => rfl) _ _
      · exact foldl_keeps State.rings reloadCrag (fun _ _ => rfl) _ _
      · exact reloadCrags_programOn _ _ n
  · exact h

theorem took_atRest {s : State} (h : ArrayAtRest s) (x : PairRx) (e : Peer) : ArrayAtRest (Took s x e) := by
  have entry : ∀ (u : State) (f : PeerSt → PeerSt), ArrayAtRest u → ArrayAtRest (u.onPeer e f) :=
    fun u f hu => arrayAtRest_same hu rfl rfl rfl
  unfold Took Met cumAcked
  exact entry _ _ (entry _ _ (entry _ _ (entry _ _ (wakeNap_atRest h))))

/-! ### A signal from the peer leaves the link's entries -/

theorem ringWaitAfter_pair (c : Cairn) (add : Nat) (value : Word) (r : Ring) (s : State) :
    (ringWaitAfter c add value r s).pair = s.pair := by
  obtain h | ⟨w, h⟩ | ⟨n, left, h⟩ := ringWaitAfter_cases c add value r s
  · rw [h]
  · rw [h, complete, pushEntry_pair]
  · rw [h]; rfl

/-- A signal that came over the link is not forwarded (R332). -/
theorem spread_pair (c : Cairn) (add : Word) (s : State) : (spread c 7 add s).pair = s.pair := by
  unfold spread
  rw [if_pos rfl]

theorem applySignal_pair (c : Cairn) (id : Nat) (add : Word) (s : State) : (applySignal c 7 id add s).pair = s.pair := by
  rw [applySignal_eq, spread_pair, ringsWoken, foldl_keeps State.pair _ fun s r => ringWaitAfter_pair c _ _ r s]
  exact (announcing_rest _ _ s).pair

theorem blockSignal_pair (c : Cairn) (kind id : Nat) (s : State) : (blockSignal c kind id s).pair = s.pair :=
  (raiseEvent_kept _ _ _ _ _).pair

/-! ### SIGNAL, SIG_ACK and FETCH (R155, R333, R334) -/

section
variable {u : State} {e : Peer} {k : Byte} {add : Word} {seq : Dword}

theorem signalIn_unloaded (hl : u.cfg.loaded = false) :
    signalIn e k add seq u = pairQueue e 0x21 (sigAckPayload seq 0xC) u := by
  unfold signalIn
  dsimp only
  rw [if_pos hl]

theorem signalIn_blocked (hl : u.cfg.loaded = true) (hk : k.toNat ≤ 127)
    (ho : u.cairns[ix 127 k.toNat].owner ≠ u.pair.peers[e].cfg.tenant) :
    signalIn e k add seq u = pairQueue e 0x21 (sigAckPayload seq 4) (blockSignal (ix 127 k.toNat) 7 e.val u) := by
  unfold signalIn
  dsimp only
  rw [if_neg (by rw [hl]; decide), if_neg (Nat.not_lt_of_le hk), if_pos ho]

theorem signalIn_adds (hl : u.cfg.loaded = true) (hk : k.toNat ≤ 127)
    (ho : u.cairns[ix 127 k.toNat].owner = u.pair.peers[e].cfg.tenant) (h0 : add ≠ 0) (h31 : bit add 31 = false) :
    signalIn e k add seq u
      = pairQueue e 0x21 (sigAckPayload seq 0) (resumeUnits (applySignal (ix 127 k.toNat) 7 e.val add u)) := by
  have right : ¬ (add = 0 ∨ bit add 31 = true) := not_or.mpr ⟨h0, ne_true_of_eq_false h31⟩
  unfold signalIn
  dsimp only
  rw [if_neg (by rw [hl]; decide), if_neg (Nat.not_lt_of_le hk), if_neg (not_not_intro ho), if_neg right]

theorem sigAckIn_ok (h : seq ∈ u.pair.peers[e].sigWait) :
    sigAckIn e seq 0 u = u.onPeer e (fun p => { p with sigWait := p.sigWait.filter (· != seq) }) := by
  unfold sigAckIn
  rw [if_pos (List.contains_iff_mem.mpr h)]
  exact if_pos rfl

theorem fetchIn_refused (xfer : Word) (owner step : Dword) (h : u.pair.peers[e].cfg.take = false) :
    fetchIn e xfer owner step u = pairQueue e 0x12 (refusePayload xfer 0x6B) u := by
  unfold fetchIn
  exact if_pos h

/-- The transfer that serves a FETCH from a copy held. -/
def servedCopy (u : State) (e : Peer) (xfer : Word) (owner step : Dword) (c : Copy) : Transfer :=
  { xfer := xfer, sending := true, step := step, img := c.img, tenant := u.pair.peers[e].cfg.tenant, total := c.total
    root := c.root, alg := c.alg, fetchReply := true, opened := true, ownerId := owner, secs := zipIx c.secs, since := u.now }

/-- The one VALID entry of an ENGINE_ID is found by it. -/
theorem entry_of_engine (hv : u.pair.peers[e].cfg.valid = true)
    (ho : ∀ f : Peer, f ≠ e → u.pair.peers[f].cfg.engineId ≠ u.pair.peers[e].cfg.engineId) :
    (List.finRange 4).find? (fun f => u.pair.peers[f].cfg.valid && u.pair.peers[f].cfg.engineId == u.pair.peers[e].cfg.engineId)
      = some e := by
  cases found : (List.finRange 4).find? (fun f =>
      u.pair.peers[f].cfg.valid && u.pair.peers[f].cfg.engineId == u.pair.peers[e].cfg.engineId) with
  | none =>
    have := List.find?_eq_none.mp found e (List.mem_finRange e)
    rw [hv] at this
    simp at this
  | some f =>
    have same := List.find?_some found
    by_cases h : f = e
    · rw [h]
    · have := ho f h
      rw [Bool.and_eq_true, beq_iff_eq] at same
      exact absurd same.2 this

theorem fetchIn_served (xfer : Word) {step : Dword} {c : Copy} (ht : u.pair.peers[e].cfg.take = true)
    (hv : u.pair.peers[e].cfg.valid = true)
    (ho : ∀ f : Peer, f ≠ e → u.pair.peers[f].cfg.engineId ≠ u.pair.peers[e].cfg.engineId) (hc : u.copiesOf e = [c])
    (hs : c.step = step) : fetchIn e xfer u.pair.peers[e].cfg.engineId step u
      = pairQueue e 0x10 (offerPayload (servedCopy u e xfer u.pair.peers[e].cfg.engineId step c))
          (withXfer e (servedCopy u e xfer u.pair.peers[e].cfg.engineId step c) u) := by
  have copy : (u.copiesOf e).find? (fun c => c.step == step) = some c := by
    rw [hc, List.find?_cons_of_pos (by simpa using hs)]
  unfold fetchIn
  dsimp only
  rw [entry_of_engine hv ho, if_neg (by rw [ht]; decide)]
  dsimp only
  rw [if_neg (not_not_intro rfl), if_pos rfl, copy]
  rfl

end

/-- Settles O51: SIGNAL added, blocked and too early; SIG_ACK; FETCH refused and served. -/
theorem pairSignalsAndFetches : Obligations.PairSignalsAndFetches := by
  intro s e x k add seq
  have took := took_tookFrom s x e
  refine ⟨fun h rest hl hk ho h0 h31 => ?_, fun h hl hk ho => ?_, fun h hl => ?_, fun h hw => ?_, fun xfer owner step h ht => ?_,
    fun xfer step c h ht hv ho hc hs => ?_⟩
  · have run := reliable_inOrder h (.inr (.inr (.inr (.inr (.inr (.inr (.inl ⟨_, _, _, rfl⟩)))))))
    have rest := took_atRest rest x e
    generalize Took s x e = u at took run rest
    have act : deliver e (.pairSignalReceive x k add seq) u = _ := signalIn_adds (by rw [took.cfg]; exact hl) hk
      (by rw [took.cairns, took.peer]; exact ho) h0 h31
    obtain ⟨value, -, -, others⟩ := applySignal_cairns (ix 127 k.toNat) 7 e.val add u
    have still := resumeUnits_rest ((applySignal_untouched (ix 127 k.toNat) 7 e.val add u).atRest rest)
    have pair := applySignal_pair (ix 127 k.toNat) e.val add u
    have st := applySignal_st (ix 127 k.toNat) 7 e.val add u
    rw [act, still] at run
    generalize applySignal (ix 127 k.toNat) 7 e.val add u = v at run value others pair st
    rw [pairQueue_peer, pair] at run
    refine ⟨_, run rfl, ?_, fun c hc => ?_, ?_, storeKept_of_st (st.trans took.st)⟩
    · rw [← took.cairns]
      exact value
    · rw [← took.cairns]
      exact others c hc
    · rw [Queued, pairQueue_peer, pair]
  · have run := reliable_inOrder h (.inr (.inr (.inr (.inr (.inr (.inr (.inl ⟨_, _, _, rfl⟩)))))))
    generalize Took s x e = u at took run
    have act : deliver e (.pairSignalReceive x k add seq) u = _ := signalIn_blocked (by rw [took.cfg]; exact hl) hk
      (by rw [took.cairns, took.peer]; exact ho)
    rw [act, pairQueue_peer, blockSignal_pair] at run
    exact run rfl
  · have run := reliable_inOrder h (.inr (.inr (.inr (.inr (.inr (.inr (.inl ⟨_, _, _, rfl⟩)))))))
    generalize Took s x e = u at took run
    have act : deliver e (.pairSignalReceive x k add seq) u = _ := signalIn_unloaded (by rw [took.cfg]; exact hl)
    rw [act, pairQueue_unacked] at run
    exact run rfl
  · have run := reliable_inOrder h (.inr (.inr (.inr (.inr (.inr (.inr (.inr (.inl ⟨_, _, rfl⟩))))))))
    generalize Took s x e = u at took run
    have act : deliver e (.sigAck x seq 0) u = _ := sigAckIn_ok (by rw [took.peer]; exact hw)
    rw [act, State.onPeer_same] at run
    exact run rfl
  · have run := reliable_inOrder h (.inr (.inr (.inr (.inr (.inr (.inr (.inr (.inr ⟨_, _, _, rfl⟩))))))))
    generalize Took s x e = u at took run
    have act : deliver e (.fetch x xfer owner step) u = _ := fetchIn_refused xfer owner step (by rw [took.peer]; exact ht)
    rw [act, pairQueue_unacked] at run
    exact run rfl
  · have run := reliable_inOrder h (.inr (.inr (.inr (.inr (.inr (.inr (.inr (.inr ⟨_, _, _, rfl⟩))))))))
    generalize Took s x e = u at took run
    have cfg : u.pair.peers[e].cfg = s.pair.peers[e].cfg := by
      rw [took.peer]
      rfl
    have served := fetchIn_served (u := u) (e := e) xfer (by rw [cfg]; exact ht) (by rw [cfg]; exact hv)
      (fun f hf => by rw [took.other f hf, cfg]; exact ho f hf) (by rw [State.copiesOf, took.st]; exact hc) hs
    have act : deliver e (.fetch x xfer s.pair.peers[e].cfg.engineId step) u = _ := cfg ▸ served
    rw [act, pairQueue_peer, withXfer, State.onPeer_same] at run
    refine ⟨_, run rfl, servedCopy u e xfer s.pair.peers[e].cfg.engineId step c, ?_, rfl, rfl, rfl, rfl, rfl, ?_, took.rings,
      storeKept_of_st took.st⟩
    · rw [pairQueue_peer, State.onPeer_same]
      exact List.mem_append_right _ (List.mem_singleton.mpr rfl)
    · rw [Queued, pairQueue_peer, State.onPeer_same]

end Sys2Proof.Proofs

/-! Pair ports, neighbours and the peer table (16). -/

namespace Sys2Proof.Proofs

open Sys2Proof Sys2Proof.Machine Sys2Proof.Safety Sys2Proof.Laws

/-! ### What the end of sessions leaves -/

/-- From `s` to `t` sessions and transfers may end and open: the ports, the entries as configured, memory, the Vault, the
cairns and EXP_RESULT stay. -/
structure TableKept (s t : State) : Prop where
  ports : t.pair.ports = s.pair.ports
  mem : t.st.mem = s.st.mem
  vault : t.st.vault = s.st.vault
  cairns : t.cairns = s.cairns
  expResult : t.cfg.expResult = s.cfg.expResult
  entries : ∀ f : Peer, t.pair.peers[f].cfg = s.pair.peers[f].cfg

namespace TableKept

variable {s t u : State}

theorem refl (s : State) : TableKept s s := ⟨rfl, rfl, rfl, rfl, rfl, fun _ => rfl⟩

theorem trans (a : TableKept s t) (b : TableKept t u) : TableKept s u :=
  ⟨b.ports.trans a.ports, b.mem.trans a.mem, b.vault.trans a.vault, b.cairns.trans a.cairns, b.expResult.trans a.expResult,
    fun f => (b.entries f).trans (a.entries f)⟩

theorem foldl {β : Type} {f : State → β → State} (h : ∀ s b, TableKept s (f s b)) (l : List β) (s : State) :
    TableKept s (l.foldl f s) := by
  induction l generalizing s with
  | nil => exact .refl s
  | cons b l ih => exact (h s b).trans (ih _)

theorem of_pair (pair : t.pair = s.pair) (st : t.st = s.st) (cairns : t.cairns = s.cairns) (cfg : t.cfg.expResult = s.cfg.expResult) :
    TableKept s t := ⟨by rw [pair], by rw [st], by rw [st], cairns, cfg, fun f => by rw [pair]⟩

/-- An entry's state may change but for its configuration. -/
theorem onPeer (s : State) (e : Peer) {f : PeerSt → PeerSt} (h : ∀ p, (f p).cfg = p.cfg) : TableKept s (s.onPeer e f) := by
  refine ⟨rfl, rfl, rfl, rfl, rfl, fun g => ?_⟩
  by_cases hg : g = e
  · subst hg
    rw [State.onPeer_same, h]
  · rw [State.onPeer_other _ _ _ _ hg]

end TableKept

theorem endLoad_expResult (s : State) : (endLoad s).cfg.expResult = s.cfg.expResult := by
  unfold endLoad busyOff
  split <;> rfl

theorem pushEntry_expResult (r : Ring) (c : Cmd) (o : Outc) (s : State) : (pushEntry r c o s).cfg.expResult = s.cfg.expResult := by
  unfold pushEntry
  dsimp only
  split
  · exact endLoad_expResult _
  · rfl

theorem pushEntry_tableKept (r : Ring) (c : Cmd) (o : Outc) (s : State) : TableKept s (pushEntry r c o s) :=
  .of_pair (pushEntry_pair r c o s) (pushEntry_st r c o s) (pushEntry_cairns r c o s) (pushEntry_expResult r c o s)

theorem modCmd_tableKept (r : Ring) (n : Nat) (f : Cmd → Cmd) (s : State) : TableKept s (modCmd r n f s) :=
  .of_pair rfl rfl rfl rfl

theorem pairOutcome_tableKept (own : Option (Ring × Nat)) (o : Outc) (s : State) : TableKept s (pairOutcome own o s) := by
  unfold pairOutcome
  split
  · exact .refl s
  · split
    · exact .refl s
    · split
      · unfold sealReport
        split
        · exact .refl s
        · exact (modCmd_tableKept _ _ _ _).trans (pushEntry_tableKept _ _ _ _)
      · exact pushEntry_tableKept _ _ _ _

theorem abortTap_tableKept (tap : Tap) (s : State) : TableKept s (abortTap tap s) := by
  have same := abortTap_sansMassif tap s
  exact .of_pair (congrArg State.pair same :) (congrArg State.st same :) (congrArg State.cairns same :)
    (congrArg (·.cfg.expResult) same :)

theorem endXfer_tableKept (e : Peer) (y : Transfer) (why : Nat) (s : State) : TableKept s (endXfer e y why s) := by
  have dropped : ∀ u, TableKept u (dropXfer e y.xfer y.sending u) := fun u => .onPeer u e fun _ => rfl
  unfold endXfer
  refine .trans ?_ ((dropped _).trans (pairOutcome_tableKept _ _ _))
  split
  · exact .refl s
  · exact abortTap_tableKept _ s

theorem endXfers_tableKept (e : Peer) (why : Nat) (p : Transfer → Bool) (s : State) : TableKept s (endXfers e why p s) :=
  .foldl (fun s y => endXfer_tableKept e y why s) _ s

theorem endSignals_tableKept (e : Peer) (s : State) : TableKept s (endSignals e s) := .onPeer s e fun _ => rfl

theorem openSession_tableKept (e : Peer) (s : State) : TableKept s (openSession e s) := by
  unfold openSession drawNonce
  refine .trans (t := (draw s).2) ?_ (.onPeer _ e ?_)
  · exact .of_pair rfl rfl rfl rfl
  · exact fun _ => rfl

/-- A session brought in line with its entry, the load and the addresses (R316, Table 16-4). -/
def refreshOne (s : State) (e : Peer) : State :=
  let p := s.pair.peers[e]
  let may := p.cfg.valid && s.cfg.loaded
  if p.sess = .down then (if may && hasAddr s p.cfg true then openSession e s else s)
  else if may && hasAddr s p.cfg false then s
  else endXfers e 0x60 (fun _ => true) (endSignals e (s.onPeer e (fun p => { freshPsns p with sess := .down })))

theorem refreshSessions_eq (s : State) : refreshSessions s = (List.finRange 4).foldl refreshOne s := rfl

theorem refreshOne_tableKept (s : State) (e : Peer) : TableKept s (refreshOne s e) := by
  unfold refreshOne
  dsimp only
  split
  · split
    · exact openSession_tableKept e s
    · exact .refl s
  · split
    · exact .refl s
    · refine .trans ?_ ((endSignals_tableKept e _).trans (endXfers_tableKept _ _ _ _))
      exact .onPeer s e fun _ => rfl

theorem refreshSessions_tableKept (s : State) : TableKept s (refreshSessions s) := .foldl refreshOne_tableKept _ s

/-! ### An entry whose session has ended -/

/-- The entry's session has not come up and it has no transfer. -/
def Ended (e : Peer) (s : State) : Prop :=
  (s.pair.peers[e].sess = .down ∨ s.pair.peers[e].sess = .opening) ∧ s.pair.peers[e].xfers = []

theorem endXfer_other {e f : Peer} (h : f ≠ e) (y : Transfer) (why : Nat) (s : State) :
    (endXfer e y why s).pair.peers[f] = s.pair.peers[f] := by
  have pair : (if y.sending || y.secs.isEmpty then s else abortTap .pairRx s).pair = s.pair := by
    split
    · rfl
    · exact (congrArg State.pair (abortTap_sansMassif .pairRx s) :)
  unfold endXfer
  rw [pairOutcome_pair, dropXfer, State.onPeer_other _ _ _ _ h, pair]

theorem endXfers_other {e f : Peer} (h : f ≠ e) (why : Nat) (p : Transfer → Bool) (s : State) :
    (endXfers e why p s).pair.peers[f] = s.pair.peers[f] :=
  foldl_keeps (fun s : State => s.pair.peers[f]) _ (fun s y => endXfer_other h y why s) _ s

theorem endXfers_all (e : Peer) (why : Nat) (s : State) : (endXfers e why (fun _ => true) s).pair.peers[e].xfers = [] := by
  have all : ∀ (l : List Transfer) (u : State), (∀ y ∈ u.pair.peers[e].xfers, y ∈ l) →
      (l.foldl (fun s y => endXfer e y why s) u).pair.peers[e].xfers = [] := by
    intro l
    induction l with
    | nil => exact fun u h => List.eq_nil_iff_forall_not_mem.mpr fun y hy => List.not_mem_nil (h y hy)
    | cons y l ih =>
      intro u h
      refine ih _ fun z hz => ?_
      rw [endXfer_peer] at hz
      obtain ⟨hz, other⟩ := List.mem_filter.mp hz
      refine (List.mem_cons.mp (h z hz)).resolve_left fun same => ?_
      rw [same] at other
      simp at other
  unfold endXfers
  exact all _ s fun y hy => List.mem_filter.mpr ⟨hy, rfl⟩

theorem openSession_peer (e : Peer) (s : State) : (openSession e s).pair.peers[e].sess = .opening
    ∧ (openSession e s).pair.peers[e].xfers = s.pair.peers[e].xfers := by
  unfold openSession
  dsimp only
  rw [State.onPeer_same]
  exact ⟨rfl, rfl⟩

theorem openSession_other {e f : Peer} (h : f ≠ e) (s : State) : (openSession e s).pair.peers[f] = s.pair.peers[f] :=
  State.onPeer_other _ e _ f h

theorem refreshOne_other {e f : Peer} (h : f ≠ e) (s : State) : (refreshOne s e).pair.peers[f] = s.pair.peers[f] := by
  unfold refreshOne
  dsimp only
  split
  · split
    · exact openSession_other h s
    · rfl
  · split
    · rfl
    · rw [endXfers_other h, endSignals, State.onPeer_other _ _ _ _ h, State.onPeer_other _ _ _ _ h]

theorem refreshOne_ended {e : Peer} {s : State} (f : Peer) (h : Ended e s) : Ended e (refreshOne s f) := by
  by_cases hf : e = f
  · subst hf
    unfold refreshOne
    dsimp only
    split
    · split
      · obtain ⟨sess, xfers⟩ := openSession_peer e s
        exact ⟨.inr sess, xfers.trans h.2⟩
      · exact h
    next nd =>
      split
      · exact h
      · have down := endXfers_all e 0x60 (endSignals e (s.onPeer e fun p => { freshPsns p with sess := .down }))
        refine ⟨.inl ?_, down⟩
        rw [(endXfers_sessionKept e 0x60 _ _).sess, endSignals, State.onPeer_same, State.onPeer_same]
  · unfold Ended
    rw [refreshOne_other hf]
    exact h

theorem refreshSessions_ended {e : Peer} {s : State} (h : Ended e s) : Ended e (refreshSessions s) := by
  have all : ∀ (l : List Peer) (u : State), Ended e u → Ended e (l.foldl refreshOne u) := by
    intro l
    induction l with
    | nil => exact fun u h => h
    | cons f l ih => exact fun u h => ih _ (refreshOne_ended f h)
  exact all _ s h

/-! ### Ports and neighbours (R315, R316, R338) -/

/-- A port up or down. -/
def portSet (p : PPort) (up : Bool) (s : State) : State := s.onPort p fun x => { x with up := up }

section
variable {s : State} {p : PPort}

theorem recap_pair (s : State) : (recap s).pair = s.pair := by
  have same := recap_unadmitted s
  generalize recap s = t at same
  exact (congrArg State.pair same :)

theorem exec_pairPortUp (hm : s.pw.mainOn = true) (hd : s.pw.phase ≠ .deep) (hh : s.pw.phase ≠ .holdUp)
    (ho : s.pair.ports[p].mgmtOff = false) : exec (.pairPortUp p) s = .next (recap (refreshSessions (portSet p true s))) :=
  congrArg Host.Outcome.next (if_neg (not_or.mpr ⟨by rw [hm]; decide, not_or.mpr ⟨hd, not_or.mpr ⟨hh, ne_true_of_eq_false ho⟩⟩⟩))

theorem exec_pairPortDown (hh : s.pw.phase ≠ .holdUp) : exec (.pairPortDown p) s = .next (recap (portSet p false s)) :=
  congrArg Host.Outcome.next (if_neg hh)

variable (hr : s.pw.rdy = true) (hu : s.pair.ports[p].up = true)
include hr hu

theorem exec_arpRequest (asker : Word) (mac : BitVec 48) (h0 : s.pair.ports[p].ip4 ≠ 0) :
    exec (.neighbourMessage p (.arpRequest s.pair.ports[p].ip4 asker mac)) s
      = .next (emit (.eth p.val "arpReply" (bytesBE 6 (Config.mac p.val) ++ bytesLE 4 s.pair.ports[p].ip4 ++ bytesBE 6 mac
          ++ bytesLE 4 asker)) (s.onPort p (fun x => { x with neigh4 := learn asker mac x.neigh4 }))) := by
  change Host.Outcome.next _ = _
  rw [if_neg (by rw [hu, hr]; decide)]
  exact congrArg Host.Outcome.next (if_pos ⟨rfl, h0⟩)

theorem exec_icmpEcho (src dst : BitVec 128) (payload : List Byte) (hd : fld dst 0 32 = s.pair.ports[p].ip4)
    (h0 : s.pair.ports[p].ip4 ≠ 0) : exec (.icmpEcho p false src dst payload) s
      = .next (emit (.eth p.val "icmpEchoReply" (bytesLE 16 dst ++ bytesLE 16 src ++ payload)) s) := by
  have mine : (fld dst 0 32 == s.pair.ports[p].ip4 && s.pair.ports[p].ip4 != 0) = true := by
    rw [Bool.and_eq_true, beq_iff_eq, bne_iff_ne]
    exact ⟨hd, h0⟩
  exact congrArg Host.Outcome.next (if_neg (not_or.mpr ⟨by rw [hu]; decide, not_or.mpr ⟨by rw [hr]; decide,
    fun k => absurd (mine.symm.trans k) (by decide)⟩⟩))

omit hr hu in
theorem exec_icmpEcho_foreign (src dst : BitVec 128) (payload : List Byte) (hd : dst ≠ s.pair.ports[p].ip6) :
    exec (.icmpEcho p true src dst payload) s = .next s := by
  have mine : (dst == s.pair.ports[p].ip6 && s.pair.ports[p].ip6 != 0) = false := by
    rw [beq_eq_false_iff_ne.mpr hd]
    rfl
  exact congrArg Host.Outcome.next (if_pos (.inr (.inr mine)))

end

/-! ### The peer table (R318) -/

/-- The entry with a word rewritten. -/
def withEntry (e : Peer) (c : PeerCfg) (s : State) : State := setExp .applied (s.onPeer e fun p => { p with cfg := c })

/-- A drained entry of no ward is warned of. -/
def warnEntry (e : Peer) (c : PeerCfg) (s : State) : State := if c.valid && c.drain && !c.ward then flagWarn 6 e.val s else s

theorem warnEntry_cfg (e : Peer) (c : PeerCfg) (s : State) : ∃ cfg, warnEntry e c s = { s with cfg := cfg }
    ∧ cfg.expResult = s.cfg.expResult := by
  unfold warnEntry
  split
  · unfold flagWarn
    split
    · exact ⟨s.cfg, rfl, rfl⟩
    · exact ⟨_, rfl, rfl⟩
  · exact ⟨s.cfg, rfl, rfl⟩

theorem warnEntry_tableKept (e : Peer) (c : PeerCfg) (s : State) : TableKept s (warnEntry e c s) := by
  obtain ⟨cfg, warned, same⟩ := warnEntry_cfg e c s
  rw [warned]
  exact .of_pair rfl rfl rfl same

/-- The entry's session closed: its numbers and its peer's nonce gone. -/
def closed (p : PeerSt) : PeerSt := { freshPsns p with sess := .down, fencedOut := false, peerNonce := none }

theorem releaseCopies_tableKept (e : Peer) (cs : List Copy) (s : State) :
    TableKept s (cs.foldl (fun s x => releaseCopy e x.step s) s) :=
  .foldl (f := fun s (x : Copy) => releaseCopy e x.step s) (fun _ _ => ⟨rfl, rfl, rfl, rfl, rfl, fun _ => rfl⟩) cs s

theorem releaseCopies_pair (e : Peer) (cs : List Copy) (s : State) : (cs.foldl (fun s x => releaseCopy e x.step s) s).pair = s.pair :=
  foldl_keeps State.pair (fun s (x : Copy) => releaseCopy e x.step s) (fun _ _ => rfl) cs s

/-- BYE said where a VALID entry with a session goes. -/
def byeSaid (s : State) (e : Peer) (c : PeerCfg) (u : State) : State :=
  if s.pair.peers[e].cfg.valid && !c.valid && decide (s.pair.peers[e].sess ≠ .down) then pairSend e 0x04 (byePayload s e) u else u

/-- The copies held for an entry that goes are released. -/
def copiesFreed (e : Peer) (c : PeerCfg) (u : State) : State :=
  if c.valid then u else (u.copiesOf e).foldl (fun s x => releaseCopy e x.step s) u

theorem byeSaid_tableKept (s : State) (e : Peer) (c : PeerCfg) (u : State) : TableKept u (byeSaid s e c u) := by
  unfold byeSaid
  split
  · have sent : TableKept u (u.onPeer e fun p => { p with lastTx := u.now }) := .onPeer u e fun _ => rfl
    exact ⟨sent.ports, sent.mem, sent.vault, sent.cairns, sent.expResult, sent.entries⟩
  · exact .refl u

theorem copiesFreed_tableKept (e : Peer) (c : PeerCfg) (u : State) : TableKept u (copiesFreed e c u) := by
  unfold copiesFreed
  split
  · exact .refl u
  · exact releaseCopies_tableKept e _ u

theorem copiesFreed_pair (e : Peer) (c : PeerCfg) (u : State) : (copiesFreed e c u).pair = u.pair := by
  unfold copiesFreed
  split
  · rfl
  · exact releaseCopies_pair e _ u

/-- What a change of an entry ends: its signals, its transfers, and the copies of one that goes. -/
def entryEnded (s : State) (e : Peer) (c : PeerCfg) : State :=
  copiesFreed e c (endSignals e (endXfers e 0x6A (fun _ => true) (byeSaid s e c (warnEntry e c (withEntry e c s)))))

theorem entryEnded_tableKept (s : State) (e : Peer) (c : PeerCfg) : TableKept (withEntry e c s) (entryEnded s e c) :=
  (((warnEntry_tableKept e c _).trans (byeSaid_tableKept s e c _)).trans (endXfers_tableKept e _ _ _)).trans
    ((endSignals_tableKept e _).trans (copiesFreed_tableKept e c _))

theorem entryEnded_xfers (s : State) (e : Peer) (c : PeerCfg) : (entryEnded s e c).pair.peers[e].xfers = [] := by
  unfold entryEnded
  rw [copiesFreed_pair, endSignals, State.onPeer_same]
  exact endXfers_all e 0x6A _

section
variable {s : State} {e : Peer} {word : Nat} {v : Word} (hr : s.pw.rdy = true)
include hr

theorem exec_peerEntryWrite_loading (hl : s.cfg.loading = true) : exec (.peerEntryWrite e word v) s = .next (setExp .busy s) :=
  congrArg Host.Outcome.next ((if_neg (by rw [hr]; decide)).trans (if_pos hl))

section
variable (hl : s.cfg.loading = false) (hw : word < 9)
include hl hw

theorem exec_peerEntryWrite_bad (ho : peerOk s e (peerWord s.pair.peers[e].cfg word v) = false) :
    exec (.peerEntryWrite e word v) s = .next (setExp .range s) :=
  congrArg Host.Outcome.next ((if_neg (by rw [hr]; decide)).trans ((if_neg (ne_true_of_eq_false hl)).trans
    ((if_neg (Nat.not_le_of_lt hw)).trans (if_pos ho))))

variable (ho : peerOk s e (peerWord s.pair.peers[e].cfg word v) = true)
include ho

/-- A new LIVE_MS alone leaves the session. -/
theorem exec_peerEntryWrite_live
    (h : word = 0 ∧ { s.pair.peers[e].cfg with liveMs := (peerWord s.pair.peers[e].cfg word v).liveMs }
      = peerWord s.pair.peers[e].cfg word v) : exec (.peerEntryWrite e word v) s
      = .next (warnEntry e (peerWord s.pair.peers[e].cfg word v) (withEntry e (peerWord s.pair.peers[e].cfg word v) s)) :=
  congrArg Host.Outcome.next ((if_neg (by rw [hr]; decide)).trans ((if_neg (ne_true_of_eq_false hl)).trans
    ((if_neg (Nat.not_le_of_lt hw)).trans ((if_neg (by rw [ho]; decide)).trans (if_pos h)))))

/-- Any other change ends the entry's session and its transfers. -/
theorem exec_peerEntryWrite_ends
    (h : ¬(word = 0 ∧ { s.pair.peers[e].cfg with liveMs := (peerWord s.pair.peers[e].cfg word v).liveMs }
      = peerWord s.pair.peers[e].cfg word v)) : exec (.peerEntryWrite e word v) s
      = .next (refreshSessions ((entryEnded s e (peerWord s.pair.peers[e].cfg word v)).onPeer e closed)) :=
  congrArg Host.Outcome.next ((if_neg (by rw [hr]; decide)).trans ((if_neg (ne_true_of_eq_false hl)).trans
    ((if_neg (Nat.not_le_of_lt hw)).trans ((if_neg (by rw [ho]; decide)).trans (if_neg h)))))

end

end

/-- Settles O55: ports up and down, ARP and echo, and the writes of a peer entry. -/
theorem portsAndPeerTable : Obligations.PortsAndPeerTable := by
  refine fun s p e => ⟨fun hm hd hh ho => ?_, fun hh => ?_, fun hr hu => ⟨fun asker mac h0 => ?_, exec_icmpEcho hr hu,
    exec_icmpEcho_foreign⟩, fun word v hr hw => ⟨exec_peerEntryWrite_loading hr, fun hl => exec_peerEntryWrite_bad hr hl hw,
    fun hl ho => ?_⟩⟩
  · have step := exec_pairPortUp hm hd hh ho
    have kept := refreshSessions_tableKept (portSet p true s)
    generalize refreshSessions (portSet p true s) = u at step kept
    have pair := recap_pair u
    have acc := recap_accounted u 3
    have st := recap_st u
    generalize recap u = t at step pair acc st
    refine ⟨_, step, ?_, acc.live, ?_⟩
    · rw [pair, kept.ports, portSet, State.onPort_same]
    · rw [st, kept.mem]
      rfl
  · have pair := recap_pair (portSet p false s)
    have acc := recap_accounted (portSet p false s) 3
    have step := exec_pairPortDown (p := p) hh
    have rings := recap_rings (portSet p false s)
    have st := recap_st (portSet p false s)
    generalize recap (portSet p false s) = t at step pair acc rings st
    refine ⟨t, step, ?_, by rw [pair]; rfl, acc.live, rings, storeKept_of_st st⟩
    rw [pair, portSet, State.onPort_same]
  · refine ⟨_, exec_arpRequest hr hu asker mac h0, rfl, ?_, rfl, rfl, storeKept_of_st rfl⟩
    rw [emit_pair, State.onPort_same]
    exact List.mem_cons_self
  · by_cases h : word = 0 ∧ { s.pair.peers[e].cfg with liveMs := (peerWord s.pair.peers[e].cfg word v).liveMs }
        = peerWord s.pair.peers[e].cfg word v
    · have kept := warnEntry_tableKept e (peerWord s.pair.peers[e].cfg word v) (withEntry e (peerWord s.pair.peers[e].cfg word v) s)
      obtain ⟨cfg, warned, -⟩ := warnEntry_cfg e (peerWord s.pair.peers[e].cfg word v)
        (withEntry e (peerWord s.pair.peers[e].cfg word v) s)
      refine ⟨_, exec_peerEntryWrite_live hr hl hw ho h, ?_, kept.expResult, kept.mem, kept.vault, kept.cairns, fun _ => ?_,
        fun k => absurd h k⟩
      · rw [kept.entries, withEntry, setExp_pair, State.onPeer_same]
      · rw [warned, withEntry]
        exact (congrArg PeerSt.sess (State.onPeer_same s e _) :)
    · have step := exec_peerEntryWrite_ends hr hl hw ho h
      have kept := entryEnded_tableKept s e (peerWord s.pair.peers[e].cfg word v)
      have none := entryEnded_xfers s e (peerWord s.pair.peers[e].cfg word v)
      generalize entryEnded s e (peerWord s.pair.peers[e].cfg word v) = u at step kept none
      have shut : TableKept u (u.onPeer e closed) := .onPeer u e fun _ => rfl
      have all := (kept.trans shut).trans (refreshSessions_tableKept (u.onPeer e closed))
      have ended : Ended e (refreshSessions (u.onPeer e closed)) := by
        refine refreshSessions_ended ⟨.inl ?_, ?_⟩
        · rw [State.onPeer_same, closed]
        · rw [State.onPeer_same]
          exact none
      refine ⟨_, step, ?_, all.expResult, all.mem, all.vault, all.cairns, fun k => absurd k h, fun _ => ⟨?_, ended.2⟩⟩
      · rw [all.entries, withEntry, setExp_pair, State.onPeer_same]
      · rcases ended.1 with k | k <;> rw [k] <;> decide

end Sys2Proof.Proofs

/-! PAIR_SYNC over a session that is GONE, where the ring has run past its head another command of the same number (16). -/

namespace Sys2Proof.Proofs

open Sys2Proof Sys2Proof.Machine Sys2Proof.Safety Sys2Proof.Laws

/-- PAIR_SYNC of a sealed image held here, over a session that is GONE, ends whatever command the ring finds by its number
once it has left the head (R325). -/
theorem exec_pairSync_gone {s : State} {r : Ring} {c : Cmd} {i : Image} (h : Pre.pairSync s r c i)
    (hs : BitVec.ofNat 64 (c.f 0x10 8) = i.step) (hi : i.sealed_ = true) (hn : s.imageSecs i ≠ [])
    (hg : s.pair.peers[ix 3 (c.f 0x1C 1)].sess = .gone) : exec (.pairSync r) s
      = .next (pairOutcome (some (r, c.cid)) { status := stREFUSED, d0 := 0x60 } (leaveHead r c.cid s)) := by
  obtain ⟨started, -, image⟩ := h
  have held : (leaveHead r c.cid s).imageSecs i ≠ [] := hn
  have begun : beginPairing (ix 3 (c.f 0x1C 1)) r c.cid i (leaveHead r c.cid s)
      = pairOutcome (some (r, c.cid)) { status := stREFUSED, d0 := 0x60 } (leaveHead r c.cid s) := by
    have gone : (leaveHead r c.cid s).pair.peers[ix 3 (c.f 0x1C 1)].sess = .gone := hg
    unfold beginPairing beginXfer
    dsimp only
    rw [if_neg held, gone]
  change Host.Outcome.next (headStep r 0x20 (pairSyncAct r) s) = _
  rw [headStep_started started, pairSyncAct, image]
  dsimp only
  rw [if_neg (not_not_intro hs), if_neg (by rw [hi]; decide), begun]

/-- A PAIR_SYNC at its ring's head, TAG 0. -/
def headSync : Cmd := { trb := (0x20 : BitVec 32).setWidth' (by decide), atHead := true, started := true }

/-- A PAIR_SYNC run past the head, of the same number and TAG 256. -/
def pastSync : Cmd := { trb := (0x1000020 : BitVec 32).setWidth' (by decide), started := true }

/-- A sealed image with one sector in staging memory. -/
def syncImage : Image := { tenant := 0, img := 0, sealed_ := true, inStage := true, secs := [{}] }

/-- Ring 0 holds both; entry 0 of the peer table is GONE. -/
def aliasedSync : State :=
  { pw := { phase := .ready, rdy := true }
    rings := (Vector.replicate 16 {}).set 0 { queue := [headSync], past := [pastSync] }
    st := { images := [syncImage] }
    pair := { peers := (Vector.replicate 4 {}).set 0 { sess := .gone } } }

theorem headSync_fields : headSync.op = 0x20 ∧ headSync.f 0x10 8 = 0 ∧ headSync.f 0x18 4 = 0 ∧ headSync.f 0x1C 1 = 0
    ∧ headSync.tag = 0 := by
  decide

theorem pastSync_fields : pastSync.op = 0x20 ∧ pastSync.tag = 256 := by
  decide

theorem aliasedSync_ring : aliasedSync.rings[(0 : Ring)] = { queue := [headSync], past := [pastSync] } := rfl

theorem aliasedSync_peer {e : Peer} (h : e = 0) : aliasedSync.pair.peers[e].sess = .gone := by
  subst h
  rfl

theorem aliasedSync_pre : Pre.pairSync aliasedSync 0 headSync syncImage := by
  obtain ⟨op, -, img, -, -⟩ := headSync_fields
  have head : headCmd aliasedSync 0 = some headSync := by
    have atHead : headSync.atHead = true := rfl
    unfold headCmd
    rw [aliasedSync_ring]
    simp [atHead, State.running, aliasedSync, RingSt.stalled]
  refine ⟨⟨head, op, by rw [aliasedSync_ring]; decide, rfl, rfl, rfl⟩, ?_, ?_⟩
  · rw [aliasedSync_ring]
    rfl
  · rw [img]
    rfl

/-- Once the command has left the head, its ring finds the other one by their number. -/
theorem aliasedSync_found : (leaveHead 0 headSync.cid aliasedSync).rings[(0 : Ring)].find pastSync.cid = some pastSync := by
  rw [leaveHead, State.onRing_same, aliasedSync_ring]
  rfl

/-- Refutes O54: a PAIR_SYNC over a session that is GONE, when a command past its ring's head has the same number, answers that
one. -/
theorem not_pairCommandsOpenTransfers : ¬ Obligations.PairCommandsOpenTransfers := by
  intro h
  obtain ⟨-, step, -, entry, tag⟩ := headSync_fields
  obtain ⟨pastOp, pastTag⟩ := pastSync_fields
  have gone : aliasedSync.pair.peers[ix 3 (headSync.f 0x1C 1)].sess = .gone := by
    refine aliasedSync_peer ?_
    rw [entry]
    rfl
  have held : aliasedSync.imageSecs syncImage ≠ [] := by simp [State.imageSecs, syncImage]
  have named : BitVec.ofNat 64 (headSync.f 0x10 8) = syncImage.step := by
    rw [step]
    rfl
  have run := exec_pairSync_gone aliasedSync_pre named rfl held gone
  obtain ⟨-, -, syncs⟩ := (h aliasedSync 0 headSync).1 syncImage aliasedSync_pre
  obtain ⟨t, run', ⟨e, waiting, etag, -⟩, -⟩ := (syncs named rfl held).1 gone
  have number : headSync.cid = pastSync.cid := rfl
  rw [number, pairOutcome_owner (number ▸ aliasedSync_found) pastOp] at run
  obtain ⟨d, answered, dtag, -⟩ := pushEntry_answers (o := { status := stREFUSED, d0 := 0x60 }) (number ▸ aliasedSync_found) rfl rfl
    (by decide) rfl
  have same : t = pushEntry 0 pastSync { status := stREFUSED, d0 := 0x60 } (leaveHead 0 pastSync.cid aliasedSync) :=
    Host.Outcome.next.inj (run'.symm.trans run)
  rw [same, answered] at waiting
  have ed : d = e := by
    have := List.append_inj_right' waiting rfl
    simpa using this
  rw [ed, etag, tag, pastTag] at dtag
  exact absurd dtag (by decide)

end Sys2Proof.Proofs

/-! ADMIN_QUERY (22): its page is 4,096 bytes, cut into beats and written to the host in order. -/

namespace Sys2Proof.Proofs

open Sys2Proof Sys2Proof.Machine Sys2Proof.Safety Sys2Proof.Laws

/-! ### Bytes of words and beats -/

@[simp] theorem bytesLE_length {w : Nat} (n : Nat) (x : BitVec w) : (bytesLE n x).length = n := by
  simp only [bytesLE, List.length_map, List.length_range]

theorem natLE_byte (bs : List Byte) (i : Nat) : natLE bs / 2 ^ (8 * i) % 2 ^ 8 = ((bs[i]?).getD 0).toNat := by
  induction bs generalizing i with
  | nil => simp [natLE]
  | cons b bs ih =>
    have small := b.isLt
    cases i with
    | zero => simp only [natLE, List.getElem?_cons_zero, Option.getD_some]; omega
    | succ i =>
      rw [List.getElem?_cons_succ, ← ih i, natLE, show 8 * (i + 1) = 8 + 8 * i by omega, Nat.pow_add, ← Nat.div_div_eq_div_mul]
      congr 2
      omega

/-- The bytes of a word made of bytes are those bytes. -/
theorem bytesLE_ofBytes {w n : Nat} {bs : List Byte} (hn : bs.length = n) (hw : 8 * n ≤ w) : bytesLE n (ofBytes w bs) = bs := by
  refine List.ext_getElem (by rw [bytesLE_length, hn]) fun i hi hi' => ?_
  have inside : 8 * i + 8 ≤ w := by
    rw [bytesLE_length] at hi
    omega
  have split : (2 : Nat) ^ w = 2 ^ (8 * i) * (2 ^ 8 * 2 ^ (w - 8 * i - 8)) := by
    rw [← Nat.pow_add, ← Nat.pow_add]
    congr 1
    omega
  refine BitVec.eq_of_toNat_eq ?_
  simp only [bytesLE, List.getElem_map, List.getElem_range, fld, BitVec.extractLsb'_toNat, ofBytes, BitVec.toNat_ofNat,
    Nat.shiftRight_eq_div_pow]
  rw [split, Nat.mod_mul_right_div_self, Nat.mod_mul_right_mod, natLE_byte, List.getElem?_eq_getElem hi', Option.getD_some]

/-- The beats of `m` whole beats' bytes. -/
theorem toBeats_whole {bs : List Byte} {m : Nat} (h : bs.length = 64 * m) :
    toBeats bs = (List.range m).map (fun i => ofBytes 512 ((bs.drop (64 * i)).take 64)) := by
  have count : ceilDiv bs.length 64 = m := by
    rw [ceilDiv, h]
    omega
  rw [toBeats, count]

/-! ### The pages of ADMIN_QUERY are 4,096 bytes -/

@[simp] theorem padTo_length (n : Nat) (bs : List Byte) : (padTo n bs).length = max n bs.length := by
  rw [padTo, List.length_append, List.length_replicate]
  omega

@[simp] theorem wordBytes_length (ws : List Word) : (wordBytes ws).length = 4 * ws.length := by
  simp only [wordBytes, List.length_flatMap, bytesLE_length, List.map_const', List.sum_replicate, smul_eq_mul]
  omega

@[simp] theorem bytesBE_length {w : Nat} (n : Nat) (x : BitVec w) : (bytesBE n x).length = n := by
  rw [bytesBE, List.length_reverse, bytesLE_length]

@[simp] theorem toLE_length (n x : Nat) : (toLE n x).length = n := by
  rw [toLE, List.length_map, List.length_range]

@[simp] theorem imageRecord_length (i : Image) : (imageRecord i).length = 32 := by
  simp only [imageRecord, List.length_append, bytesLE_length, toLE_length, List.length_cons, List.length_nil]

theorem page0_length (s : State) : (page0 s).length = 68 := by
  simp only [page0, padTo_length, List.length_append, wordBytes_length, bytesLE_length, bytesBE_length, List.length_cons,
    List.length_nil, Config.serial]
  omega

theorem page1_length (s : State) (t : Tenant) : (page1 s t).length ≤ 4096 := by
  have records : ((imagesOf s t).take 124).length ≤ 124 := List.length_take_le ..
  simp only [page1, padTo_length, List.length_append, bytesLE_length, toLE_length, List.length_flatMap, imageRecord_length,
    List.map_const', List.sum_replicate, smul_eq_mul]
  omega

theorem page2_length (s : State) (t : Tenant) : (page2 s t).length = 332 := by
  have rows : ∀ (p : Prop) [Decidable p] (ws : List Word) (n : Nat), 4 * ws.length = n →
      (if p then wordBytes ws else List.replicate n 0).length = n := by
    intro p _ ws n h
    split
    · rw [wordBytes_length, h]
    · rw [List.length_replicate]
  have tn : ∀ (p : Prop) [Decidable p] (a b : Word), (if p then wordBytes [a, b] else List.replicate 8 0).length = 8 :=
    fun p _ _ _ => rows p _ 8 rfl
  have rg : ∀ (p : Prop) [Decidable p] (a b c d : Word),
      (if p then wordBytes [a, b, c, d] else List.replicate 16 0).length = 16 := fun p _ _ _ _ _ => rows p _ 16 rfl
  simp only [page2, List.length_append, List.length_flatMap, tn, rg, wordBytes_length, List.map_const', List.sum_replicate,
    List.length_finRange, smul_eq_mul, List.length_cons, List.length_nil]

theorem page3_length (s : State) : (page3 s).length = 124 := by
  simp only [page3, padTo_length, List.length_append, wordBytes_length, List.length_map, List.length_finRange, List.length_cons,
    List.length_nil]
  omega

theorem adminPage_length (s : State) (t : Tenant) (page : Nat) : (adminPage s t page).length = 4096 := by
  unfold adminPage
  rw [padTo_length]
  split
  · rw [page0_length]; rfl
  · exact max_eq_left (page1_length s t)
  · rw [page2_length]; rfl
  · rw [page3_length]; rfl

/-! ### Host writes of data, address translation off (R87, R94, R97) -/

theorem fate_data_untranslated {s : State} {k : Key} (a : Nat) (write : Bool) (hk : k.denied = false) (off : s.link.atsEn = false) :
    s.fate k a write true = .go a { pasid := k.pasid, ro := true, ido := true } := (if_neg (by simp [hk])).trans (if_pos off)

/-- The host write of one beat, the `p.2`-th of a transfer of `len` bytes to `addr`. -/
def beatWrite (k : Key) (addr len : Nat) (p : Beat × Nat) : BusOut :=
  .hostWrite k.ring.val (addr + 64 * p.2) ((bytesLE 64 p.1.data).take (len - 64 * p.2)) false { pasid := k.pasid, ro := true, ido := true }

theorem hostWrites_untranslated {k : Key} (addr len : Nat) (b : Bad) {beats : List Beat} {s : State} (hk : k.denied = false)
    (off : s.link.atsEn = false) (clean : ∀ x ∈ beats, x.psn = false) :
    hostWrites k addr beats len b s = (b, { s with bus := s.bus ++ beats.zipIdx.map (beatWrite k addr len) }) := by
  unfold hostWrites
  have : ∀ (l : List (Beat × Nat)) (s : State), s.link.atsEn = false → (∀ p ∈ l, p.1.psn = false) →
      l.foldl (fun (acc : Bad × State) p => match acc.2.fate k (addr + 64 * p.2) true true with
        | .go xa t => (if p.1.psn then acc.1.add (addr + 64 * p.2) 1 else acc.1,
            emit (.hostWrite k.ring.val xa ((bytesLE 64 p.1.data).take (len - 64 * p.2)) p.1.psn t) acc.2)
        | .fail c => (acc.1.add (addr + 64 * p.2) 1, keyFlt k (addr + 64 * p.2) c true acc.2)
        | .wait => (acc.1.add (addr + 64 * p.2) 1, keyFlt k (addr + 64 * p.2) .atsFail true acc.2)) (b, s)
      = (b, { s with bus := s.bus ++ l.map (beatWrite k addr len) }) := by
    intro l
    induction l with
    | nil => intro s _ _; rw [List.foldl_nil, List.map_nil, List.append_nil]
    | cons p l ih =>
      intro s off clean
      have first := clean p (List.mem_cons_self ..)
      rw [List.foldl_cons, fate_data_untranslated _ _ hk off]
      dsimp only
      rw [if_neg (by rw [first]; decide), ih (emit _ s) off fun q hq => clean q (List.mem_cons_of_mem _ hq), first]
      simp only [emit, List.map_cons, List.append_assoc, List.singleton_append, beatWrite]
  exact this _ _ off fun p hp => clean _ (List.fst_mem_of_mem_zipIdx hp)

theorem writesJudged_untranslated {k : Key} (addrs : List Nat) {s : State} (hk : k.denied = false) (off : s.link.atsEn = false) :
    writesJudged k addrs s = (true, s) := by
  have none : unanswered s k true addrs = [] := by
    rw [unanswered, List.filter_eq_nil_iff]
    intro a _
    rw [fate_data_untranslated a true hk off]
    exact Bool.false_ne_true
  rw [writesJudged, none]

/-! ### The command -/

theorem find_mod {x : RingSt} {c : Cmd} {n : Nat} (h : x.find n = some c) {f : Cmd → Cmd} (hf : ∀ d, (f d).cid = d.cid) :
    (x.mod n f).find n = some (f c) := by
  have rewritten : ∀ l : List Cmd, (l.map (fun d => if d.cid = n then f d else d)).find? (·.cid == n)
      = (l.find? (·.cid == n)).map f := by
    intro l
    induction l with
    | nil => rfl
    | cons d l ih =>
      by_cases hd : d.cid = n
      · simp [hd, hf]
      · simp [hd, ih]
  unfold RingSt.find at h ⊢
  dsimp only [RingSt.mod]
  rw [rewritten, rewritten]
  revert h
  cases x.queue.find? (·.cid == n) with
  | some d =>
    intro h
    injection h with h
    rw [h]
    rfl
  | none =>
    intro h
    dsimp only at h
    rw [h]
    rfl

theorem modCmd_find {s : State} {r : Ring} {c : Cmd} {n : Nat} (h : s.rings[r].find n = some c) {f : Cmd → Cmd}
    (hf : ∀ d, (f d).cid = d.cid) : (modCmd r n f s).rings[r].find n = some (f c) := by
  rw [modCmd, State.onRing_same]
  exact find_mod h hf

/-- The 64 writes are those of the page's 64 pieces. -/
theorem pageWrites (k : Key) (dest : Nat) {bs : List Byte} (h : bs.length = 4096) :
    ((toBeats bs).map (fun d => ({ data := d } : Beat))).zipIdx.map (beatWrite k dest 4096)
      = (List.range 64).map (fun i => BusOut.hostWrite k.ring.val (dest + 64 * i) ((bs.drop (64 * i)).take 64) false
          { pasid := k.pasid, ro := true, ido := true }) := by
  rw [toBeats_whole (m := 64) (by rw [h])]
  refine List.ext_getElem (by simp) fun i hi hi' => ?_
  have inside : i < 64 := by simpa using hi'
  have piece : ((bs.drop (64 * i)).take 64).length = 64 := by
    rw [List.length_take, List.length_drop, h]
    omega
  simp only [List.getElem_map, List.getElem_zipIdx, List.getElem_range, beatWrite, Nat.zero_add, bytesLE_ofBytes piece (by decide : 8 * 64 ≤ 512)]
  rw [List.take_of_length_le (by rw [piece]; omega)]

/-- What ADMIN_QUERY sends: the page cut into 64 pieces. -/
def pageBus (s : State) (r : Ring) (c : Cmd) : List BusOut :=
  (List.range 64).map fun i => .hostWrite r.val (c.f 0x18 8 + 64 * i)
    (((adminPage s (s.ringTenant r) (c.f 0x10 1)).drop (64 * i)).take 64) false { pasid := (s.cmdKey r c).pasid, ro := true, ido := true }

/-- Settles O44: the writes go untranslated, so that none waits and none fails; what they carry is the page cut into 64 pieces. -/
theorem adminQueryWritesItsPage : Obligations.AdminQueryWritesItsPage := by
  intro s r c ⟨started, found, off, allowed⟩
  obtain ⟨head, op, room, begun, trunc, bad⟩ := started
  have found' : (effectOf r c.cid s).rings[r].find c.cid = some { c with effect := true } := modCmd_find found fun _ => rfl
  let page := adminPage s (s.ringTenant r) (c.f 0x10 1)
  have written := hostWrites_untranslated (beats := (toBeats page).map (fun d => ({ data := d } : Beat))) (c.f 0x18 8) 4096 {}
    allowed (s := effectOf r c.cid s) off (by simp)
  rw [pageWrites _ _ (adminPage_length ..)] at written
  have run : exec (.adminQuery r) s = .next (headStep r 0x4F (adminAct r) s) := rfl
  rw [headStep_started ⟨head, op, room, begun, trunc, bad⟩, adminAct, withWrites, writesJudged_untranslated _ allowed off] at run
  dsimp only at run
  rw [written] at run
  dsimp only at run
  rw [found'] at run
  refine ⟨_, run, ?_⟩
  let written := { effectOf r c.cid s with bus := s.bus ++ pageBus s r c }
  let d : Cmd := { c with effect := true }
  let o : Outc := Bad.outc {} (c.f 0x10 1) (if c.f 0x10 1 = 1 then min 124 (imagesOf s (s.ringTenant r)).length else 0)
  have answered : Answered written (pushEntry r d o written) r d stOK (BitVec.ofNat 64 (c.f 0x10 1)) _ :=
    pushEntry_answers (s := written) (c := d) (o := o) found' trunc bad (by decide : stOK ≠ stDISCARDED) rfl
  have quiet := pushEntry_last (s := written) (r := r) (c := d) (o := o) found' (by rw [show d.op = c.op from rfl, op]; decide) rfl
  obtain ⟨e, waiting, tag, status, d0, d1, last⟩ := answered
  refine ⟨?_, ⟨_, e, waiting.trans ?_, tag, status, d0, d1, last⟩, ?_, ?_, ⟨?_, ?_, ?_, ?_⟩, ?_, ?_⟩
  · exact pushEntry_bus r d o written
  · exact congrArg (· ++ [e]) (modCmd_waiting r c.cid _ s)
  · exact fun q hq => (pushEntry_others r d o written q hq).trans (modCmd_others r c.cid _ s q hq)
  · exact pushEntry_cairns r d o written
  · exact (congrArg State.cfg quiet :)
  · exact pushEntry_ma r d o written
  · exact (congrArg State.tenants quiet :)
  · exact (congrArg State.boot quiet :)
  · exact pushEntry_st r d o written
  · intro a
    exact congrArg (fun st : Store => readByte st.mem a) (pushEntry_st r d o written)

end Sys2Proof.Proofs

/-! Gates of crags, lanes and key slots, and the holds of claimed units (10, 18). -/

namespace Sys2Proof.Proofs

open Sys2Proof Sys2Proof.Machine Sys2Proof.Safety Sys2Proof.Laws

/-! ### What the report of a change of units leaves -/

/-- From `s` to `t` only the view of the units, and what an event announces, may change. -/
structure ViewOnly (s t : State) : Prop where
  ma : t.ma = s.ma
  laneGate : t.cfg.laneGate = s.cfg.laneGate
  slotGate : t.cfg.slotGate = s.cfg.slotGate
  holds : t.cfg.holds = s.cfg.holds
  expResult : t.cfg.expResult = s.cfg.expResult
  rings : t.rings = s.rings
  cairns : t.cairns = s.cairns
  st : t.st = s.st

theorem ViewOnly.trans {s t u : State} (a : ViewOnly s t) (b : ViewOnly t u) : ViewOnly s u :=
  ⟨b.ma.trans a.ma, b.laneGate.trans a.laneGate, b.slotGate.trans a.slotGate, b.holds.trans a.holds,
   b.expResult.trans a.expResult, b.rings.trans a.rings, b.cairns.trans a.cairns, b.st.trans a.st⟩

theorem refreshView_viewOnly (s : State) : ViewOnly s (refreshView s) := by
  unfold refreshView
  dsimp only
  split <;> constructor <;> rfl

theorem raiseEvent_viewOnly (code : Nat) (u : Byte) (a0 a1 : Word) (s : State) : ViewOnly s (raiseEvent code u a0 a1 s) :=
  have k := raiseEvent_kept code u a0 a1 s
  ⟨k.ma, by rw [k.cfg], by rw [k.cfg], by rw [k.cfg], by rw [k.cfg], k.rings, k.cairns, k.st⟩

theorem ViewOnly.bits {s t : State} (h : ViewOnly s t) (w : KeepUnit) : gateBits t w = gateBits s w := by
  cases w with
  | crag m => simp only [gateBits, h.ma]
  | lane l => simp only [gateBits, h.laneGate]
  | slot k => simp only [gateBits, h.slotGate]

theorem ViewOnly.keep {s t : State} (h : ViewOnly s t) (w : KeepUnit) : keepUnit t w = keepUnit s w := by
  cases w <;> simp only [keepUnit, h.ma]

/-! ### One unit's gate bits -/

/-- From `s` to `t` one unit's gate bits, outcome and cut change: no other crag, no ring, no cairn, no memory. -/
structure UnitOnly (u : KeepUnit) (s t : State) : Prop where
  crags : ∀ m, u ≠ .crag m → t.ma.crags[m] = s.ma.crags[m]
  rings : t.rings = s.rings
  cairns : t.cairns = s.cairns
  st : t.st = s.st

theorem UnitOnly.refl (u : KeepUnit) (s : State) : UnitOnly u s s := ⟨fun _ _ => rfl, rfl, rfl, rfl⟩

theorem UnitOnly.trans {u : KeepUnit} {s t v : State} (a : UnitOnly u s t) (b : UnitOnly u t v) : UnitOnly u s v :=
  ⟨fun m hm => (b.crags m hm).trans (a.crags m hm), b.rings.trans a.rings, b.cairns.trans a.cairns, b.st.trans a.st⟩

theorem UnitOnly.of_viewOnly {s t : State} (u : KeepUnit) (h : ViewOnly s t) : UnitOnly u s t :=
  ⟨fun m _ => by rw [h.ma], h.rings, h.cairns, h.st⟩

theorem onCrag_unitOnly (n : Crag) (f : CragSt → CragSt) (s : State) : UnitOnly (.crag n) s (s.onCrag n f) :=
  ⟨fun m hm => State.onCrag_other s n f m fun e => hm (by rw [e]), rfl, rfl, rfl⟩

theorem onLane_unitOnly (l : Lane) (f : LaneSt → LaneSt) (s : State) : UnitOnly (.lane l) s (s.onLane l f) :=
  ⟨fun _ _ => rfl, rfl, rfl, rfl⟩

theorem onKey_unitOnly (k : KSlot) (f : KeySt → KeySt) (s : State) : UnitOnly (.slot k) s (s.onKey k f) :=
  ⟨fun _ _ => rfl, rfl, rfl, rfl⟩

theorem setGateBits_unitOnly (u : KeepUnit) (g : Bool × Bool) (s : State) : UnitOnly u s (setGateBits u g s) := by
  cases u with
  | crag n => exact onCrag_unitOnly n _ s
  | lane l => exact ⟨fun _ _ => rfl, rfl, rfl, rfl⟩
  | slot k => exact ⟨fun _ _ => rfl, rfl, rfl, rfl⟩

theorem setOutcome_unitOnly (u : KeepUnit) (v : BitVec 2) (s : State) : UnitOnly u s (setOutcome u v s) := by
  cases u with
  | crag n => exact onCrag_unitOnly n _ s
  | lane l => exact ⟨fun _ _ => rfl, rfl, rfl, rfl⟩
  | slot k => exact ⟨fun _ _ => rfl, rfl, rfl, rfl⟩

theorem cutUnit_unitOnly (u : KeepUnit) (s : State) : UnitOnly u s (cutUnit u s) := by
  cases u with
  | crag n => exact .refl _ s
  | lane l => exact onLane_unitOnly l _ s
  | slot k => exact onKey_unitOnly k _ s

theorem endHold_unitOnly (u : KeepUnit) (s : State) : UnitOnly u s (endHold u s) := ⟨fun _ _ => rfl, rfl, rfl, rfl⟩

theorem gateUnit_unitOnly (u : KeepUnit) (g : Bool × Bool) (s : State) : UnitOnly u s (gateUnit u g s) := by
  have set := setGateBits_unitOnly u g s
  unfold gateUnit
  dsimp only
  split
  · exact .refl u s
  split
  · exact (set.trans (setOutcome_unitOnly u 0 _)).trans (cutUnit_unitOnly u _)
  split
  · exact (set.trans (endHold_unitOnly u _)).trans (setOutcome_unitOnly u 0 _)
  split
  · exact set
  · have begun : UnitOnly u (setGateBits u g s) { setGateBits u g s with
        cfg := { (setGateBits u g s).cfg with holds := (setGateBits u g s).cfg.holds ++ [(u, s.now)] } } :=
      ⟨fun _ _ => rfl, rfl, rfl, rfl⟩
    exact (set.trans begun).trans (setOutcome_unitOnly u 1 _)

theorem setOutcome_bits (u : KeepUnit) (v : BitVec 2) (s : State) (w : KeepUnit) : gateBits (setOutcome u v s) w = gateBits s w := by
  cases u with
  | crag n =>
    cases w with
    | crag m =>
      by_cases h : m = n
      · subst h
        simp only [setOutcome, gateBits, State.onCrag_same]
      · simp only [setOutcome, gateBits, State.onCrag_other s n _ m h]
    | lane l => rfl
    | slot k => rfl
  | lane l => cases w <;> rfl
  | slot k => cases w <;> rfl

theorem cutUnit_bits (u : KeepUnit) (s : State) (w : KeepUnit) : gateBits (cutUnit u s) w = gateBits s w := by
  cases u <;> cases w <;> rfl

theorem endHold_bits (u : KeepUnit) (s : State) (w : KeepUnit) : gateBits (endHold u s) w = gateBits s w := by
  cases w <;> rfl

theorem setGateBits_same {u : KeepUnit} {g : Bool × Bool} (hg : ∀ k, u = .slot k → g.1 = false) (s : State) :
    gateBits (setGateBits u g s) u = g := by
  cases u with
  | crag n => simp only [setGateBits, gateBits, State.onCrag_same]
  | lane l =>
    have clk : bit (setBit (setBit s.cfg.laneGate l.val g.1) (16 + l.val) g.2) l.val = g.1 := by
      rw [bit_setBit _ _ _ (by omega), if_neg (by omega), bit_setBit _ _ _ (by omega), if_pos rfl]
    have pwr : bit (setBit (setBit s.cfg.laneGate l.val g.1) (16 + l.val) g.2) (16 + l.val) = g.2 := by
      rw [bit_setBit _ _ _ (by omega), if_pos rfl]
    exact Prod.ext clk pwr
  | slot k =>
    have cut : bit (setBit s.cfg.slotGate k.val g.2) k.val = g.2 := by
      rw [bit_setBit _ _ _ (by omega), if_pos rfl]
    exact Prod.ext (hg k rfl).symm cut

theorem setGateBits_other {u w : KeepUnit} (h : w ≠ u) (g : Bool × Bool) (s : State) :
    gateBits (setGateBits u g s) w = gateBits s w := by
  cases u with
  | crag n =>
    cases w with
    | crag m =>
      have other : m ≠ n := fun e => h (by rw [e])
      simp only [setGateBits, gateBits, State.onCrag_other s n _ m other]
    | lane l => rfl
    | slot k => rfl
  | lane l =>
    cases w with
    | crag m => rfl
    | lane m =>
      have other : m.val ≠ l.val := fun e => h (by rw [Fin.ext e])
      simp only [setGateBits, gateBits]
      rw [bit_setBit _ _ _ (by omega), if_neg (by omega), bit_setBit _ _ _ (by omega), if_neg other,
        bit_setBit _ _ _ (by omega), if_neg (by omega), bit_setBit _ _ _ (by omega), if_neg (by omega)]
    | slot k => rfl
  | slot k =>
    cases w with
    | crag m => rfl
    | lane l => rfl
    | slot m =>
      have other : m.val ≠ k.val := fun e => h (by rw [Fin.ext e])
      simp only [setGateBits, gateBits]
      rw [bit_setBit _ _ _ (by omega), if_neg other]

theorem gateUnit_bits (u : KeepUnit) (g : Bool × Bool) (s : State) (w : KeepUnit) :
    gateBits (gateUnit u g s) w = gateBits (setGateBits u g s) w ∨ g = gateBits s u ∧ gateBits (gateUnit u g s) w = gateBits s w := by
  unfold gateUnit
  dsimp only
  split
  · next same => exact .inr ⟨same, rfl⟩
  refine .inl ?_
  split
  · rw [cutUnit_bits, setOutcome_bits]
  split
  · rw [setOutcome_bits, endHold_bits]
  split
  · rfl
  · rw [setOutcome_bits]
    cases w <;> rfl

theorem gateUnit_same {u : KeepUnit} {g : Bool × Bool} (hg : ∀ k, u = .slot k → g.1 = false) (s : State) :
    gateBits (gateUnit u g s) u = g := by
  obtain h | ⟨same, h⟩ := gateUnit_bits u g s u
  · rw [h, setGateBits_same hg]
  · rw [h, ← same]

theorem gateUnit_other {u w : KeepUnit} (h : w ≠ u) (g : Bool × Bool) (s : State) : gateBits (gateUnit u g s) w = gateBits s w := by
  obtain k | ⟨-, k⟩ := gateUnit_bits u g s w
  · rw [k, setGateBits_other h]
  · exact k

/-! ### A write of gates -/

theorem gateUnit_given {bits : KeepUnit → Bool × Bool} (slots : ∀ k, (bits (.slot k)).1 = false) (u : KeepUnit) (s : State) :
    gateBits (gateUnit u (bits u) s) u = bits u := by
  refine gateUnit_same ?_ s
  rintro k rfl
  exact slots k

/-- All the units of a write take their bits: `bits` gives each unit's. -/
theorem gateUnits_bits {bits : KeepUnit → Bool × Bool} (slots : ∀ k, (bits (.slot k)).1 = false) :
    ∀ (us : List KeepUnit) (s : State), ∀ u ∈ us, gateBits ((us.map fun u => (u, bits u)).foldl (fun s p => gateUnit p.1 p.2 s) s) u = bits u := by
  have stays : ∀ (us : List KeepUnit) (s : State) (u : KeepUnit), gateBits s u = bits u →
      gateBits ((us.map fun u => (u, bits u)).foldl (fun s p => gateUnit p.1 p.2 s) s) u = bits u := by
    intro us
    induction us with
    | nil => exact fun _ _ h => h
    | cons v us ih =>
      intro s u h
      refine ih _ u ?_
      by_cases e : u = v
      · subst e
        exact gateUnit_given slots u s
      · rw [gateUnit_other e, h]
  intro us
  induction us with
  | nil => exact fun _ _ h => absurd h (List.not_mem_nil)
  | cons v us ih =>
    intro s u hu
    obtain e | hu := List.mem_cons.mp hu
    · subst e
      exact stays us _ u (gateUnit_given slots u s)
    · exact ih _ u hu

theorem gateUnits_unitOnly (w : KeepUnit) {gs : List (KeepUnit × (Bool × Bool))}
    (h : ∀ p ∈ gs, ∀ m : Crag, w ≠ .crag m → p.1 ≠ .crag m) (s : State) :
    UnitOnly w s (gs.foldl (fun s p => gateUnit p.1 p.2 s) s) := by
  induction gs generalizing s with
  | nil => exact .refl w s
  | cons p gs ih =>
    have first := gateUnit_unitOnly p.1 p.2 s
    have first' : UnitOnly w s (gateUnit p.1 p.2 s) :=
      ⟨fun m hm => first.crags m (h p (List.mem_cons_self ..) m hm), first.rings, first.cairns, first.st⟩
    exact first'.trans (ih (fun q hq => h q (List.mem_cons_of_mem _ hq)) _)

theorem gateWrite_refused {gs : List (KeepUnit × (Bool × Bool))} {s : State} (h : ∃ p ∈ gs, gateRefused s p.1 p.2 = true) :
    gateWrite gs s = setExp .guarantee s := if_pos (List.any_eq_true.mpr h)

/-- A write no unit refuses: each unit's bits read as written, and nothing but these units and the view changes. -/
theorem gateWrite_accepted {bits : KeepUnit → Bool × Bool} (slots : ∀ k, (bits (.slot k)).1 = false) {us : List KeepUnit} {s : State}
    (w : KeepUnit) (hw : ∀ u ∈ us, ∀ m : Crag, w ≠ .crag m → u ≠ .crag m) (h : ∀ u ∈ us, gateRefused s u (bits u) = false) :
    ∃ t, gateWrite (us.map fun u => (u, bits u)) s = t ∧ (∀ u ∈ us, gateBits t u = bits u) ∧ t.cfg.expResult = 0 ∧ UnitOnly w s t := by
  have free : ¬ (us.map fun u => (u, bits u)).any (fun p => gateRefused s p.1 p.2) = true := by
    rw [List.any_eq_true]
    rintro ⟨p, hp, refused⟩
    obtain ⟨u, hu, rfl⟩ := List.mem_map.mp hp
    exact Bool.false_ne_true ((h u hu).symm.trans refused)
  have written := gateUnits_bits slots us s
  have only : UnitOnly w s ((us.map fun u => (u, bits u)).foldl (fun s p => gateUnit p.1 p.2 s) s) := by
    refine gateUnits_unitOnly w ?_ s
    intro p hp m hm
    obtain ⟨u, hu, rfl⟩ := List.mem_map.mp hp
    exact hw u hu m hm
  refine ⟨_, if_neg free, fun u hu => ?_, ?_, ?_⟩
  · rw [(refreshView_viewOnly _).bits u, ← written u hu]
    cases u <;> rfl
  · exact (refreshView_viewOnly _).expResult
  · have applied : ∀ v : State, UnitOnly w v (setExp .applied v) := fun _ => ⟨fun _ _ => rfl, rfl, rfl, rfl⟩
    exact (only.trans (applied _)).trans (.of_viewOnly w (refreshView_viewOnly _))

/-! ### The four gate commands -/

/-- The bits a write of LANE_GATE or SLOT_GATE gives each of its units. -/
def wordBits (v : Word) : KeepUnit → Bool × Bool
  | .crag _ => (false, false)
  | .lane l => (bit v l.val, bit v (16 + l.val))
  | .slot k => (false, bit v k.val)

/-- The bits a write of a crag's gates gives it. -/
def cragBits (g : Bool × Bool) : KeepUnit → Bool × Bool
  | .crag _ => g
  | _ => (false, false)

def laneUnits : List KeepUnit := (List.finRange 16).map .lane

def slotUnits : List KeepUnit := (List.finRange 32).map .slot

theorem laneGateWrite_eq (v : Word) (s : State) : laneGateWrite v s = gateWrite (laneUnits.map fun u => (u, wordBits v u)) s := by
  rw [laneUnits, List.map_map]
  rfl

theorem slotGateWrite_eq (v : Word) (s : State) : slotGateWrite v s = gateWrite (slotUnits.map fun u => (u, wordBits v u)) s := by
  rw [slotUnits, List.map_map]
  rfl

/-- A unit turns a write away when the write newly cuts it, it is used and not claimed (R202, R355). -/
theorem gateRefused_iff (s : State) (u : KeepUnit) (g : Bool × Bool) : gateRefused s u g = true ↔
    keepUnit s u = false ∧ usedUnit s u = true
      ∧ ((g.1 = true ∧ (gateBits s u).1 = false) ∨ (g.2 = true ∧ (gateBits s u).2 = false)) := by
  simp only [gateRefused, Bool.and_eq_true, Bool.or_eq_true, Bool.not_eq_true', and_assoc]

theorem gateRefused_false {s : State} {u : KeepUnit} {g : Bool × Bool} (h : usedUnit s u = false ∨ keepUnit s u = true
    ∨ ¬ ((g.1 = true ∧ (gateBits s u).1 = false) ∨ (g.2 = true ∧ (gateBits s u).2 = false))) : gateRefused s u g = false := by
  rw [← Bool.not_eq_true, gateRefused_iff]
  rintro ⟨free, used, cut⟩
  obtain h | h | h := h
  · rw [used] at h
    exact Bool.noConfusion h
  · rw [free] at h
    exact Bool.noConfusion h
  · exact h cut

theorem usedUnit_slot (s : State) (k : KSlot) :
    usedUnit s (.slot k) = true ↔ s.ma.keys[k].given.isSome = true ∨ s.ma.keys[k].loaded = true := by
  rw [usedUnit, Bool.or_eq_true]

theorem crags_of_unitOnly {w : KeepUnit} {s t : State} (h : UnitOnly w s t) (hw : ∀ m, w ≠ .crag m) : t.ma.crags = s.ma.crags :=
  Vector.ext fun i hi => h.crags ⟨i, hi⟩ (hw _)

theorem exec_clkGate {s : State} (ready : s.pw.rdy = true) (n : Crag) (on : Bool) :
    exec (.clkGate n on) s = .next (gateWrite [(.crag n, (on, s.ma.crags[n].pwrGate))] s) :=
  congrArg Host.Outcome.next (if_neg (by rw [ready]; decide))

theorem exec_pwrGate {s : State} (ready : s.pw.rdy = true) (n : Crag) (on : Bool) :
    exec (.pwrGate n on) s = .next (gateWrite [(.crag n, (s.ma.crags[n].clkGate, on))] s) :=
  congrArg Host.Outcome.next (if_neg (by rw [ready]; decide))

theorem exec_laneGate {s : State} (ready : s.pw.rdy = true) (v : Word) : exec (.laneGate v) s = .next (laneGateWrite v s) :=
  congrArg Host.Outcome.next (if_neg (by rw [ready]; decide))

theorem exec_slotGate {s : State} (ready : s.pw.rdy = true) (v : Word) : exec (.slotGate v) s = .next (slotGateWrite v s) :=
  congrArg Host.Outcome.next (if_neg (by rw [ready]; decide))

/-- A write of both gates of one crag that it does not refuse. -/
theorem cragGate_accepted {s : State} {n : Crag} {g : Bool × Bool} (h : gateRefused s (.crag n) g = false) :
    ∃ t, gateWrite [(.crag n, g)] s = t ∧ t.ma.crags[n].clkGate = g.1 ∧ t.ma.crags[n].pwrGate = g.2
      ∧ (∀ m : Crag, m ≠ n → t.ma.crags[m] = s.ma.crags[m]) ∧ t.cfg.expResult = 0 ∧ t.rings = s.rings
      ∧ t.cairns = s.cairns ∧ StoreKept s t := by
  obtain ⟨t, run, bits, exp, only⟩ := gateWrite_accepted (bits := cragBits g) (fun _ => rfl) (us := [.crag n]) (s := s) (.crag n)
    (fun u hu m hm => by rw [List.mem_singleton.mp hu]; exact hm) (fun u hu => by rw [List.mem_singleton.mp hu]; exact h)
  have own : gateBits t (.crag n) = g := bits _ (List.mem_singleton.mpr rfl)
  exact ⟨t, run, congrArg Prod.fst own, congrArg Prod.snd own, fun m hm => only.crags m fun e => hm (KeepUnit.crag.inj e).symm,
    exp, only.rings, only.cairns, storeKept_of_st only.st⟩

/-- A crag that is not newly cut: what a gate that stays adds is no cut. -/
theorem not_cut {a b : Bool} (h : a = false ∨ b = true) : ¬ (a = true ∧ b = false) := by
  rintro ⟨rfl, rfl⟩
  obtain h | h := h <;> exact Bool.noConfusion h

theorem stays_not_cut (b : Bool) : ¬ (b = true ∧ b = false) := by
  rintro ⟨h, k⟩
  rw [h] at k
  exact Bool.noConfusion k

theorem word_ext {a b : Word} (h : ∀ i, i < 32 → bit a i = bit b i) : a = b := BitVec.eq_of_getLsbD_eq h

/-- A write of LANE_GATE that no lane refuses. -/
theorem laneGate_accepted {s : State} {v : Word} (h : ∀ l, gateRefused s (.lane l) (wordBits v (.lane l)) = false) :
    ∃ t, laneGateWrite v s = t ∧ t.cfg.laneGate = v ∧ t.cfg.expResult = 0 ∧ t.ma.crags = s.ma.crags ∧ t.rings = s.rings
      ∧ t.cairns = s.cairns ∧ StoreKept s t := by
  have lanes : ∀ u ∈ laneUnits, ∃ l, u = .lane l := fun u hu => by
    obtain ⟨l, -, rfl⟩ := List.mem_map.mp hu
    exact ⟨l, rfl⟩
  obtain ⟨t, run, bits, exp, only⟩ := gateWrite_accepted (bits := wordBits v) (fun _ => rfl) (us := laneUnits) (s := s) (.lane 0)
    (fun u hu m _ => by obtain ⟨l, rfl⟩ := lanes u hu; exact KeepUnit.noConfusion)
    (fun u hu => by obtain ⟨l, rfl⟩ := lanes u hu; exact h l)
  refine ⟨t, (laneGateWrite_eq v s).trans run, word_ext fun i hi => ?_, exp, crags_of_unitOnly only fun _ => KeepUnit.noConfusion,
    only.rings, only.cairns, storeKept_of_st only.st⟩
  have own : ∀ l : Lane, gateBits t (.lane l) = (bit v l.val, bit v (16 + l.val)) := fun l =>
    bits _ (List.mem_map.mpr ⟨l, List.mem_finRange l, rfl⟩)
  by_cases low : i < 16
  · exact congrArg Prod.fst (own ⟨i, low⟩)
  · have pwr : bit t.cfg.laneGate (16 + (i - 16)) = bit v (16 + (i - 16)) := congrArg Prod.snd (own ⟨i - 16, by omega⟩)
    rwa [show 16 + (i - 16) = i by omega] at pwr

/-- A write of SLOT_GATE that no slot refuses. -/
theorem slotGate_accepted {s : State} {v : Word} (h : ∀ k, gateRefused s (.slot k) (wordBits v (.slot k)) = false) :
    ∃ t, slotGateWrite v s = t ∧ t.cfg.slotGate = v ∧ t.cfg.expResult = 0 ∧ t.ma.crags = s.ma.crags ∧ t.rings = s.rings
      ∧ t.cairns = s.cairns ∧ StoreKept s t := by
  have slots : ∀ u ∈ slotUnits, ∃ k, u = .slot k := fun u hu => by
    obtain ⟨k, -, rfl⟩ := List.mem_map.mp hu
    exact ⟨k, rfl⟩
  obtain ⟨t, run, bits, exp, only⟩ := gateWrite_accepted (bits := wordBits v) (fun _ => rfl) (us := slotUnits) (s := s) (.slot 0)
    (fun u hu m _ => by obtain ⟨k, rfl⟩ := slots u hu; exact KeepUnit.noConfusion)
    (fun u hu => by obtain ⟨k, rfl⟩ := slots u hu; exact h k)
  refine ⟨t, (slotGateWrite_eq v s).trans run, word_ext fun i hi => ?_, exp, crags_of_unitOnly only fun _ => KeepUnit.noConfusion,
    only.rings, only.cairns, storeKept_of_st only.st⟩
  exact congrArg Prod.snd (bits (.slot ⟨i, hi⟩) (List.mem_map.mpr ⟨_, List.mem_finRange _, rfl⟩))

/-! ### Holds that end -/

theorem releaseClaim_unitOnly (u : KeepUnit) (s : State) : UnitOnly u s (releaseClaim u s) := by
  cases u with
  | crag n => exact (onCrag_unitOnly n _ s).trans (onCrag_unitOnly n _ _)
  | lane l => exact (onLane_unitOnly l _ s).trans (onLane_unitOnly l _ _)
  | slot k => exact (onKey_unitOnly k _ s).trans (onKey_unitOnly k _ _)

theorem releaseClaim_bits (u : KeepUnit) (s : State) : gateBits (releaseClaim u s) u = gateBits s u := by
  cases u with
  | crag n => simp only [releaseClaim, zeroCrag, gateBits, State.onCrag_same]
  | lane l => rfl
  | slot k => rfl

/-- What the release of a claim leaves of the unit (R356, R358): unclaimed and zeroised. -/
structure Released (u : KeepUnit) (s : State) : Prop where
  keep : keepUnit s u = false
  crag : ∀ n, u = .crag n → s.ma.crags[n].body = []
  lane : ∀ l, u = .lane l → s.ma.lanes[l].ctx = Vector.replicate 16 {} ∧ s.ma.lanes[l].owned = false
  slot : ∀ k, u = .slot k → s.ma.keys[k].inner = [] ∧ s.ma.keys[k].outer = []

theorem releaseClaim_released (u : KeepUnit) (s : State) : Released u (releaseClaim u s) := by
  cases u with
  | crag n =>
    refine ⟨?_, ?_, ?_, ?_⟩
    · simp only [keepUnit, releaseClaim, State.onCrag_same]
    · rintro _ ⟨rfl⟩
      simp only [releaseClaim, zeroCrag, State.onCrag_same]
    · exact fun _ h => KeepUnit.noConfusion h
    · exact fun _ h => KeepUnit.noConfusion h
  | lane l =>
    refine ⟨?_, ?_, ?_, ?_⟩
    · simp only [keepUnit, releaseClaim, State.onLane_same]
    · exact fun _ h => KeepUnit.noConfusion h
    · rintro _ ⟨rfl⟩
      simp only [releaseClaim, zeroLane, State.onLane_same, and_self]
    · exact fun _ h => KeepUnit.noConfusion h
  | slot k =>
    refine ⟨?_, ?_, ?_, ?_⟩
    · simp only [keepUnit, releaseClaim, State.onKey_same]
    · exact fun _ h => KeepUnit.noConfusion h
    · exact fun _ h => KeepUnit.noConfusion h
    · rintro _ ⟨rfl⟩
      simp only [releaseClaim, zeroKey, State.onKey_same, and_self]

end Sys2Proof.Proofs

/-! Holds of claimed units: their end by release and by refusal (18). -/

namespace Sys2Proof.Proofs

open Sys2Proof Sys2Proof.Machine Sys2Proof.Safety Sys2Proof.Laws

theorem Released.of_viewOnly {u : KeepUnit} {s t : State} (h : Released u s) (v : ViewOnly s t) : Released u t := by
  obtain ⟨keep, crag, lane, slot⟩ := h
  refine ⟨(v.keep u).trans keep, ?_, ?_, ?_⟩
  · rw [v.ma]
    exact crag
  · rw [v.ma]
    exact lane
  · rw [v.ma]
    exact slot

/-- The end of a hold, its outcome and its cut leave the unit released. -/
theorem Released.cut {u : KeepUnit} {s : State} (h : Released u s) : Released u (cutUnit u (setOutcome u 0 (endHold u s))) := by
  obtain ⟨keep, crag, lane, slot⟩ := h
  cases u with
  | crag n =>
    have gated : (cutUnit (.crag n) (setOutcome (.crag n) 0 (endHold (.crag n) s))).ma.crags[n] = { s.ma.crags[n] with gate := 0 } :=
      State.onCrag_same _ _ _
    refine ⟨(congrArg CragSt.keep gated).trans keep, ?_, fun _ h => KeepUnit.noConfusion h, fun _ h => KeepUnit.noConfusion h⟩
    rintro _ ⟨rfl⟩
    exact (congrArg CragSt.body gated).trans (crag n rfl)
  | lane l =>
    have gated : (cutUnit (.lane l) (setOutcome (.lane l) 0 (endHold (.lane l) s))).ma.lanes[l]
        = { s.ma.lanes[l] with clkOff := (gateBits s (.lane l)).1, pwrOff := (gateBits s (.lane l)).2 } := State.onLane_same _ _ _
    refine ⟨(congrArg LaneSt.keep gated).trans keep, fun _ h => KeepUnit.noConfusion h, ?_, fun _ h => KeepUnit.noConfusion h⟩
    rintro _ ⟨rfl⟩
    exact ⟨(congrArg LaneSt.ctx gated).trans (lane l rfl).1, (congrArg LaneSt.owned gated).trans (lane l rfl).2⟩
  | slot k =>
    have gated : (cutUnit (.slot k) (setOutcome (.slot k) 0 (endHold (.slot k) s))).ma.keys[k]
        = { s.ma.keys[k] with off := (gateBits s (.slot k)).2 } := State.onKey_same _ _ _
    refine ⟨(congrArg KeySt.keep gated).trans keep, fun _ h => KeepUnit.noConfusion h, fun _ h => KeepUnit.noConfusion h, ?_⟩
    rintro _ ⟨rfl⟩
    exact ⟨(congrArg KeySt.inner gated).trans (slot k rfl).1, (congrArg KeySt.outer gated).trans (slot k rfl).2⟩

/-- The unit of a read-back that failed twice is fenced where it can be (R359). -/
def fenceHeldUnit (u : KeepUnit) (s : State) : State :=
  match u with
  | .crag n => s.onCrag n (fun x => { x with fenced := true })
  | .lane l => s.onLane l (fun x => { x with fenced := true })
  | .slot _ => s

/-- The Steward notes the unit whose power is fenced. -/
def notePowerFence (u : KeepUnit) (s : State) : State :=
  { s with wd := { s.wd with powerFenced := nIns (keepNum u) s.wd.powerFenced } }

theorem zeroFail_viewOnly (u : KeepUnit) (s : State) : ViewOnly (fenceHeldUnit u (notePowerFence u s)) (zeroFail u s) := by
  have told : zeroFail u s = refreshView (raiseEvent 0x0A02 (BitVec.ofNat 8 (keepNum u)) 0 0
      (raiseEvent 0x0601 (BitVec.ofNat 8 (keepNum u)) 0 3 (fenceHeldUnit u (notePowerFence u s)))) := by cases u <;> rfl
  rw [told]
  generalize fenceHeldUnit u (notePowerFence u s) = v
  exact ((raiseEvent_viewOnly ..).trans (raiseEvent_viewOnly ..)).trans (refreshView_viewOnly _)

theorem fenceHeldUnit_unitOnly (u : KeepUnit) (s : State) : UnitOnly u s (fenceHeldUnit u s) := by
  cases u with
  | crag n => exact onCrag_unitOnly n _ s
  | lane l => exact onLane_unitOnly l _ s
  | slot k => exact .refl _ s

theorem fenceHeldUnit_bits (u : KeepUnit) (s : State) : gateBits (fenceHeldUnit u s) u = gateBits s u := by
  cases u with
  | crag n => simp only [fenceHeldUnit, gateBits, State.onCrag_same]
  | lane l => rfl
  | slot k => rfl

theorem fenceHeldUnit_fenced (u : KeepUnit) (s : State) : (∀ n, u = .crag n → (fenceHeldUnit u s).ma.crags[n].fenced = true)
    ∧ ∀ l, u = .lane l → (fenceHeldUnit u s).ma.lanes[l].fenced = true := by
  constructor
  · rintro n rfl
    exact congrArg CragSt.fenced (State.onCrag_same s n _)
  · rintro l rfl
    exact congrArg LaneSt.fenced (State.onLane_same s l _)

theorem fenceHeldUnit_holds (u : KeepUnit) (s : State) : (fenceHeldUnit u s).cfg.holds = s.cfg.holds := by cases u <;> rfl

theorem Released.fence {u : KeepUnit} {s : State} (h : Released u s) : Released u (fenceHeldUnit u s) := by
  obtain ⟨keep, crag, lane, slot⟩ := h
  cases u with
  | crag n =>
    have fenced : (fenceHeldUnit (.crag n) s).ma.crags[n] = { s.ma.crags[n] with fenced := true } := State.onCrag_same _ _ _
    refine ⟨(congrArg CragSt.keep fenced).trans keep, ?_, fun _ h => KeepUnit.noConfusion h, fun _ h => KeepUnit.noConfusion h⟩
    rintro _ ⟨rfl⟩
    exact (congrArg CragSt.body fenced).trans (crag n rfl)
  | lane l =>
    have fenced : (fenceHeldUnit (.lane l) s).ma.lanes[l] = { s.ma.lanes[l] with fenced := true } := State.onLane_same _ _ _
    refine ⟨(congrArg LaneSt.keep fenced).trans keep, fun _ h => KeepUnit.noConfusion h, ?_, fun _ h => KeepUnit.noConfusion h⟩
    rintro _ ⟨rfl⟩
    exact ⟨(congrArg LaneSt.ctx fenced).trans (lane l rfl).1, (congrArg LaneSt.owned fenced).trans (lane l rfl).2⟩
  | slot k => exact ⟨keep, crag, lane, slot⟩

/-- The unit after its release, its hold ended and its cut in effect. -/
def releasedUnit (u : KeepUnit) (s : State) : State := cutUnit u (setOutcome u 0 (endHold u (releaseClaim u s)))

theorem cutUnit_holds (u : KeepUnit) (s : State) : (cutUnit u s).cfg.holds = s.cfg.holds := by cases u <;> rfl

theorem setOutcome_holds (u : KeepUnit) (v : BitVec 2) (s : State) : (setOutcome u v s).cfg.holds = s.cfg.holds := by cases u <;> rfl

theorem endHold_holds (u : KeepUnit) (s : State) : ∀ h ∈ (endHold u s).cfg.holds, h.1 ≠ u := by
  intro h hh
  have kept : (h.1 != u) = true := (List.mem_filter.mp hh).2
  exact bne_iff_ne.mp kept

theorem releasedUnit_holds (u : KeepUnit) (s : State) : ∀ h ∈ (releasedUnit u s).cfg.holds, h.1 ≠ u := by
  rw [releasedUnit, cutUnit_holds, setOutcome_holds]
  exact endHold_holds u _

theorem releasedUnit_bits (u : KeepUnit) (s : State) : gateBits (releasedUnit u s) u = gateBits s u := by
  rw [releasedUnit, cutUnit_bits, setOutcome_bits, endHold_bits, releaseClaim_bits]

theorem releasedUnit_unitOnly (u : KeepUnit) (s : State) : UnitOnly u s (releasedUnit u s) :=
  (((releaseClaim_unitOnly u s).trans (endHold_unitOnly u _)).trans (setOutcome_unitOnly u 0 _)).trans (cutUnit_unitOnly u _)

/-- KEEP_CLAIM_RELEASE of a held unit that is no LOADED slot (R356, R357). -/
theorem exec_keepClaimRelease {s : State} {u : KeepUnit} {fails : Nat} (ready : s.pw.rdy = true) (held : ∃ h ∈ s.cfg.holds, h.1 = u)
    (empty : ∀ k, u = .slot k → s.ma.keys[k].loaded = false) : exec (.keepClaimRelease u fails) s
      = .next (refreshView (if 2 ≤ fails then zeroFail u (releasedUnit u s) else releasedUnit u s)) := by
  have holds : heldUnit s u = true := by
    obtain ⟨h, hh, rfl⟩ := held
    exact List.any_eq_true.mpr ⟨h, hh, beq_self_eq_true _⟩
  have acts : ¬ (s.pw.rdy = false ∨ heldUnit s u = false ∨ (match u with | .slot k => s.ma.keys[k].loaded | _ => false) = true) := by
    rw [ready, holds]
    rintro (h | h | h)
    · exact Bool.noConfusion h
    · exact Bool.noConfusion h
    · cases u with
      | crag n => exact Bool.noConfusion h
      | lane l => exact Bool.noConfusion h
      | slot k => exact Bool.false_ne_true ((empty k rfl).symm.trans h)
  cases u <;> exact congrArg Host.Outcome.next (if_neg acts)

/-- What a release leaves, read back or not (R359). -/
theorem release_facts (u : KeepUnit) (fails : Nat) (s : State) :
    ∃ v, ViewOnly v (refreshView (if 2 ≤ fails then zeroFail u (releasedUnit u s) else releasedUnit u s)) ∧ Released u v
      ∧ (∀ h ∈ v.cfg.holds, h.1 ≠ u) ∧ gateBits v u = gateBits s u ∧ UnitOnly u s v
      ∧ (2 ≤ fails → (∀ n, u = .crag n → v.ma.crags[n].fenced = true) ∧ ∀ l, u = .lane l → v.ma.lanes[l].fenced = true) := by
  have released : Released u (releasedUnit u s) := (releaseClaim_released u s).cut
  have holds := releasedUnit_holds u s
  have bits := releasedUnit_bits u s
  have only := releasedUnit_unitOnly u s
  generalize releasedUnit u s = v at released holds bits only ⊢
  split
  · have noted : ViewOnly v (notePowerFence u v) := by constructor <;> rfl
    refine ⟨fenceHeldUnit u (notePowerFence u v), (zeroFail_viewOnly u v).trans (refreshView_viewOnly _), (released.of_viewOnly noted).fence,
      ?_, ?_, (only.trans (.of_viewOnly u noted)).trans (fenceHeldUnit_unitOnly u _), fun _ => fenceHeldUnit_fenced u _⟩
    · rw [fenceHeldUnit_holds]
      exact holds
    · rw [fenceHeldUnit_bits, noted.bits, bits]
  · next few => exact ⟨v, refreshView_viewOnly v, released, holds, bits, only, fun h => absurd h few⟩

/-! ### KEEP_HOLD_REFUSED -/

theorem setGateBits_keep (u : KeepUnit) (g : Bool × Bool) (s : State) (w : KeepUnit) : keepUnit (setGateBits u g s) w = keepUnit s w := by
  cases u with
  | crag n =>
    cases w with
    | crag m =>
      by_cases h : m = n
      · subst h
        simp only [setGateBits, keepUnit, State.onCrag_same]
      · simp only [setGateBits, keepUnit, State.onCrag_other s n _ m h]
    | lane l => rfl
    | slot k => rfl
  | lane l => cases w <;> rfl
  | slot k => cases w <;> rfl

theorem setOutcome_keep (u : KeepUnit) (v : BitVec 2) (s : State) (w : KeepUnit) : keepUnit (setOutcome u v s) w = keepUnit s w := by
  cases u with
  | crag n =>
    cases w with
    | crag m =>
      by_cases h : m = n
      · subst h
        simp only [setOutcome, keepUnit, State.onCrag_same]
      · simp only [setOutcome, keepUnit, State.onCrag_other s n _ m h]
    | lane l => rfl
    | slot k => rfl
  | lane l => cases w <;> rfl
  | slot k => cases w <;> rfl

/-- The unit after its hold was refused: uncut, its outcome 2. -/
def refusedUnit (u : KeepUnit) (s : State) : State := setOutcome u 2 (setGateBits u (false, false) (endHold u s))

theorem refusedUnit_bits (u : KeepUnit) (s : State) : gateBits (refusedUnit u s) u = (false, false) := by
  rw [refusedUnit, setOutcome_bits, setGateBits_same fun _ _ => rfl]

theorem refusedUnit_keep (u : KeepUnit) (s : State) : keepUnit (refusedUnit u s) u = keepUnit s u := by
  rw [refusedUnit, setOutcome_keep, setGateBits_keep]
  cases u <;> rfl

theorem refusedUnit_unitOnly (u : KeepUnit) (s : State) : UnitOnly u s (refusedUnit u s) :=
  ((endHold_unitOnly u s).trans (setGateBits_unitOnly u _ _)).trans (setOutcome_unitOnly u 2 _)

theorem refusedUnit_holds {u : KeepUnit} {t0 : Nat} {s : State} (h : s.cfg.holds = [(u, t0)]) : (refusedUnit u s).cfg.holds = [] := by
  have set : ∀ v : State, (setGateBits u (false, false) v).cfg.holds = v.cfg.holds := by cases u <;> exact fun _ => rfl
  rw [refusedUnit, setOutcome_holds, set]
  change s.cfg.holds.filter (fun h => h.1 != u) = []
  rw [h]
  simp

theorem exec_keepHoldRefused {u : KeepUnit} {t0 : Nat} {s : State} (up : s.pw.phase ≠ .holdUp) (h : s.cfg.holds = [(u, t0)]) :
    exec (.keepHoldRefused u) s
      = .next (raiseEvent 0x0A01 (BitVec.ofNat 8 (keepNum u)) 0 0 (advanceTo (t0 + 100000) (refusedUnit u s))) := by
  have found : (if s.pw.phase = .holdUp then none else s.cfg.holds.find? (fun h => h.1 == u)) = some (u, t0) := by
    rw [if_neg up, h]
    exact List.find?_cons_of_pos (by exact beq_self_eq_true u)
  change Host.Outcome.next (match (if s.pw.phase = .holdUp then none else s.cfg.holds.find? (fun h => h.1 == u)) with
    | none => s
    | some h => raiseEvent 0x0A01 (BitVec.ofNat 8 (keepNum u)) 0 0 (advanceTo (h.2 + 100000) (refusedUnit u s))) = _
  rw [found]

theorem keepHoldRefused_ends (s : State) (u : KeepUnit) (t0 : Nat) (up : s.pw.phase ≠ .holdUp) (h : s.cfg.holds = [(u, t0)]) :
    ∃ t, exec (.keepHoldRefused u) s = .next t ∧ t.cfg.holds = [] ∧ gateBits t u = (false, false)
      ∧ t0 + 100000 ≤ t.now ∧ keepUnit t u = keepUnit s u ∧ t.rings = s.rings ∧ t.cairns = s.cairns ∧ StoreKept s t := by
  have bits := refusedUnit_bits u s
  have keep := refusedUnit_keep u s
  have only := refusedUnit_unitOnly u s
  have holds := refusedUnit_holds h
  refine ⟨_, exec_keepHoldRefused up h, ?_⟩
  generalize refusedUnit u s = v at bits keep only holds ⊢
  have late : ViewOnly v (advanceTo (t0 + 100000) v) := by constructor <;> rfl
  have told := late.trans (raiseEvent_viewOnly 0x0A01 (BitVec.ofNat 8 (keepNum u)) 0 0 _)
  refine ⟨told.holds.trans holds, (told.bits u).trans bits, ?_, (told.keep u).trans keep, told.rings.trans only.rings,
    told.cairns.trans only.cairns, storeKept_of_st (told.st.trans only.st)⟩
  rw [(raiseEvent_kept ..).now]
  exact le_max_right _ _

/-- Settles O46: a write of gates asks each of its units first; a hold ends with the unit released, or with its bits back at 0. -/
theorem gatesAndHolds : Obligations.GatesAndHolds := by
  refine ⟨fun s ready => ⟨fun n on => ⟨?_, ?_, ?_, ?_⟩, fun v => ⟨?_, ?_⟩, fun v => ⟨?_, ?_⟩⟩, ?_, keepHoldRefused_ends⟩
  · intro used free cut uncut
    refine (exec_clkGate ready n on).trans (congrArg _ (gateWrite_refused ⟨_, List.mem_singleton.mpr rfl, ?_⟩))
    exact (gateRefused_iff ..).mpr ⟨free, used, .inl ⟨cut, uncut⟩⟩
  · intro h
    have accepted : gateRefused s (.crag n) (on, s.ma.crags[n].pwrGate) = false := by
      refine gateRefused_false ?_
      obtain h | h | h := h
      · exact .inl h
      · exact .inr (.inl h)
      · exact .inr (.inr (not_or.mpr ⟨not_cut h, stays_not_cut _⟩))
    obtain ⟨t, run, facts⟩ := cragGate_accepted accepted
    exact ⟨t, (exec_clkGate ready n on).trans (congrArg _ run), facts⟩
  · intro used free cut uncut
    refine (exec_pwrGate ready n on).trans (congrArg _ (gateWrite_refused ⟨_, List.mem_singleton.mpr rfl, ?_⟩))
    exact (gateRefused_iff ..).mpr ⟨free, used, .inr ⟨cut, uncut⟩⟩
  · intro h
    have accepted : gateRefused s (.crag n) (s.ma.crags[n].clkGate, on) = false := by
      refine gateRefused_false ?_
      obtain h | h | h := h
      · exact .inl h
      · exact .inr (.inl h)
      · exact .inr (.inr (not_or.mpr ⟨stays_not_cut _, not_cut h⟩))
    obtain ⟨t, run, clk, pwr, facts⟩ := cragGate_accepted accepted
    exact ⟨t, (exec_pwrGate ready n on).trans (congrArg _ run), pwr, clk, facts⟩
  · rintro ⟨l, owned, free, cut⟩
    refine (exec_laneGate ready v).trans (congrArg _ ((laneGateWrite_eq v s).trans (gateWrite_refused ⟨(.lane l, wordBits v (.lane l)), ?_, ?_⟩)))
    · exact List.mem_map.mpr ⟨.lane l, List.mem_map.mpr ⟨l, List.mem_finRange l, rfl⟩, rfl⟩
    · exact (gateRefused_iff ..).mpr ⟨free, owned, cut⟩
  · intro h
    obtain ⟨t, run, facts⟩ := laneGate_accepted (s := s) (v := v) fun l => gateRefused_false (h l)
    exact ⟨t, (exec_laneGate ready v).trans (congrArg _ run), facts⟩
  · rintro ⟨k, used, free, cut⟩
    refine (exec_slotGate ready v).trans (congrArg _ ((slotGateWrite_eq v s).trans (gateWrite_refused ⟨(.slot k, wordBits v (.slot k)), ?_, ?_⟩)))
    · exact List.mem_map.mpr ⟨.slot k, List.mem_map.mpr ⟨k, List.mem_finRange k, rfl⟩, rfl⟩
    · exact (gateRefused_iff ..).mpr ⟨free, (usedUnit_slot s k).mpr used, .inr cut⟩
  · intro h
    have accepted : ∀ k, gateRefused s (.slot k) (wordBits v (.slot k)) = false := by
      intro k
      refine gateRefused_false ?_
      obtain h | h | h := h k
      · exact .inl (eq_false_of_ne_true fun used => h ((usedUnit_slot s k).mp used))
      · exact .inr (.inl h)
      · exact .inr (.inr (not_or.mpr ⟨fun clk => Bool.noConfusion clk.1, h⟩))
    obtain ⟨t, run, facts⟩ := slotGate_accepted (s := s) (v := v) accepted
    exact ⟨t, (exec_slotGate ready v).trans (congrArg _ run), facts⟩
  · intro s u fails ready held empty
    obtain ⟨v, view, ⟨keep, crag, lane, slot⟩, holds, bits, only, fenced⟩ := release_facts u fails s
    refine ⟨_, exec_keepClaimRelease ready held empty, (view.keep u).trans keep, ?_, (view.bits u).trans bits, ?_, ?_, ?_, ?_,
      view.rings.trans only.rings, view.cairns.trans only.cairns, storeKept_of_st (view.st.trans only.st)⟩
    · rw [view.holds]
      exact holds
    · rw [view.ma]
      exact crag
    · rw [view.ma]
      exact lane
    · rw [view.ma]
      exact slot
    · rw [view.ma]
      exact fenced

end Sys2Proof.Proofs

/-! Reads and writes of BAR0 (22): the TRB bytes of a ring, the records of cairns, and accesses that only count. -/

namespace Sys2Proof.Proofs

open Sys2Proof Sys2Proof.Machine Sys2Proof.Safety Sys2Proof.Laws

theorem bar0Up_of_up {s : State} (h : Up s) : s.bar0Up = true := by
  rw [State.bar0Up, h.2]

theorem ix_val {n : Nat} (i : Fin (n + 1)) {k : Nat} (h : k = i.val) : ix n k = i := by
  rw [ix, dif_pos (h ▸ i.isLt)]
  exact Fin.ext h

/-! ### The TRB bytes -/

section
variable (r : Ring)

/-- The offset of ring `r`'s TRB bytes. -/
def trbOff : Nat := 0x10000 + 0x1000 * r.val

theorem trbOff_page : trbOff r % 0x1000 = 0 := by
  unfold trbOff
  omega

theorem trbOff_ring : ix 15 (trbOff r % 0x10000 / 0x1000) = r := by
  refine ix_val r ?_
  unfold trbOff
  omega

theorem inTrb_trbOff : inTrb (trbOff r) = true := by
  have block : trbOff r / 0x10000 = 1 := by
    unfold trbOff
    omega
  rw [inTrb, block, trbOff_page]
  decide

theorem trbShape_trbOff : trbShape (trbOff r) 64 = true := by
  have aligned : trbOff r % 64 = 0 := by
    unfold trbOff
    omega
  rw [trbShape, aligned]
  decide

/-- A write of all 64 bytes replaces them. -/
theorem trbWrite_whole (v : BitVec 512) (s : State) : trbWrite r 0 64 v s = s.onRing r (fun x => { x with trb := v }) := by
  have whole : ∀ x : BitVec 512, (x &&& ~~~ BitVec.ofNat 512 ((2 ^ (8 * 64) - 1) * 2 ^ (8 * 0)))
      ||| ((v <<< (8 * 0)) &&& BitVec.ofNat 512 ((2 ^ (8 * 64) - 1) * 2 ^ (8 * 0))) = v := by
    intro x
    refine BitVec.eq_of_getLsbD_eq fun i hi => ?_
    have one : ((2 ^ (8 * 64) - 1) * 2 ^ (8 * 0) : Nat).testBit i = true := by
      rw [Nat.mul_zero, Nat.pow_zero, Nat.mul_one, Nat.testBit_two_pow_sub_one]
      exact decide_eq_true hi
    simp only [BitVec.getLsbD_or, BitVec.getLsbD_and, BitVec.getLsbD_not, BitVec.getLsbD_ofNat, one, BitVec.getLsbD_shiftLeft,
      decide_eq_true hi]
    simp
  unfold trbWrite
  simp only [whole]

theorem exec_trbWrite {s : State} (up : Up s) (v : BitVec 512) :
    exec (.registerWrite (trbOff r) 64 v) s = .next (s.onRing r (fun x => { x with trb := v })) := by
  refine congrArg Host.Outcome.next ?_
  have shape : (s.pw.rdy && trbShape (trbOff r) 64) = true := by rw [up.1, trbShape_trbOff]; rfl
  rw [storeAt, if_neg (by rw [bar0Up_of_up up]; decide), if_pos (inTrb_trbOff r), if_pos shape, trbOff_ring, trbOff_page,
    trbWrite_whole]

theorem exec_trbRead {s : State} (up : Up s) :
    exec (.readToClear (trbOff r) 64) s = .next (emit (.bar0Data (trbOff r) s.rings[r].trb) s) := by
  have whole : BitVec.ofNat 512 (s.rings[r].trb.toNat / 2 ^ (8 * 0) % 2 ^ (8 * 64)) = s.rings[r].trb := by
    rw [Nat.mul_zero, Nat.pow_zero, Nat.div_one]
    refine BitVec.eq_of_getLsbD_eq fun i hi => ?_
    rw [BitVec.getLsbD_ofNat, Nat.testBit_mod_two_pow, decide_eq_true hi, Bool.true_and, Bool.true_and]
    rfl
  have shape : (s.pw.rdy && trbShape (trbOff r) 64) = true := by rw [up.1, trbShape_trbOff]; rfl
  have loaded : loadAt (trbOff r) 64 s = (s.rings[r].trb, s) := by
    have ring : s.rings[ix 15 (trbOff r % 0x10000 / 0x1000)] = s.rings[r] := congrArg (fun q : Ring => s.rings[q]) (trbOff_ring r)
    rw [loadAt, if_pos (inTrb_trbOff r), if_pos shape, ring, trbOff_page, whole]
  refine congrArg Host.Outcome.next ?_
  rw [if_neg (by rw [bar0Up_of_up up]; decide), loaded]

end

/-! ### The records of cairns -/

section
variable (c : Cairn) {o : Nat}

theorem cairn_offset (ho : o < 0x40) : (0x20000 + 0x40 * c.val + o) / 0x10000 = 2
    ∧ (0x20000 + 0x40 * c.val + o) % 0x10000 = 0x40 * c.val + o := by omega

theorem regWord_cairn {s : State} (ready : s.pw.rdy = true) (ho : o < 0x40) :
    regWord s (0x20000 + 0x40 * c.val + o) = cairnWord s c o := by
  obtain ⟨block, rest⟩ := cairn_offset c ho
  have row : ix 127 ((0x40 * c.val + o) / 0x40) = c := ix_val c (by omega)
  have word : (0x40 * c.val + o) % 0x40 = o := by omega
  unfold regWord
  simp only [block, rest]
  rw [if_neg (by decide), if_neg (by decide), if_neg (by rw [ready]; decide), if_neg (by decide), if_pos trivial, cairnBlock,
    if_pos (by omega), row, word]

theorem clearWord_cairn {s : State} (ready : s.pw.rdy = true) (ho : o < 0x40) :
    clearWord (0x20000 + 0x40 * c.val + o) s = s.onCairn c (fun x =>
      if o = 0x18 then { x with xblock := 0 } else if o = 0x1C then { x with sigRej := 0 } else x) := by
  obtain ⟨block, rest⟩ := cairn_offset c ho
  have row : ix 127 ((0x40 * c.val + o) / 0x40) = c := ix_val c (by omega)
  have word : (0x40 * c.val + o) % 0x40 = o := by omega
  unfold clearWord
  simp only [block, rest]
  rw [if_neg (by decide), if_neg (by decide), if_neg (by rw [ready]; decide), if_neg (by decide), if_pos trivial, cairnClear,
    if_neg (by omega), row, word]

/-- A read of one word of a cairn's record answers the word and clears what it clears. -/
theorem exec_cairnRead {s : State} (up : Up s) (ho : o < 0x40) (aligned : o % 4 = 0) :
    exec (.readToClear (0x20000 + 0x40 * c.val + o) 4) s
      = .next (emit (.bar0Data (0x20000 + 0x40 * c.val + o) (BitVec.ofNat 512 (cairnWord s c o).toNat))
          (s.onCairn c (fun x => if o = 0x18 then { x with xblock := 0 } else if o = 0x1C then { x with sigRej := 0 } else x))) := by
  obtain ⟨block, -⟩ := cairn_offset c ho
  have apart : inTrb (0x20000 + 0x40 * c.val + o) = false := by
    rw [inTrb, block]
    rfl
  have shape : wordShape (0x20000 + 0x40 * c.val + o) 4 = true := by
    have whole : (0x20000 + 0x40 * c.val + o) % 4 = 0 := by omega
    rw [wordShape, whole]
    rfl
  have words : readWords (4 / 4) (0x20000 + 0x40 * c.val + o) s = ((cairnWord s c o).toNat,
      s.onCairn c (fun x => if o = 0x18 then { x with xblock := 0 } else if o = 0x1C then { x with sigRej := 0 } else x)) := by
    rw [show 4 / 4 = 0 + 1 from rfl, readWords, readWord, regWord_cairn c up.1 ho, clearWord_cairn c up.1 ho]
    simp only [readWords, Nat.mul_zero, Nat.add_zero]
  have loaded : loadAt (0x20000 + 0x40 * c.val + o) 4 s = (BitVec.ofNat 512 (cairnWord s c o).toNat,
      s.onCairn c (fun x => if o = 0x18 then { x with xblock := 0 } else if o = 0x1C then { x with sigRej := 0 } else x)) := by
    rw [loadAt, if_neg (by rw [apart]; decide), if_pos shape, words]
  refine congrArg Host.Outcome.next ?_
  rw [if_neg (by rw [bar0Up_of_up up]; decide), loaded]

end

theorem onCairn_id (s : State) (c : Cairn) : s.onCairn c (fun x => x) = s := by
  have same : modAt s.cairns c (fun x => x) = s.cairns := by
    refine Vector.ext fun i hi => ?_
    by_cases h : (⟨i, hi⟩ : Cairn) = c
    · subst h
      exact modAt_same _ _ _
    · exact modAt_other _ _ _ _ h
  unfold State.onCairn
  rw [same]

/-! ### Accesses that only count -/

theorem exec_badWrite {s : State} {off : Nat} (up : Up s) (notTrb : inTrb off = false) (notPage : inPage off = false) (size : Nat) :
    exec (.bar0Badacc true off size) s = .next { s with cfg := { s.cfg with badacc := satAdd s.cfg.badacc 1 } } := by
  have open_ : ¬ (s.bar0Up = false ∨ inTrb off = true) := by
    rw [bar0Up_of_up up, notTrb]
    decide
  have quiet : (if true && inPage off && s.pw.rdy then pageStore off (if size = 4 then 3 else size) 0 s else s) = s :=
    if_neg (by rw [notPage]; exact Bool.false_ne_true)
  refine congrArg Host.Outcome.next ((if_neg open_).trans ?_)
  refine (congrArg (badAccess off) quiet).trans (if_pos (.inl up.1))

theorem exec_badRead {s : State} {off : Nat} (up : Up s) (notTrb : inTrb off = false) (size : Nat) :
    exec (.bar0Badacc false off size) s
      = .next (emit (.bar0Data off 0) { s with cfg := { s.cfg with badacc := satAdd s.cfg.badacc 1 } }) := by
  have open_ : ¬ (s.bar0Up = false ∨ inTrb off = true) := by
    rw [bar0Up_of_up up, notTrb]
    decide
  refine congrArg Host.Outcome.next ((if_neg open_).trans ?_)
  have counted : badAccess off s = { s with cfg := { s.cfg with badacc := satAdd s.cfg.badacc 1 } } := if_pos (.inl up.1)
  exact congrArg (emit (.bar0Data off 0)) counted

/-- Settles O21: each access meets one word, or 64 TRB bytes, or only the counter of bad accesses. -/
theorem registersReadBackAndClear : Obligations.RegistersReadBackAndClear := by
  refine ⟨⟨fun s r v up => ?_, fun s c up => ?_, fun s c up loaded => ?_⟩, fun s off size up notTrb notPage =>
    ⟨exec_badWrite up notTrb notPage size, exec_badRead up notTrb size⟩⟩
  · have trb : (s.onRing r fun x => { x with trb := v }).rings[r].trb = v := congrArg RingSt.trb (State.onRing_same s r _)
    have up' : Up (s.onRing r fun x => { x with trb := v }) := up
    refine ⟨_, exec_trbWrite r up v, trb, (congrArg RingSt.queue (State.onRing_same s r _) :),
      fun q hq => State.onRing_other s r _ q hq, rfl, storeKept_of_st rfl, ?_⟩
    have read := exec_trbRead r up'
    rw [trb] at read
    exact read
  · refine ⟨_, exec_cairnRead c up (by decide) (by decide), rfl, ?_, ?_, fun k hk => State.onCairn_other s c _ k hk, rfl,
      storeKept_of_st rfl⟩
    · exact (congrArg CairnSt.xblock (State.onCairn_same s c _) :)
    · exact (congrArg CairnSt.value (State.onCairn_same s c _) :)
  · have read := exec_cairnRead c (o := 0) up (by decide) (by decide)
    have value : cairnWord s c 0 = s.cairns[c].value := by
      rw [cairnWord, if_pos rfl, if_pos loaded]
    rw [value] at read
    exact read.trans (congrArg (fun u => Host.Outcome.next (emit _ u)) (onCairn_id s c))

end Sys2Proof.Proofs

/-! Staging memory under a filter of addresses, and writes of the staging window table (05, 15). -/

namespace Sys2Proof.Proofs

open Sys2Proof Sys2Proof.Machine Sys2Proof.Safety Sys2Proof.Laws

/-! ### Sparse memory cut to some addresses -/

theorem kvOk_filter_some {α : Type} [DecidableEq α] {d : α} (p : Nat × α → Bool) {m : List (Nat × α)} {lo : Nat}
    (h : kvOk d (some lo) m = true) : kvOk d (some lo) (m.filter p) = true := by
  induction m generalizing lo with
  | nil => rfl
  | cons c m ih =>
    have head : lo < c.1 ∧ c.2 ≠ d := by
      simp only [kvOk, Bool.and_eq_true, decide_eq_true_eq] at h
      exact h.1
    have rest : kvOk d (some c.1) m = true := (Bool.and_eq_true_iff.mp h).2
    by_cases hp : p c = true
    · rw [List.filter_cons_of_pos hp]
      simp only [kvOk, Bool.and_eq_true, decide_eq_true_eq]
      exact ⟨head, ih rest⟩
    · rw [List.filter_cons_of_neg hp]
      exact kvOk_weaken (ih rest) head.1.le

theorem kvOk_filter {α : Type} [DecidableEq α] {d : α} (p : Nat × α → Bool) {m : List (Nat × α)} (h : kvOk d none m = true) :
    kvOk d none (m.filter p) = true := by
  cases m with
  | nil => rfl
  | cons c m =>
    have rest : kvOk d (some c.1) m = true := (Bool.and_eq_true_iff.mp h).2
    have head : c.2 ≠ d := by
      simp only [kvOk, Bool.and_eq_true, Bool.true_and, decide_eq_true_eq] at h
      exact h.1
    by_cases hp : p c = true
    · rw [List.filter_cons_of_pos hp]
      simp only [kvOk, Bool.and_eq_true, Bool.true_and, decide_eq_true_eq]
      exact ⟨head, kvOk_filter_some p rest⟩
    · rw [List.filter_cons_of_neg hp]
      exact kvOk_none (kvOk_filter_some p rest)

/-- Where the filter keeps an address, the memory reads as before; elsewhere it reads as unlisted. -/
theorem kvGet_filter_some {α : Type} [DecidableEq α] {d : α} (q : Nat → Bool) {m : List (Nat × α)} {lo : Nat} (a : Nat)
    (h : kvOk d (some lo) m = true) : kvGet d (m.filter (fun c => q c.1)) a = if q a then kvGet d m a else d := by
  induction m generalizing lo with
  | nil => exact (ite_self d).symm
  | cons c m ih =>
    obtain ⟨k, v⟩ := c
    have rest : kvOk d (some k) m = true := (Bool.and_eq_true_iff.mp h).2
    have cons : ((k, v) :: m).filter (fun c => q c.1) = if q k then (k, v) :: m.filter (fun c => q c.1) else m.filter (fun c => q c.1) :=
      List.filter_cons
    by_cases hk : q k = true
    · rw [cons, if_pos hk]
      by_cases e : a = k
      · subst e
        simp only [kvGet, if_true, hk]
      · by_cases low : a < k
        · simp only [kvGet, if_neg e, if_pos low, ite_self]
        · simp only [kvGet, if_neg e, if_neg low, ih rest]
    · rw [cons, if_neg hk, ih rest]
      by_cases e : a = k
      · subst e
        rw [if_neg hk, if_neg hk]
      · by_cases low : a < k
        · rw [kvGet_below rest low.le]
          simp only [kvGet, if_neg e, if_pos low]
        · simp only [kvGet, if_neg e, if_neg low]

theorem readByte_filter {m : List Host.Cell} (q : Nat → Bool) (a : Nat) (h : Memory.wf m = true) :
    readByte (m.filter (fun c => q c.1)) a = if q a then readByte m a else 0 := by
  cases m with
  | nil => exact (ite_self (0 : Byte)).symm
  | cons c m =>
    obtain ⟨k, v⟩ := c
    have rest : kvOk (0 : Byte) (some k) m = true := (Bool.and_eq_true_iff.mp h).2
    by_cases hk : 0 < k
    · have low : kvOk (0 : Byte) (some 0) ((k, v) :: m) = true := by
        simp only [kvOk, Bool.and_eq_true, Bool.true_and, decide_eq_true_eq] at h ⊢
        exact ⟨⟨hk, h.1⟩, h.2⟩
      exact kvGet_filter_some q a low
    · obtain rfl : k = 0 := by omega
      have cons : ((0, v) :: m).filter (fun c => q c.1) = if q 0 then (0, v) :: m.filter (fun c => q c.1) else m.filter (fun c => q c.1) :=
        List.filter_cons
      cases a with
      | zero =>
        by_cases h0 : q 0 = true
        · rw [cons, if_pos h0, if_pos h0]
          rfl
        · rw [cons, if_neg h0, if_neg h0]
          exact kvGet_below (kvOk_filter_some _ rest) le_rfl
      | succ a =>
        have skip : ∀ l : List Host.Cell, readByte ((0, v) :: l) (a + 1) = readByte l (a + 1) := fun l => by
          simp [readByte, kvGet]
        have tail := kvGet_filter_some q (a + 1) rest
        by_cases h0 : q 0 = true
        · rw [cons, if_pos h0, skip, skip]
          exact tail
        · rw [cons, if_neg h0, skip]
          exact tail

/-! ### The window table (R84, R293) -/

/-- The addresses that lose their backing when the entry `old` gives way and the table becomes `ws`. -/
def unbacked (old : WinEnt) (ws : List WinEnt) (a : Nat) : Bool :=
  decide (old.pages.1 ≤ a / winUnit ∧ a / winUnit < old.pages.2) && !coversPage ws (a / winUnit)

theorem unback_mem {old : WinEnt} (valid : old.valid = true) (ws : List WinEnt) (s : State) :
    (unback old ws s).st.mem = s.st.mem.filter (fun c => !unbacked old ws c.1) := by
  rw [unback, if_neg (by rw [valid]; decide)]
  rfl

/-- What the end of a backing leaves: everything but bytes, poison marks and lines. -/
theorem unback_kept (old : WinEnt) (ws : List WinEnt) (s : State) : (unback old ws s).link = s.link ∧ (unback old ws s).rings = s.rings
    ∧ (unback old ws s).cairns = s.cairns ∧ (unback old ws s).st.vault = s.st.vault := by
  unfold unback
  split <;> exact ⟨rfl, rfl, rfl, rfl⟩

theorem unback_wf (old : WinEnt) (ws : List WinEnt) {s : State} (h : MemoryOk s) : MemoryOk (unback old ws s) := by
  by_cases valid : old.valid = true
  · rw [MemoryOk, unback_mem valid]
    exact kvOk_filter _ h
  · rw [unback, if_pos (eq_false_of_ne_true valid)]
    exact h

theorem readByte_unback (old : WinEnt) (ws : List WinEnt) {s : State} (a : Nat) (h : MemoryOk s) :
    readByte (unback old ws s).st.mem a = if old.valid = true ∧ unbacked old ws a = true then 0 else readByte s.st.mem a := by
  by_cases valid : old.valid = true
  · rw [unback_mem valid, readByte_filter (fun a => !unbacked old ws a) a h]
    cases unbacked old ws a with
    | true => exact (if_neg Bool.false_ne_true).trans (if_pos ⟨valid, rfl⟩).symm
    | false => exact (if_pos rfl).trans (if_neg fun k => Bool.noConfusion k.2).symm
  · rw [unback, if_pos (eq_false_of_ne_true valid), if_neg fun k => valid k.1]

section
variable {s : State} {w : Win} {k : Fin 4} {v : Word} (ready : s.pw.rdy = true) (free : s.heldRes 3 = false)
include ready free

theorem exec_stagingWindowWrite : exec (.stagingWindowWrite w k v) s = .next (windowApply w k v s) := by
  refine congrArg Host.Outcome.next ((if_neg (by rw [ready]; decide)).trans ?_)
  rw [windowWrite, if_neg (by rw [free]; decide)]

theorem window_refused (bad : winBad w (winWrite k v s.link.wins[w]) (s.link.wins.set w (winWrite k v s.link.wins[w])).toList = true) :
    exec (.stagingWindowWrite w k v) s = .next (setExp .range s) := by
  rw [exec_stagingWindowWrite ready free]
  exact congrArg Host.Outcome.next (if_pos (.inl bad))

/-- An accepted write, with no page frozen: the table as written, and what lost its backing gone. -/
theorem window_accepted (good : winBad w (winWrite k v s.link.wins[w]) (s.link.wins.set w (winWrite k v s.link.wins[w])).toList = false)
    (thawed : s.st.frozen = [])
    (room : backedPages (winWrite k v s.link.wins[w] :: s.link.wins.toList) - backedPages s.link.wins.toList ≤ s.poolFreeBlocks) :
    exec (.stagingWindowWrite w k v) s = .next (setExp .applied (unback s.link.wins[w]
      (s.link.wins.set w (winWrite k v s.link.wins[w])).toList
      { s with link := { s.link with wins := s.link.wins.set w (winWrite k v s.link.wins[w]) } })) := by
  rw [exec_stagingWindowWrite ready free]
  refine congrArg Host.Outcome.next (if_neg ?_)
  rintro (h | h | h)
  · exact Bool.false_ne_true (good.symm.trans h)
  · omega
  · rw [thawed] at h
    exact Bool.noConfusion h

end

/-- Settles O23: an accepted write filters staging memory by the pages that lose their backing. -/
theorem windowWriteKeepsBackedBytes : Obligations.WindowWriteKeepsBackedBytes := by
  intro s w k v ready free ok
  dsimp only
  refine ⟨window_refused ready free, fun good thawed room => ⟨_, window_accepted ready free good thawed room, ?_⟩⟩
  generalize winWrite k v s.link.wins[w] = e at *
  generalize hu : ({ s with link := { s.link with wins := s.link.wins.set w e } } : State) = u
  have mem : u.st.mem = s.st.mem := by rw [← hu]
  have ok' : MemoryOk u := by rw [MemoryOk, mem]; exact ok
  obtain ⟨link, rings, cairns, vault⟩ := unback_kept s.link.wins[w] (s.link.wins.set w e).toList u
  refine ⟨?_, rfl, fun a backed => ?_, fun a valid lo hi gone => ?_, unback_wf _ _ ok', ?_, ?_, ?_⟩
  · exact (congrArg Link.wins link).trans (by rw [← hu])
  · have stays : ¬ (s.link.wins[w].valid = true ∧ unbacked s.link.wins[w] (s.link.wins.set w e).toList a = true) := by
      rintro ⟨-, h⟩
      rw [unbacked, backed, Bool.not_true, Bool.and_false] at h
      exact Bool.noConfusion h
    exact (readByte_unback _ _ a ok').trans ((if_neg stays).trans (by rw [mem]))
  · have lost : unbacked s.link.wins[w] (s.link.wins.set w e).toList a = true := by
      rw [unbacked, gone, decide_eq_true ⟨lo, hi⟩]
      rfl
    exact (readByte_unback _ _ a ok').trans (if_pos ⟨valid, lost⟩)
  · exact rings.trans (by rw [← hu])
  · exact cairns.trans (by rw [← hu])
  · exact vault.trans (by rw [← hu])

end Sys2Proof.Proofs

/-! BAR2: inbound writes and reads of staging memory, and the copy of a frozen page (05, 13). -/

namespace Sys2Proof.Proofs

open Sys2Proof Sys2Proof.Machine Sys2Proof.Safety Sys2Proof.Laws

/-! ### What a store of bytes leaves -/

/-- From `s` to `t` only bytes of staging memory, their poison marks and Orchard lines may change. -/
def BytesOnly (s t : State) : Prop :=
  ∃ mem bad lines, t = { s with st := { s.st with mem := mem, memBad := bad }, ma := { s.ma with lines := lines } }

theorem BytesOnly.refl (s : State) : BytesOnly s s := ⟨s.st.mem, s.st.memBad, s.ma.lines, rfl⟩

theorem BytesOnly.trans {s t u : State} (a : BytesOnly s t) (b : BytesOnly t u) : BytesOnly s u := by
  obtain ⟨m, x, l, rfl⟩ := a
  obtain ⟨m', x', l', rfl⟩ := b
  exact ⟨m', x', l', rfl⟩

theorem markBad_bytesOnly (p : Bool) (b : Nat) (s : State) : BytesOnly s (markBad p b s) := ⟨s.st.mem, _, s.ma.lines, rfl⟩

theorem foldl_bytesOnly {β : Type} {f : State → β → State} (h : ∀ s b, BytesOnly s (f s b)) (l : List β) (s : State) :
    BytesOnly s (l.foldl f s) := by
  induction l generalizing s with
  | nil => exact .refl s
  | cons b l ih => exact (h s b).trans (ih _)

theorem storeBytes_bytesOnly (a : Nat) (bs : List Byte) (p : Bool) (s : State) : BytesOnly s (storeBytes a bs p s) := by
  unfold storeBytes
  dsimp only
  split
  · exact .refl s
  refine .trans ⟨_, s.st.memBad, _, rfl⟩ (foldl_bytesOnly (fun t i => ?_) _ _)
  split
  · exact markBad_bytesOnly true _ t
  split
  · exact markBad_bytesOnly false _ t
  · exact .refl t

/-! ### Beats of staging memory -/

theorem bytesLE_beat (s : State) (b : Nat) : bytesLE 64 (s.beat b).data = readBytes s.st.mem (64 * b) 64 :=
  bytesLE_ofBytes (by rw [readBytes, List.length_map, List.length_range]) (by decide)

/-- The bytes of whole beats from `a` are one read. -/
theorem flatMap_beats (m : List Host.Cell) (a n : Nat) :
    (List.range n).flatMap (fun i => readBytes m (a + 64 * i) 64) = readBytes m a (64 * n) := by
  induction n with
  | zero => rfl
  | succ n ih => rw [List.range_succ, List.flatMap_append, ih, Nat.mul_succ, readBytes_append, List.flatMap_singleton]

/-- Beats without poison read as staging memory has them, and the read changes nothing. -/
theorem readThrough_clean {s : State} (off n : Nat) (clean : s.st.memBad = []) :
    readThrough off n s = (readBytes s.st.mem off n, s) := by
  have beats : ∀ (l : List Nat) (bs : List Byte), l.foldl (fun (acc : List Byte × State) a =>
      let b := acc.2.beat (a / 64)
      let (d, t) := if b.psn then drawBeat acc.2 else (b.data, acc.2)
      (acc.1 ++ bytesLE 64 d, t)) (bs, s) = (bs ++ l.flatMap (fun a => readBytes s.st.mem (64 * (a / 64)) 64), s) := by
    intro l
    induction l with
    | nil => intro bs; rw [List.foldl_nil, List.flatMap_nil, List.append_nil]
    | cons a l ih =>
      intro bs
      have good : (s.beat (a / 64)).psn = false := by
        rw [State.beat, clean]
        rfl
      rw [List.foldl_cons]
      dsimp only
      rw [good, if_neg Bool.false_ne_true]
      dsimp only
      rw [ih, bytesLE_beat, List.flatMap_cons, List.append_assoc]
  unfold readThrough
  rw [beats, List.nil_append]
  refine Prod.ext ?_ rfl
  dsimp only
  by_cases h : n = 0
  · subst h
    rw [List.take_zero]
    rfl
  have span : (spanPlan off n).flatMap (fun a => readBytes s.st.mem (64 * (a / 64)) 64)
      = readBytes s.st.mem (off / 64 * 64) (64 * ((off % 64 + n + 63) / 64)) := by
    rw [spanPlan, if_neg h, List.flatMap_map, ← flatMap_beats]
    congr 1
    funext i
    rw [show 64 * ((off / 64 * 64 + 64 * i) / 64) = off / 64 * 64 + 64 * i by omega]
  rw [span, readBytes_slice (by omega), show off / 64 * 64 + off % 64 = off by omega]

/-! ### Who finds BAR2 open -/

theorem wakeNap_link (s : State) : (wakeNap s).link = s.link := (congrArg State.link (wakeNap_sansLink s) :)

theorem admitted_congr {s t : State} (h : t.link = s.link) (off n : Nat) (rid : BitVec 16) (host write : Bool) :
    admitted t off n rid host write = admitted s off n rid host write := by
  unfold admitted
  rw [h]

theorem admitted_wake (s : State) (off n : Nat) (rid : BitVec 16) (host write : Bool) :
    admitted (wakeNap s) off n rid host write = admitted s off n rid host write := admitted_congr (wakeNap_link s) off n rid host write

theorem inboundFault_link (off : Nat) (c : Cause) (write : Bool) (rid : BitVec 16) (s : State) :
    (inboundFault off c write rid s).link.fltCnt = satAdd s.link.fltCnt 1 := rfl

/-! ### Writes -/

/-- With no page frozen the one write that waits lands. -/
theorem landBar2_one {s : State} {a : Nat} {bs : List Byte} (wait : s.link.bar2Wait = [(a, bs)])
    (free : s.mustCopy (a / winUnit) = false ∧ s.mustCopy ((a + bs.length - 1) / winUnit) = false) :
    landBar2 s.link.bar2Wait.length s = storeBytes a bs false { s with link := { s.link with bar2Wait := [] } } := by
  rw [wait, List.length_singleton, landBar2, wait]
  dsimp only
  rw [if_neg (by rw [free.1, free.2]; decide), landBar2]

theorem mustCopy_thawed {s : State} (h : s.st.frozen = []) (page : Nat) : s.mustCopy page = false := by
  rw [State.mustCopy, h]
  rfl

section
variable {s : State} {rid : BitVec 16} {host : Bool} {addr : Nat}

theorem exec_bar2Write {data : List Byte} (h : Pre.bar2Write s rid host addr data) : exec (.bar2Write rid host addr data false) s
    = .next (storeBytes (bar2Off s addr) data false { wakeNap s with link := { (wakeNap s).link with bar2Wait := [] } }) := by
  obtain ⟨there, granted, thawed, none, -, -⟩ := h
  have queued : ({ wakeNap s with
      link := { (wakeNap s).link with bar2Wait := (wakeNap s).link.bar2Wait ++ [(bar2Off s addr, data)] } } : State).link.bar2Wait
      = [(bar2Off s addr, data)] := by
    rw [wakeNap_link, none]
    rfl
  have thawed' : (wakeNap s).st.frozen = [] := by rw [(wakeNap_massifOnly s).st, thawed]
  refine congrArg Host.Outcome.next ((if_neg (by rw [there]; decide)).trans ?_)
  dsimp only
  rw [if_neg (by rw [admitted_wake, granted]; decide), if_neg Bool.false_ne_true]
  exact landBar2_one queued ⟨mustCopy_thawed thawed' _, mustCopy_thawed thawed' _⟩

theorem exec_bar2Write_turned {data : List Byte} (there : bar2There s addr data.length = true)
    (out : admitted s (bar2Off s addr) data.length rid host true = false) : exec (.bar2Write rid host addr data false) s
    = .next (emit (.aer addr) (inboundFault (bar2Off s addr) .window true rid (wakeNap s))) := by
  refine congrArg Host.Outcome.next ((if_neg (by rw [there]; decide)).trans ?_)
  dsimp only
  rw [if_pos (by rw [admitted_wake, out])]

/-! ### Reads -/

theorem exec_bar2Read {len : Nat} (there : bar2There s addr len = true) (granted : admitted s (bar2Off s addr) len rid host false = true)
    (clean : s.st.memBad = []) : exec (.bar2Read rid host addr len []) s
    = .next (emit (.bar2Data addr (readBytes s.st.mem (bar2Off s addr) len) []) (wakeNap s)) := by
  have st := (wakeNap_massifOnly s).st
  have clean' : (wakeNap s).st.memBad = [] := by rw [st, clean]
  have noBad : (List.range (spanPlan (bar2Off s addr) len).length).filter
      (fun i => (wakeNap s).st.memBad.contains (bar2Off s addr / 64 + i)) = [] := by
    rw [clean', List.filter_eq_nil_iff]
    exact fun _ _ => Bool.false_ne_true
  refine congrArg Host.Outcome.next ((if_neg (by rw [there]; decide)).trans ?_)
  dsimp only
  rw [if_neg (by rw [admitted_wake, granted]; decide)]
  change (let (bs, s2) := readThrough (bar2Off s addr) len (wakeNap s)
    emit (.bar2Data addr bs ((List.range (spanPlan (bar2Off s addr) len).length).filter
      (fun i => (wakeNap s).st.memBad.contains (bar2Off s addr / 64 + i)))) s2) = _
  rw [readThrough_clean _ _ clean', noBad]
  dsimp only
  rw [st]

theorem exec_bar2Read_turned {len : Nat} (there : bar2There s addr len = true)
    (out : admitted s (bar2Off s addr) len rid host false = false) : exec (.bar2Read rid host addr len []) s
    = .next (emit (.completerAbort addr) (inboundFault (bar2Off s addr) .window false rid (wakeNap s))) := by
  refine congrArg Host.Outcome.next ((if_neg (by rw [there]; decide)).trans ?_)
  dsimp only
  rw [if_pos (by rw [admitted_wake, out])]

end

/-! ### PAGE_COPY -/

/-- The page as its copy keeps it aside. -/
def copiedPage (s : State) (f : Frozen) : Frozen :=
  { f with copied := true, bytes := s.st.mem.filter (fun c => c.1 / winUnit == f.page)
           bad := s.st.memBad.filter (fun b => 64 * b / winUnit == f.page) }

theorem copyPage_one {s : State} {f : Frozen} (frozen : s.st.frozen = [f]) (fresh : f.copied = false) :
    copyPage f.page false s = { s with st := { s.st with frozen := [copiedPage s f] } } := by
  unfold copyPage
  dsimp only
  rw [if_neg Bool.false_ne_true, frozen, List.map_singleton, if_pos ⟨rfl, fresh⟩]
  rfl

theorem exec_pageCopy {s : State} {page a : Nat} {data : List Byte} {f : Frozen} (h : Pre.page s page a data f) :
    exec (.pageCopy page false) s = .next (storeBytes a data false
      { s with st := { s.st with frozen := [copiedPage s f] }, link := { s.link with bar2Wait := [] } }) := by
  obtain ⟨⟨ready, phase⟩, frozen, rfl, fresh, room, free, wait, first, last, -⟩ := h
  have must : s.mustCopy f.page = true := by
    rw [State.mustCopy, frozen]
    simp [fresh]
  refine congrArg Host.Outcome.next ((if_neg (not_or.mpr ⟨by rw [ready]; decide, not_not_intro phase⟩)).trans ?_)
  dsimp only
  rw [if_pos ⟨must, room, free⟩, copyPage_one frozen fresh]
  exact landBar2_one (s := { s with st := { s.st with frozen := [copiedPage s f] } }) wait ⟨by simp [State.mustCopy, copiedPage], by simp [State.mustCopy, copiedPage]⟩

/-- The frozen page reads as it was. -/
theorem frozenByte_copied {s t : State} {f : Frozen} (frozen : t.st.frozen = [copiedPage s f]) (ok : MemoryOk s) {b : Nat}
    (hb : b / winUnit = f.page) : frozenByte t f.map b = readByte s.st.mem b := by
  have found : t.st.frozen.find? (fun g => g.map == f.map && g.page == b / winUnit && g.copied) = some (copiedPage s f) := by
    rw [frozen, hb]
    exact List.find?_cons_of_pos (by simp [copiedPage])
  rw [frozenByte, found]
  refine (readByte_filter (fun c => c / winUnit == f.page) b ok).trans (if_pos ?_)
  exact beq_iff_eq.mpr hb

/-- What a store leaves, of what the statements name. -/
theorem storeBytes_rest (a : Nat) (bs : List Byte) (p : Bool) (s : State) : (storeBytes a bs p s).link = s.link
    ∧ (storeBytes a bs p s).rings = s.rings ∧ (storeBytes a bs p s).cairns = s.cairns ∧ (storeBytes a bs p s).st.vault = s.st.vault
    ∧ (storeBytes a bs p s).st.frozen = s.st.frozen := by
  obtain ⟨m, x, l, h⟩ := storeBytes_bytesOnly a bs p s
  rw [h]
  exact ⟨rfl, rfl, rfl, rfl, rfl⟩

/-- Settles O24: what a window admits moves those bytes and no other, and a frozen page is set aside before its write lands. -/
theorem bar2MovesAdmittedBytes : Obligations.Bar2MovesAdmittedBytes := by
  refine ⟨fun s rid host addr data => ⟨fun h => ⟨_, exec_bar2Write h, ?_⟩, fun there out => ⟨_, exec_bar2Write_turned there out, ?_⟩⟩,
    fun s rid host addr len there => ⟨fun granted clean => ⟨_, exec_bar2Read there granted clean, ?_⟩, fun out =>
      ⟨_, exec_bar2Read_turned there out, ?_⟩⟩, fun s page a data f ok h => ⟨_, exec_pageCopy h, ?_⟩⟩
  · obtain ⟨-, -, -, -, -, ok⟩ := h
    have woken := wakeNap_massifOnly s
    generalize hu : ({ wakeNap s with link := { (wakeNap s).link with bar2Wait := [] } } : State) = u
    obtain ⟨rings, cairns, st, wait⟩ : u.rings = s.rings ∧ u.cairns = s.cairns ∧ u.st = s.st ∧ u.link.bar2Wait = [] := by
      subst hu
      exact ⟨woken.rings, woken.cairns, woken.st, rfl⟩
    obtain ⟨link', rings', cairns', vault', -⟩ := storeBytes_rest (bar2Off s addr) data false u
    have mem := storeBytes_mem (bar2Off s addr) data false u
    rw [st] at mem vault'
    generalize storeBytes (bar2Off s addr) data false u = t at mem link' rings' cairns' vault' ⊢
    refine ⟨mem, fun i hi => ?_, fun b hb => ?_, by rw [link', wait], rings'.trans rings, cairns'.trans cairns, vault'⟩
    · rw [mem, readByte_writeBytes ok, if_pos ⟨by omega, by omega⟩, Nat.add_sub_cancel_left, List.getElem?_eq_getElem hi, Option.getD_some]
    · rw [mem, readByte_writeBytes_out ok hb]
  · have woken := wakeNap_massifOnly s
    refine ⟨?_, List.mem_append_right _ (List.mem_singleton.mpr rfl), woken.rings, storeKept_of_st woken.st⟩
    exact (inboundFault_link ..).trans (by rw [wakeNap_link])
  · have woken := wakeNap_massifOnly s
    exact ⟨congrArg (· ++ _) (wakeNap_bus s), woken.rings, woken.cairns, storeKept_of_st woken.st⟩
  · have woken := wakeNap_massifOnly s
    refine ⟨List.mem_append_right _ (List.mem_singleton.mpr rfl), ?_, woken.rings, storeKept_of_st woken.st⟩
    exact (inboundFault_link ..).trans (by rw [wakeNap_link])
  · obtain ⟨-, -, page, -⟩ := h
    generalize hu : ({ s with st := { s.st with frozen := [copiedPage s f] }, link := { s.link with bar2Wait := [] } } : State) = u
    obtain ⟨rings, cairns, mem0, frozen, wait⟩ : u.rings = s.rings ∧ u.cairns = s.cairns ∧ u.st.mem = s.st.mem
        ∧ u.st.frozen = [copiedPage s f] ∧ u.link.bar2Wait = [] := by
      subst hu
      exact ⟨rfl, rfl, rfl, rfl, rfl⟩
    obtain ⟨link', rings', cairns', -, frozen'⟩ := storeBytes_rest a data false u
    have mem := storeBytes_mem a data false u
    rw [mem0] at mem
    generalize storeBytes a data false u = t at mem link' rings' cairns' frozen' ⊢
    refine ⟨by rw [link', wait], fun b hb => frozenByte_copied (frozen'.trans frozen) ok (hb.trans page.symm), mem, fun b hb => ?_,
      rings'.trans rings, cairns'.trans cairns⟩
    rw [mem, readByte_writeBytes_out ok hb]

end Sys2Proof.Proofs

/-! The host link's answers: read completions and timeouts, translations, configuration requests (05). -/

namespace Sys2Proof.Proofs

open Sys2Proof Sys2Proof.Machine Sys2Proof.Safety Sys2Proof.Laws

/-! ### What goes on after beats or an answer have come -/

theorem settleInv_nothing {s : State} (h : s.link.atsInv = []) : settleInv s = s := by
  rw [settleInv, h]
  rfl

/-- With no command past a head, no invalidation open and the array at rest, nothing was waiting. -/
theorem afterRead_rest {s : State} (rest : ArrayAtRest s) (past : ∀ r : Ring, s.rings[r].past = []) (inv : s.link.atsInv = []) :
    afterRead s = s := by
  have rings : (List.finRange 16).foldl (fun s r => digestReady r (stageReady r s)) s = s := by
    refine foldl_still fun r _ => ?_
    have stage : stageReady r s = s := by
      rw [stageReady, past r]
      rfl
    rw [stage, digestReady, past r]
    rfl
  rw [afterRead, rings, pumpWheels_rest rest, settleInv_nothing inv]

theorem readsGoOn_next (t : State) : ReadsGoOn t (.next (afterRead t)) :=
  ⟨rfl, fun rest past inv => congrArg _ (afterRead_rest rest past inv)⟩

/-! ### Read completions and timeouts (R88, R91, R81) -/

theorem satAdd_satAdd {w : Nat} (x : BitVec w) (m n : Nat) : satAdd (satAdd x m) n = satAdd x (m + n) := by
  have range := x.isLt
  unfold satAdd
  by_cases h : x.toNat + m ≥ 2 ^ w
  · have full : (BitVec.allOnes w).toNat + n ≥ 2 ^ w ∨ (BitVec.allOnes w).toNat + n = 2 ^ w - 1 := by
      rw [BitVec.toNat_allOnes]
      omega
    have past : x.toNat + (m + n) ≥ 2 ^ w := by omega
    rw [if_pos h, if_pos past]
    obtain full | full := full
    · exact if_pos full
    · rw [full, if_neg (by omega), ← BitVec.toNat_allOnes, BitVec.ofNat_toNat, BitVec.setWidth_eq]
  · rw [if_neg h, BitVec.toNat_ofNat, Nat.mod_eq_of_lt (by omega), Nat.add_assoc]

/-- The faults of a transfer's beats, in the order they came. -/
def beatFaults (q : ReadReq) (gs : List Got) (s : State) : State :=
  gs.zipIdx.foldl (fun (s : State) p => match p.1 with | .bad c => keyFlt q.key (q.addr + 64 * p.2) c false s | .ok _ => s) s

theorem beatFaults_ok (q : ReadReq) (ds : List BeatBits) (s : State) : beatFaults q (ds.map .ok) s = s := by
  refine foldl_still fun p hp => ?_
  obtain ⟨d, -, hd⟩ := List.mem_map.mp (List.fst_mem_of_mem_zipIdx hp)
  rw [← hd]

/-- From `s` to `t` only the ATPU's fault record changes; its counter counts `n` more. -/
def FaultsOnly (n : Nat) (s t : State) : Prop :=
  ∃ last, t = { s with link := { s.link with fltCnt := satAdd s.link.fltCnt n, fltLast := last } }

theorem beatFaults_bad (q : ReadReq) (c : Cause) (n : Nat) (s : State) :
    FaultsOnly n s (beatFaults q (List.replicate n (.bad c)) s) := by
  have each : ∀ (l : List (Got × Nat)) (s : State), (∀ p ∈ l, p.1 = .bad c) → FaultsOnly l.length s (l.foldl (fun (s : State) p =>
      match p.1 with | .bad c => keyFlt q.key (q.addr + 64 * p.2) c false s | .ok _ => s) s) := by
    intro l
    induction l with
    | nil =>
      intro s _
      exact ⟨s.link.fltLast, by rw [List.length_nil, satAdd_zero]; rfl⟩
    | cons p l ih =>
      intro s h
      have first : p.1 = .bad c := h p (List.mem_cons_self ..)
      obtain ⟨last, rest⟩ := ih (keyFlt q.key (q.addr + 64 * p.2) c false s) fun x hx => h x (List.mem_cons_of_mem _ hx)
      refine ⟨last, ?_⟩
      rw [List.foldl_cons, first]
      dsimp only
      rw [rest, List.length_cons, Nat.add_comm l.length 1, ← satAdd_satAdd]
      rfl
  have all := each (List.replicate n (Got.bad c)).zipIdx s fun p hp => (List.mem_replicate.mp (List.fst_mem_of_mem_zipIdx hp)).2
  rwa [List.length_zipIdx, List.length_replicate] at all

/-- The command a read serves, with the beats that came. -/
def gotBeats (gs : List Got) (c : Cmd) : Cmd := { c with got := c.got ++ gs.zipIdx.map (fun p => (p.2, p.1)) }

/-- The last beats of a command's only read: they are placed, and the tag is free. -/
theorem completeRead_last {s : State} {tag : Nat} {q : ReadReq} {cid : Nat} {gs : List Got} (reads : s.link.reads = [q])
    (hq : q.tag = tag) (what : q.what = .cmd cid 0) (orc : q.orc = false) (len : gs.length = q.beats) :
    completeRead tag gs s = modCmd q.key.ring cid (gotBeats gs)
      { beatFaults q gs s with link := { (beatFaults q gs s).link with reads := [] } } := by
  have mine : q.tagged = true := by rw [ReadReq.tagged, what]
  have found : s.link.reads.find? (fun q => q.tag == tag && q.tagged) = some q := by
    rw [reads]
    exact List.find?_cons_of_pos (by rw [hq, mine, beq_self_eq_true]; rfl)
  have all : gs.take q.beats = gs := List.take_of_length_le len.le
  have done : (q.rest gs).beats = 0 := by
    rw [ReadReq.rest, len]
    exact Nat.sub_self _
  have tagged : (q.rest gs).tagged = true := by simp only [ReadReq.tagged, ReadReq.rest, what]
  have kept : (beatFaults q gs s).link.reads = [q] := by
    refine (foldl_keeps (fun t : State => t.link.reads) _ (fun t p => ?_) gs.zipIdx s).trans reads
    split <;> rfl
  have place : ∀ t : State, placeRead q gs t = modCmd q.key.ring cid (gotBeats gs) t := by
    intro t
    unfold placeRead
    rw [what]
    simp only [Nat.zero_add]
    rfl
  have renewed : (beatFaults q gs s).link.reads.map (fun m => if m.tag = tag ∧ m.tagged = true then q.rest gs else m) = [q.rest gs] := by
    rw [kept, List.map_singleton, if_pos ⟨hq, mine⟩]
  have finish : ∀ t : State, t.link.reads = [q.rest gs] → finishFill (q.rest gs) t = { t with link := { t.link with reads := [] } } := by
    intro t ht
    have none : t.link.reads.filter (fun m => m.tag == (q.rest gs).tag && !m.tagged) = [] := by
      rw [ht]
      exact List.filter_cons_of_neg (by rw [tagged, Bool.not_true, Bool.and_false]; exact Bool.false_ne_true)
    have gone : t.link.reads.filter (fun m => m.tag != (q.rest gs).tag) = [] := by
      rw [ht]
      exact List.filter_cons_of_neg (by rw [bne_self_eq_false]; exact Bool.false_ne_true)
    have noLine : (q.rest gs).orc = false := orc
    unfold finishFill
    rw [none]
    dsimp only [List.foldl_nil]
    rw [gone, noLine]
    rfl
  unfold completeRead
  rw [found]
  dsimp only
  rw [all, what]
  change (if (q.rest gs).beats = 0 then finishFill (q.rest gs) (placeRead q gs { beatFaults q gs s with
    link := { (beatFaults q gs s).link with
      reads := (beatFaults q gs s).link.reads.map (fun m => if m.tag = tag ∧ m.tagged = true then q.rest gs else m) } }) else _) = _
  rw [if_pos done, renewed, place, finish _ rfl]
  rfl

/-- What the placed beats leave, of what the statements name. -/
theorem gotBeats_left {s t : State} {r : Ring} {c : Cmd} {cid : Nat} (gs : List Got) (queue : t.rings[r].queue = [c])
    (hc : c.cid = cid) (rings : t.rings = s.rings) (st : t.st = s.st) :
    (modCmd r cid (gotBeats gs) t).rings[r].queue = [gotBeats gs c] ∧ OtherRings s (modCmd r cid (gotBeats gs) t) r
      ∧ StoreKept s (modCmd r cid (gotBeats gs) t) := by
  refine ⟨?_, fun k hk => ?_, storeKept_of_st st⟩
  · exact modCmd_queue_head queue hc (gotBeats gs)
  · rw [modCmd_others r cid (gotBeats gs) t k hk, rings]

section
variable {s : State} {tag : Nat} {q : ReadReq} {cid : Nat} {c : Cmd} (h : Pre.read s tag q cid c)
include h

theorem read_found : s.link.reads.find? (fun q => q.tag == tag && q.tagged) = some q := by
  obtain ⟨-, reads, hq, what, -⟩ := h
  have mine : q.tagged = true := by rw [ReadReq.tagged, what]
  rw [reads]
  exact List.find?_cons_of_pos (by rw [hq, mine, beq_self_eq_true]; rfl)

theorem exec_readCompletion (ds : List BeatBits) :
    exec (.readCompletion tag (ds.map .ok)) s = .next (afterRead (completeRead tag (ds.map .ok) s)) := by
  have clean : ((ds.map Got.ok).take q.beats).contains (.bad .link) = false := by
    rw [← Bool.not_eq_true, List.contains_iff_mem]
    intro hm
    obtain ⟨d, -, hd⟩ := List.mem_map.mp (List.mem_of_mem_take hm)
    exact Got.noConfusion hd
  refine congrArg Host.Outcome.next ((if_neg h.1).trans ?_)
  rw [read_found h]
  dsimp only
  rw [if_neg (ne_true_of_eq_false clean)]

theorem exec_completionTimeout : exec (.completionTimeout tag) s
    = .next (afterRead (completeRead tag (List.replicate q.beats (.bad .timeout)) (advanceTo (q.since + timeoutPoint s.link.cto) s))) := by
  refine congrArg Host.Outcome.next ((if_neg h.1).trans ?_)
  rw [read_found h]

theorem readCompletion_places (ds : List BeatBits) (len : ds.length = q.beats) :
    ∃ t c', ReadsGoOn t (exec (.readCompletion tag (ds.map .ok)) s)
      ∧ t.rings[q.key.ring].queue = [c'] ∧ c'.got = c.got ++ ds.zipIdx.map (fun p => (p.2, .ok p.1)) ∧ t.link.reads = []
      ∧ t.link.fltCnt = s.link.fltCnt ∧ OtherRings s t q.key.ring ∧ StoreKept s t := by
  have run := exec_readCompletion h ds
  obtain ⟨-, reads, hq, what, orc, queue, -, hc, -⟩ := h
  rw [completeRead_last reads hq what orc (by rw [List.length_map, len]), beatFaults_ok] at run
  generalize hu : ({ s with link := { s.link with reads := [] } } : State) = u at run
  obtain ⟨rings, st, gone, flt⟩ : u.rings = s.rings ∧ u.st = s.st ∧ u.link.reads = [] ∧ u.link.fltCnt = s.link.fltCnt := by
    subst hu
    exact ⟨rfl, rfl, rfl, rfl⟩
  obtain ⟨queue', others, store⟩ := gotBeats_left (ds.map .ok) (by rw [rings]; exact queue) hc rings st
  refine ⟨_, _, run ▸ readsGoOn_next _, queue', ?_, gone, flt, others, store⟩
  rw [gotBeats, List.zipIdx_map, List.map_map]
  rfl

theorem completionTimeout_poisons :
    ∃ t c', ReadsGoOn t (exec (.completionTimeout tag) s) ∧ t.rings[q.key.ring].queue = [c'] ∧ t.link.reads = []
      ∧ c'.got = c.got ++ (List.range q.beats).map (fun i => (i, .bad .timeout))
      ∧ q.since + timeoutPoint s.link.cto ≤ t.now
      ∧ t.link.fltCnt = satAdd s.link.fltCnt q.beats ∧ OtherRings s t q.key.ring ∧ StoreKept s t := by
  have run := exec_completionTimeout h
  obtain ⟨-, reads, hq, what, orc, queue, -, hc, -⟩ := h
  obtain ⟨last, faults⟩ := beatFaults_bad q .timeout q.beats (advanceTo (q.since + timeoutPoint s.link.cto) s)
  rw [completeRead_last (s := advanceTo _ s) reads hq what orc (List.length_replicate ..)] at run
  generalize hv : beatFaults q (List.replicate q.beats (.bad .timeout)) (advanceTo (q.since + timeoutPoint s.link.cto) s) = v at run faults
  generalize hu : ({ v with link := { v.link with reads := [] } } : State) = u at run
  obtain ⟨rings, st, gone, flt, late⟩ : u.rings = s.rings ∧ u.st = s.st ∧ u.link.reads = []
      ∧ u.link.fltCnt = satAdd s.link.fltCnt q.beats ∧ q.since + timeoutPoint s.link.cto ≤ u.now := by
    subst hu faults
    exact ⟨rfl, rfl, rfl, rfl, le_max_right _ _⟩
  obtain ⟨queue', others, store⟩ := gotBeats_left (List.replicate q.beats (.bad .timeout)) (by rw [rings]; exact queue) hc rings st
  refine ⟨_, _, run ▸ readsGoOn_next _, queue', gone, ?_, late, flt, others, store⟩
  rw [gotBeats]
  refine congrArg (c.got ++ ·) (List.ext_getElem (by simp) fun i hi hi' => ?_)
  simp

end

/-! ### Translations (R94 to R96) -/

section
variable {s : State} {q : AtsReq} (up : s.pw.phase ≠ .holdUp) (wait : s.link.atsWait = [q])
include up wait

/-- The answer to the one request that waits. -/
theorem exec_atsAnswer (a : AtsReply) (fresh : q.stale = false) : exec (.atsTranslationCompletion q.id a) s
    = .next (afterRead (match a with
        | .fail => denyRequest q .atsFail { s with link := { s.link with atsWait := [] } }
        | .notPresent => denyRequest q .notPresent { s with link := { s.link with atsWait := [] } }
        | .grant log2 xaddr read write =>
          let s2 := holdTranslation (grantEnt q log2 xaddr read write) { s with link := { s.link with atsWait := [] } }
          if q.write then (if write then s2 else denyRequest q .noAccess s2)
          else (if read then s2 else denyRequest q .noAccess s2))) := by
  have found : s.link.atsWait.find? (fun x => x.id == q.id) = some q := by
    rw [wait]
    exact List.find?_cons_of_pos (beq_self_eq_true _)
  have gone : s.link.atsWait.filter (fun x => x.id != q.id) = [] := by
    rw [wait]
    exact List.filter_cons_of_neg (by rw [bne_self_eq_false]; exact Bool.false_ne_true)
  refine congrArg Host.Outcome.next ((if_neg up).trans ?_)
  rw [found]
  dsimp only
  rw [if_neg (by rw [fresh]; decide), gone] <;> rfl

theorem exec_atsStale (a : AtsReply) (stale : q.stale = true) : exec (.atsTranslationCompletion q.id a) s
    = .next { s with link := { s.link with atsWait := [] } } := by
  have found : s.link.atsWait.find? (fun x => x.id == q.id) = some q := by
    rw [wait]
    exact List.find?_cons_of_pos (beq_self_eq_true _)
  have gone : s.link.atsWait.filter (fun x => x.id != q.id) = [] := by
    rw [wait]
    exact List.filter_cons_of_neg (by rw [bne_self_eq_false]; exact Bool.false_ne_true)
  refine congrArg Host.Outcome.next ((if_neg up).trans ?_)
  rw [found]
  dsimp only
  rw [if_pos stale, gone]

end

/-- A translation covers the page asked for, and is at least a page and at most 1 GiB. -/
theorem grantEnt_covers (q : AtsReq) (log2 xaddr : Nat) (read write : Bool) :
    let e := grantEnt q log2 xaddr read write
    12 ≤ e.log2 ∧ e.log2 ≤ 30 ∧ e.addr ≤ q.addr ∧ q.addr < e.addr + 2 ^ e.log2 ∧ 2 ^ e.log2 ∣ e.xaddr := by
  refine ⟨?_, min_le_left _ _, Nat.div_mul_le_self _ _, ?_, Nat.dvd_mul_left _ _⟩
  · exact le_min (by decide) (le_max_left _ _)
  · exact Nat.lt_div_mul_add (Nat.two_pow_pos _)

theorem grant_joins {s : State} {q : AtsReq} (log2 xaddr : Nat) (up : s.pw.phase ≠ .holdUp) (wait : s.link.atsWait = [q])
    (empty : s.link.atc = []) (fresh : q.stale = false) :
    ∃ t e, ReadsGoOn t (exec (.atsTranslationCompletion q.id (.grant log2 xaddr true true)) s) ∧ t.link.atsWait = []
      ∧ t.link.atc = [e] ∧ e.tenant = q.key.tenant ∧ e.pasid = q.key.pasid ∧ e.read = true ∧ e.write = true
      ∧ 12 ≤ e.log2 ∧ e.log2 ≤ 30 ∧ e.addr ≤ q.addr ∧ q.addr < e.addr + 2 ^ e.log2 ∧ 2 ^ e.log2 ∣ e.xaddr
      ∧ t.link.atsBad = s.link.atsBad ∧ t.rings = s.rings ∧ StoreKept s t := by
  have run := exec_atsAnswer up wait (.grant log2 xaddr true true) fresh
  dsimp only at run
  rw [if_pos rfl, ite_self] at run
  obtain ⟨low, high, lo, hi, aligned⟩ := grantEnt_covers q log2 xaddr true true
  refine ⟨holdTranslation (grantEnt q log2 xaddr true true) { s with link := { s.link with atsWait := [] } }, _, run ▸ readsGoOn_next _, rfl,
    ?_, rfl, rfl, rfl, rfl, low, high, lo, hi, aligned, rfl, rfl, storeKept_of_st rfl⟩
  have held : (if 8192 ≤ s.link.atc.length then s.link.atc.drop 1 else s.link.atc) = [] := by
    rw [empty]
    rfl
  exact congrArg (· ++ [_]) held

theorem refusal_noted {s : State} {q : AtsReq} (up : s.pw.phase ≠ .holdUp) (wait : s.link.atsWait = [q]) (fresh : q.stale = false) :
    ∃ t, ReadsGoOn t (exec (.atsTranslationCompletion q.id .fail) s) ∧ t.link.atsWait = []
      ∧ t.link.atsBad = s.link.atsBad ++ [(q.key, q.addr, q.write, .atsFail)] ∧ t.link.atc = s.link.atc ∧ StoreKept s t := by
  have run := exec_atsAnswer up wait .fail fresh
  dsimp only at run
  refine ⟨denyRequest q .atsFail { s with link := { s.link with atsWait := [] } }, ?_, rfl, rfl, rfl, storeKept_of_st rfl⟩
  rw [run]
  exact readsGoOn_next _

/-- An access of `n` bytes from `lo` meets the invalidated addresses. -/
theorem not_meets {lo n addr len : Nat} (h : ¬ (lo < addr + len ∧ addr < lo + n)) : addr + len ≤ lo ∨ lo + n ≤ addr := by omega

/-- The state of an invalidation of every address space, before it is answered. -/
def invalidated (addr len : Nat) (s : State) : State :=
  dropInv (none, addr, len) { s with link := { s.link with
    atc := s.link.atc.filter (fun e => !(true && decide (e.addr < addr + len ∧ addr < e.addr + 2 ^ e.log2)))
    atsWait := s.link.atsWait.map (fun q => { q with stale := q.stale || (true && decide (q.addr < addr + len ∧ addr < q.addr + 4096)) })
    atsBad := s.link.atsBad.filter (fun x => !(true && decide (x.2.1 < addr + len ∧ addr < x.2.1 + 4096)))
    reads := s.link.reads.map (fun q => { q with stale := q.stale || invHits (none, addr, len) q })
    atsInv := s.link.atsInv ++ [(none, addr, len)] } }

theorem invalidated_atRest {s : State} (addr len : Nat) (h : ArrayAtRest s) : ArrayAtRest (invalidated addr len s) :=
  have same : ArrayUntouched s (invalidated addr len s) := ⟨rfl, rfl, rfl, rfl, rfl, fun _ h => h⟩
  same.atRest h

theorem exec_atsInvalidation {s : State} (addr len : Nat) (up : s.pw.phase ≠ .holdUp) (on : s.link.atsEn = true)
    (reads : s.link.reads = []) (inv : s.link.atsInv = []) (rest : ArrayAtRest s) : exec (.atsInvalidation none addr len) s
    = .next (emit .atsInvDone { invalidated addr len s with link := { (invalidated addr len s).link with atsInv := [] } }) := by
  have acts : ¬ (s.link.atsEn = false ∨ s.pw.phase = .holdUp) := not_or.mpr ⟨by rw [on]; decide, up⟩
  have run : exec (.atsInvalidation none addr len) s = .next (settleInv (pumpWheels (invalidated addr len s))) :=
    congrArg Host.Outcome.next (if_neg acts)
  have open_ : (invalidated addr len s).link.atsInv = [(none, addr, len)] := congrArg (· ++ _) inv
  have idle : (invalidated addr len s).link.reads = [] := by
    change s.link.reads.map _ = []
    rw [reads]
    rfl
  rw [run, pumpWheels_rest (invalidated_atRest addr len rest)]
  generalize invalidated addr len s = u at open_ idle
  refine congrArg Host.Outcome.next ?_
  have closed : u.link.atsInv.filter (· != (none, addr, len)) = [] := by
    rw [open_]
    exact List.filter_cons_of_neg (by rw [bne_self_eq_false]; exact Bool.false_ne_true)
  rw [settleInv, open_, List.foldl_cons, List.foldl_nil, idle, if_neg (by exact Bool.false_ne_true), closed]

theorem invalidation_ends {s : State} (addr len : Nat) (up : s.pw.phase ≠ .holdUp) (on : s.link.atsEn = true)
    (reads : s.link.reads = []) (inv : s.link.atsInv = []) (rest : ArrayAtRest s) :
    ∃ t, exec (.atsInvalidation none addr len) s = .next t ∧ t.link.atsInv = [] ∧ BusOut.atsInvDone ∈ t.bus
      ∧ (∀ e ∈ t.link.atc, e ∈ s.link.atc ∧ (addr + len ≤ e.addr ∨ e.addr + 2 ^ e.log2 ≤ addr))
      ∧ (∀ e ∈ s.link.atc, (addr + len ≤ e.addr ∨ e.addr + 2 ^ e.log2 ≤ addr) → e ∈ t.link.atc)
      ∧ (∀ q ∈ t.link.atsWait, q.addr < addr + len → addr < q.addr + 4096 → q.stale = true)
      ∧ t.rings = s.rings ∧ StoreKept s t := by
  refine ⟨_, exec_atsInvalidation addr len up on reads inv rest, rfl, List.mem_append_right _ (List.mem_singleton.mpr rfl),
    fun e he => ?_, fun e he out => ?_, fun q hq lo hi => ?_, rfl, storeKept_of_st rfl⟩
  · obtain ⟨held, apart⟩ := List.mem_filter.mp he
    exact ⟨held, not_meets fun h => by rw [Bool.true_and, decide_eq_true h] at apart; exact Bool.noConfusion apart⟩
  · refine List.mem_filter.mpr ⟨he, ?_⟩
    rw [Bool.true_and, decide_eq_false (by omega)]
    rfl
  · obtain ⟨x, -, rfl⟩ := List.mem_map.mp hq
    change (x.stale || (true && decide (x.addr < addr + len ∧ addr < x.addr + 4096))) = true
    rw [decide_eq_true (show x.addr < addr + len ∧ addr < x.addr + 4096 from ⟨lo, hi⟩), Bool.and_self, Bool.or_true]

/-! ### Configuration requests -/

theorem exec_cfgRetry {s : State} (phase : s.pw.phase = .bringUp) (young : s.now < s.wd.since + 100000) (q : CfgReq) :
    exec (.configurationRequest q) s = .next (emit .cfgRetry s) := by
  change Host.Outcome.next (match s.pw.phase with
    | .off | .vaux | .deep | .inReset | .waitRelease | .holdUp | .thermalHold => s
    | .bringUp | .recovery =>
      if s.boot.up = false ∨ s.now < s.wd.since + 100000 then emit .cfgRetry s else configure q s
    | .ready => configure q s) = _
  rw [phase]
  exact congrArg Host.Outcome.next (if_pos (.inr young))

theorem exec_configure {s : State} (phase : s.pw.phase = .ready) (q : CfgReq) :
    exec (.configurationRequest q) s = .next (configure q s) := by
  change Host.Outcome.next (match s.pw.phase with
    | .off | .vaux | .deep | .inReset | .waitRelease | .holdUp | .thermalHold => s
    | .bringUp | .recovery =>
      if s.boot.up = false ∨ s.now < s.wd.since + 100000 then emit .cfgRetry s else configure q s
    | .ready => configure q s) = _
  rw [phase]

theorem exec_pasidEnable {s : State} (phase : s.pw.phase = .ready) (on : Bool) :
    ArrayGoesOn s { s with link := { s.link with pasidEn := on } } (exec (.configurationRequest (.pasidEnable on)) s) := by
  have run : exec (.configurationRequest (.pasidEnable on)) s = .next (pumpWheels { s with link := { s.link with pasidEn := on } }) :=
    exec_configure phase (.pasidEnable on)
  refine ⟨run, fun rest => ?_⟩
  have rest' : ArrayAtRest { s with link := { s.link with pasidEn := on } } := arrayAtRest_same rest rfl rfl rfl
  rw [run, pumpWheels_rest rest']

/-- The Interrupt Pin byte is cleared. -/
theorem noInterruptPin (x : Word) : fld (x &&& 0xFFFF00FF) 8 8 = 0 := by
  refine BitVec.eq_of_getLsbD_eq fun i hi => ?_
  have clear : ∀ i, i < 8 → (0xFFFF00FF : Word).getLsbD (8 + i) = false := by decide
  rw [fld, BitVec.getLsbD_extractLsb', BitVec.getLsbD_and, clear i hi, Bool.and_false, Bool.and_false]
  exact BitVec.getLsbD_zero.symm

/-- The word a read of a configuration register answers: a free value, but for the Interrupt Pin. -/
def cfgWord (reg : Nat) (s : State) : Word :=
  if reg = 0x3C then Config.freeReply s.freeIx &&& 0xFFFF00FF else Config.freeReply s.freeIx

/-- Settles O25: a completion places its beats and frees its tag; an answer joins the translations or the failures known. -/
theorem linkCompletionsAndTranslations : Obligations.LinkCompletionsAndTranslations := by
  refine ⟨fun s tag q cid c h => ⟨fun ds len => readCompletion_places h ds len, completionTimeout_poisons h⟩,
    fun s up => ⟨fun q log2 xaddr wait empty fresh => grant_joins log2 xaddr up wait empty fresh, fun q wait fresh => refusal_noted up wait fresh,
      fun q a wait stale => exec_atsStale up wait a stale, fun addr len on reads inv rest => invalidation_ends addr len up on reads inv rest⟩,
    fun s => ⟨fun phase _ young q => exec_cfgRetry phase young q, fun phase => ⟨fun on => ?_, fun n => exec_configure phase (.maxReadRequest n),
      fun n => exec_configure phase (.timeoutRange n), fun n small => ?_, fun o => ?_, fun reg => ?_⟩⟩⟩
  · exact exec_pasidEnable phase on
  · exact (exec_configure phase (.bar2Resize n)).trans (congrArg Host.Outcome.next (if_neg (by omega)))
  · refine ⟨optionValue o, exec_configure phase (.option o), ?_, ?_, ?_, ?_, ?_⟩
    · rintro rfl; rfl
    · rintro rfl; rfl
    · rintro rfl; rfl
    · rintro rfl; rfl
    · rintro (rfl | rfl | rfl | rfl) <;> rfl
  · refine ⟨cfgWord reg s, _, exec_configure phase (.read reg), rfl, fun pin => ?_, rfl, rfl, storeKept_of_st rfl⟩
    rw [cfgWord, if_pos pin]
    exact noInterruptPin _

end Sys2Proof.Proofs

/-! Crags that are fenced, and their scans (10, 19). -/

namespace Sys2Proof.Proofs

open Sys2Proof Sys2Proof.Machine Sys2Proof.Safety Sys2Proof.Laws

/-! ### What dropping and discarding work leaves of crags and stored data -/

/-- The marks of a crag that work on the array does not move. -/
def cragMarks (x : CragSt) : Bool × Bool × BitVec 4 := (x.fenced, x.scanBusy, x.scanRes)

/-- From `s` to `t` every crag keeps its marks, and stored data stay. -/
structure MarksKept (s t : State) : Prop where
  crags : ∀ n : Crag, cragMarks t.ma.crags[n] = cragMarks s.ma.crags[n]
  st : t.st = s.st

theorem MarksKept.refl (s : State) : MarksKept s s := ⟨fun _ => rfl, rfl⟩

theorem MarksKept.trans {s t u : State} (a : MarksKept s t) (b : MarksKept t u) : MarksKept s u :=
  ⟨fun n => (b.crags n).trans (a.crags n), b.st.trans a.st⟩

theorem MarksKept.of_crags {s t : State} (crags : t.ma.crags = s.ma.crags) (st : t.st = s.st) : MarksKept s t :=
  ⟨fun n => by rw [crags], st⟩

theorem MarksKept.of_viewOnly {s t : State} (h : ViewOnly s t) : MarksKept s t := .of_crags (by rw [h.ma]) h.st

theorem foldl_marksKept {β : Type} {f : State → β → State} (h : ∀ s b, MarksKept s (f s b)) (l : List β) (s : State) :
    MarksKept s (l.foldl f s) := by
  induction l generalizing s with
  | nil => exact .refl s
  | cons b l ih => exact (h s b).trans (ih _)

theorem onCrag_marksKept (n : Crag) {f : CragSt → CragSt} (hf : ∀ x, cragMarks (f x) = cragMarks x) (s : State) :
    MarksKept s (s.onCrag n f) := by
  refine ⟨fun m => ?_, rfl⟩
  by_cases h : m = n
  · subst h
    rw [State.onCrag_same, hf]
  · rw [State.onCrag_other s n f m h]

theorem onWheel_marksKept (w : Wheel) (f : WheelSt → WheelSt) (s : State) : MarksKept s (s.onWheel w f) := .of_crags rfl rfl

theorem onLane_marksKept (l : Lane) (f : LaneSt → LaneSt) (s : State) : MarksKept s (s.onLane l f) := .of_crags rfl rfl

theorem shiftReads_marksKept (w : Wheel) (b n : Nat) (s : State) : MarksKept s (shiftReads w b n s) := .of_crags rfl rfl

theorem dropOutputs_marksKept (n : Crag) (s : State) : MarksKept s (dropOutputs n s) := .of_crags rfl rfl

theorem reads_marksKept (l : List ReadReq) (s : State) : MarksKept s { s with link := { s.link with reads := l } } := .of_crags rfl rfl

theorem dropSpan_marksKept (w : Wheel) (b n : Nat) (l : List Strm) (s : State) : MarksKept s (dropSpan w b n l s) := by
  have moved : ∀ (reads : List ReadReq) (f : WheelSt → WheelSt),
      MarksKept s ((shiftReads w (b + n) n { s with link := { s.link with reads := reads } }).onWheel w f) := fun reads f =>
    ((reads_marksKept reads s).trans (shiftReads_marksKept w (b + n) n _)).trans (onWheel_marksKept w f _)
  unfold dropSpan
  dsimp only
  split
  · exact ((moved _ _).trans (onCrag_marksKept _ (by intro x; rfl) _)).trans (dropOutputs_marksKept _ _)
  · exact moved _ _

theorem noteRest_marksKept (n : Crag) (s : State) : MarksKept s (noteRest n s) := onCrag_marksKept n (by intro x; rfl) s

theorem removeStreams_marksKept (cid : Nat) (s : State) : MarksKept s (removeStreams cid s) := by
  unfold removeStreams
  refine foldl_marksKept (fun s w => ?_) _ s
  dsimp only
  split
  · exact .refl s
  · exact (dropSpan_marksKept _ _ _ _ s).trans (noteRest_marksKept _ _)

theorem abortContexts_marksKept (cid : Nat) (s : State) : MarksKept s (abortContexts cid s) := by
  have removed := removeStreams_marksKept cid s
  unfold abortContexts leaveEngines
  generalize removeStreams cid s = t at removed ⊢
  exact removed.trans (.of_crags rfl rfl)

theorem pushEntry_marksKept (r : Ring) (c : Cmd) (o : Outc) (s : State) : MarksKept s (pushEntry r c o s) :=
  .of_crags (by rw [pushEntry_ma]) (pushEntry_st r c o s)

theorem discardWork_marksKept (unit : Nat) (uses : Ring → Cmd → Bool) (s : State) : MarksKept s (discardWork unit uses s) := by
  unfold discardWork
  refine foldl_marksKept (fun s r => ?_) _ s
  refine foldl_marksKept (fun s c => ?_) _ s
  exact (abortContexts_marksKept c.cid s).trans (pushEntry_marksKept r c _ _)

theorem abortTap_marksKept (tap : Tap) (s : State) : MarksKept s (abortTap tap s) := by
  unfold abortTap
  refine foldl_marksKept (fun s x => ?_) _ s
  exact onLane_marksKept _ _ s

theorem dropStream_marksKept (w : Wheel) (s : State) : MarksKept s (dropStream w s) := by
  unfold dropStream
  dsimp only
  split
  · exact onWheel_marksKept w _ s
  split
  · exact .refl s
  split
  · exact .refl s
  · exact ((abortTap_marksKept _ s).trans (dropSpan_marksKept _ _ _ _ _)).trans (onWheel_marksKept w _ _)

theorem dropStreams_marksKept (n : Crag) (s : State) : MarksKept s (dropStreams n s) := by
  unfold dropStreams
  refine foldl_marksKept (fun s w => ?_) _ s
  split
  · exact dropStream_marksKept w s
  · exact .refl s

theorem setPlace_marksKept (p n : Byte) (s : State) : MarksKept s (setPlace p n s) := by
  unfold setPlace
  split
  · exact .of_crags rfl rfl
  · exact .refl s

theorem unplace_marksKept (n : Crag) (s : State) : MarksKept s (unplace n s) :=
  onCrag_marksKept n (by intro x; rfl) s

theorem placeOn_marksKept (n : Crag) (p : Byte) (t : Tenant) (body : List Host.Cell) (s : State) : MarksKept s (placeOn n p t body s) :=
  (onCrag_marksKept n (by intro x; rfl) s).trans (setPlace_marksKept _ _ _)

theorem raiseEvent_marksKept (code : Nat) (u : Byte) (a0 a1 : Word) (s : State) : MarksKept s (raiseEvent code u a0 a1 s) :=
  .of_viewOnly (raiseEvent_viewOnly code u a0 a1 s)

theorem reloadElsewhere_marksKept (n : Crag) (s : State) : MarksKept s (reloadElsewhere n s) := by
  unfold reloadElsewhere
  dsimp only
  split
  · exact .refl s
  split
  · exact ((unplace_marksKept n s).trans (placeOn_marksKept _ _ _ _ _)).trans (.of_crags rfl rfl)
  · exact ((unplace_marksKept n s).trans (setPlace_marksKept _ _ _)).trans (raiseEvent_marksKept _ _ _ _ _)

/-! ### The fence of a crag (R206, R383) -/

/-- The crag as it is fenced: captured, or zeroised when the Keep claims it. -/
def fencedCrag (n : Crag) (s : State) : State :=
  (if s.ma.crags[n].keep then { zeroCrag n s with cfg := { s.cfg with claimFenced := true } } else capture n s).onCrag n
    (fun x => { x with fenced := true, suspended := false, moving := false, scanBusy := false })

/-- The end of a crag's waits. -/
def dropWaits (n : Crag) (s : State) : State := { s with ma := { s.ma with waits := s.ma.waits.filter (fun w => w.unit != .crag n) } }

theorem fenceCrag_eq {n : Crag} {why : Nat} {s : State} (h : s.ma.crags[n].fenced = false) : fenceCrag n why s =
    refreshView (reloadElsewhere n (raiseEvent 0x0601 (BitVec.ofNat 8 n.val) 0 (BitVec.ofNat 32 why) (dropWaits n
      (if s.ma.crags[n].used then dropStreams n (discardWork n.val (s.usesCrag n) (fencedCrag n s)) else fencedCrag n s)))) := by
  unfold fenceCrag
  dsimp only
  rw [if_neg (by rw [h]; decide)]
  rfl

theorem dropWaits_marksKept (n : Crag) (s : State) : MarksKept s (dropWaits n s) := .of_crags rfl rfl

theorem fenceCrag_marksKept {n : Crag} (why : Nat) {s : State} (h : s.ma.crags[n].fenced = false) :
    MarksKept (fencedCrag n s) (fenceCrag n why s) := by
  have dropped : MarksKept (fencedCrag n s)
      (if s.ma.crags[n].used then dropStreams n (discardWork n.val (s.usesCrag n) (fencedCrag n s)) else fencedCrag n s) := by
    split
    · exact (discardWork_marksKept _ _ _).trans (dropStreams_marksKept n _)
    · exact .refl _
  rw [fenceCrag_eq h]
  generalize (if s.ma.crags[n].used then dropStreams n (discardWork n.val (s.usesCrag n) (fencedCrag n s)) else fencedCrag n s) = u
    at dropped
  have told := (dropWaits_marksKept n u).trans (raiseEvent_marksKept 0x0601 (BitVec.ofNat 8 n.val) 0 (BitVec.ofNat 32 why) _)
  exact ((dropped.trans told).trans (reloadElsewhere_marksKept n _)).trans (.of_viewOnly (refreshView_viewOnly _))

theorem fencedCrag_crag (n : Crag) (s : State) : (fencedCrag n s).ma.crags[n].fenced = true
    ∧ (fencedCrag n s).ma.crags[n].scanBusy = false ∧ (fencedCrag n s).ma.crags[n].scanRes = s.ma.crags[n].scanRes := by
  unfold fencedCrag
  rw [State.onCrag_same]
  refine ⟨rfl, rfl, ?_⟩
  dsimp only
  split
  · exact (congrArg CragSt.scanRes (State.onCrag_same s n _) :)
  · rfl

theorem fencedCrag_st (n : Crag) (s : State) : (fencedCrag n s).st = s.st := by
  unfold fencedCrag
  split <;> rfl

/-- A crag that is fenced ends its scan and keeps its RESULT; stored data stay. -/
theorem fenceCrag_fences {n : Crag} (why : Nat) {s : State} (h : s.ma.crags[n].fenced = false) :
    (fenceCrag n why s).ma.crags[n].fenced = true ∧ (fenceCrag n why s).ma.crags[n].scanBusy = false
      ∧ (fenceCrag n why s).ma.crags[n].scanRes = s.ma.crags[n].scanRes ∧ (fenceCrag n why s).st = s.st := by
  have kept := fenceCrag_marksKept why h
  obtain ⟨fenced, busy, res⟩ := fencedCrag_crag n s
  have marks := kept.crags n
  generalize fenceCrag n why s = t at kept marks ⊢
  exact ⟨(congrArg Prod.fst marks).trans fenced, (congrArg (fun m => m.2.1) marks).trans busy,
    (congrArg (fun m => m.2.2) marks).trans res, kept.st.trans (fencedCrag_st n s)⟩

end Sys2Proof.Proofs

/-! Suspends and scans of a crag (10.5): what is asked for, and how a scan ends. -/

namespace Sys2Proof.Proofs

open Sys2Proof Sys2Proof.Machine Sys2Proof.Safety Sys2Proof.Laws

/-! ### What is asked for (R198, R199, R201, R74) -/

section
variable {s : State} {n : Crag} (ready : s.pw.rdy = true)
include ready

theorem exec_suspend (on : Bool) : exec (.suspend n on) s = .next (cragWrite n (decideSuspend s n on) (setSuspend n on) s) :=
  congrArg Host.Outcome.next (if_neg (by rw [ready]; decide))

theorem exec_scanOut : exec (.scanOut n) s = .next (cragWrite n (decideScan s n 1) (startScan n 1 false) s) :=
  congrArg Host.Outcome.next (if_neg (by rw [ready]; decide))

theorem exec_scanIn : exec (.scanIn n) s = .next (cragWrite n (decideScan s n 2) (startScan n 2 false) s) :=
  congrArg Host.Outcome.next (if_neg (by rw [ready]; decide))

end

section
variable {s : State} {n : Crag}

theorem cragWrite_closed {v : BitVec 4} (h : s.ma.crags[n].closed = some v) (idle : s.cfg.loading = false) (x : ExpRes)
    (f : State → State) : cragWrite n x f s = setScanRes n v s := by
  rw [cragWrite, h]
  exact if_neg (by rw [idle]; decide)

theorem cragWrite_applied {x : ExpRes} (h : s.ma.crags[n].closed = none) (hx : x = .applied) (f : State → State) :
    cragWrite n x f s = setExp .applied (f s) := by
  rw [cragWrite, h, hx]
  exact if_pos rfl

theorem cragWrite_refused {x : ExpRes} (h : s.ma.crags[n].closed = none) (hx : x ≠ .applied) (f : State → State) :
    cragWrite n x f s = setExp x s := by
  rw [cragWrite, h]
  exact if_neg hx

theorem startScan_running (op : BitVec 2) (h : s.ma.crags[n].suspended = false) : startScan n op false s = setScanRes n 2 s := if_pos h

theorem startScan_outside (op : BitVec 2) (h : s.ma.crags[n].suspended = true) (fits : scanFits s n = false) :
    startScan n op false s = setScanRes n 3 s :=
  (if_neg (by rw [h]; decide)).trans (if_pos ⟨rfl, fits⟩)

theorem startScan_begins (op : BitVec 2) (h : s.ma.crags[n].suspended = true) (fits : scanFits s n = true) :
    startScan n op false s = s.onCrag n (fun x => { x with scanBusy := true, scanOp := op, scanDebug := false }) :=
  (if_neg (by rw [h]; decide)).trans (if_neg (by rw [fits]; rintro ⟨-, h⟩; exact Bool.noConfusion h))

end

/-- Crags that keep the program they run leave an array at rest, at rest. -/
theorem onCrag_atRest {s : State} (n : Crag) {f : CragSt → CragSt} (hf : ∀ x, (f x).used = x.used ∧ (f x).prog = x.prog)
    (h : ArrayAtRest s) : ArrayAtRest (s.onCrag n f) := by
  obtain ⟨wheels, engines, reads, crags, taps⟩ := h
  refine ⟨wheels, engines, reads, fun m => ?_, taps⟩
  have same : (s.onCrag n f).programOn m = s.programOn m := by
    have fields : (s.onCrag n f).ma.crags[m].used = s.ma.crags[m].used ∧ (s.onCrag n f).ma.crags[m].prog = s.ma.crags[m].prog := by
      by_cases e : m = n
      · subst e
        rw [State.onCrag_same]
        exact hf _
      · rw [State.onCrag_other s n f m e]
        exact ⟨rfl, rfl⟩
    unfold State.programOn
    dsimp only
    rw [fields.1, fields.2]
    rfl
  unfold State.hasPes at crags ⊢
  rw [same]
  exact crags m

theorem suspend_applies {s : State} {n : Crag} (ready : s.pw.rdy = true) (on : Bool) (h : s.ma.crags[n].closed = none)
    (hx : decideSuspend s n on = .applied) :
    exec (.suspend n on) s = .next (setExp .applied (pumpWheels (s.onCrag n (fun x => { x with suspended := on }))))
      ∧ (ArrayAtRest s → exec (.suspend n on) s = .next (setExp .applied (s.onCrag n (fun x => { x with suspended := on })))) := by
  have run : exec (.suspend n on) s = .next (setExp .applied (pumpWheels (s.onCrag n (fun x => { x with suspended := on })))) := by
    rw [exec_suspend ready, cragWrite_applied h hx]
    rfl
  refine ⟨run, fun rest => ?_⟩
  have rest' : ArrayAtRest (s.onCrag n (fun x => { x with suspended := on })) := onCrag_atRest n (by intro x; exact ⟨rfl, rfl⟩) rest
  rw [run, pumpWheels_rest rest']

/-! ### A scan image is written beat by beat (R84, R199) -/

theorem writeBytes_append (a : Nat) (l l' : List Byte) (m : List Host.Cell) :
    writeBytes a (l ++ l') m = writeBytes (a + l.length) l' (writeBytes a l m) := by
  induction l generalizing a m with
  | nil => rfl
  | cons b l ih =>
    rw [List.cons_append, writeBytes, ih, writeBytes, List.length_cons, Nat.add_right_comm]
    rfl

theorem storeBeat_bytesOnly (b : Nat) (x : Beat) (s : State) : BytesOnly s (storeBeat b x s) := by
  unfold storeBeat
  exact .trans ⟨_, s.st.memBad, _, rfl⟩ (markBad_bytesOnly x.psn b _)

/-- The first `k` of `m` whole beats of a byte string are its first `64 k` bytes. -/
theorem flatMap_pieces (bs : List Byte) (k : Nat) :
    (List.range k).flatMap (fun i => (bs.drop (64 * i)).take 64) = bs.take (64 * k) := by
  induction k with
  | zero => rfl
  | succ k ih => rw [List.range_succ, List.flatMap_append, ih, List.flatMap_singleton, Nat.mul_succ, List.take_add]

/-- Beats stored in turn, each inside the windows. -/
def scanBeat (n : Crag) (a : Nat) (s : State) (p : BeatBits × Nat) : State :=
  if inWindows s s.ma.crags[n].tenant (a + 64 * p.2) 64 then storeBeat (a / 64 + p.2) { data := p.1 } s
  else
    let (x, s1) := draw s
    fltRecord (a + 64 * p.2) .window s.ma.crags[n].tenant false (fld x 0 4).toNat true (fld x 4 20).toNat s1

theorem writeScan_eq (n : Crag) (image : List Byte) (s : State) : writeScan n image s
    = (toBeats image).zipIdx.foldl (scanBeat n (s.ma.crags[n].scanAddr.toNat * 4096)) s := rfl

theorem inWindows_bytesOnly {s t : State} (h : BytesOnly s t) (u : Tenant) (a n : Nat) : inWindows t u a n = inWindows s u a n := by
  obtain ⟨m, b, l, rfl⟩ := h
  rfl

/-- An image of `m` whole beats inside the crag's tenant's windows lands as it is. -/
theorem writeScan_lands {n : Crag} {image : List Byte} {s : State} {m : Nat} (len : image.length = 64 * m)
    (inside : ∀ k, k < m → inWindows s s.ma.crags[n].tenant (s.ma.crags[n].scanAddr.toNat * 4096 + 64 * k) 64 = true) :
    BytesOnly s (writeScan n image s)
      ∧ (writeScan n image s).st.mem = writeBytes (s.ma.crags[n].scanAddr.toNat * 4096) image s.st.mem := by
  generalize ha : s.ma.crags[n].scanAddr.toNat * 4096 = a at inside
  have aligned : 64 * (a / 64) = a := by omega
  rw [writeScan_eq, ha, toBeats_whole len]
  have first : ∀ k, k ≤ m → BytesOnly s ((((List.range k).map (fun i => ofBytes 512 ((image.drop (64 * i)).take 64))).zipIdx).foldl (scanBeat n a) s)
      ∧ ((((List.range k).map (fun i => ofBytes 512 ((image.drop (64 * i)).take 64))).zipIdx).foldl (scanBeat n a) s).st.mem
        = writeBytes a (image.take (64 * k)) s.st.mem := by
    intro k
    induction k with
    | zero => exact fun _ => ⟨.refl s, by rw [Nat.mul_zero, List.take_zero]; rfl⟩
    | succ k ih =>
      intro hk
      obtain ⟨only, mem⟩ := ih (by omega)
      rw [List.range_succ, List.map_append, List.zipIdx_append, List.foldl_append]
      generalize (((List.range k).map (fun i => ofBytes 512 ((image.drop (64 * i)).take 64))).zipIdx).foldl (scanBeat n a) s = t at only mem
      have place : (List.range k).length = k := List.length_range
      have tenant : t.ma.crags[n].tenant = s.ma.crags[n].tenant := by
        obtain ⟨_, _, _, rfl⟩ := only
        rfl
      have piece : ((image.drop (64 * k)).take 64).length = 64 := by
        rw [List.length_take, List.length_drop, len]
        omega
      have stored : scanBeat n a t (ofBytes 512 ((image.drop (64 * k)).take 64), k)
          = storeBeat (a / 64 + k) { data := ofBytes 512 ((image.drop (64 * k)).take 64) } t := by
        refine if_pos ?_
        dsimp only
        rw [inWindows_bytesOnly only, tenant]
        exact inside k hk
      have step : List.foldl (scanBeat n a) t ([ofBytes 512 ((image.drop (64 * k)).take 64)].zipIdx (0 + (List.range k).length))
          = storeBeat (a / 64 + k) { data := ofBytes 512 ((image.drop (64 * k)).take 64) } t := by
        rw [place, Nat.zero_add]
        exact stored
      rw [List.length_map]
      refine ⟨step ▸ only.trans (storeBeat_bytesOnly _ _ t), (congrArg (fun u : State => u.st.mem) step).trans ?_⟩
      rw [storeBeat_mem, bytesLE_ofBytes piece (by decide), mem, Nat.mul_succ, List.take_add, writeBytes_append, List.length_take, len,
        show 64 * (a / 64 + k) = a + min (64 * k) (64 * m) by omega]
  have all := first m le_rfl
  rwa [← len, List.take_length] at all

theorem scanImage_length (s : State) (n : Crag) (reason : Nat) : (scanImage s n reason).length = scanLen := by
  have head : (scanHead s n reason).length = 64 := by
    simp only [scanHead, List.length_append, toLE_length, bytesLE_length, List.length_cons, List.length_nil, List.length_replicate]
  simp only [scanImage, sealScan, List.length_append, List.length_take, head, toLE_length, List.length_map, List.length_range]
  decide

/-! ### SCAN_COMPLETE -/

section
variable {s : State} {n : Crag} {op : BitVec 2} (h : Pre.scanEnds s n op) (raced progBad : Bool)
include h

theorem exec_scanOut_ends (ho : op = 1) : exec (.scanComplete n false raced progBad) s = .next (endScanOut n s) := by
  obtain ⟨ready, busy, what, -, -⟩ := h
  refine congrArg Host.Outcome.next ((if_neg (not_or.mpr ⟨by rw [busy]; decide, by rw [ready]; decide⟩)).trans ?_)
  exact (if_neg Bool.false_ne_true).trans (if_pos (what.trans ho))

theorem exec_scanIn_ends (ho : op = 2) : exec (.scanComplete n false raced progBad) s = .next (endScanIn n raced progBad s) := by
  obtain ⟨ready, busy, what, -, -⟩ := h
  refine congrArg Host.Outcome.next ((if_neg (not_or.mpr ⟨by rw [busy]; decide, by rw [ready]; decide⟩)).trans ?_)
  exact (if_neg Bool.false_ne_true).trans (if_neg (by rw [what, ho]; decide))

theorem exec_scan_fails : exec (.scanComplete n true raced progBad) s
    = .next (fenceCrag n 1 (s.onCrag n (fun x => { x with scanBusy := false, scanRes := 8 }))) := by
  obtain ⟨ready, busy, -, -, -⟩ := h
  refine congrArg Host.Outcome.next ((if_neg (not_or.mpr ⟨by rw [busy]; decide, by rw [ready]; decide⟩)).trans ?_)
  exact if_pos rfl

end

/-- With no page frozen none must be copied. -/
theorem copyPages_thawed {s : State} (h : s.st.frozen = []) (pages : List Nat) : copyPages pages s = some s := by
  have none : (pages.filter s.mustCopy).eraseDups = [] := by
    have empty : pages.filter s.mustCopy = [] := by
      rw [List.filter_eq_nil_iff]
      exact fun p _ => ne_true_of_eq_false (mustCopy_thawed h p)
    rw [empty]
    rfl
  unfold copyPages
  dsimp only
  rw [none]
  exact if_neg (not_or.mpr ⟨Nat.not_lt_zero _, fun k => k.2 rfl⟩)

theorem endScanOut_writes {s : State} {n : Crag} (own : s.ma.crags[n].scanDebug = false) (thawed : s.st.frozen = []) :
    endScanOut n s = (writeScan n (scanImage s n 1) s).onCrag n (fun x => { x with scanBusy := false, scanRes := 0 }) := by
  unfold endScanOut
  simp only [own, copyPages_thawed thawed, Bool.false_eq_true, if_false]

theorem scanOut_ends {s : State} {n : Crag} (raced pb : Bool) (h : Pre.scanEnds s n 1) (thawed : s.st.frozen = [])
    (inside : ∀ k, k < scanLen / 64 → inWindows s s.ma.crags[n].tenant (s.ma.crags[n].scanAddr.toNat * 4096 + 64 * k) 64 = true) :
    ∃ t, exec (.scanComplete n false raced pb) s = .next t ∧ t.ma.crags[n].scanBusy = false ∧ t.ma.crags[n].scanRes = 0
      ∧ (∀ i b, (scanImage s n 1)[i]? = some b → readByte t.st.mem (s.ma.crags[n].scanAddr.toNat * 4096 + i) = b)
      ∧ (∀ a, a < s.ma.crags[n].scanAddr.toNat * 4096 ∨ s.ma.crags[n].scanAddr.toNat * 4096 + scanLen ≤ a →
          readByte t.st.mem a = readByte s.st.mem a)
      ∧ t.ma.crags[n].body = s.ma.crags[n].body ∧ t.rings = s.rings ∧ t.cairns = s.cairns := by
  have run := exec_scanOut_ends h raced pb rfl
  obtain ⟨-, -, -, own, ok⟩ := h
  rw [endScanOut_writes own thawed] at run
  have len := scanImage_length s n 1
  obtain ⟨only, mem⟩ := writeScan_lands (len.trans (by decide : scanLen = 64 * (scanLen / 64))) inside
  generalize scanImage s n 1 = image at run len only mem ⊢
  generalize writeScan n image s = u at run only mem
  obtain ⟨_, _, _, hu⟩ := only
  have crag : (u.onCrag n (fun x => { x with scanBusy := false, scanRes := 0 })).ma.crags[n]
      = { s.ma.crags[n] with scanBusy := false, scanRes := 0 } := by
    rw [State.onCrag_same, hu]
  refine ⟨_, run, (congrArg CragSt.scanBusy crag :), (congrArg CragSt.scanRes crag :), fun i b hb => ?_, fun a ha => ?_, (congrArg CragSt.body crag :),
    by rw [State.onCrag_rings, hu], by rw [State.onCrag_cairns, hu]⟩
  · obtain ⟨hi, -⟩ := List.getElem?_eq_some_iff.mp hb
    rw [State.onCrag_st, mem, readByte_writeBytes ok, if_pos ⟨Nat.le_add_right _ _, by omega⟩, Nat.add_sub_cancel_left, hb, Option.getD_some]
  · rw [State.onCrag_st, mem, readByte_writeBytes_out ok (by rw [len]; exact ha)]

theorem scanSource_memory {s : State} {n : Crag} (own : s.ma.crags[n].scanDebug = false) :
    (scanSource s n).1 = readBytes s.st.mem (s.ma.crags[n].scanAddr.toNat * 4096) scanLen := by
  unfold scanSource
  dsimp only
  rw [if_neg (by rw [own]; decide)]

/-- A scan-in that fails its first pass leaves the crag but for RESULT. -/
theorem endScanIn_fails {s : State} {n : Crag} (raced pb : Bool)
    (bad : scanInResult s n (scanSource s n).1 (scanSource s n).2 pb ≠ 0) : endScanIn n raced pb s
    = s.onCrag n (fun x => { x with scanBusy := false, scanRes := scanInResult s n (scanSource s n).1 (scanSource s n).2 pb }) :=
  if_pos bad

/-- The body a scan-in gives: the image without its header and its waits. -/
def scannedBody (image : List Byte) : List Host.Cell := (cellsOf image).filter (fun c => decide (0x40 ≤ c.1) && (waitAt c.1).isNone)

/-- A scan-in that passes gives the crag the image's state. -/
theorem endScanIn_passes {s : State} {n : Crag} (pb : Bool)
    (good : scanInResult s n (scanSource s n).1 (scanSource s n).2 pb = 0) :
    (endScanIn n false pb s).rings = s.rings ∧ (endScanIn n false pb s).st = s.st
      ∧ (endScanIn n false pb s).ma.crags[n].scanBusy = false ∧ (endScanIn n false pb s).ma.crags[n].scanRes = 0
      ∧ (endScanIn n false pb s).ma.crags[n].body = scannedBody (scanSource s n).1
      ∧ (endScanIn n false pb s).ma.crags[n].undefinedSince = none := by
  generalize hi : (scanSource s n).1 = image at *
  generalize hb : (scanSource s n).2 = bad at *
  have source : scanSource s n = (image, bad) := Prod.ext hi hb
  unfold endScanIn
  rw [source]
  dsimp only
  rw [good, if_neg (not_not_intro rfl), if_neg Bool.false_ne_true]
  refine ⟨rfl, rfl, ?_⟩
  rw [noteRest, State.onCrag_same]
  dsimp only
  rw [State.onCrag_same]
  dsimp only
  rw [State.onCrag_same]
  exact ⟨rfl, rfl, rfl, rfl⟩

theorem readByte_scannedBody {image : List Byte} {k : Nat} (lo : 0x40 ≤ k) (hi : k < image.length) (plain : waitAt k = none) :
    readByte (scannedBody image) k = image[k] := by
  have empty : Memory.wf ([] : List Host.Cell) = true := rfl
  refine (readByte_filter (fun a => decide (0x40 ≤ a) && (waitAt a).isNone) k (writeBytes_wf empty)).trans ?_
  rw [if_pos (by rw [decide_eq_true lo, plain]; rfl), readByte_writeBytes empty, if_pos ⟨by omega, by omega⟩, Nat.sub_zero,
    List.getElem?_eq_getElem hi, Option.getD_some]

theorem scanIn_ends {s : State} {n : Crag} (pb : Bool) (h : Pre.scanEnds s n 2)
    (good : scanInResult s n (scanSource s n).1 (scanSource s n).2 pb = 0) :
    ∃ t, exec (.scanComplete n false false pb) s = .next t ∧ t.ma.crags[n].scanBusy = false
      ∧ t.ma.crags[n].scanRes = 0 ∧ (∀ k, 0x40 ≤ k → k < scanLen → waitAt k = none → t.ma.crags[n].byte k
          = readByte s.st.mem (s.ma.crags[n].scanAddr.toNat * 4096 + k)) ∧ t.rings = s.rings ∧ StoreKept s t := by
  obtain ⟨rings, st, busy, res, body, defined⟩ := endScanIn_passes pb good
  refine ⟨_, exec_scanIn_ends h false pb rfl, busy, res, fun k lo hi plain => ?_, rings, storeKept_of_st st⟩
  obtain ⟨-, -, -, own, -⟩ := h
  have image := scanSource_memory own
  generalize (scanSource s n).1 = im at body image
  generalize endScanIn n false pb s = t at body defined ⊢
  have len : im.length = scanLen := by rw [image, readBytes, List.length_map, List.length_range]
  rw [CragSt.byte, defined]
  dsimp only
  rw [body, readByte_scannedBody lo (by rw [len]; exact hi) plain]
  refine Option.some.inj ((List.getElem?_eq_getElem _).symm.trans ?_)
  rw [image]
  exact readBytes_getElem? hi

theorem scan_fences {s : State} {n : Crag} {op : BitVec 2} (raced pb : Bool) (h : Pre.scanEnds s n op) (whole : s.ma.crags[n].fenced = false) :
    ∃ t, exec (.scanComplete n true raced pb) s = .next t ∧ t.ma.crags[n].fenced = true ∧ t.ma.crags[n].scanRes = 8
      ∧ t.ma.crags[n].scanBusy = false ∧ t.st.mem = s.st.mem ∧ t.st.vault = s.st.vault := by
  have crag : (s.onCrag n (fun x => { x with scanBusy := false, scanRes := 8 })).ma.crags[n]
      = { s.ma.crags[n] with scanBusy := false, scanRes := 8 } := State.onCrag_same _ _ _
  obtain ⟨fenced, busy, res, st⟩ := fenceCrag_fences 1 ((congrArg CragSt.fenced crag).trans whole)
  refine ⟨_, exec_scan_fails h raced pb, fenced, res.trans (congrArg CragSt.scanRes crag), busy, ?_, ?_⟩
  · rw [st]
    rfl
  · rw [st]
    rfl

/-- Settles O47: a request is answered by the crag's state, by R74, or by the scan it starts; an end writes the image or takes it. -/
theorem scansMoveCragState : Obligations.ScansMoveCragState := by
  refine ⟨fun s n ready => ⟨fun v on closed idle => ⟨?_, ?_, ?_⟩, fun on closed hx => suspend_applies ready on closed hx,
    fun on closed hx => ?_, fun ⟨_, closed, hx⟩ run => ?_, fun ⟨_, closed, hx⟩ held out => ?_, fun ⟨_, closed, hx⟩ held fits => ?_,
    fun ⟨_, closed, hx⟩ held fits => ?_⟩, fun s n => ⟨fun raced pb h thawed inside => scanOut_ends raced pb h thawed inside,
    fun pb h good => scanIn_ends pb h good, fun pb raced h bad => ?_, fun op raced pb h whole _ => scan_fences raced pb h whole⟩⟩
  · rw [exec_suspend ready, cragWrite_closed closed idle]
  · rw [exec_scanOut ready, cragWrite_closed closed idle]
  · rw [exec_scanIn ready, cragWrite_closed closed idle]
  · rw [exec_suspend ready, cragWrite_refused closed hx]
  · rw [exec_scanOut ready, cragWrite_applied closed hx, startScan_running 1 run]
  · rw [exec_scanOut ready, cragWrite_applied closed hx, startScan_outside 1 held out]
  · rw [exec_scanOut ready, cragWrite_applied closed hx, startScan_begins 1 held fits]
  · rw [exec_scanIn ready, cragWrite_applied closed hx, startScan_begins 2 held fits]
  · have run := exec_scanIn_ends h raced pb rfl
    rw [endScanIn_fails raced pb bad] at run
    generalize scanInResult s n (scanSource s n).1 (scanSource s n).2 pb = v at run ⊢
    have crag : (s.onCrag n (fun x => { x with scanBusy := false, scanRes := v })).ma.crags[n]
        = { s.ma.crags[n] with scanBusy := false, scanRes := v } := State.onCrag_same _ _ _
    exact ⟨_, run, (congrArg CragSt.scanBusy crag :), (congrArg CragSt.scanRes crag :), (congrArg CragSt.body crag :), rfl, storeKept_of_st rfl⟩

end Sys2Proof.Proofs

/-! Placement moves of programs, and internal faults (10.6, 19.4). -/

namespace Sys2Proof.Proofs

open Sys2Proof Sys2Proof.Machine Sys2Proof.Safety Sys2Proof.Laws

/-! ### What a move may be made of (R41, R203, R204) -/

/-- A move's source runs a program, its destination runs none; neither is fenced. -/
structure Movable (s : State) (src dst : Crag) : Prop where
  runs : s.ma.crags[src].used = true
  whole : s.ma.crags[src].fenced = false
  free : s.ma.crags[dst].used = false
  fit : s.ma.crags[dst].fenced = false
  own : s.ma.crags[dst].keep = false

theorem movable_of_mayMove {s : State} {src dst : Crag} {why : MoveWhy} (h : mayMove s src dst why = true) : Movable s src dst := by
  unfold mayMove at h
  simp only [Bool.and_eq_true, Bool.not_eq_true'] at h
  obtain ⟨⟨⟨⟨⟨⟨⟨⟨-, runs⟩, -⟩, whole⟩, -⟩, -⟩, fit⟩, -⟩, -⟩ := h
  unfold State.eligible at fit
  simp only [Bool.and_eq_true, Bool.not_eq_true'] at fit
  obtain ⟨⟨⟨⟨⟨⟨⟨free, unfenced⟩, own⟩, -⟩, -⟩, -⟩, -⟩, -⟩ := fit
  exact ⟨runs, whole, free, unfenced, own⟩

theorem Movable.apart {s : State} {src dst : Crag} (h : Movable s src dst) : dst ≠ src := by
  rintro rfl
  exact Bool.false_ne_true (h.free.symm.trans h.runs)

/-- A crag without what its sensor reads. -/
def sansTemp (x : CragSt) : CragSt := { x with temp := 0 }

/-- From `s` to `t` only the time, the moves of a boundary and what two crags' sensors read change. -/
structure MoveNoted (src dst : Crag) (s t : State) : Prop where
  temps : ∀ m : Crag, sansTemp t.ma.crags[m] = sansTemp s.ma.crags[m]
  others : ∀ m : Crag, m ≠ src → m ≠ dst → t.ma.crags[m] = s.ma.crags[m]
  wheels : t.ma.wheels = s.ma.wheels
  rowan : t.ma.rowan = s.ma.rowan
  lanes : t.ma.lanes = s.ma.lanes
  rings : t.rings = s.rings
  cfg : t.cfg = s.cfg
  st : t.st = s.st

theorem onCrag_temp (n : Crag) (v : Byte) (s : State) (m : Crag) :
    sansTemp (s.onCrag n (fun x => { x with temp := v })).ma.crags[m] = sansTemp s.ma.crags[m] := by
  by_cases h : m = n
  · subst h
    rw [State.onCrag_same]
    rfl
  · rw [State.onCrag_other s n _ m h]

theorem noteMove_noted (src dst : Crag) (why : MoveWhy) (s : State) : MoveNoted src dst s (noteMove src dst why s) := by
  unfold noteMove
  split
  · constructor <;> intros <;> rfl
  next k _ =>
    dsimp only
    generalize hu : (if k % 2 = 1 then advanceTo (k / 2) { s with ma := { s.ma with moves := kvSet 0 k (kvGet 0 s.ma.moves k + 1) s.ma.moves } }
      else { s with ma := { s.ma with moves := kvSet 0 k (kvGet 0 s.ma.moves k + 1) s.ma.moves } }) = u
    obtain ⟨crags, wheels, rowan, lanes, rings, cfg, st⟩ : u.ma.crags = s.ma.crags ∧ u.ma.wheels = s.ma.wheels ∧ u.ma.rowan = s.ma.rowan
        ∧ u.ma.lanes = s.ma.lanes ∧ u.rings = s.rings ∧ u.cfg = s.cfg ∧ u.st = s.st := by
      subst hu
      split <;> exact ⟨rfl, rfl, rfl, rfl, rfl, rfl, rfl⟩
    split
    · next a b ms =>
      refine ⟨fun m => ?_, fun m hs hd => ?_, wheels, rowan, lanes, rings, cfg, st⟩
      · rw [onCrag_temp, onCrag_temp, crags]
      · rw [State.onCrag_other _ dst _ m hd, State.onCrag_other _ src _ m hs, crags]
    · exact ⟨fun m => by rw [crags], fun m _ _ => by rw [crags], wheels, rowan, lanes, rings, cfg, st⟩

section
variable {s t : State} {src dst : Crag} (h : MoveNoted src dst s t) (m : Crag)
include h

theorem MoveNoted.used : t.ma.crags[m].used = s.ma.crags[m].used := (congrArg CragSt.used (h.temps m) :)
theorem MoveNoted.prog : t.ma.crags[m].prog = s.ma.crags[m].prog := (congrArg CragSt.prog (h.temps m) :)
theorem MoveNoted.tenant : t.ma.crags[m].tenant = s.ma.crags[m].tenant := (congrArg CragSt.tenant (h.temps m) :)
theorem MoveNoted.body : t.ma.crags[m].body = s.ma.crags[m].body := (congrArg CragSt.body (h.temps m) :)
theorem MoveNoted.fenced : t.ma.crags[m].fenced = s.ma.crags[m].fenced := (congrArg CragSt.fenced (h.temps m) :)
theorem MoveNoted.keep : t.ma.crags[m].keep = s.ma.crags[m].keep := (congrArg CragSt.keep (h.temps m) :)

end

/-! ### The program goes on on the destination -/

/-- What a move leaves: the program stands on the destination, its source is free, no other crag, ring or stored byte changes. -/
structure ProgramMoved (src dst : Crag) (s t : State) : Prop where
  used : t.ma.crags[dst].used = true
  prog : t.ma.crags[dst].prog = s.ma.crags[src].prog
  tenant : t.ma.crags[dst].tenant = s.ma.crags[src].tenant
  body : t.ma.crags[dst].body = s.ma.crags[src].body
  left : t.ma.crags[src].used = false
  others : ∀ m : Crag, m ≠ src → m ≠ dst → t.ma.crags[m] = s.ma.crags[m]
  rings : t.rings = s.rings
  st : t.st = s.st
  bs : t.cfg.bs = s.cfg.bs
  wheels : t.ma.wheels = mapBank (fun _ x => if x.en && x.crag == src then { x with crag := dst } else x) s.ma.wheels
  rowan : t.ma.rowan = s.ma.rowan
  lanes : t.ma.lanes = s.ma.lanes

/-- The number of a program's place touches neither the crags nor what a program is. -/
theorem setPlace_kept (p n : Byte) (s : State) : ∃ map, setPlace p n s = { s with cfg := { s.cfg with placeMap := map } } := by
  unfold setPlace
  split
  · exact ⟨_, rfl⟩
  · exact ⟨s.cfg.placeMap, rfl⟩

theorem moveProgram_moved {src dst : Crag} (apart : dst ≠ src) (s : State) : ProgramMoved src dst s (moveProgram src dst s) := by
  unfold moveProgram
  dsimp only
  generalize hp : s.onCrag dst _ = u
  obtain ⟨map, place⟩ := setPlace_kept s.ma.crags[src].prog (BitVec.ofNat 8 dst.val) u
  rw [place]
  have own : u.ma.crags[dst].used = true ∧ u.ma.crags[dst].prog = s.ma.crags[src].prog ∧ u.ma.crags[dst].tenant = s.ma.crags[src].tenant
      ∧ u.ma.crags[dst].body = s.ma.crags[src].body := by
    rw [← hp, State.onCrag_same]
    exact ⟨rfl, rfl, rfl, rfl⟩
  have rest : ∀ m : Crag, m ≠ dst → u.ma.crags[m] = s.ma.crags[m] := fun m hm => by
    rw [← hp]
    exact State.onCrag_other s dst _ m hm
  obtain ⟨rings, st, bs, wheels, rowan, lanes⟩ : u.rings = s.rings ∧ u.st = s.st ∧ u.cfg.bs = s.cfg.bs ∧ u.ma.wheels = s.ma.wheels
      ∧ u.ma.rowan = s.ma.rowan ∧ u.ma.lanes = s.ma.lanes := by
    subst hp
    exact ⟨rfl, rfl, rfl, rfl, rfl, rfl⟩
  clear hp place
  generalize hv : ({ rebind src dst { u with cfg := { u.cfg with placeMap := map } } with
    ma := { (rebind src dst { u with cfg := { u.cfg with placeMap := map } }).ma with
      waits := (rebind src dst { u with cfg := { u.cfg with placeMap := map } }).ma.waits.map (fun w =>
        if w.unit = .crag src then { w with unit := .crag dst } else w) } } : State) = v
  obtain ⟨crags, vrings, vst, vbs, vwheels, vrowan, vlanes⟩ : v.ma.crags = u.ma.crags ∧ v.rings = u.rings ∧ v.st = u.st
      ∧ v.cfg.bs = u.cfg.bs ∧ v.ma.wheels = mapBank (fun _ x => if x.en && x.crag == src then { x with crag := dst } else x) u.ma.wheels
      ∧ v.ma.rowan = u.ma.rowan ∧ v.ma.lanes = u.ma.lanes := by
    subst hv
    exact ⟨rfl, rfl, rfl, rfl, rfl, rfl, rfl⟩
  clear hv
  have ends : ∀ m : Crag, m ≠ src → ((unplace src v).onCrag src (fun y => { y with lastMove := some s.now })).ma.crags[m] = u.ma.crags[m] :=
    fun m hm => by rw [State.onCrag_other _ src _ m hm, unplace, State.onCrag_other v src _ m hm, crags]
  obtain ⟨used, prog, tenant, body⟩ := own
  refine ⟨?_, ?_, ?_, ?_, ?_, fun m hs hd => (ends m hs).trans (rest m hd), vrings.trans rings, vst.trans st, vbs.trans bs,
    vwheels.trans (by rw [wheels]), vrowan.trans rowan, vlanes.trans lanes⟩
  · rw [ends dst apart, used]
  · rw [ends dst apart, prog]
  · rw [ends dst apart, tenant]
  · rw [ends dst apart, body]
  · rw [State.onCrag_same, unplace, State.onCrag_same]

theorem ProgramMoved.of_viewOnly {src dst : Crag} {s t u : State} (h : ProgramMoved src dst s t) (v : ViewOnly t u)
    (bs : u.cfg.bs = t.cfg.bs) : ProgramMoved src dst s u := by
  obtain ⟨used, prog, tenant, body, left, others, rings, st, bs', wheels, rowan, lanes⟩ := h
  refine ⟨?_, ?_, ?_, ?_, ?_, ?_, v.rings.trans rings, v.st.trans st, bs.trans bs', ?_, ?_, ?_⟩ <;> rw [v.ma]
  · exact used
  · exact prog
  · exact tenant
  · exact body
  · exact left
  · exact others
  · exact wheels
  · exact rowan
  · exact lanes

/-- An array at rest stays at rest: the program that moves runs no processing elements. -/
theorem ProgramMoved.atRest {src dst : Crag} {s t : State} (h : ProgramMoved src dst s t) (runs : s.ma.crags[src].used = true)
    (rest : ArrayAtRest s) : ArrayAtRest t := by
  obtain ⟨wheels, engines, reads, crags, taps⟩ := rest
  refine ⟨fun w hw => ?_, ?_, ?_, fun m => ?_, ?_⟩
  · have row : t.ma.wheels[w] = if s.ma.wheels[w].en && s.ma.wheels[w].crag == src then { s.ma.wheels[w] with crag := dst } else s.ma.wheels[w] := by
      rw [h.wheels]
      exact mapBank_getElem _ _ w
    rw [row] at hw ⊢
    split at hw
    · next hit =>
      rw [if_pos hit]
      exact wheels w hw
    · next miss =>
      rw [if_neg miss]
      exact wheels w hw
  · rw [h.rowan]
    exact engines
  · rw [h.rings]
    exact reads
  · have program : t.programOn m = none ∨ t.programOn m = s.programOn m ∨ t.programOn m = s.programOn src := by
      unfold State.programOn
      dsimp only
      rw [h.bs]
      by_cases hs : m = src
      · subst hs
        exact .inl (if_neg (by rw [h.left]; decide))
      by_cases hd : m = dst
      · subst hd
        rw [h.used, h.prog, runs]
        exact .inr (.inr rfl)
      · rw [h.others m hs hd]
        exact .inr (.inl rfl)
    have idle : ∀ n : Crag, (match s.programOn n with | some p => !p.pes.isEmpty | none => false) = false := crags
    unfold State.hasPes
    obtain e | e | e := program
    · rw [e]
    · rw [e]
      exact idle m
    · rw [e]
      exact idle src
  · rw [h.lanes]
    exact taps

theorem refreshView_bs (s : State) : (refreshView s).cfg.bs = s.cfg.bs := by
  unfold refreshView
  dsimp only
  split <;> rfl

/-- A crag that runs nothing is fenced with nothing to discard, and no other crag changes. -/
theorem fenceCrag_idle {n : Crag} (why : Nat) {s : State} (fit : s.ma.crags[n].fenced = false) (idle : s.ma.crags[n].used = false)
    (own : s.ma.crags[n].keep = false) (m : Crag) (hm : m ≠ n) : (fenceCrag n why s).ma.crags[m] = s.ma.crags[m] := by
  have still : (fencedCrag n s).ma.crags[n].used = false := by
    rw [fencedCrag, State.onCrag_same, own]
    exact idle
  have other : (fencedCrag n s).ma.crags[m] = s.ma.crags[m] := by
    rw [fencedCrag, State.onCrag_other _ n _ m hm, own]
    rfl
  rw [fenceCrag_eq fit, idle, if_neg Bool.false_ne_true]
  have told := raiseEvent_viewOnly 0x0601 (BitVec.ofNat 8 n.val) 0 (BitVec.ofNat 32 why) (dropWaits n (fencedCrag n s))
  generalize raiseEvent 0x0601 (BitVec.ofNat 8 n.val) 0 (BitVec.ofNat 32 why) (dropWaits n (fencedCrag n s)) = u at told
  have crags : u.ma.crags = (fencedCrag n s).ma.crags := (congrArg Massif.crags told.ma :)
  have none : reloadElsewhere n u = u := if_pos (by rw [crags]; exact still)
  rw [none, (refreshView_viewOnly u).ma, crags, other]

section
variable {s : State} {src dst : Crag} {why : MoveWhy} (h : Pre.move s src dst why)
include h

theorem exec_placementMove (res : MoveRes) : exec (.placementMove src dst why res) s = .next (match res with
    | .ok => pumpWheels (refreshView (raiseEvent 0x0501 (BitVec.ofNat 8 dst.val) (BitVec.ofNat 32 s.ma.crags[src].prog.toNat)
        (BitVec.ofNat 32 src.val) (moveProgram src dst (noteMove src dst why s))))
    | .destinationFails => raiseEvent 0x0502 (BitVec.ofNat 8 dst.val) (BitVec.ofNat 32 s.ma.crags[src].prog.toNat) 0
        (fenceCrag dst 1 (noteMove src dst why s))
    | .sourceFails => fenceCrag src 1 (noteMove src dst why s)) := by
  obtain ⟨⟨ready, phase⟩, runs, alive, may⟩ := h
  refine congrArg Host.Outcome.next (if_neg ?_)
  rw [ready, runs, alive, may]
  rintro (h | h | h | h | h)
  · exact Bool.noConfusion h
  · exact h phase
  · exact Bool.noConfusion h
  · exact Bool.noConfusion h
  · exact Bool.noConfusion h

theorem move_goesOn : ∃ t, ArrayGoesOn s t (exec (.placementMove src dst why .ok) s) ∧ t.ma.crags[dst].used = true
    ∧ t.ma.crags[src].used = false ∧ t.ma.crags[dst].prog = s.ma.crags[src].prog ∧ t.ma.crags[dst].tenant = s.ma.crags[src].tenant
    ∧ t.ma.crags[dst].body = s.ma.crags[src].body
    ∧ (∀ m : Crag, m ≠ src → m ≠ dst → t.ma.crags[m] = s.ma.crags[m]) ∧ t.rings = s.rings ∧ StoreKept s t := by
  have can := movable_of_mayMove h.2.2.2
  have run := exec_placementMove h .ok
  have noted := noteMove_noted src dst why s
  dsimp only at run
  generalize noteMove src dst why s = u at run noted
  have moved := moveProgram_moved can.apart u
  generalize moveProgram src dst u = v at run moved
  have told := raiseEvent_viewOnly 0x0501 (BitVec.ofNat 8 dst.val) (BitVec.ofNat 32 s.ma.crags[src].prog.toNat) (BitVec.ofNat 32 src.val) v
  have bs : (raiseEvent 0x0501 (BitVec.ofNat 8 dst.val) (BitVec.ofNat 32 s.ma.crags[src].prog.toNat) (BitVec.ofNat 32 src.val) v).cfg.bs
    = v.cfg.bs := by rw [(raiseEvent_kept ..).cfg]
  generalize raiseEvent 0x0501 (BitVec.ofNat 8 dst.val) (BitVec.ofNat 32 s.ma.crags[src].prog.toNat) (BitVec.ofNat 32 src.val) v = w
    at run told bs
  have moved' := (moved.of_viewOnly told bs).of_viewOnly (refreshView_viewOnly w) (refreshView_bs w)
  generalize refreshView w = t at run moved'
  refine ⟨t, ⟨run, fun rest => ?_⟩, moved'.used, moved'.left, moved'.prog.trans (noted.prog src), moved'.tenant.trans (noted.tenant src),
    moved'.body.trans (noted.body src), fun m hs hd => (moved'.others m hs hd).trans (noted.others m hs hd), moved'.rings.trans noted.rings,
    storeKept_of_st (moved'.st.trans noted.st)⟩
  have rest' : ArrayAtRest u := by
    obtain ⟨wheels, engines, reads, crags, taps⟩ := rest
    refine ⟨by rw [noted.wheels]; exact wheels, by rw [noted.rowan]; exact engines, by rw [noted.rings]; exact reads, fun m => ?_,
      by rw [noted.lanes]; exact taps⟩
    have same : u.programOn m = s.programOn m := by
      unfold State.programOn
      dsimp only
      rw [noted.used m, noted.prog m, noted.cfg]
    have idle := crags m
    unfold State.hasPes at idle ⊢
    rw [same]
    exact idle
  rw [run, pumpWheels_rest (moved'.atRest ((noted.used src).trans can.runs) rest')]

theorem move_destinationFails : ∃ t, exec (.placementMove src dst why .destinationFails) s = .next t ∧ t.ma.crags[dst].fenced = true
    ∧ t.ma.crags[src].used = true ∧ t.ma.crags[src].prog = s.ma.crags[src].prog ∧ t.ma.crags[src].body = s.ma.crags[src].body
    ∧ t.st.mem = s.st.mem ∧ t.st.vault = s.st.vault := by
  have can := movable_of_mayMove h.2.2.2
  have run := exec_placementMove h .destinationFails
  have noted := noteMove_noted src dst why s
  dsimp only at run
  generalize noteMove src dst why s = u at run noted
  have fit := (noted.fenced dst).trans can.fit
  obtain ⟨fenced, -, -, st⟩ := fenceCrag_fences 1 fit
  have stays := fenceCrag_idle 1 fit ((noted.used dst).trans can.free) ((noted.keep dst).trans can.own) src can.apart.symm
  generalize fenceCrag dst 1 u = v at run fenced st stays
  have told := raiseEvent_viewOnly 0x0502 (BitVec.ofNat 8 dst.val) (BitVec.ofNat 32 s.ma.crags[src].prog.toNat) 0 v
  refine ⟨_, run, ?_, ?_, ?_, ?_, ?_, ?_⟩
  · rw [told.ma, fenced]
  · rw [told.ma, stays, noted.used, can.runs]
  · rw [told.ma, stays, noted.prog]
  · rw [told.ma, stays, noted.body]
  · rw [told.st, st, noted.st]
  · rw [told.st, st, noted.st]

theorem move_sourceFails : ∃ t, exec (.placementMove src dst why .sourceFails) s = .next t ∧ t.ma.crags[src].fenced = true
    ∧ t.st.mem = s.st.mem ∧ t.st.vault = s.st.vault := by
  have can := movable_of_mayMove h.2.2.2
  have run := exec_placementMove h .sourceFails
  have noted := noteMove_noted src dst why s
  dsimp only at run
  generalize noteMove src dst why s = u at run noted
  obtain ⟨fenced, -, -, st⟩ := fenceCrag_fences 1 ((noted.fenced src).trans can.whole)
  exact ⟨_, run, fenced, by rw [st, noted.st], by rw [st, noted.st]⟩

end

/-! ### Internal faults (R381, R382, R386) -/

section
variable {s : State} (up : Up s) (u : BitVec 8)
include up

theorem exec_corrected (b : Nat) (hu : u.toNat < 0xC0) :
    exec (.internalFault u (.stagingBeat b) true) s = .next (markCorrected u.toNat (countCorr u.toNat s)) := by
  refine congrArg Host.Outcome.next ((if_neg (not_or.mpr ⟨by rw [up.1]; decide, not_not_intro up.2⟩)).trans ?_)
  exact (if_neg (Bool.noConfusion ·)).trans (if_neg (by omega))

theorem exec_lasting {at_ : FaultAt} (other : at_ ≠ .steward) :
    exec (.internalFault u at_ false) s = .next (pumpWheels (lastingFault u.toNat at_ s)) := by
  refine congrArg Host.Outcome.next ((if_neg (not_or.mpr ⟨by rw [up.1]; decide, not_not_intro up.2⟩)).trans ?_)
  cases at_ with
  | steward => exact absurd rfl other
  | logic => exact if_pos rfl
  | channel n => exact if_pos rfl
  | onfi n => exact if_pos rfl
  | stagingBeat b => exact if_pos rfl
  | cragWord w => exact if_pos rfl

theorem exec_stewardDies (ok : Bool) :
    exec (.internalFault u .steward ok) s = .next { s with wd := { s.wd with stewardDead := true } } :=
  congrArg Host.Outcome.next (if_neg (not_or.mpr ⟨by rw [up.1]; decide, not_not_intro up.2⟩))

end

theorem corrOf_countCorr (u : Nat) (s : State) : corrOf (countCorr u s) u = satAdd (corrOf s u) 1 := by
  unfold corrOf countCorr
  rw [List.find?_cons_of_pos (by exact beq_self_eq_true u)]
  rfl

/-- Settles O48: a move carries the program over or ends in a fence; a fault is counted, poisons in place, or fences. -/
theorem placementAndFaults : Obligations.PlacementAndFaults := by
  refine ⟨fun s src dst why h => ⟨move_goesOn h, move_destinationFails h, move_sourceFails h⟩, fun s u up =>
    ⟨fun b hu => ?_, fun b fresh => ?_, fun n hn whole => ?_, fun ok => exec_stewardDies up u ok⟩⟩
  · exact ⟨_, exec_corrected up u b hu, corrOf_countCorr u.toNat s, rfl, rfl, storeKept_of_st rfl⟩
  · have run := exec_lasting up u (at_ := .stagingBeat b) FaultAt.noConfusion
    have poisoned : lastingFault u.toNat (.stagingBeat b) s = markBad true b { s with st := { s.st with ue := satAdd s.st.ue 1 } } :=
      if_neg (by rw [List.contains_iff_mem]; exact fresh)
    rw [poisoned] at run
    refine ⟨_, ⟨run, fun rest => ?_⟩, (mem_nIns b b s.st.memBad).mpr (.inl rfl), rfl, fun a => rfl, rfl⟩
    have rest' : ArrayAtRest (markBad true b { s with st := { s.st with ue := satAdd s.st.ue 1 } }) := arrayAtRest_same rest rfl rfl rfl
    rw [run, pumpWheels_rest rest']
  · have run := exec_lasting up u (at_ := .logic) FaultAt.noConfusion
    have row : ix 31 u.toNat = n := ix_val n hn
    have fence : lastingFault u.toNat .logic s = fenceCrag n 1 s := by
      have small : u.toNat < 32 := hn ▸ n.isLt
      rw [← row]
      exact if_pos small
    rw [fence] at run
    obtain ⟨fenced, -, -, st⟩ := fenceCrag_fences 1 whole
    generalize fenceCrag n 1 s = t at run fenced st
    exact ⟨t, run, fun rest => by rw [run, pumpWheels_rest rest], fenced, by rw [st], by rw [st]⟩

end Sys2Proof.Proofs

/-! Transfers of the standalone Rowan engines between staging sides, and Orchard invalidation (09, 11). -/

namespace Sys2Proof.Proofs

open Sys2Proof Sys2Proof.Machine Sys2Proof.Safety Sys2Proof.Laws

/-! ### Windows -/

/-- A walk that reaches `b` finds a window over each address before it. -/
theorem walk_covers {a n : Nat} {ws : List (Nat × Nat)} {fuel x b : Nat} (h : inWindows.walk a n ws fuel x = true)
    (lo : x ≤ b) (hi : b < a + n) : ∃ w ∈ ws, w.1 ≤ b ∧ b < w.2 := by
  induction fuel generalizing x with
  | zero =>
    have := of_decide_eq_true h
    omega
  | succ fuel ih =>
    rw [inWindows.walk, if_neg (by omega)] at h
    split at h
    next w found =>
      have covers := List.find?_some found
      have covers := of_decide_eq_true covers
      by_cases past : w.2 ≤ b
      · exact ih h past
      · exact ⟨w, List.mem_of_find?_eq_some found, by omega, by omega⟩
    next => exact absurd h Bool.false_ne_true

/-- Bytes from one window over an address are backed there. -/
theorem walk_one {ws : List (Nat × Nat)} {b fuel : Nat} {w : Nat × Nat} (hw : w ∈ ws) (lo : w.1 ≤ b) (hi : b < w.2) :
    inWindows.walk b 1 ws (fuel + 2) b = true := by
  rw [inWindows.walk, if_neg (by omega)]
  have found : (ws.find? (fun w => decide (w.1 ≤ b ∧ b < w.2))).isSome = true :=
    List.find?_isSome.mpr ⟨w, hw, decide_eq_true ⟨lo, hi⟩⟩
  obtain ⟨v, hv⟩ := Option.isSome_iff_exists.mp found
  have covers := List.find?_some hv
  have covers := of_decide_eq_true covers
  rw [hv]
  show inWindows.walk b 1 ws (fuel + 1) v.2 = true
  rw [inWindows.walk, if_pos (by omega)]

/-- Each byte of a span inside a tenant's windows is inside them. -/
theorem inWindows_byte {s : State} {u : Tenant} {a n b : Nat} (h : inWindows s u a n = true) (lo : a ≤ b) (hi : b < a + n) :
    inWindows s u b 1 = true := by
  obtain ⟨w, hw, wlo, whi⟩ := walk_covers h lo hi
  exact walk_one hw wlo whi

/-! ### What a transfer between staging sides can change -/

/-- A state without the bytes of staging memory, their marks, the Orchard's lines and the record of translation faults. -/
def sansBytes (s : State) : State :=
  { s with st := { s.st with mem := [], memBad := [] }, ma := { s.ma with lines := [] }
           link := { s.link with fltCnt := 0, fltLast := 0 } }

/-- From `s` to `t` bytes inside the windows of tenant `u` may change, and what goes with them. -/
structure MovedWithin (u : Tenant) (s t : State) : Prop where
  frame : sansBytes t = sansBytes s
  ok : MemoryOk s → MemoryOk t
  outside : MemoryOk s → ∀ a, inWindows s u a 1 = false → readByte t.st.mem a = readByte s.st.mem a

theorem inWindows_sansBytes {s t : State} (h : sansBytes t = sansBytes s) (u : Tenant) (a n : Nat) :
    inWindows t u a n = inWindows s u a n := (congrArg (fun s => inWindows s u a n) h :)

namespace MovedWithin

theorem refl (u : Tenant) (s : State) : MovedWithin u s s := ⟨rfl, id, fun _ _ _ => rfl⟩

theorem trans {u : Tenant} {s t v : State} (a : MovedWithin u s t) (b : MovedWithin u t v) : MovedWithin u s v where
  frame := b.frame.trans a.frame
  ok h := b.ok (a.ok h)
  outside h x hx := (b.outside (a.ok h) x (by rw [inWindows_sansBytes a.frame, hx])).trans (a.outside h x hx)

/-- What changes no byte. -/
theorem of_mem {u : Tenant} {s t : State} (frame : sansBytes t = sansBytes s) (mem : t.st.mem = s.st.mem) : MovedWithin u s t where
  frame := frame
  ok h := by rw [MemoryOk, mem]; exact h
  outside _ a _ := by rw [mem]

end MovedWithin

theorem keyFlt_moved (u : Tenant) (k : Key) (a : Nat) (c : Cause) (w : Bool) (s : State) : MovedWithin u s (keyFlt k a c w s) :=
  .of_mem rfl rfl

theorem storeBytes_sansBytes (a : Nat) (bs : List Byte) (p : Bool) (s : State) : sansBytes (storeBytes a bs p s) = sansBytes s := by
  obtain ⟨_, _, _, h⟩ := storeBytes_bytesOnly a bs p s
  rw [h]
  rfl

theorem storeBytes_moved {u : Tenant} {a : Nat} {bs : List Byte} {s : State} (p : Bool) (h : inWindows s u a bs.length = true) :
    MovedWithin u s (storeBytes a bs p s) where
  frame := storeBytes_sansBytes a bs p s
  ok := storeBytes_wf
  outside ok b hb := by
    rw [storeBytes_mem]
    refine readByte_writeBytes_out ok ?_
    by_contra inside
    exact absurd (inWindows_byte h (by omega) (by omega)) (ne_true_of_eq_false hb)

theorem writeElems_moved (k : Key) (size : Nat) (count : Bool) (es : List Elem) (b : Bad) (s : State) :
    MovedWithin k.tenant s (writeElems k true size count es b s).2.2 := by
  unfold writeElems
  generalize (0 : Nat) = lost
  induction es generalizing b lost s with
  | nil => exact .refl _ s
  | cons x es ih =>
    rw [List.foldl_cons]
    dsimp only
    by_cases inside : inWindows s k.tenant x.1 x.2.1.length = true
    · rw [if_pos rfl, if_pos inside]
      exact (storeBytes_moved _ inside).trans (ih _ _ _)
    · rw [if_pos rfl, if_neg inside]
      exact (keyFlt_moved _ k _ _ true s).trans (ih _ _ _)

/-! ### Reading a staging side -/

/-- An element of a staging side without poison. -/
def elemRead (s : State) (u : Tenant) (size a : Nat) : Moved :=
  if inWindows s u a size then { bytes := readBytes s.st.mem a size }
  else { bytes := List.replicate size 0, failed := true, psn := true }

/-- Without poison a staging side reads element by element, and the read changes no byte. -/
theorem readStaging_clean (k : Key) (size : Nat) (addrs : List Nat) {s : State} (clean : s.st.memBad = []) :
    ∃ t, readStaging k size addrs s = (addrs.map (elemRead s k.tenant size), t) ∧ sansBytes t = sansBytes s ∧ t.st = s.st := by
  have reads : ∀ (l : List Moved) (v : State), sansBytes v = sansBytes s → v.st = s.st →
      ∃ t, addrs.foldl (fun (acc : List Moved × State) a =>
        let s := acc.2
        if inWindows s k.tenant a size then
          if (spanPlan a size).any (fun b => s.st.memBad.contains (b / 64)) then
            let (d, s1) := drawBeat s
            (acc.1 ++ [{ bytes := bytesLE size d, psn := true }], s1)
          else (acc.1 ++ [{ bytes := readBytes s.st.mem a size }], s)
        else (acc.1 ++ [{ bytes := List.replicate size 0, failed := true, psn := true }], keyFlt k a .window false s)) (l, v)
        = (l ++ addrs.map (elemRead s k.tenant size), t) ∧ sansBytes t = sansBytes s ∧ t.st = s.st := by
    induction addrs with
    | nil => exact fun l v hv hst => ⟨v, by rw [List.map_nil, List.append_nil]; rfl, hv, hst⟩
    | cons a addrs ih =>
      intro l v hv hst
      rw [List.foldl_cons]
      dsimp only
      have unmarked : (spanPlan a size).any (fun b => v.st.memBad.contains (b / 64)) = false := by
        rw [hst, clean, List.any_eq_false]
        exact fun b _ => by simp
      rw [inWindows_sansBytes hv, unmarked]
      by_cases inside : inWindows s k.tenant a size = true
      · obtain ⟨t, ht, frame, mem⟩ := ih (l ++ [{ bytes := readBytes v.st.mem a size }]) v hv hst
        refine ⟨t, ?_, frame, mem⟩
        rw [if_pos inside, if_neg Bool.false_ne_true, ht, List.map_cons, elemRead, if_pos inside, hst, List.append_assoc]
        rfl
      · obtain ⟨t, ht, frame, mem⟩ := ih (l ++ [{ bytes := List.replicate size 0, failed := true, psn := true }])
          (keyFlt k a .window false v) hv hst
        refine ⟨t, ?_, frame, mem⟩
        rw [if_neg inside, ht, List.map_cons, elemRead, if_neg inside, List.append_assoc]
        rfl
  exact (reads [] s rfl rfl)

/-! ### Sloe takes nothing where no lane snoops -/

theorem snoopsOn_none {s : State} (h : ∀ l : Lane, s.ma.lanes[l].snoops = []) (tap : Tap) : snoopsOn s tap = [] := by
  unfold snoopsOn
  rw [List.flatMap_eq_nil_iff]
  intro l _
  dsimp only
  split
  · rw [h l]
    rfl
  · rfl

theorem snoopRun_none {s : State} (h : ∀ l : Lane, s.ma.lanes[l].snoops = []) (tap : Tap) (bs : List (Beat × Bool))
    (own : Option (Ring × Nat)) : snoopRun tap bs own s = s := by
  have quietEvents : ∀ evs own len, snoopEvents tap evs own len s = s := by
    intro evs own len
    unfold snoopEvents
    rw [snoopsOn_none h]
    rfl
  unfold snoopRun
  rw [snoopsOn_none h]
  rcases own with _ | ⟨r, cid⟩ <;> exact quietEvents _ _ _

theorem tapFull_none {s : State} (h : ∀ l : Lane, s.ma.lanes[l].snoops = []) (taps : List Tap) : tapFull s taps = false := by
  unfold tapFull
  rw [List.any_eq_false]
  intro l _
  unfold LaneSt.full
  rw [h l]
  simp

/-! ### A transfer between staging sides -/

/-- No command drives a transfer between two memories (DESIGN CHOICE, LOG 110). -/
theorem xferCmd_memory {x : XferSec} (s : State) (hr : x.rd.space = 1) (hw : x.wd.space = 1) : xferCmd s x = none := by
  have none : xferWheels x = [] := by
    unfold xferWheels
    rw [hr, hw]
    rfl
  unfold xferCmd
  rw [none, List.find?_eq_none]
  exact fun c _ => by rw [List.any_nil, Bool.and_false]; exact Bool.false_ne_true

theorem xferKey_memory {x : XferSec} (s : State) (hr : x.rd.space = 1) (hw : x.wd.space = 1) : xferKey s x = s.ringKey x.ring := by
  rw [xferKey, xferCmd_memory s hr hw]

theorem blameXfer_memory {x : XferSec} (hr : x.rd.space = 1) (hw : x.wd.space = 1) (b : Bad) (s : State) : blameXfer x b s = s := by
  rw [blameXfer, xferCmd_memory s hr hw]

/-- The write side's elements of a transfer, in run order within its tiles. -/
def memoryRuns (s : State) (x : XferSec) : List Elem :=
  tileWrites x.wd.ext (contiguous x.wd)
    ((((List.range (Desc.count x.rd)).map (elemAddr x.rd [])).map (elemRead s (s.ringTenant x.ring) (Desc.size x.rd))).zipIdx.map
      (fun p => (elemAddr x.wd [] p.2, p.1.bytes, p.1.psn)))

/-- An engine's state as a transfer without an index begins. -/
def xferBegun (e : Eng) (x : XferSec) (s : State) : State :=
  s.onRowan e (fun y => { y with st := 1, index := [], crossed := crossed x, plan := [], got := [] })

theorem readSide_memory {x : XferSec} (e : Eng) {s : State} (hr : x.rd.space = 1) (hw : x.wd.space = 1)
    (hg : x.rd.gdim = none) (clean : s.st.memBad = []) : ∃ t, readSide e x [] s
      = (some (((List.range (Desc.count x.rd)).map (elemAddr x.rd [])).map (elemRead s (s.ringTenant x.ring) (Desc.size x.rd))), t)
      ∧ sansBytes t = sansBytes s ∧ t.st = s.st := by
  obtain ⟨t, ht, frame, st⟩ := readStaging_clean (xferKey s x) (Desc.size x.rd) ((List.range (Desc.count x.rd)).map (elemAddr x.rd [])) clean
  refine ⟨t, ?_, frame, st⟩
  unfold readSide
  rw [hr, hg]
  show (let (els, s1) := readStaging (xferKey s x) (Desc.size x.rd) ((List.range (Desc.count x.rd)).map (elemAddr x.rd [])) s
    (some els, s1)) = _
  rw [ht, xferKey_memory s hr hw]
  rfl

theorem writeMemory_staging {x : XferSec} (e : Eng) (els : List Moved) {s : State} (hr : x.rd.space = 1) (hw : x.wd.space = 1)
    (hg : x.wd.gdim = none) (thawed : s.st.frozen = []) :
    let runs := tileWrites x.wd.ext (contiguous x.wd) (els.zipIdx.map (fun p => (elemAddr x.wd [] p.2, p.1.bytes, p.1.psn)))
    let w := writeElems (xferKey s x) true (Desc.size x.wd) false runs {} s
    (writeMemory e x [] els s).1 = some (w.1, w.2.2.onRowan e (fun y => { y with elemFlt := satAdd y.elemFlt w.2.1 })) := by
  unfold writeMemory
  rw [hr, hw, hg]
  dsimp only
  rw [if_pos (by rfl), copyPages_thawed thawed]
  rfl

/-- An array at rest stays so where the engines' queues, the rings and the programs stay. -/
theorem atRest_of_queues {s t : State} (h : ArrayAtRest s) (bs : t.cfg.bs = s.cfg.bs) (wheels : t.ma.wheels = s.ma.wheels)
    (crags : t.ma.crags = s.ma.crags) (lanes : t.ma.lanes = s.ma.lanes) (rings : t.rings = s.rings)
    (queues : ∀ e : Eng, t.ma.rowan[e].queue = s.ma.rowan[e].queue) : ArrayAtRest t where
  wheels := by rw [wheels]; exact h.wheels
  engines e := by rw [queues e]; exact h.engines e
  reads := by rw [rings]; exact h.reads
  crags n := by
    have := h.crags n
    rwa [State.hasPes, State.programOn, ← bs, ← crags] at this
  taps := by rw [lanes]; exact h.taps

/-- The state a transfer leaves whose `n` elements have gone as `w` says, `failed` of them not read. -/
def xferGone (e : Eng) (w : Bad × Nat × State) (n failed : Nat) : State :=
  (countElems e n failed (w.2.2.onRowan e (fun y => { y with elemFlt := satAdd y.elemFlt w.2.1 }))).onRowan e (·.next)

theorem xferGone_engine (e : Eng) (w : Bad × Nat × State) (n failed : Nat) :
    (xferGone e w n failed).ma.rowan[e].queue = w.2.2.ma.rowan[e].queue.drop 1
    ∧ (xferGone e w n failed).ma.rowan[e].elems = w.2.2.ma.rowan[e].elems + BitVec.ofNat 32 n := by
  unfold xferGone countElems
  rw [State.onRowan_same, State.onRowan_same, State.onRowan_same]
  exact ⟨rfl, rfl⟩

theorem xferGone_others {d e : Eng} (h : d ≠ e) (w : Bad × Nat × State) (n failed : Nat) :
    (xferGone e w n failed).ma.rowan[d] = w.2.2.ma.rowan[d] := by
  unfold xferGone countElems
  rw [State.onRowan_other _ _ _ _ h, State.onRowan_other _ _ _ _ h, State.onRowan_other _ _ _ _ h]

theorem xferBegun_engine (e : Eng) (x : XferSec) (s : State) :
    (xferBegun e x s).ma.rowan[e].queue = s.ma.rowan[e].queue ∧ (xferBegun e x s).ma.rowan[e].elems = s.ma.rowan[e].elems
    ∧ (xferBegun e x s).ma.rowan[e].moved = s.ma.rowan[e].moved := by
  unfold xferBegun
  rw [State.onRowan_same]
  exact ⟨rfl, rfl, rfl⟩

/-- An array at rest but for the transfer at an engine's head is at rest when the transfer has gone. -/
theorem xferGone_atRest {s : State} {e : Eng} {x : RowanXfer} {rest : List RowanXfer} (w : Bad × Nat × State) (n failed : Nat)
    (queue : s.ma.rowan[e].queue = x :: rest) (h : ArrayAtRest (s.onRowan e (fun y => { y with queue := rest })))
    (begun : sansBytes w.2.2 = sansBytes (xferBegun e x.x s)) : ArrayAtRest (xferGone e w n failed) := by
  have rowan : w.2.2.ma.rowan = (xferBegun e x.x s).ma.rowan := (congrArg (·.ma.rowan) begun :)
  refine atRest_of_queues h (congrArg (·.cfg.bs) begun :) (congrArg (·.ma.wheels) begun :) (congrArg (·.ma.crags) begun :)
    (congrArg (·.ma.lanes) begun :) (congrArg (·.rings) begun :) fun d => ?_
  by_cases hd : d = e
  · subst hd
    rw [(xferGone_engine d w n failed).1, rowan, (xferBegun_engine d x.x s).1, queue, State.onRowan_same]
    rfl
  · rw [xferGone_others hd, rowan, xferBegun, State.onRowan_other _ _ _ _ hd, State.onRowan_other _ _ _ _ hd]

theorem leaveEngine_rest {e : Eng} {x : XferSec} {s : State} (silent : x.signal = none) (wait : s.ma.xferWait = [])
    (h : ArrayAtRest (s.onRowan e (·.next))) : leaveEngine e x true s = s.onRowan e (·.next) := by
  unfold leaveEngine
  rw [silent]
  show resumeUnits (assignXfers s.ma.xferWait.length _) = _
  rw [wait]
  exact resumeUnits_rest h

/-- The elements of a read side go to a staging side, and the transfer leaves. -/
theorem runXfer_memory {e : Eng} {x : XferSec} {v t : State} {els : List Moved} (unmoved : v.ma.rowan[e].moved = false)
    (rd : x.rd.space = 1) (wd : x.wd.space = 1) (noWd : x.wd.gdim = none) (read : readSide e x [] v = (some els, t))
    (deaf : ∀ l : Lane, t.ma.lanes[l].snoops = []) (thawed : t.st.frozen = []) :
    runXfer e x [] v = leaveEngine e x true (countElems e els.length (els.filter (·.failed)).length
      (let w := writeElems (xferKey t x) true (Desc.size x.wd) false (tileWrites x.wd.ext (contiguous x.wd)
        (els.zipIdx.map (fun p => (elemAddr x.wd [] p.2, p.1.bytes, p.1.psn)))) {} t
       w.2.2.onRowan e (fun y => { y with elemFlt := satAdd y.elemFlt w.2.1 }))) := by
  have wrote := writeMemory_staging e els rd wd noWd thawed
  dsimp only at wrote
  unfold runXfer
  rw [if_neg (ne_true_of_eq_false unmoved), read]
  dsimp only
  rw [tapFull_none deaf, if_neg Bool.false_ne_true, wd, if_neg (by decide)]
  revert wrote
  generalize hw : writeElems (xferKey t x) true (Desc.size x.wd) false _ {} t = w
  rcases writeMemory e x [] els t with ⟨o, u⟩
  rintro rfl
  have frame : sansBytes w.2.2 = sansBytes t := by
    rw [← hw]
    exact (writeElems_moved ..).frame
  dsimp only
  rw [snoopRun_none, blameXfer_memory rd wd, blameXfer_memory rd wd]
  exact fun l => (congrArg (fun s => s.ma.lanes[l].snoops) frame :).trans (deaf l)

/-- Without an index the pre-pass has nothing to read (R219). -/
theorem prePassThenRun_unindexed {e : Eng} {x : XferSec} {s : State} (hr : x.rd.gdim = none) (hw : x.wd.gdim = none) :
    prePassThenRun e x s = runXfer e x [] (xferBegun e x s) := by
  have done : prePass e x x.rd false s = (.done [], s) := by rw [prePass, hr]
  unfold prePassThenRun
  rw [hw]
  show (match prePass e x x.rd false s with
    | (.wait, s1) => _ | (.poisoned a, s1) => _ | (.rejected p why, s1) => _ | (.done idx, s1) => _) = _
  rw [done]
  rfl

/-- ROWAN_TRANSFER between staging sides reads every element and then writes every element (R223). -/
theorem exec_rowanTransfer {s : State} {e : Eng} {x : RowanXfer} {rest : List RowanXfer} (h : Pre.rowan s e x rest) :
    ∃ t failed, sansBytes t = sansBytes (xferBegun e x.x s) ∧ t.st = s.st ∧ exec (.rowanTransfer e) s
      = .next (xferGone e (writeElems (s.ringKey x.x.ring) true (Desc.size x.x.wd) false (memoryRuns s x.x) {} t)
          (Desc.count x.x.rd) failed) := by
  obtain ⟨up, loaded, awake, whole, idle, unmoved, queue, own, xferWait, rest, deaf, wait, silent, unheld, noRd, noWd, rd, wd,
    thawed, clean, ok⟩ := h
  obtain ⟨t, read, frame, st⟩ := readSide_memory e (s := xferBegun e x.x s) rd wd noRd clean
  change _ = (some (((List.range (Desc.count x.x.rd)).map (elemAddr x.x.rd [])).map
    (elemRead s (s.ringTenant x.x.ring) (Desc.size x.x.rd))), t) at read
  have deafT : ∀ l : Lane, t.ma.lanes[l].snoops = [] := fun l =>
    (congrArg (fun s => s.ma.lanes[l].snoops) frame :).trans (deaf.1 l)
  have key : xferKey t x.x = s.ringKey x.x.ring := by
    rw [xferKey_memory t rd wd]
    exact (congrArg (fun s => s.ringKey x.x.ring) frame :)
  have ran := runXfer_memory ((xferBegun_engine e x.x s).2.2.trans unmoved) rd wd noWd read deafT (by rw [st]; exact thawed)
  generalize (List.filter (fun y : Moved => y.failed) _).length = n at ran
  rw [key, List.length_map, List.length_map, List.length_range] at ran
  change _ = leaveEngine e x.x true (countElems e (Desc.count x.x.rd) n
    (let w := writeElems (s.ringKey x.x.ring) true (Desc.size x.x.wd) false (memoryRuns s x.x) {} t
     w.2.2.onRowan e (fun y => { y with elemFlt := satAdd y.elemFlt w.2.1 }))) at ran
  have begun := (writeElems_moved (s.ringKey x.x.ring) (Desc.size x.x.wd) false (memoryRuns s x.x) {} t).frame.trans frame
  refine ⟨t, n, frame, st, ?_⟩
  revert begun ran
  generalize writeElems (s.ringKey x.x.ring) true (Desc.size x.x.wd) false (memoryRuns s x.x) {} t = w
  intro ran begun
  have waits : w.2.2.ma.xferWait = [] := (congrArg (·.ma.xferWait) begun :).trans xferWait
  have gone := ran.trans (leaveEngine_rest (s := countElems e (Desc.count x.x.rd) n
    (w.2.2.onRowan e (fun y => { y with elemFlt := satAdd y.elemFlt w.2.1 }))) silent waits (xferGone_atRest w _ n queue rest begun))
  have awakeS : wake s = s := by
    unfold wake
    rw [awake]
  have free : s.ma.waits.any (fun w => w.unit == .rowan e) = false := by
    rw [List.any_eq_false]
    exact fun w hw => by simpa using unheld w hw
  show execRowanTransfer e s = _
  unfold execRowanTransfer
  rw [queue]
  dsimp only
  rw [awakeS, wait, own, if_neg (by rw [up.1, up.2, loaded, whole]; decide)]
  dsimp only
  rw [free, if_neg Bool.false_ne_true, idle, if_neg (by decide)]
  rw [prePassThenRun_unindexed noRd noWd]
  exact congrArg Host.Outcome.next gone

/-! ### A transfer of one element -/

theorem elemAddr_one {d : Desc} (he : d.ext = [1]) (hg : d.gdim = none) : elemAddr d [] 0 = d.base := by
  have first : along d [] 0 0 = 0 := by
    unfold along
    rw [hg, if_neg (by simp), he]
    split
    · simp [Nat.mod_one]
    · rfl
  unfold elemAddr
  rw [he]
  simp [digits, first]

theorem tileWrites_one {d : Desc} (he : d.ext = [1]) (x : Elem) : tileWrites d.ext (contiguous d) [x] = [x] := by
  have c : contiguous d = 0 := by
    unfold contiguous
    rw [he]
    rfl
  rw [c, he]
  obtain ⟨a, bs, p⟩ := x
  simp [tileWrites, tiles, ceilDiv, mergeTile, List.eraseDups_cons, insElem, mergeElems]

theorem memoryRuns_one {s : State} {x : XferSec} (hr : x.rd.ext = [1]) (hw : x.wd.ext = [1]) (gr : x.rd.gdim = none)
    (gw : x.wd.gdim = none) (inside : inWindows s (s.ringTenant x.ring) x.rd.base (Desc.size x.rd) = true) :
    memoryRuns s x = [(x.wd.base, readBytes s.st.mem x.rd.base (Desc.size x.rd), false)] := by
  have one : Desc.count x.rd = 1 := by rw [Desc.count, hr]; rfl
  have el : elemRead s (s.ringTenant x.ring) (Desc.size x.rd) x.rd.base = { bytes := readBytes s.st.mem x.rd.base (Desc.size x.rd) } :=
    if_pos inside
  unfold memoryRuns
  rw [one]
  show tileWrites _ _ [(elemAddr x.wd [] 0, (elemRead s (s.ringTenant x.ring) (Desc.size x.rd) (elemAddr x.rd [] 0)).bytes,
    (elemRead s (s.ringTenant x.ring) (Desc.size x.rd) (elemAddr x.rd [] 0)).psn)] = _
  rw [elemAddr_one hr gr, elemAddr_one hw gw, el, tileWrites_one hw]

/-- What ROWAN_TRANSFER between staging sides leaves. -/
theorem rowanTransfer_moves {s : State} {e : Eng} {x : RowanXfer} {rest : List RowanXfer} (h : Pre.rowan s e x rest) :
    ∃ t, exec (.rowanTransfer e) s = .next t ∧ t.ma.rowan[e].queue = rest
      ∧ t.ma.rowan[e].elems = s.ma.rowan[e].elems + BitVec.ofNat 32 (Desc.count x.x.rd)
      ∧ (∀ a, inWindows s (s.ringTenant x.x.ring) a 1 = false → readByte t.st.mem a = readByte s.st.mem a)
      ∧ MemoryOk t ∧ t.st.vault = s.st.vault ∧ t.cairns = s.cairns
      ∧ (x.x.rd.ext = [1] → x.x.wd.ext = [1] → x.x.rd.esize = x.x.wd.esize →
        inWindows s (s.ringTenant x.x.ring) x.x.rd.base (Desc.size x.x.rd) = true →
        inWindows s (s.ringTenant x.x.ring) x.x.wd.base (Desc.size x.x.wd) = true →
        t.st.mem = writeBytes x.x.wd.base (readBytes s.st.mem x.x.rd.base (Desc.size x.x.wd)) s.st.mem) := by
  obtain ⟨t, failed, frame, st, run⟩ := exec_rowanTransfer h
  obtain ⟨-, -, -, -, -, -, queue, -, -, -, -, -, -, -, noRd, noWd, -, -, -, -, ok⟩ := h
  have moved := writeElems_moved (s.ringKey x.x.ring) (Desc.size x.x.wd) false (memoryRuns s x.x) {} t
  have okT : MemoryOk t := by rw [MemoryOk, st]; exact ok
  have outsideT := moved.outside okT
  rw [st] at outsideT
  have begun := moved.frame.trans frame
  have okW := moved.ok okT
  clear moved
  revert run outsideT begun okW
  generalize wrote : writeElems (s.ringKey x.x.ring) true (Desc.size x.x.wd) false (memoryRuns s x.x) {} t = w
  intro run outsideT begun okW
  have rowan : w.2.2.ma.rowan[e] = (xferBegun e x.x s).ma.rowan[e] := (congrArg (fun s => s.ma.rowan[e]) begun :)
  have mem : (xferGone e w (Desc.count x.x.rd) failed).st.mem = w.2.2.st.mem := rfl
  refine ⟨_, run, ?_, ?_, fun a outside => ?_, okW,
    (congrArg (·.st.vault) begun :), (congrArg (·.cairns) begun :), fun hr hw size inRd inWd => ?_⟩
  · rw [(xferGone_engine e _ _ failed).1, rowan, (xferBegun_engine e x.x s).1, queue]
    rfl
  · rw [(xferGone_engine e _ _ failed).2, rowan, (xferBegun_engine e x.x s).2.1]
  · rw [mem]
    exact outsideT a ((inWindows_sansBytes frame _ a 1).trans outside)
  · have sizes : Desc.size x.x.rd = Desc.size x.x.wd := by rw [Desc.size, Desc.size, size]
    have len : (readBytes s.st.mem x.x.rd.base (Desc.size x.x.rd)).length = Desc.size x.x.wd := by
      rw [readBytes, List.length_map, List.length_range, sizes]
    have inside : inWindows t (s.ringKey x.x.ring).tenant x.x.wd.base (readBytes s.st.mem x.x.rd.base (Desc.size x.x.rd)).length = true := by
      rw [len, inWindows_sansBytes frame]
      exact inWd
    rw [mem, ← wrote, memoryRuns_one hr hw noRd noWd inRd]
    unfold writeElems
    rw [List.foldl_cons, List.foldl_nil]
    dsimp only
    rw [if_pos rfl, if_pos inside, storeBytes_mem, st, sizes]

/-- Settles O45. -/
theorem orchardAndRowanMove : Obligations.OrchardAndRowanMove := by
  refine ⟨fun s ready => ⟨fun mask => congrArg Host.Outcome.next (if_neg (ne_false_of_eq_true ready)), fun t pending up => ?_,
    fun w hold drained => ?_⟩, fun s e x rest h => ?_⟩
  · refine ⟨_, congrArg Host.Outcome.next (if_pos ⟨pending, up⟩), ?_, fun v other => ?_, fun l => ?_, rfl, storeKept_of_st rfl⟩
    · exact (bit_setBit _ _ _ t.isLt).trans (if_pos rfl)
    · exact (bit_setBit _ _ _ v.isLt).trans (if_neg fun same => other (Fin.ext same))
    · show l ∈ s.ma.lines.filter _ ↔ _
      simp
  · have rest : ArrayAtRest s → ArrayAtRest (s.onWheel w (fun x => { x with drainHold := false })) := fun h => {
      wheels := by
        intro v en
        by_cases same : v = w
        · subst same
          rw [State.onWheel_same] at en ⊢
          exact h.wheels v en
        · rw [State.onWheel_other _ _ _ _ same] at en ⊢
          exact h.wheels v en
      engines := h.engines
      reads := h.reads
      crags := h.crags
      taps := h.taps }
    have run : exec (.drainRelease w) s = .next (pumpWheels (s.onWheel w (fun x => { x with drainHold := false }))) :=
      congrArg Host.Outcome.next (if_pos ⟨ready, hold, drained⟩)
    exact ⟨run, fun h => by rw [run, pumpWheels_rest (rest h)]⟩
  · obtain ⟨t, run, queue, elems, outside, ok, vault, cairns, one⟩ := rowanTransfer_moves h
    refine ⟨t, run, queue, elems, outside, ok, vault, cairns, fun hr hw size inRd inWd => ?_⟩
    obtain ⟨-, -, -, -, -, -, -, -, -, -, -, -, -, -, -, -, -, -, -, -, okS⟩ := h
    rw [one hr hw size inRd inWd]
    have len : (readBytes s.st.mem x.x.rd.base (Desc.size x.x.wd)).length = Desc.size x.x.wd := by
      rw [readBytes, List.length_map, List.length_range]
    refine ⟨fun i hi => ?_, fun a out => readByte_writeBytes_out okS (by rw [len]; omega)⟩
    rw [readByte_writeBytes okS, if_pos (by rw [len]; omega), Nat.add_sub_cancel_left, readBytes_getElem? hi]
    rfl

end Sys2Proof.Proofs

/-! What every step keeps: staging memory in its canonical form, and RDY only in the running phase. One rule per
function of the model, in the model's order; a command's rule is that its outcome keeps both. -/

namespace Sys2Proof.Proofs

open Sys2Proof Sys2Proof.Machine Sys2Proof.Safety Sys2Proof.Laws

/-- From `s` to `t` both invariants survive: staging memory stays canonical, and RDY reads 1 only in the running phase. -/
structure Safe (s t : State) : Prop where
  mem : MemoryOk s → MemoryOk t
  rdy : (s.pw.rdy = true → s.pw.phase = .ready) → (t.pw.rdy = true → t.pw.phase = .ready)

/-- Both invariants survive, RDY at 0 stays so, and no entry of the Pair link has more reliable packets to acknowledge. -/
structure Keeps (s t : State) : Prop extends Safe s t where
  unready : s.pw.rdy = false → t.pw.rdy = false
  acks : ∀ e : Peer, t.pair.peers[e].unacked ≤ s.pair.peers[e].unacked

section

variable {s₀ s t u : State}

theorem Keeps.refl (s : State) : Keeps s s := ⟨⟨id, id⟩, id, fun _ => Nat.le_refl _⟩

/-- An update of anything but staging memory, RDY, the phase and the acknowledgements that are due. -/
theorem Keeps.upd (h : Keeps s₀ s) (hm : t.st.mem = s.st.mem := by rfl) (hr : t.pw.rdy = s.pw.rdy := by rfl)
    (hp : t.pw.phase = s.pw.phase := by rfl)
    (ha : ∀ e : Peer, t.pair.peers[e].unacked ≤ s.pair.peers[e].unacked := by exact fun _ => Nat.le_refl _) : Keeps s₀ t :=
  ⟨⟨fun k => by rw [MemoryOk, hm]; exact h.mem k, fun k => by rw [hr, hp]; exact h.rdy k⟩, fun k => hr.trans (h.unready k),
    fun e => (ha e).trans (h.acks e)⟩

/-- Staging memory set to another canonical memory. -/
theorem Keeps.store (h : Keeps s₀ s) (hm : MemoryOk s → MemoryOk t) (hr : t.pw.rdy = s.pw.rdy := by rfl)
    (hp : t.pw.phase = s.pw.phase := by rfl) (ha : t.pair = s.pair := by rfl) : Keeps s₀ t :=
  ⟨⟨fun k => hm (h.mem k), fun k => by rw [hr, hp]; exact h.rdy k⟩, fun k => hr.trans (h.unready k),
    fun e => by rw [ha]; exact h.acks e⟩

/-- RDY cleared, whatever the phase. -/
theorem Keeps.clearRdy (h : Keeps s₀ s) (hr : t.pw.rdy = false := by rfl) (hm : t.st.mem = s.st.mem := by rfl)
    (ha : ∀ e : Peer, t.pair.peers[e].unacked ≤ s.pair.peers[e].unacked := by exact fun _ => Nat.le_refl _) : Keeps s₀ t :=
  ⟨⟨fun k => by rw [MemoryOk, hm]; exact h.mem k, fun _ k => absurd (hr.symm.trans k) Bool.false_ne_true⟩, fun _ => hr,
    fun e => (ha e).trans (h.acks e)⟩

/-- Another phase entered with RDY at 0, where the start's RDY is bound to the running phase. -/
theorem Keeps.enterPhase (h : Keeps s₀ s) (off : (s₀.pw.rdy = true → s₀.pw.phase = .ready) → s.pw.rdy = false)
    (hr : t.pw.rdy = s.pw.rdy := by rfl) (hm : t.st.mem = s.st.mem := by rfl)
    (ha : ∀ e : Peer, t.pair.peers[e].unacked ≤ s.pair.peers[e].unacked := by exact fun _ => Nat.le_refl _) : Keeps s₀ t :=
  ⟨⟨fun k => by rw [MemoryOk, hm]; exact h.mem k, fun k on => absurd (on.symm.trans (hr.trans (off k))) (by decide)⟩,
    fun k => hr.trans (h.unready k), fun e => (ha e).trans (h.acks e)⟩

/-- Outside the running phase RDY reads 0, where the start's RDY is bound to it. -/
theorem Keeps.off (h : Keeps s₀ s) (other : s.pw.phase ≠ .ready) (bound : s₀.pw.rdy = true → s₀.pw.phase = .ready) :
    s.pw.rdy = false := Bool.eq_false_iff.mpr fun on => other (h.rdy bound on)

/-- A chain of steps that keep the invariants keeps them. -/
theorem Keeps.trans (a : Keeps s t) (b : Keeps t u) : Keeps s u :=
  ⟨⟨fun k => b.mem (a.mem k), fun k => b.rdy (a.rdy k)⟩, fun k => b.unready (a.unready k), fun e => (b.acks e).trans (a.acks e)⟩

theorem Keeps.ofDataKept (h : Keeps s₀ s) (k : DataKept s t) : Keeps s₀ t :=
  h.upd (by rw [k.st]) k.rdy k.phase (fun e => by rw [k.pair])

/-- Both branches of a choice. -/
protected theorem Keeps.ite {c : Prop} [Decidable c] (ht : Keeps s₀ t) (hu : Keeps s₀ u) : Keeps s₀ (if c then t else u) := by
  split
  · exact ht
  · exact hu

protected theorem Keeps.iteSnd {α : Type} {c : Prop} [Decidable c] {p q : α × State} (hp : Keeps s₀ p.2) (hq : Keeps s₀ q.2) :
    Keeps s₀ (if c then p else q).2 := by
  split
  · exact hp
  · exact hq

protected theorem Keeps.iteThird {α β : Type} {c : Prop} [Decidable c] {p q : α × β × State} (hp : Keeps s₀ p.2.2)
    (hq : Keeps s₀ q.2.2) : Keeps s₀ (if c then p else q).2.2 := by
  split
  · exact hp
  · exact hq

/-- The state a pair answers. -/
theorem Keeps.pair {α : Type} {p : α × State} {a : α} (h : Keeps s₀ p.2) (e : p = (a, t)) : Keeps s₀ t := by
  rw [e] at h
  exact h

theorem Keeps.triple {α β : Type} {p : α × β × State} {a : α} {b : β} (h : Keeps s₀ p.2.2) (e : p = (a, b, t)) : Keeps s₀ t := by
  rw [e] at h
  exact h

/-- Steps that keep the invariants, one after the other. -/
protected theorem Keeps.foldl {α : Type} {f : State → α → State} {l : List α} (h : Keeps s₀ s)
    (hf : ∀ {s : State} (a : α), Keeps s₀ s → Keeps s₀ (f s a)) : Keeps s₀ (l.foldl f s) := by
  induction l generalizing s with
  | nil => exact h
  | cons a l ih => exact ih (hf a h)

/-- Steps on a pair, of which the first part is a tally. -/
protected theorem Keeps.foldlPair {α β : Type} {f : β × State → α → β × State} {l : List α} {p : β × State} (h : Keeps s₀ p.2)
    (hf : ∀ {p : β × State} (a : α), Keeps s₀ p.2 → Keeps s₀ (f p a).2) : Keeps s₀ (l.foldl f p).2 := by
  induction l generalizing p with
  | nil => exact h
  | cons a l ih => exact ih (hf a h)

protected theorem Keeps.foldlTriple {α β γ : Type} {f : β × γ × State → α → β × γ × State} {l : List α} {p : β × γ × State}
    (h : Keeps s₀ p.2.2) (hf : ∀ {p : β × γ × State} (a : α), Keeps s₀ p.2.2 → Keeps s₀ (f p a).2.2) :
    Keeps s₀ (l.foldl f p).2.2 := by
  induction l generalizing p with
  | nil => exact h
  | cons a l ih => exact ih (hf a h)

/-- Where a command completes, the invariants and what goes with them are kept. -/
def Completes (s₀ : State) (o : Host.Outcome State Fault Refusal) : Prop := ∀ t, o = .next t → Keeps s₀ t

/-- Where a command completes, both invariants survive. -/
def StaysSafe (s₀ : State) (o : Host.Outcome State Fault Refusal) : Prop := ∀ t, o = .next t → Safe s₀ t

theorem Keeps.completes (h : Keeps s₀ t) : Completes s₀ (.next t) := fun _ e => by
  cases e
  exact h

theorem Completes.fault {f : Fault} : Completes s₀ (.fault f) := fun _ e => by cases e

theorem Completes.safe {o : Host.Outcome State Fault Refusal} (h : Completes s₀ o) : StaysSafe s₀ o :=
  fun t e => (h t e).toSafe

theorem Safe.completes (h : Safe s₀ t) : StaysSafe s₀ (.next t) := fun _ e => by
  cases e
  exact h

protected theorem Keeps.onPeer {e : Peer} {f : PeerSt → PeerSt} (h : Keeps s₀ s)
    (hf : ∀ p, (f p).unacked ≤ p.unacked := by exact fun _ => Nat.le_refl _) : Keeps s₀ (s.onPeer e f) := by
  refine h.upd (ha := fun d => ?_)
  by_cases same : d = e
  · subst same
    rw [State.onPeer_same]
    exact hf _
  · rw [State.onPeer_other _ _ _ _ same]

end

end Sys2Proof.Proofs

/-! What every step keeps: the rules of the state, the heads of the rings and the signals. -/

namespace Sys2Proof.Proofs

open Sys2Proof Sys2Proof.Machine Sys2Proof.Safety Sys2Proof.Laws

section

-- Hundreds of short rules: proved in turn, they never wait for one another in threads of their own.
set_option Elab.async false

variable {s₀ s t u : State}

/-! ### Shared operations -/

protected theorem Keeps.onRing {r : Ring} {f : RingSt → RingSt} (h : Keeps s₀ s) : Keeps s₀ (s.onRing r f) := h.upd

protected theorem Keeps.onCairn {c : Cairn} {f : CairnSt → CairnSt} (h : Keeps s₀ s) : Keeps s₀ (s.onCairn c f) :=
  h.upd

protected theorem Keeps.onWheel {w : Wheel} {f : WheelSt → WheelSt} (h : Keeps s₀ s) : Keeps s₀ (s.onWheel w f) :=
  h.upd

protected theorem Keeps.onCrag {n : Crag} {f : CragSt → CragSt} (h : Keeps s₀ s) : Keeps s₀ (s.onCrag n f) := h.upd

protected theorem Keeps.onRowan {e : Eng} {f : RowanSt → RowanSt} (h : Keeps s₀ s) : Keeps s₀ (s.onRowan e f) := h.upd

protected theorem Keeps.onLane {l : Lane} {f : LaneSt → LaneSt} (h : Keeps s₀ s) : Keeps s₀ (s.onLane l f) := h.upd

protected theorem Keeps.onCtx {l : Lane} {c : Ctx} {f : CtxSt → CtxSt} (h : Keeps s₀ s) : Keeps s₀ (s.onCtx l c f) :=
  h.onLane

protected theorem Keeps.onKey {k : KSlot} {f : KeySt → KeySt} (h : Keeps s₀ s) : Keeps s₀ (s.onKey k f) := h.upd

protected theorem Keeps.onPort {p : PPort} {f : PortSt → PortSt} (h : Keeps s₀ s) : Keeps s₀ (s.onPort p f) := h.upd

protected theorem Keeps.onArb {k : Res} {f : Arb → Arb} (h : Keeps s₀ s) : Keeps s₀ (s.onArb k f) := h.upd

protected theorem Keeps.emit {b : BusOut} (h : Keeps s₀ s) : Keeps s₀ (emit b s) := h.upd

protected theorem Keeps.draw (h : Keeps s₀ s) : Keeps s₀ (draw s).2 := h.upd

protected theorem Keeps.drawBeat (h : Keeps s₀ s) : Keeps s₀ (drawBeat s).2 := h.upd

protected theorem Keeps.advanceTo {t : Nat} (h : Keeps s₀ s) : Keeps s₀ (advanceTo t s) := h.upd

protected theorem Keeps.msixFire {v : Vec} (h : Keeps s₀ s) : Keeps s₀ (msixFire v s) :=
  .ite h (.ite h.upd h.upd.emit)

protected theorem Keeps.announcing {v : Vec} {f : State → State} (h :
    Keeps s₀ (f s)) : Keeps s₀ (announcing v f s) := by
  unfold announcing
  dsimp only
  split
  · exact h.msixFire
  · exact h

protected theorem Keeps.busyOn {cause : BitVec 4} (h : Keeps s₀ s) : Keeps s₀ (busyOn cause s) := by
  unfold busyOn
  extract_lets _ s1 _
  have h1 : Keeps s₀ s1 := h.upd
  clear_value s1
  exact .ite h1 h1.upd.emit

protected theorem Keeps.busyOff {cause : BitVec 4} (h : Keeps s₀ s) : Keeps s₀ (busyOff cause s) := .ite h.upd h

protected theorem Keeps.alertPin (h : Keeps s₀ s) : Keeps s₀ (alertPin s) := by
  unfold alertPin
  extract_lets on _
  exact .ite h h.upd.emit

protected theorem Keeps.offerEvent {e : EvRec} (h : Keeps s₀ s) : Keeps s₀ (offerEvent e s) :=
  .ite h.emit h.upd.alertPin

protected theorem Keeps.logEvent {code : Nat} {unit : Byte} {a0 a1 : Word} (h : Keeps s₀ s) :
    Keeps s₀ (logEvent code unit a0 a1 s) := by
  unfold logEvent
  extract_lets w c rec_
  exact .ite h.upd (.ite h.upd h.upd.offerEvent)

protected theorem Keeps.raiseEvent {code : Nat} {unit : Byte} {a0 a1 : Word} (h : Keeps s₀ s) :
    Keeps s₀ (raiseEvent code unit a0 a1 s) := by
  unfold raiseEvent
  refine Keeps.announcing ?_
  exact h.logEvent

protected theorem Keeps.setExp {x : ExpRes} (h : Keeps s₀ s) : Keeps s₀ (setExp x s) := h.upd

protected theorem Keeps.flagWarn {kind item : Nat} (h : Keeps s₀ s) : Keeps s₀ (flagWarn kind item s) := .ite h h.upd

protected theorem Keeps.fltRecord {addr : Nat} {cause : Cause} {t : Tenant} {inbound : Bool} {ring : Nat} {write :
    Bool} {who : Nat} (h : Keeps s₀ s) : Keeps s₀ (fltRecord addr cause t inbound ring write who s) := by
  unfold fltRecord
  extract_lets w2 _
  exact h.upd

protected theorem Keeps.keyFlt {k : Key} {addr : Nat} {cause : Cause} {write : Bool} (h : Keeps s₀ s) :
    Keeps s₀ (keyFlt k addr cause write s) :=
  h.fltRecord

protected theorem Keeps.askTranslation {k : Key} {addr : Nat} {write : Bool} (h : Keeps s₀ s) :
    Keeps s₀ (askTranslation k addr write s) := by
  unfold askTranslation
  extract_lets q _
  exact .ite h h.upd.emit

protected theorem Keeps.takeDenials {k : Key} {write : Bool} (h : Keeps s₀ s) : Keeps s₀ (takeDenials k write s) :=
  h.upd

protected theorem Keeps.writesJudged {k : Key} {addrs : List Nat} (h : Keeps s₀ s) :
    Keeps s₀ (writesJudged k addrs s).2 := by
  unfold writesJudged
  split
  · exact h
  · exact h.foldl (fun _ h => h.askTranslation)

protected theorem Keeps.markBad {bad : Bool} {b : Nat} (h : Keeps s₀ s) : Keeps s₀ (markBad bad b s) := h.upd

protected theorem Keeps.dropLines {a n : Nat} (h : Keeps s₀ s) : Keeps s₀ (dropLines a n s) := h.upd

protected theorem Keeps.storeBeat {b : Nat} {x : Beat} (h : Keeps s₀ s) : Keeps s₀ (storeBeat b x s) :=
  h.store storeBeat_wf

protected theorem Keeps.storeBytes {a : Nat} {bs : List Byte} {psn : Bool} (h : Keeps s₀ s) :
    Keeps s₀ (storeBytes a bs psn s) := by
  obtain ⟨_, _, _, eq⟩ := storeBytes_bytesOnly a bs psn s
  exact h.store storeBytes_wf (by rw [eq]) (by rw [eq]) (by rw [eq])

protected theorem Keeps.recapOne {k : Res} (h : Keeps s₀ s) : Keeps s₀ (recapOne k s) := by
  unfold recapOne
  extract_lets a l t fr a1 s1 s1_2
  have h1 : Keeps s₀ s1 := h.onArb
  have h2 : Keeps s₀ s1_2 := h.onArb
  clear_value s1 s1_2
  exact .ite (.ite h1 h1.raiseEvent) (.ite (.ite h2 h2.raiseEvent) h.onArb)

protected theorem Keeps.recap (h : Keeps s₀ s) : Keeps s₀ (recap s) := h.foldl (fun _ h => h.recapOne)

protected theorem Keeps.endBreach {k : Res} (h : Keeps s₀ s) : Keeps s₀ (endBreach k s) := .ite h.onArb.raiseEvent h

protected theorem Keeps.reportLink (h : Keeps s₀ s) : Keeps s₀ (reportLink s) := .ite h.raiseEvent h

protected theorem Keeps.leaveHead {r : Ring} {cid : Nat} (h : Keeps s₀ s) : Keeps s₀ (leaveHead r cid s) := h.onRing

protected theorem Keeps.modCmd {r : Ring} {cid : Nat} {f : Cmd → Cmd} (h : Keeps s₀ s) :
    Keeps s₀ (modCmd r cid f s) :=
  h.onRing

protected theorem Keeps.endLoad (h : Keeps s₀ s) : Keeps s₀ (endLoad s) := h.upd.busyOff

protected theorem Keeps.pushEntry {r : Ring} {c0 : Cmd} {o : Outc} (h : Keeps s₀ s) :
    Keeps s₀ (pushEntry r c0 o s) := by
  unfold pushEntry
  extract_lets c s1
  have h1 : Keeps s₀ s1 := h.onRing
  clear_value s1
  exact .ite h1.endLoad h1

protected theorem Keeps.complete {r : Ring} {c : Cmd} {status : Byte} {d0 d1 : Nat} (h : Keeps s₀ s) :
    Keeps s₀ (complete r c status d0 d1 s) :=
  h.pushEntry

protected theorem Keeps.leaveScopes {cid : Nat} {ok : Bool} (h : Keeps s₀ s) : Keeps s₀ (leaveScopes cid ok s) :=
  h.upd

protected theorem Keeps.spoilScopes {cid : Nat} (h : Keeps s₀ s) : Keeps s₀ (spoilScopes cid s) := h.upd

protected theorem Keeps.settleFlushes (h : Keeps s₀ s) : Keeps s₀ (settleFlushes s) :=
  h.foldl (fun _ h => h.foldl (fun _ h1 => .ite h1.complete h1))

protected theorem Keeps.deferRecord {r : Ring} {lba count : Nat} {tag : BitVec 16} {cause : Nat} {ctx : Dword}
    (h : Keeps s₀ s) : Keeps s₀ (deferRecord r lba count tag cause ctx s) := by
  unfold deferRecord
  extract_lets x n rec_ y
  exact h.onRing.raiseEvent

protected theorem Keeps.deferSectors {r : Ring} {cause : Nat} {gs : List Staged} (h : Keeps s₀ s) :
    Keeps s₀ (deferSectors r cause gs s) := by
  unfold deferSectors
  extract_lets sorted
  exact h.foldl (fun _ h => h.deferRecord)

/-! ### Signals -/

protected theorem Keeps.ringWaitAfter {c : Cairn} {add : Nat} {value : Word} {r : Ring} (h : Keeps s₀ s) :
    Keeps s₀ (ringWaitAfter c add value r s) := by
  unfold ringWaitAfter
  split
  · exact h
  · split
    · exact h
    · exact .ite (.ite h.complete h.modCmd) h

protected theorem Keeps.forwardOn {c : Cairn} {add : Word} {e : Peer} (h : Keeps s₀ s) :
    Keeps s₀ (forwardOn c add e s) := by
  unfold forwardOn
  extract_lets p lo q
  refine .ite h ?_
  split
  · exact h.onPeer
  · exact .ite h.onPeer h.onPeer.raiseEvent
  · exact .ite h.onPeer h.onPeer.raiseEvent
  · exact h

protected theorem Keeps.applySignal {c : Cairn} {kind id : Nat} {add : Word} (h : Keeps s₀ s) :
    Keeps s₀ (applySignal c kind id add s) := by
  have raised : Keeps s₀ (valueRaised c kind id add s) := by
    refine Keeps.announcing ?_
    exact h.onCairn
  have woken : Keeps s₀ (ringsWoken c add (s.cairns[c].value + add) (valueRaised c kind id add s)) :=
    raised.foldl fun _ h => h.ringWaitAfter
  rw [applySignal_eq]
  unfold spread
  dsimp only
  generalize ringsWoken c add (s.cairns[c].value + add) (valueRaised c kind id add s) = v at woken ⊢
  split
  · exact woken.upd
  · have sent := woken.foldl (f := fun s e => forwardOn c add e s) (l := List.finRange 4) fun _ h => h.forwardOn
    generalize (List.finRange 4).foldl (fun s e => forwardOn c add e s) v = w at sent ⊢
    exact sent.upd

protected theorem Keeps.blockSignal {c : Cairn} {kind id : Nat} (h : Keeps s₀ s) :
    Keeps s₀ (blockSignal c kind id s) :=
  h.onCairn.raiseEvent

protected theorem Keeps.rejectSignal {c : Cairn} {kind id : Nat} (h : Keeps s₀ s) :
    Keeps s₀ (rejectSignal c kind id s) :=
  h.onCairn.raiseEvent

protected theorem Keeps.signalFrom {t : Tenant} {c : Cairn} {kind id : Nat} {add : Word} (h : Keeps s₀ s) :
    Keeps s₀ (signalFrom t c kind id add s) :=
  .ite h.applySignal h.blockSignal

protected theorem Keeps.refreshView (h : Keeps s₀ s) : Keeps s₀ (refreshView s) := by
  unfold refreshView
  extract_lets v n g _ _
  exact .ite h h.upd

/-! ### The head of a ring -/

protected theorem Keeps.modImage {t : Tenant} {img : Word} {f : Image → Image} (h : Keeps s₀ s) :
    Keeps s₀ (modImage t img f s) :=
  h.upd

protected theorem Keeps.sendRead {k : Key} {what : ReadFor} {a n : Nat} {orc : Bool} (h : Keeps s₀ s) :
    Keeps s₀ (sendRead k what a n orc s) := by
  unfold sendRead
  split
  · extract_lets tag q _
    exact h.upd.emit
  · exact h

protected theorem Keeps.sendNext {r : Ring} {c : Cmd} (h : Keeps s₀ s) : Keeps s₀ (sendNext r c s) := by
  unfold sendNext
  split
  · exact h
  · exact h.sendRead

protected theorem Keeps.delayCmd {r : Ring} {cid : Nat} {res cause : Nat} (h : Keeps s₀ s) :
    Keeps s₀ (delayCmd r cid res cause s) :=
  h.modCmd

protected theorem Keeps.takeGrants {r : Ring} {cid : Nat} {l : List Res} (h : Keeps s₀ s) :
    Keeps s₀ (takeGrants r cid l s).2 := by
  induction l generalizing s with
  | nil => exact h
  | cons k l ih =>
    unfold takeGrants
    split
    · exact h.delayCmd
    · exact ih h.onArb
    · extract_lets s1
      have h1 : Keeps s₀ s1 := h.onArb.delayCmd.advanceTo
      clear_value s1
      exact ih h1.modCmd
    · exact ih h.onArb.delayCmd.modCmd

protected theorem Keeps.reloadCrag {n : Crag} (h : Keeps s₀ s) : Keeps s₀ (reloadCrag s n) := by
  unfold reloadCrag
  extract_lets body v
  have h1 : Keeps s₀ v := h.onCrag
  clear_value v
  exact h1.upd

protected theorem Keeps.wake (h : Keeps s₀ s) : Keeps s₀ (wake s) := by
  unfold wake
  extract_lets _ s1
  have h1 : Keeps s₀ s1 := h.upd
  clear_value s1
  split
  · exact h
  · exact h.upd
  · exact h1.foldl (fun _ h1 => h1.reloadCrag)

protected theorem Keeps.wakeNap (h : Keeps s₀ s) : Keeps s₀ (wakeNap s) := .ite h.wake h

protected theorem Keeps.reachHead {r : Ring} {cid : Nat} (h : Keeps s₀ s) : Keeps s₀ (reachHead r cid s) := by
  unfold reachHead
  extract_lets p
  exact h.modCmd

protected theorem Keeps.countTapStall {taps : List Tap} (h : Keeps s₀ s) : Keeps s₀ (countTapStall taps s) := h.upd

protected theorem Keeps.headStep {r : Ring} {code : Nat} {act : Cmd → State → State} (h : Keeps s₀ s)
    (ha : ∀ {s : State} (c : Cmd), Keeps s₀ s → Keeps s₀ (act c s)) : Keeps s₀ (headStep r code act s) := by
  unfold headStep
  split
  · exact h
  · refine .ite h ?_
    refine .ite h.reachHead.delayCmd ?_
    refine .ite (ha _ h) ?_
    split
    · exact h.pushEntry
    · split
      next e =>
        have h1 := h.reachHead.modCmd.takeGrants.pair e
        exact h1
      next e =>
        have h1 := h.reachHead.modCmd.takeGrants.pair e
        extract_lets s2
        have h2 : Keeps s₀ s2 := (Keeps.ite h1.wake h1).modCmd
        clear_value s2
        split
        · exact h1.pushEntry
        · exact h1.countTapStall.delayCmd
        · split
          · exact ha _ h2
          · exact h2

protected theorem Keeps.effectOf {r : Ring} {cid : Nat} (h : Keeps s₀ s) : Keeps s₀ (effectOf r cid s) := h.modCmd

protected theorem Keeps.judgeReads {r : Ring} {cid : Nat} {l : List (Nat × Nat)} (h : Keeps s₀ s) :
    Keeps s₀ (judgeReads r cid l s) := by
  induction l generalizing s with
  | nil => exact h
  | cons a l ih =>
    unfold judgeReads
    split
    · exact h
    · extract_lets k
      refine .ite (ih h) ?_
      split
      · exact ih h.modCmd.keyFlt
      · exact ih h.askTranslation
      · exact ih h

protected theorem Keeps.stallForTag {r : Ring} {cid : Nat} {cap : Bool} (h : Keeps s₀ s) :
    Keeps s₀ (stallForTag r cid cap s) :=
  h.onRing.delayCmd

protected theorem Keeps.issueReads {r : Ring} {cid fuel : Nat} (h : Keeps s₀ s) :
    Keeps s₀ (issueReads r cid fuel s) := by
  induction fuel generalizing s with
  | zero => exact h
  | succ fuel ih =>
    unfold issueReads
    split
    · exact h
    · refine .ite h.modCmd ?_
      split
      · exact h.stallForTag
      · exact ih h.sendNext

protected theorem Keeps.gather {r : Ring} {cid : Nat} {plan : List Nat} (h : Keeps s₀ s) :
    Keeps s₀ (gather r cid plan s).2.2 := by
  unfold gather
  extract_lets s1 s2
  have h1 : Keeps s₀ s1 := h.modCmd.judgeReads
  have h2 : Keeps s₀ s2 := h1.issueReads
  clear_value s1 s2
  split
  · exact h2
  · exact h2.takeDenials

protected theorem Keeps.beatsOf {l : List (Nat × Got)} (h : Keeps s₀ s) : Keeps s₀ (beatsOf l s).2 := by
  induction l generalizing s with
  | nil => exact h
  | cons g l ih =>
    obtain ⟨n, d | c⟩ := g
    · exact ih h
    · exact ih h.drawBeat

protected theorem Keeps.hostWrites {k : Key} {addr : Nat} {beats : List Beat} {len : Nat} {b : Bad}
    (h : Keeps s₀ s) : Keeps s₀ (hostWrites k addr beats len b s).2 := by
  unfold hostWrites
  refine h.foldlPair (fun _ h => ?_)
  extract_lets a
  split
  · exact h.emit
  · exact h.keyFlt
  · exact h.keyFlt

protected theorem Keeps.withWrites {k : Key} {addrs : List Nat} {act : State → State} (h : Keeps s₀ s)
    (ha : ∀ {s : State}, Keeps s₀ s → Keeps s₀ (act s)) : Keeps s₀ (withWrites k addrs act s) := by
  unfold withWrites
  split
  next e =>
    have h1 := h.writesJudged.pair e
    exact h1
  next e =>
    have h1 := h.writesJudged.pair e
    exact (ha h1).takeDenials

/-! ### Sloe -/

protected theorem Keeps.laneCount {l : Lane} {n tainted : Nat} (h : Keeps s₀ s) :
    Keeps s₀ (laneCount l n tainted s) :=
  h.onLane

protected theorem Keeps.noteGlitch {l : Lane} {c : Ctx} {pair : Bool × Bool} (h : Keeps s₀ s) :
    Keeps s₀ (noteGlitch l c pair s) :=
  .ite h h.onLane.raiseEvent

protected theorem Keeps.writeResult {l : Lane} {c : Ctx} {m : SloeMsg} {glitch : Option (Bool × Bool)}
    (h : Keeps s₀ s) : Keeps s₀ (writeResult l c m glitch s) := by
  unfold writeResult
  extract_lets o pair s1 s2
  have h1 : Keeps s₀ s1 := h.laneCount
  have h2 : Keeps s₀ s2 := h1.onLane
  clear_value s1 s2
  exact h2.onCtx.noteGlitch

protected theorem Keeps.fenceLane {l : Lane} {why : Nat} (h : Keeps s₀ s) : Keeps s₀ (fenceLane l why s) := by
  unfold fenceLane
  extract_lets owners s1 _ s1_2 s2 _
  have h1 : Keeps s₀ s1 := h.onLane
  have h2 : Keeps s₀ s1_2 := h1.upd
  have h3 : Keeps s₀ s2 := by
    unfold s2
    refine h2.foldl (fun _ h2 => ?_)
    split
    · split
      · exact h2.pushEntry
      · exact h2
    · exact h2
  clear_value s1 s1_2 s2
  exact .ite h (Keeps.ite h3.upd h3).raiseEvent.refreshView

protected theorem Keeps.noteDriver {m : SloeMsg} {n : Nat} {bad ended : Bool} (h : Keeps s₀ s) :
    Keeps s₀ (noteDriver m n bad ended s) := by
  unfold noteDriver
  split
  · exact h
  · exact h.modCmd

protected theorem Keeps.takeBytes {l : Lane} {c : Ctx} {bytes : List Byte} {bad ended : Bool} (h : Keeps s₀ s) :
    Keeps s₀ (takeBytes l c bytes bad ended s) := by
  unfold takeBytes
  extract_lets x
  split
  · exact h
  · exact .ite h.onLane.onCtx h.onCtx

protected theorem Keeps.ctxFor {l : Lane} {it : TapItem} {p : Snoop} {c : Ctx} (h : Keeps s₀ s)
    (e : ctxFor l it p s = some (c, t)) : Keeps s₀ t := by
  unfold ctxFor at e
  dsimp only at e
  split at e
  · cases e
    exact h
  · split at e
    · cases e
      exact h
    · obtain ⟨_, _, k⟩ := Option.map_eq_some_iff.mp e
      cases k
      exact h.onCtx

protected theorem Keeps.endMessage {l : Lane} {it : TapItem} {p : Snoop} (h : Keeps s₀ s) :
    Keeps s₀ (endMessage l it p s) := by
  unfold endMessage
  split
  · exact h
  · split
    · exact h
    · exact .ite h.onCtx h.noteDriver.takeBytes

protected theorem Keeps.feedItem {l : Lane} {it : TapItem} (h : Keeps s₀ s) : Keeps s₀ (feedItem l it s) := by
  unfold feedItem
  dsimp only
  split
  · exact h
  · split
    · exact h.onLane
    · split
      · exact h.endMessage
      · split
        · exact h
        · split
          · exact h.onLane
          next e => exact (h.ctxFor e).takeBytes
      · split
        · exact h.onLane
        next e =>
          split
          · exact h.ctxFor e
          · exact (h.ctxFor e).noteDriver.takeBytes

protected theorem Keeps.drainTap {l : Lane} (h : Keeps s₀ s) : Keeps s₀ (drainTap l s) :=
  h.onLane.foldl (fun _ h => h.feedItem)

protected theorem Keeps.snoopEvents {tap : Tap} {evs : List TapEv} {own : Option (Ring × Nat)} {len : Nat}
    (h : Keeps s₀ s) : Keeps s₀ (snoopEvents tap evs own len s) :=
  h.foldl (fun _ h => h.foldl (fun _ h1 => h1.feedItem))

protected theorem Keeps.snoopFeed {tap : Tap} {bs : List (Beat × Bool)} {own : Option (Ring × Nat)}
    (h : Keeps s₀ s) : Keeps s₀ (snoopFeed tap bs own s) := by
  unfold snoopFeed
  extract_lets len
  exact h.snoopEvents

protected theorem Keeps.snoopEnd {tap : Tap} {own : Option (Ring × Nat)} (h : Keeps s₀ s) :
    Keeps s₀ (snoopEnd tap own s) :=
  h.snoopEvents

protected theorem Keeps.snoopRun {tap : Tap} {bs : List (Beat × Bool)} {own : Option (Ring × Nat)}
    (h : Keeps s₀ s) : Keeps s₀ (snoopRun tap bs own s) := by
  unfold snoopRun
  extract_lets cmd len on cut s1
  have h1 : Keeps s₀ s1 := by
    unfold s1
    split
    · exact h
    · exact .ite h h.modCmd
  clear_value s1
  exact h1.snoopEvents

protected theorem Keeps.abortTap {tap : Tap} (h : Keeps s₀ s) : Keeps s₀ (abortTap tap s) :=
  h.foldl (fun _ h => h.onLane)

protected theorem Keeps.countHeld {taps : List Tap} (h : Keeps s₀ s) : Keeps s₀ (countHeld taps s) := h.upd

/-! ### Streams -/

protected theorem Keeps.noteRest {n : Crag} (h : Keeps s₀ s) : Keeps s₀ (noteRest n s) := by
  unfold noteRest
  extract_lets rests
  exact h.onCrag

protected theorem Keeps.shiftReads {w : Wheel} {from_ n : Nat} (h : Keeps s₀ s) :
    Keeps s₀ (shiftReads w from_ n s) := by
  unfold shiftReads
  extract_lets move _
  exact h.upd

protected theorem Keeps.endStream {w : Wheel} (h : Keeps s₀ s) : Keeps s₀ (endStream w s) := by
  unfold endStream
  extract_lets x n s1 s2
  have h1 : Keeps s₀ s1 := by
    unfold s1
    split
    · exact .ite h.snoopEnd (h.foldl (fun _ h => h.snoopEnd))
    · exact h
  have h2 : Keeps s₀ s2 := h1.shiftReads.onWheel
  clear_value s1 s2
  exact h2.noteRest

protected theorem Keeps.dropOutputs {n : Crag} (h : Keeps s₀ s) : Keeps s₀ (dropOutputs n s) := by
  unfold dropOutputs
  extract_lets drop bank _
  exact h.upd

protected theorem Keeps.dropSpan {w : Wheel} {b n : Nat} {streams : List Strm} (h : Keeps s₀ s) :
    Keeps s₀ (dropSpan w b n streams s) := by
  unfold dropSpan
  extract_lets x inside reads _ s1 s2
  have h1 : Keeps s₀ s1 := h.upd.shiftReads
  have h2 : Keeps s₀ s2 := h1.onWheel
  clear_value s1 s2
  exact .ite h2.onCrag.dropOutputs h2

protected theorem Keeps.removeStreams {cid : Nat} (h : Keeps s₀ s) : Keeps s₀ (removeStreams cid s) := by
  unfold removeStreams
  refine h.foldl (fun _ h => ?_)
  extract_lets x
  split
  · exact h
  · exact h.dropSpan.noteRest

protected theorem Keeps.leaveEngines {cid : Nat} (h : Keeps s₀ s) : Keeps s₀ (leaveEngines cid s) := h.upd

protected theorem Keeps.dropStream {w : Wheel} (h : Keeps s₀ s) : Keeps s₀ (dropStream w s) := by
  unfold dropStream
  extract_lets x
  refine .ite h.onWheel ?_
  split
  · exact h
  · exact .ite h h.abortTap.dropSpan.onWheel

protected theorem Keeps.dropStreams {n : Crag} (h : Keeps s₀ s) : Keeps s₀ (dropStreams n s) :=
  h.foldl (fun _ h => .ite h.dropStream h)

/-! ### Rings -/

protected theorem Keeps.abortContexts {cid : Nat} (h : Keeps s₀ s) : Keeps s₀ (abortContexts cid s) := by
  have left := (h.removeStreams (cid := cid)).leaveEngines (cid := cid)
  unfold abortContexts
  dsimp only
  generalize leaveEngines cid (removeStreams cid s) = v at left ⊢
  exact left.upd

protected theorem Keeps.latchAbort {r : Ring} {c : Cmd} (h : Keeps s₀ s) : Keeps s₀ (latchAbort r c s) := by
  unfold latchAbort
  extract_lets x tag all target reject hit a s1
  have h1 : Keeps s₀ s1 := h.onRing
  clear_value s1
  clear_value hit
  split
  · exact h1.onRing.abortContexts.settleFlushes
  · exact h1

protected theorem Keeps.markStep {t : Tenant} (h : Keeps s₀ s) : Keeps s₀ (markStep t s) := h.upd

protected theorem Keeps.latch {r : Ring} (h : Keeps s₀ s) : Keeps s₀ (latch r s) := by
  unfold latch
  extract_lets x c0 sc c s1 s2 s3 _
  have h1 : Keeps s₀ s1 := h.upd
  have h2 : Keeps s₀ s2 := h1.onRing
  have h3 : Keeps s₀ s3 := .ite h2.latchAbort h2.onRing
  clear_value s1 s2 s3
  exact .ite h3.upd.busyOn (.ite h3.markStep h3)

protected theorem Keeps.execTrbGo {r : Ring} {v : Word} (h : Keeps s₀ s) : Completes s₀ (execTrbGo r v s) :=
  (Keeps.ite h (.ite h.wakeNap.latch h.wakeNap.onRing)).completes

protected theorem Keeps.coverBy {e : Entry} (h : Keeps s₀ s) : Keeps s₀ (coverBy e s) := .ite h h.upd

protected theorem Keeps.writeEntry {r : Ring} {e : Entry} (h : Keeps s₀ s) : Keeps s₀ (writeEntry r e s) := by
  unfold writeEntry
  extract_lets x
  split
  · extract_lets s1 s2
    have h1 : Keeps s₀ s1 := h.coverBy.emit
    have h2 : Keeps s₀ s2 := by
      unfold s2
      refine Keeps.announcing ?_
      exact h1.onRing
    clear_value s1 s2
    exact .ite h2.leaveScopes (.ite h2 h2.spoilScopes)

protected theorem Keeps.entryFault {r : Ring} {c : Cause} (h : Keeps s₀ s) : Keeps s₀ (entryFault r c s) :=
  h.onRing.keyFlt.takeDenials.raiseEvent

protected theorem Keeps.execCompletionEntryWrite {r : Ring} (h : Keeps s₀ s) :
    Completes s₀ (execCompletionEntryWrite r s) := by
  unfold execCompletionEntryWrite
  extract_lets x
  refine Keeps.completes ?_
  refine .ite h ?_
  split
  · exact h
  · split
    · exact h.entryFault
    · exact h.askTranslation
    · exact h.onRing.writeEntry

protected theorem Keeps.cplHead {r : Ring} {v : Word} (h : Keeps s₀ s) : Keeps s₀ (cplHead r v s) := by
  unfold cplHead
  extract_lets x i d n
  exact .ite h.setExp (.ite (.ite h.setExp h.setExp) (.ite h.setExp h.onRing.setExp))

protected theorem Keeps.execCplHeadWrite {r : Ring} {v : Word} (h : Keeps s₀ s) :
    Completes s₀ (execCplHeadWrite r v s) :=
  (Keeps.ite h h.cplHead).completes

protected theorem Keeps.cplSetup {r : Ring} {reg : CplReg} {v : Word} (h : Keeps s₀ s) :
    Keeps s₀ (cplSetup r reg v s) := by
  unfold cplSetup
  extract_lets x p d
  refine .ite h.setExp ?_
  split
  · exact h.onRing.setExp
  · exact h.onRing.setExp
  · exact .ite h.onRing.setExp h.setExp

protected theorem Keeps.execCplRingSetup {r : Ring} {reg : CplReg} {v : Word} (h : Keeps s₀ s) :
    Completes s₀ (execCplRingSetup r reg v s) :=
  (Keeps.ite h h.cplSetup).completes

protected theorem Keeps.execCplRingSetupTakesEffect {r : Ring} (h : Keeps s₀ s) :
    Completes s₀ (execCplRingSetupTakesEffect r s) :=
  (Keeps.ite h.onRing h).completes

protected theorem Keeps.deferHead {r : Ring} {v : Word} (h : Keeps s₀ s) : Keeps s₀ (deferHead r v s) := by
  unfold deferHead
  extract_lets x y_2
  exact .ite h.setExp (.ite h.setExp h.onRing.setExp)

protected theorem Keeps.execDeferHeadWrite {r : Ring} {v : Word} (h : Keeps s₀ s) :
    Completes s₀ (execDeferHeadWrite r v s) :=
  (Keeps.ite h h.deferHead).completes

protected theorem Keeps.evtHead {v : Word} (h : Keeps s₀ s) : Keeps s₀ (evtHead v s) := by
  unfold evtHead
  extract_lets y_2 _
  exact .ite h.setExp h.upd.setExp

protected theorem Keeps.execEvtHeadWrite {v : Word} (h : Keeps s₀ s) : Completes s₀ (execEvtHeadWrite v s) :=
  (Keeps.ite h h.evtHead).completes

/-! ### Heads -/

protected theorem Keeps.flushAct {r : Ring} {c : Cmd} (h : Keeps s₀ s) : Keeps s₀ (flushAct r c s) :=
  h.leaveHead.settleFlushes

protected theorem Keeps.execFlush {r : Ring} (h : Keeps s₀ s) : Completes s₀ (execFlush r s) :=
  (h.headStep (fun _ h => h.flushAct)).completes

protected theorem Keeps.fenceAct {r : Ring} {c : Cmd} (h : Keeps s₀ s) : Keeps s₀ (fenceAct r c s) :=
  .ite h (.ite h.complete h.complete)

protected theorem Keeps.execFence {r : Ring} (h : Keeps s₀ s) : Completes s₀ (execFence r s) :=
  (h.headStep (fun _ h => h.fenceAct)).completes

end

end Sys2Proof.Proofs

/-! What every step keeps: the Vault, the Pair link's operations, power and bring-up. -/

namespace Sys2Proof.Proofs

open Sys2Proof Sys2Proof.Machine Sys2Proof.Safety Sys2Proof.Laws

section

-- Hundreds of short rules: proved in turn, they never wait for one another in threads of their own.
set_option Elab.async false

variable {s₀ s t u : State}

/-! ### Vault operations -/

protected theorem Keeps.copyPage {page : Nat} {fail : Bool} (h : Keeps s₀ s) : Keeps s₀ (copyPage page fail s) := by
  unfold copyPage
  extract_lets inPage cells bad _ s1
  have h1 : Keeps s₀ s1 := h.upd
  clear_value s1
  exact .ite (h1.dropLines.foldl (fun _ h1 => h1.markBad)) h1

protected theorem Keeps.copyPages {pages : List Nat}
    (h : Keeps s₀ s) (e : copyPages pages s = some t) : Keeps s₀ t := by
  unfold copyPages at e
  dsimp only at e
  split at e
  · cases e
  · cases e
    exact h.foldl fun _ h => h.copyPage

protected theorem Keeps.copySome {pages : List Nat} (h : Keeps s₀ s) : Keeps s₀ (copySome pages s) :=
  .ite h (h.foldl (fun _ h => h.copyPage))

protected theorem Keeps.retire {n : Nat} (h : Keeps s₀ s) : Keeps s₀ (retire n s) := by
  unfold retire
  extract_lets spare _ s1 _ s2 _
  have h1 : Keeps s₀ s1 := h.upd
  have h2 : Keeps s₀ s2 := .ite h1.upd.raiseEvent h1
  clear_value s1 s2
  exact .ite h (.ite h2.upd.raiseEvent h2)

protected theorem Keeps.commitTail (h : Keeps s₀ s) : Keeps s₀ (commitTail s) := h.upd

protected theorem Keeps.journalAdd {n : Nat} (h : Keeps s₀ s) : Keeps s₀ (journalAdd n s) := by
  unfold journalAdd
  extract_lets j _
  exact .ite h.commitTail h.upd

protected theorem Keeps.journalSec {r : Ring} {g : Staged} (h : Keeps s₀ s) : Keeps s₀ (journalSec r g s) :=
  h.upd.journalAdd

protected theorem Keeps.putVault {lba : Nat} {x : Sec} (h : Keeps s₀ s) : Keeps s₀ (putVault lba x s) := h.upd

protected theorem Keeps.unmapLbas {lo n : Nat} (h : Keeps s₀ s) : Keeps s₀ (unmapLbas lo n s) := h.upd

protected theorem Keeps.freshBeats {l : List Beat} (h : Keeps s₀ s) : Keeps s₀ (freshBeats l s).2 := by
  induction l generalizing s with
  | nil => exact h
  | cons b l ih =>
    unfold freshBeats
    dsimp only
    cases b.psn
    · exact ih h
    · exact ih h.drawBeat

protected theorem Keeps.finishWrite {r : Ring} {c : Cmd} (h : Keeps s₀ s) : Keeps s₀ (finishWrite r c s) := by
  unfold finishWrite
  extract_lets o
  exact h.pushEntry

protected theorem Keeps.settleWrites {cids : List Nat} (h : Keeps s₀ s) : Keeps s₀ (settleWrites cids s) := by
  unfold settleWrites
  refine h.foldl (fun _ h => ?_)
  split
  · exact h
  · split
    · exact .ite h.finishWrite h
    · exact h

protected theorem Keeps.releaseImage {t : Tenant} {img : Word} (h : Keeps s₀ s) :
    Keeps s₀ (releaseImage t img s) := by
  unfold releaseImage
  split
  · exact h
  · extract_lets s1 _
    have h1 : Keeps s₀ s1 := .ite h.unmapLbas.journalAdd h
    clear_value s1
    exact h1.upd

protected theorem Keeps.refusePending {t : Tenant} {img : Word} (h : Keeps s₀ s) : Keeps s₀ (refusePending t img s) :=
  h.foldl (fun _ h => .ite h (h.foldl (fun _ h1 => .ite h1.complete h1)))

protected theorem Keeps.abandonImage {t : Tenant} {img : Word} (h : Keeps s₀ s) :
    Keeps s₀ (abandonImage t img s) := by
  have left := (h.releaseImage (t := t) (img := img)).refusePending (t := t) (img := img)
  unfold abandonImage
  dsimp only
  generalize refusePending t img (releaseImage t img s) = v at left ⊢
  split
  · exact h
  · exact left.upd

/-! ### Pair link operations -/

protected theorem Keeps.sealReport {r : Ring} {c : Cmd} {stage : Nat} {o : Outc} (h : Keeps s₀ s) :
    Keeps s₀ (sealReport r c stage o s) := by
  unfold sealReport
  extract_lets more
  exact .ite h h.modCmd.pushEntry

protected theorem Keeps.pairOutcome {own : Option (Ring × Nat)} {o : Outc} (h : Keeps s₀ s) :
    Keeps s₀ (pairOutcome own o s) := by
  unfold pairOutcome
  split
  · exact h
  · split
    · exact h
    · exact .ite h.sealReport h.pushEntry

protected theorem Keeps.pairEmit {e : Peer} {ty : Nat} {psn : Word} {payload : List Byte} (h : Keeps s₀ s) :
    Keeps s₀ (pairEmit e ty psn payload s) := by
  unfold pairEmit
  extract_lets p session
  exact h.onPeer.emit

protected theorem Keeps.pairSend {e : Peer} {ty : Nat} {payload : List Byte} (h : Keeps s₀ s) :
    Keeps s₀ (pairSend e ty payload s) :=
  h.pairEmit

protected theorem Keeps.pairQueue {e : Peer} {ty : Nat} {payload : List Byte} (h : Keeps s₀ s) :
    Keeps s₀ (pairQueue e ty payload s) :=
  h.onPeer

protected theorem Keeps.pairRelease {e : Peer} {k : PairPkt} {before after : List PairPkt} (h : Keeps s₀ s) :
    Keeps s₀ (pairRelease e k before after s) := by
  unfold pairRelease
  extract_lets p k1
  exact h.onPeer.pairEmit

protected theorem Keeps.sendAck {e : Peer} (h : Keeps s₀ s) : Keeps s₀ (sendAck e s) := by
  unfold sendAck
  exact (h.onPeer fun _ => Nat.zero_le _).pairSend

protected theorem Keeps.queueData {e : Peer} {t : Transfer} {runs_ : List (Nat × Nat)} (h : Keeps s₀ s) :
    Keeps s₀ (queueData e t runs_ s) :=
  h.foldl (fun _ h => h.pairQueue)

protected theorem Keeps.modXfer {e : Peer} {xfer : Word} {sending : Bool} {f : Transfer → Transfer}
    (h : Keeps s₀ s) : Keeps s₀ (modXfer e xfer sending f s) :=
  h.onPeer

protected theorem Keeps.dropXfer {e : Peer} {xfer : Word} {sending : Bool} (h : Keeps s₀ s) :
    Keeps s₀ (dropXfer e xfer sending s) :=
  h.onPeer

protected theorem Keeps.endXfer {e : Peer} {t : Transfer} {reason : Nat} (h : Keeps s₀ s) :
    Keeps s₀ (endXfer e t reason s) :=
  (Keeps.ite h h.abortTap).dropXfer.pairOutcome

protected theorem Keeps.refuseXfer {e : Peer} {t : Transfer} {reason : Nat} (h : Keeps s₀ s) :
    Keeps s₀ (refuseXfer e t reason s) :=
  (Keeps.ite h.pairQueue h).endXfer

protected theorem Keeps.endXfers {e : Peer} {reason : Nat} {p : Transfer → Bool} (h : Keeps s₀ s) :
    Keeps s₀ (endXfers e reason p s) :=
  h.foldl (fun _ h => h.endXfer)

protected theorem Keeps.dropCmdXfers {cid : Nat} (h : Keeps s₀ s) : Keeps s₀ (dropCmdXfers cid s) :=
  h.foldl (fun _ h => h.foldl (fun _ h1 => h1.refuseXfer))

protected theorem Keeps.openXfer {e : Peer} {t : Transfer} (h : Keeps s₀ s) : Keeps s₀ (openXfer e t s) := by
  unfold openXfer
  extract_lets s1 s2
  have h1 : Keeps s₀ s1 := h.modXfer
  have h2 : Keeps s₀ s2 := by
    unfold s2
    split
    · exact h1.effectOf
    · exact h1
  clear_value s1 s2
  exact .ite h2.pairQueue h2.pairQueue

protected theorem Keeps.beginXfer {e : Peer} {t : Transfer} (h : Keeps s₀ s) : Keeps s₀ (beginXfer e t s) := by
  unfold beginXfer
  extract_lets p t1 s1
  have h1 : Keeps s₀ s1 := h.onPeer
  clear_value s1
  split
  · exact h1.openXfer
  · exact h1
  · exact h1
  · exact h.pairOutcome

protected theorem Keeps.beginPairing {e : Peer} {r : Ring} {cid : Nat} {i : Image} (h : Keeps s₀ s) :
    Keeps s₀ (beginPairing e r cid i s) := by
  unfold beginPairing
  extract_lets secs
  exact .ite h.pairOutcome h.beginXfer

protected theorem Keeps.releaseCopy {e : Peer} {step : Dword} (h : Keeps s₀ s) : Keeps s₀ (releaseCopy e step s) :=
  h.upd

protected theorem Keeps.trimCopies {e : Peer} (h : Keeps s₀ s) : Keeps s₀ (trimCopies e s) := by
  unfold trimCopies
  extract_lets cs
  refine .ite h ?_
  split
  · exact h.releaseCopy
  · exact h

protected theorem Keeps.holdCopy {e : Peer} {t : Transfer} {secs : List Sec} (h : Keeps s₀ s) :
    Keeps s₀ (holdCopy e t secs s) := by
  unfold holdCopy
  extract_lets p s0 c add _
  have h1 : Keeps s₀ s0 := h.releaseCopy
  clear_value s0
  exact h1.upd.trimCopies

protected theorem Keeps.drawNonce (h : Keeps s₀ s) : Keeps s₀ (drawNonce s).2 := by
  unfold drawNonce
  split
  next e =>
    have h1 := h.draw.pair e
    exact h1

protected theorem Keeps.endSignals {e : Peer} (h : Keeps s₀ s) : Keeps s₀ (endSignals e s) := h.onPeer

protected theorem Keeps.openSession {e : Peer} (h : Keeps s₀ s) : Keeps s₀ (openSession e s) :=
  h.drawNonce.onPeer fun _ => Nat.zero_le _

protected theorem Keeps.refreshSessions (h : Keeps s₀ s) : Keeps s₀ (refreshSessions s) := by
  unfold refreshSessions
  refine h.foldl (fun _ h1 => ?_)
  dsimp only
  split
  · split
    · exact h1.openSession
    · exact h1
  · split
    · exact h1
    · exact (h1.onPeer fun _ => Nat.zero_le _).endSignals.endXfers

protected theorem Keeps.reconcile {e : Peer} {list : List HoldRec} (h : Keeps s₀ s) :
    Keeps s₀ (reconcile e list s) := by
  unfold reconcile
  extract_lets p t lost s1
  have h1 : Keeps s₀ s1 := h.foldl (fun _ h => .ite h.upd h.modImage.raiseEvent)
  clear_value s1
  refine .ite h ?_
  refine h1.foldl (fun _ h1 => ?_)
  split
  · exact .ite h1 h1.onPeer
  · exact h1.upd

protected theorem Keeps.becomeUp {e : Peer} {list : List HoldRec} (h : Keeps s₀ s) :
    Keeps s₀ (becomeUp e list s) := by
  unfold becomeUp
  extract_lets s1
  have h1 : Keeps s₀ s1 := h.onPeer.reconcile
  clear_value s1
  exact h1.foldl (fun _ h1 => h1.openXfer)

protected theorem Keeps.peerReopened {e : Peer} (h : Keeps s₀ s) : Keeps s₀ (peerReopened e s) :=
  h.endXfers.endSignals.onPeer fun _ => Nat.zero_le _

protected theorem Keeps.loseSession {e : Peer} (h : Keeps s₀ s) : Keeps s₀ (loseSession e s) :=
  .ite h.onPeer.raiseEvent h

protected theorem Keeps.cumAcked {e : Peer} {cum : Word} (h : Keeps s₀ s) : Keeps s₀ (cumAcked e cum s) := h.onPeer

protected theorem Keeps.countDrop {e : Option Peer} (h : Keeps s₀ s) : Keeps s₀ (countDrop e s) := by
  unfold countDrop
  split
  · exact h.onPeer
  · exact h.upd

protected theorem Keeps.pairAccept {x : PairRx} {f : Nat × List Byte} (h : Keeps s₀ s) :
    Keeps s₀ (pairAccept x f s).2 := by
  unfold pairAccept
  extract_lets hello e
  split
  · exact h
  · clear_value e
    split
    · exact h.countDrop (e := none)
    next i =>
      extract_lets p s1
      have h1 : Keeps s₀ s1 := h.wakeNap.onPeer
      clear_value s1
      split
      · exact h.countDrop (e := some i)
      · exact .ite h1 h1.cumAcked

protected theorem Keeps.rxDone {e : Peer} {t : Transfer} (h : Keeps s₀ s) : Keeps s₀ (rxDone e t s) := by
  unfold rxDone
  extract_lets secs s1 s2 lba _
  have h1 : Keeps s₀ s1 := h.dropXfer.snoopEnd.pairQueue
  have h2 : Keeps s₀ s2 := by
    unfold s2
    split
    · exact h1.laneCount
    · exact h1
  clear_value s1 s2
  split
  · exact h2.holdCopy
  · split
    · exact h2
    · extract_lets tn i s3
      have h3 : Keeps s₀ s3 := h2.upd.journalAdd
      clear_value s3
      exact .ite (.ite h3.pushEntry h3.complete) h2.modImage.modCmd

protected theorem Keeps.rxSettle {e : Peer} {xfer : Word} (h : Keeps s₀ s) : Keeps s₀ (rxSettle e xfer s) := by
  unfold rxSettle
  split
  · exact h
  · split
    · exact h.refuseXfer
    · exact h.rxDone
    · exact h.modXfer.foldl (fun _ h => h.pairQueue)

protected theorem Keeps.fetchAccept {e : Peer} {t : Transfer} (h : Keeps s₀ s) : Keeps s₀ (fetchAccept e t s) := by
  unfold fetchAccept
  split
  · exact h
  · split
    · exact h
    · exact .ite h.dropXfer.pairQueue.pushEntry (.ite h.delayCmd h.modCmd.modXfer.pairQueue)

protected theorem Keeps.settleFetches (h : Keeps s₀ s) : Keeps s₀ (settleFetches s) :=
  h.foldl (fun _ h => h.foldl (fun _ h1 => h1.fetchAccept))

/-! ### Vault commands -/

protected theorem Keeps.stagingReads {k : Key} {l : List Nat} (h : Keeps s₀ s) :
    Keeps s₀ (stagingReads k l s).2.2 := by
  induction l generalizing s with
  | nil => exact h
  | cons a l ih =>
    unfold stagingReads
    dsimp only
    split
    · cases (s.beat (a / 64)).psn
      · exact ih h
      · exact ih h.drawBeat
    · exact ih h.keyFlt.drawBeat

protected theorem Keeps.writeBeats {r : Ring} {c : Cmd} (h : Keeps s₀ s) : Keeps s₀ (writeBeats r c s).2.2 := by
  unfold writeBeats
  extract_lets plan gs
  refine .iteThird ?_ h.stagingReads
  split
  next e =>
    have h1 := h.beatsOf.pair e
    exact h1.snoopRun

protected theorem Keeps.stageWrite {r : Ring} {cid : Nat} (h : Keeps s₀ s) : Keeps s₀ (stageWrite r cid s).2 := by
  unfold stageWrite
  split
  · exact h
  · extract_lets n staged0 room
    split
    next e =>
      have h1 := h.writeBeats.triple e
      extract_lets secs bad staged1 _ s2
      have h2 : Keeps s₀ s2 := h1.upd.modCmd
      clear_value s2
      refine .iteSnd h.delayCmd ?_
      split
      · exact h2
      · exact .iteSnd h2.leaveHead h2.pushEntry

protected theorem Keeps.stageReady {r : Ring} (h : Keeps s₀ s) : Keeps s₀ (stageReady r s) := by
  unfold stageReady
  refine h.foldl (fun _ h => ?_)
  split
  · exact .ite h.stageWrite h
  · exact h

protected theorem Keeps.stageWaiting (h : Keeps s₀ s) : Keeps s₀ (stageWaiting s) := h.foldl (fun _ h => h.stageReady)

protected theorem Keeps.writeAct {r : Ring} {c : Cmd} (h : Keeps s₀ s) : Keeps s₀ (writeAct r c s) := by
  unfold writeAct
  split
  · exact h.pushEntry
  · split
    next e =>
      have h1 := (Keeps.iteThird h.gather h).triple e
      exact .ite (.ite h1.leaveHead h1.stageWrite.stageReady) (.ite h1.leaveHead h1)

protected theorem Keeps.execWriteSectors {r : Ring} (h : Keeps s₀ s) : Completes s₀ (execWriteSectors r s) :=
  (h.headStep (fun _ h => h.writeAct)).settleFlushes.completes

protected theorem Keeps.stagingWrites {k : Key} {addr : Nat} {beats : List Beat} {b : Bad} (h : Keeps s₀ s) :
    Keeps s₀ (stagingWrites k addr beats b s).2 := by
  unfold stagingWrites
  refine h.foldlPair (fun _ h => ?_)
  extract_lets a
  exact .iteSnd h.storeBeat h.keyFlt

protected theorem Keeps.readMove {r : Ring} {c : Cmd} (h : Keeps s₀ s) : Keeps s₀ (readMove r c s) := by
  unfold readMove
  extract_lets lba n k secs medium fromVault srcBad
  split
  next e =>
    have h1 := h.freshBeats.pair e
    dsimp only
    exact (Keeps.ite (.iteSnd h1.hostWrites h1.stagingWrites) (Keeps.iteSnd h1.hostWrites
        h1.stagingWrites).snoopRun).pushEntry

protected theorem Keeps.readAct {r : Ring} {c : Cmd} (h : Keeps s₀ s) : Keeps s₀ (readAct r c s) := by
  unfold readAct
  extract_lets len
  split
  · exact h.pushEntry
  · refine .ite h ?_
    refine .ite (h.withWrites (fun h => h.readMove)) ?_
    split
    · exact h.copySome.delayCmd
    next e =>
      have h1 := h.copyPages e
      exact h1.readMove

protected theorem Keeps.execReadSectors {r : Ring} (h : Keeps s₀ s) : Completes s₀ (execReadSectors r s) :=
  (h.headStep (fun _ h => h.readAct)).completes

protected theorem Keeps.creditCmd {lba : Nat} {failed corrected : Bool} {cid : Nat} (h : Keeps s₀ s) :
    Keeps s₀ (creditCmd lba failed corrected cid s) := by
  unfold creditCmd
  split
  · exact .ite h h.upd
  · exact h.modCmd

protected theorem Keeps.programOne {g : Staged} {res : ProgRes} (h : Keeps s₀ s) : Keeps s₀ (programOne g res s) := by
  unfold programOne
  extract_lets ok s1 _ s2
  have h1 : Keeps s₀ s1 := h.retire
  have h2 : Keeps s₀ s2 := by
    unfold s2
    split
    · exact .ite h1.putVault.journalSec h1
    · exact .ite h1.journalAdd h1.modImage
    · exact h1.upd
  clear_value s1 s2
  exact h2.foldl (fun _ h2 => h2.creditCmd)

protected theorem Keeps.programUnit {u : Nat} {res : List ProgRes} (h : Keeps s₀ s) :
    Keeps s₀ (programUnit u res s) := by
  unfold programUnit
  extract_lets gs _ s1 s2 lost s3
  have h1 : Keeps s₀ s1 := h.upd
  have h2 : Keeps s₀ s2 := h1.foldl (fun _ h1 => h1.programOne)
  have h3 : Keeps s₀ s3 := by
    unfold s3
    refine h2.foldl (fun _ h2 => ?_)
    extract_lets mine
    exact .ite h2 h2.deferSectors
  clear_value s1 s2 s3
  exact h3.settleWrites.settleFlushes.stageWaiting

protected theorem Keeps.execProgramUnitStart {src : Source} (h : Keeps s₀ s) :
    Completes s₀ (execProgramUnitStart src s) := by
  unfold execProgramUnitStart
  extract_lets u _ s1
  have h1 : Keeps s₀ s1 := h.upd
  clear_value s1
  exact (Keeps.ite h (.ite h1.programUnit h1)).completes

protected theorem Keeps.execSectorProgrammed {u : Nat} {res : List ProgRes} (h : Keeps s₀ s) :
    Completes s₀ (execSectorProgrammed u res s) :=
  (Keeps.ite h.programUnit h).completes

protected theorem Keeps.discardAll (h : Keeps s₀ s) : Keeps s₀ (discardAll s) := by
  unfold discardAll
  extract_lets s1 _ s2
  have h1 : Keeps s₀ s1 := h.foldl (fun _ h => h.refusePending)
  have h2 : Keeps s₀ s2 := h1.upd
  clear_value s1 s2
  exact h2.foldl (fun _ h2 => h2.foldl (fun _ h3 => h3.complete))

protected theorem Keeps.sanitiseAct {r : Ring} {c : Cmd} (h : Keeps s₀ s) : Keeps s₀ (sanitiseAct r c s) := by
  have gone := (h.effectOf (r := r) (cid := c.cid)).discardAll
  unfold sanitiseAct
  dsimp only
  generalize discardAll (effectOf r c.cid s) = v at gone ⊢
  split
  · exact h.pushEntry
  · refine Keeps.settleFlushes ?_
    split
    · refine Keeps.leaveHead ?_
      exact gone.upd
    · refine Keeps.busyOn (Keeps.leaveHead ?_)
      exact gone.upd

protected theorem Keeps.execSanitise {r : Ring} (h : Keeps s₀ s) : Completes s₀ (execSanitise r s) :=
  (h.headStep (fun _ h => h.sanitiseAct)).completes

protected theorem Keeps.formatAct {r : Ring} {c : Cmd} (h : Keeps s₀ s) : Keeps s₀ (formatAct r c s) := by
  unfold formatAct
  extract_lets t whole op _
  exact .ite h.complete (.ite h.complete (.ite h.complete h.upd.effectOf.leaveHead))

protected theorem Keeps.execFormat {r : Ring} (h : Keeps s₀ s) : Completes s₀ (execFormat r s) :=
  (h.headStep (fun _ h => h.formatAct)).completes

protected theorem Keeps.formatImages (h : Keeps s₀ s) : Keeps s₀ (formatImages s) := by
  unfold formatImages
  extract_lets whole t
  exact h.foldl (fun _ h => .ite h.releaseImage h.abandonImage)

protected theorem Keeps.serveStall {r : Ring} (h : Keeps s₀ s) : Keeps s₀ (serveStall r s) := h.onRing

protected theorem Keeps.eraseBase {kind : BitVec 2} {lba : Nat} (h : Keeps s₀ s) : Keeps s₀ (eraseBase kind lba s) :=
  .ite h.upd h

protected theorem Keeps.execVaultOpUnitDone {retired : Nat} (h : Keeps s₀ s) :
    Completes s₀ (execVaultOpUnitDone retired s) := by
  unfold execVaultOpUnitDone
  extract_lets op s0 base lba s1 _ s2
  have h1 : Keeps s₀ s0 := .ite h.formatImages h
  have h2 : Keeps s₀ s1 := h1.unmapLbas.retire.eraseBase.journalAdd
  have h3 : Keeps s₀ s2 := h2.upd
  clear_value s0 s1 s2
  refine Keeps.completes ?_
  refine .ite h ?_
  split
  · exact h3.serveStall
  · exact h3

protected theorem Keeps.execVaultOpDone (h : Keeps s₀ s) : Completes s₀ (execVaultOpDone s) := by
  unfold execVaultOpDone
  extract_lets op st _ s1 s2
  have h1 : Keeps s₀ s1 := h.upd
  have h2 : Keeps s₀ s2 := .ite h1.busyOff h1
  clear_value s1 s2
  refine Keeps.completes ?_
  refine .ite h ?_
  split
  · split
    · exact .ite h2.complete h2.complete
    · exact h2
  · exact h2.raiseEvent

protected theorem Keeps.execBackgroundErase {blocks : Nat} (h : Keeps s₀ s) :
    Completes s₀ (execBackgroundErase blocks s) :=
  (Keeps.ite h h.upd).completes

protected theorem Keeps.execPatrolScrub {a : ScrubAt} {res : ScrubRes} (h : Keeps s₀ s) :
    Completes s₀ (execPatrolScrub a res s) := by
  unfold execPatrolScrub
  refine Keeps.completes ?_
  refine .ite h ?_
  split
  · extract_lets _ s1
    have h1 : Keeps s₀ s1 := h.upd
    clear_value s1
    split
    · exact h.upd
    · exact h.upd
    · exact (Keeps.ite h1.markBad h1).raiseEvent

protected theorem Keeps.execVaultReadDone {lba : Nat} {res : ReadRes} (h : Keeps s₀ s) :
    Completes s₀ (execVaultReadDone lba res s) := by
  unfold execVaultReadDone
  refine Keeps.completes ?_
  refine .ite h ?_
  split
  · exact h
  · exact h.upd
  · exact h.upd

/-! ### Power and resets -/

protected theorem Keeps.askStep (h : Keeps s₀ s) : Keeps s₀ (askStep s) := by
  unfold askStep
  extract_lets w _
  exact h.upd

protected theorem Keeps.zeroCrag {n : Crag} (h : Keeps s₀ s) : Keeps s₀ (zeroCrag n s) := h.onCrag

protected theorem Keeps.zeroLane {l : Lane} (h : Keeps s₀ s) : Keeps s₀ (zeroLane l s) := h.onLane

protected theorem Keeps.zeroKey {k : KSlot} (h : Keeps s₀ s) : Keeps s₀ (zeroKey k s) := h.onKey

protected theorem Keeps.zeroClaims (h : Keeps s₀ s) : Keeps s₀ (zeroClaims s) := by
  unfold zeroClaims
  extract_lets s1
  have h1 : Keeps s₀ s1 := h.foldl (fun _ h => h.zeroCrag)
  clear_value s1
  exact h1.foldl (fun _ h1 => h1.zeroLane)

protected theorem Keeps.zeroKeys (h : Keeps s₀ s) : Keeps s₀ (zeroKeys s) := h.foldl (fun _ h => h.zeroKey)

protected theorem Keeps.zeroFail {u : KeepUnit} (h : Keeps s₀ s) : Keeps s₀ (zeroFail u s) := by
  unfold zeroFail
  extract_lets _ s1 s2
  have h1 : Keeps s₀ s1 := h.upd
  have h2 : Keeps s₀ s2 := by
    unfold s2
    split
    · exact h1.onCrag
    · exact h1.onLane
    · exact h1
  clear_value s1 s2
  exact h2.raiseEvent.raiseEvent.refreshView

protected theorem Keeps.writeRecord {x : Record} (h : Keeps s₀ s) : Keeps s₀ (writeRecord x s) := by
  unfold writeRecord
  extract_lets n seq _ s1
  have h1 : Keeps s₀ s1 := h.upd
  clear_value s1
  exact .ite h1.raiseEvent h1

protected theorem Keeps.commitRecord (h : Keeps s₀ s) : Keeps s₀ (commitRecord s) := h.writeRecord

protected theorem Keeps.finishPrograms (h : Keeps s₀ s) : Keeps s₀ (finishPrograms s) :=
  h.foldl (fun _ h => .ite h.programUnit h)

protected theorem Keeps.beginHoldUp {cause : BitVec 4} (h : Keeps s₀ s) : Keeps s₀ (beginHoldUp cause s) := by
  unfold beginHoldUp
  split
  · exact h
  · exact h.clearRdy.busyOn

/-! ### Bring-up operations -/

protected theorem Keeps.fencePower (h : Keeps s₀ s) : Keeps s₀ (fencePower s) :=
  h.foldl (fun _ h => .ite h.onCrag (.ite h.onLane h))

protected theorem Keeps.freshState {ph : Phase} {keys : Bool} : Keeps s₀ (freshState ph keys s) := by
  unfold freshState
  refine Keeps.fencePower ⟨⟨fun _ => rfl, fun _ k => absurd k Bool.false_ne_true⟩, fun _ => rfl, fun e => ?_⟩
  exact (congrArg PeerSt.unacked (Vector.getElem_replicate e.isLt)).trans_le (Nat.zero_le _)

protected theorem Keeps.noteLoss {cause : Nat} (h : Keeps s₀ s) : Keeps s₀ (noteLoss cause s) := .ite h.upd h

protected theorem Keeps.noteCause {cause : BitVec 4} {arg : Word} {rechoose : Bool} (h : Keeps s₀ s) :
    Keeps s₀ (noteCause cause arg rechoose s) := by
  unfold noteCause
  extract_lets b
  exact h.upd

protected theorem Keeps.tableReset {ph : Phase} {cause : BitVec 4} {arg : Word} {rechoose keys : Bool} {loss : Nat}
    (h : Keeps s₀ s) : Keeps s₀ (tableReset ph cause arg rechoose keys loss s) := by
  unfold tableReset
  extract_lets s1 s2 s3
  have h1 : Keeps s₀ s1 := h.finishPrograms.commitTail
  have h2 : Keeps s₀ s2 := (Keeps.ite h1.commitRecord h1).zeroClaims
  have h3 : Keeps s₀ s3 := h2.busyOn.noteCause.noteLoss
  clear_value s1 s2 s3
  exact Keeps.freshState

protected theorem Keeps.applyRecord {x : Record} (h : Keeps s₀ s) : Keeps s₀ (applyRecord x s) := by
  unfold applyRecord
  refine h.upd (ha := fun e => ?_)
  exact (congrArg PeerSt.unacked (Vector.getElem_ofFn e.isLt)).le

protected theorem Keeps.applySettings {b : BootIn} (h : Keeps s₀ s) : Keeps s₀ (applySettings b s) := by
  unfold applySettings
  dsimp only
  refine .ite h.applyRecord.commitRecord.upd ?_
  split
  · exact h.applyRecord.upd.raiseEvent
  · exact h.applyRecord.upd

protected theorem Keeps.rebuildVault {lost : Bool} (h : Keeps s₀ s) : Keeps s₀ (rebuildVault lost s) :=
  .ite h.upd h.upd

protected theorem Keeps.reportLoss (h : Keeps s₀ s) : Keeps s₀ (reportLoss s) := by
  unfold reportLoss
  dsimp only
  refine Keeps.commitTail ?_
  generalize eq : List.foldl _ s (List.finRange 16) = v
  have told : Keeps s₀ v := by
    rw [← eq]
    exact h.foldl fun _ h => h.deferSectors.deferSectors
  exact told.upd

protected theorem Keeps.trainChannels {fail : Byte} (h : Keeps s₀ s) : Keeps s₀ (trainChannels fail s) := by
  unfold trainChannels
  extract_lets lost _ _ s1
  have h1 : Keeps s₀ s1 := h.upd
  clear_value s1
  exact h1.foldl (fun _ h1 => .ite h1.raiseEvent h1)

protected theorem Keeps.checkBank {mJ : Nat} (h : Keeps s₀ s) : Keeps s₀ (checkBank mJ s) :=
  .ite h.upd h.upd.raiseEvent

protected theorem Keeps.resumeOp (h : Keeps s₀ s) : Keeps s₀ (resumeOp s) := by
  unfold resumeOp
  extract_lets _ _ s1
  have h1 : Keeps s₀ s1 := h.upd
  clear_value s1
  exact .ite (.ite h1.busyOn h1) h

protected theorem Keeps.enterRecovery (h : Keeps s₀ s)
    (off : (s₀.pw.rdy = true → s₀.pw.phase = .ready) → s.pw.rdy = false) : Keeps s₀ (enterRecovery s) :=
        h.enterPhase off

protected theorem Keeps.startWatchdog (h : Keeps s₀ s) : Keeps s₀ (startWatchdog s) := by
  unfold startWatchdog
  split
  next e =>
    have h1 := h.draw.pair e
    split
    next e =>
      have h2 := h1.draw.pair e
      exact h2.upd

protected theorem Keeps.bringUp {b : BootIn} (h : Keeps s₀ s)
    (off : (s₀.pw.rdy = true → s₀.pw.phase = .ready) → s.pw.rdy = false) : Keeps s₀ (bringUp b s) := by
  unfold bringUp
  split
  extract_lets _ chosen _ _ s1 s2 s3 s4 s5 s6
  have started : Keeps s₀ s1 := (h.enterPhase off).startWatchdog
  have off1 : (s₀.pw.rdy = true → s₀.pw.phase = .ready) → s1.pw.rdy = false := off
  have h2 : Keeps s1 s2 := (Keeps.refl s1).raiseEvent
  have h3 : Keeps s1 s3 := .ite h2.raiseEvent h2
  have h4 : Keeps s1 s4 := h3.trainChannels.checkBank
  have h5 : Keeps s1 s5 := h4.rebuildVault.reportLoss.applySettings
  have h6 : Keeps s1 s6 := h5.reportLink.recap.refreshView.askStep
  clear_value s1 s2 s3 s4 s5 s6
  exact .ite ((started.trans h6).enterRecovery fun k => h6.unready (off1 k)) (started.trans h6)

/-! ### Bring-up -/

protected theorem Keeps.execAuxPowerUp {maddr : BitVec 3} (h : Keeps s₀ s) :
    Completes s₀ (execAuxPowerUp maddr s) := by
  unfold execAuxPowerUp
  refine Keeps.completes ?_
  split
  · exact h
  next idle =>
    refine (h.enterPhase (h.off fun ready => idle (.inl ?_))).emit
    rw [State.live, ready]

protected theorem Keeps.execResetRelease {b : BootIn} (h : Keeps s₀ s) : Completes s₀ (execResetRelease b s) := by
  unfold execResetRelease
  extract_lets may
  refine Keeps.completes ?_
  by_cases shut : may = false
  · rw [if_pos shut]
    exact h
  · rw [if_neg shut]
    have off : (s₀.pw.rdy = true → s₀.pw.phase = .ready) → s.pw.rdy = false :=
      h.off fun ready => shut (by simp [may, ready])
    split
    · exact h.enterPhase off
    · exact h.bringUp off

/-- RDY is set as the running phase begins. -/
protected theorem Keeps.execRdy (h : Keeps s₀ s) : StaysSafe s₀ (execRdy s) := by
  have running {v t : State} (k : Keeps v t) (hv : v.pw.phase = .ready) (hm : v.st.mem = s.st.mem) : Safe s₀ t :=
    ⟨fun ok => k.mem (by rw [MemoryOk, hm]; exact h.mem ok), fun _ => k.rdy fun _ => hv⟩
  unfold execRdy
  refine Safe.completes ?_
  split
  · exact h.toSafe
  · dsimp only
    split
    · exact running (Keeps.refl _).resumeOp.busyOff rfl rfl
    · exact running (Keeps.refl _).resumeOp rfl rfl

protected theorem Keeps.assertPin {p : PerstPin} (h : Keeps s₀ s) : Keeps s₀ (assertPin p s) := by
  unfold assertPin
  split
  · exact h.upd
  · exact h.upd

protected theorem Keeps.execPerstAssert {p : PerstPin} (h : Keeps s₀ s) : Completes s₀ (execPerstAssert p s) :=
  (Keeps.ite h.tableReset h).assertPin.completes

protected theorem Keeps.execHotReset (h : Keeps s₀ s) : Completes s₀ (execHotReset s) :=
  (Keeps.ite h.tableReset h).completes

protected theorem Keeps.execFlr (h : Keeps s₀ s) : Completes s₀ (execFlr s) := (Keeps.ite h.tableReset h).completes

protected theorem Keeps.execMainPowerFail (h : Keeps s₀ s) : Completes s₀ (execMainPowerFail s) := by
  unfold execMainPowerFail
  extract_lets _ s1 _
  have h1 : Keeps s₀ s1 := h.upd
  clear_value s1
  refine Keeps.completes ?_
  split
  · exact h1
  · exact h1
  · exact h1
  · exact h1
  · exact h1.upd.beginHoldUp

protected theorem Keeps.execMainPowerReturn (h : Keeps s₀ s) : Completes s₀ (execMainPowerReturn s) := by
  unfold execMainPowerReturn
  refine Keeps.completes ?_
  by_cases down : s.pw.phase = .off
  · exact h.enterPhase (h.off (by rw [down]; decide))
  · exact h.upd (hp := if_neg down)

protected theorem Keeps.execSurpriseRemoval (h : Keeps s₀ s) : Completes s₀ (execSurpriseRemoval s) :=
  (Keeps.ite h.emit.beginHoldUp h).completes

protected theorem Keeps.execHoldUpSequence {zeroVerified journalKept : Bool} (h : Keeps s₀ s) :
    Completes s₀ (execHoldUpSequence zeroVerified journalKept s) := by
  unfold execHoldUpSequence
  extract_lets s1 s2 s3 _ s4 s5 s6 _
  have h1 : Keeps s₀ s1 := h.finishPrograms
  have h2 : Keeps s₀ s2 := .ite h1.commitRecord h1
  have h3 : Keeps s₀ s3 := h2.zeroClaims.zeroKeys.noteLoss
  have h4 : Keeps s₀ s4 := h3.upd
  have h5 : Keeps s₀ s5 := .ite h4.commitTail h4
  have h6 : Keeps s₀ s6 := Keeps.freshState
  clear_value s1 s2 s3 s4 s5 s6
  exact (Keeps.ite h (.ite h6.upd h6)).completes

protected theorem Keeps.execPmeTurnOff (h : Keeps s₀ s) : Completes s₀ (execPmeTurnOff s) :=
  (Keeps.ite h.tableReset.emit h).completes

protected theorem Keeps.execTrialConfirm (h : Keeps s₀ s) : Completes s₀ (execTrialConfirm s) := by
  unfold execTrialConfirm
  refine Keeps.completes ?_
  split
  · exact h
  · extract_lets s1 b old new _
    have h1 : Keeps s₀ s1 := h.advanceTo
    clear_value s1
    exact .ite h h1.upd

protected theorem Keeps.execFactoryResetCommand {v : Word} (h : Keeps s₀ s) :
    Completes s₀ (execFactoryResetCommand v s) := by
  unfold execFactoryResetCommand
  extract_lets _ s0 _ s1 _
  have h1 : Keeps s₀ s0 := h.writeRecord
  have h2 : Keeps s₀ s1 := h1.upd.tableReset
  clear_value s0 s1
  exact (Keeps.ite h (.ite h.upd h2.upd.emit)).completes

protected theorem Keeps.execRetainedCommit (h : Keeps s₀ s) : Completes s₀ (execRetainedCommit s) := by
  unfold execRetainedCommit
  refine Keeps.completes ?_
  refine .ite h ?_
  refine Keeps.commitRecord ?_
  split
  · exact h.advanceTo
  · exact h

end

end Sys2Proof.Proofs

/-! What every step keeps: the array, units, configuration and snapshots. -/

namespace Sys2Proof.Proofs

open Sys2Proof Sys2Proof.Machine Sys2Proof.Safety Sys2Proof.Laws

section

-- Hundreds of short rules: proved in turn, they never wait for one another in threads of their own.
set_option Elab.async false

variable {s₀ s t u : State}

/-! ### Wheels and the Orchard -/

protected theorem Keeps.noteGot {w : Wheel} {first : Nat} {gs : List Got} (h : Keeps s₀ s) :
    Keeps s₀ (noteGot w first gs s) := by
  unfold noteGot
  refine h.foldl (fun _ h => ?_)
  split
  · exact h.modCmd
  · exact h

protected theorem Keeps.enterBeats {w : Wheel} {first : Nat} {bs : List Beat} (h : Keeps s₀ s) :
    Keeps s₀ (enterBeats w first bs s) :=
  h.onWheel

protected theorem Keeps.enterGot {w : Wheel} {first : Nat} {gs : List Got} (h : Keeps s₀ s) :
    Keeps s₀ (enterGot w first gs s) := by
  unfold enterGot
  split
  next e =>
    have h1 := h.noteGot.beatsOf.pair e
    exact h1.enterBeats

protected theorem Keeps.askBeats {w : Wheel} {n : Nat} (h : Keeps s₀ s) : Keeps s₀ (askBeats w n s) := h.onWheel

protected theorem Keeps.endLayer {w : Wheel} (h : Keeps s₀ s) : Keeps s₀ (endLayer w s) := by
  unfold endLayer
  extract_lets x taken
  exact (Keeps.ite h.onCrag h).endStream

protected theorem Keeps.deliverOne {w : Wheel} {st : Strm} {b : Beat} {s0 : State} (h : Keeps s₀ s0) :
    Keeps s₀ (deliverOne w st b s0) := by
  unfold deliverOne
  extract_lets s x s1 s2 s3
  have h1 : Keeps s₀ s := h.wake
  have h2 : Keeps s₀ s1 := h1.foldl (fun _ h1 => h1.snoopFeed)
  have h3 : Keeps s₀ s2 := h2.onWheel
  have h4 : Keeps s₀ s3 := h3.onCrag
  clear_value s s1 s2 s3
  exact .ite h4.endLayer h4

protected theorem Keeps.deliverNext {w : Wheel} (h : Keeps s₀ s) : Keeps s₀ (deliverNext w s).2 := by
  unfold deliverNext
  extract_lets x
  split
  · exact h
  · refine .iteSnd h ?_
    refine .iteSnd h.endLayer ?_
    split
    · exact h
    · exact .iteSnd h.deliverOne h

protected theorem Keeps.deliver_ {w : Wheel} {n : Nat} {any : Bool} (h : Keeps s₀ s) :
    Keeps s₀ (deliver_ w n any s).2 := by
  induction n generalizing s any with
  | zero => exact h
  | succ n ih =>
    unfold deliver_
    split
    next e => exact ih (h.deliverNext.pair e)
    next e => exact h.deliverNext.pair e

protected theorem Keeps.produceOne {w : Wheel} (h : Keeps s₀ s) : Keeps s₀ (produceOne w s).2 := by
  unfold produceOne
  extract_lets x q c
  refine .iteSnd h ?_
  split
  · exact .iteSnd h.onCrag (.iteSnd h.onCrag.onWheel h.onCrag)
  · exact .iteSnd h.onCrag.onWheel h

protected theorem Keeps.beatGone {w : Wheel} (h : Keeps s₀ s) : Keeps s₀ (beatGone w s) := h.onWheel

protected theorem Keeps.dropDenial {k : Key} {write : Bool} {a : Nat} {last : Bool} (h : Keeps s₀ s) :
    Keeps s₀ (dropDenial k write a last s) :=
  .ite h.upd h

protected theorem Keeps.drainOne {w : Wheel} (h : Keeps s₀ s) : Keeps s₀ (drainOne w s).2 := by
  unfold drainOne
  extract_lets x
  refine .iteSnd h.endStream ?_
  split
  · dsimp only
    refine .iteSnd h ?_
    refine .iteSnd h ?_
    refine .iteSnd ?_ ?_
    · refine .iteSnd h.keyFlt.snoopFeed.beatGone ?_
      split
      · exact h
      next e =>
        have h1 := h.copyPages e
        exact h1.storeBeat.snoopFeed.beatGone
    · split
      · exact h.emit.snoopFeed.beatGone
      · exact h.keyFlt.dropDenial.snoopFeed.beatGone
      · exact h.askTranslation
  · exact h

protected theorem Keeps.orcTouch {l : OrcLine} (h : Keeps s₀ s) : Keeps s₀ (orcTouch l s) := h.upd

protected theorem Keeps.orcInstall {k : OrcKey} {a : Nat} {bs : List Beat} (h : Keeps s₀ s) :
    Keeps s₀ (orcInstall k a bs s) := by
  unfold orcInstall
  extract_lets l mine _ s1 _
  have h1 : Keeps s₀ s1 := by
    unfold s1
    refine .ite ?_ h
    split
    · exact h.upd
    · exact h
  clear_value s1
  exact h1.upd

protected theorem Keeps.orcFill {k : OrcKey} {addr : Nat} {gs : List Got} {bs : List Beat} (h : Keeps s₀ s) :
    Keeps s₀ (orcFill k addr gs bs s) :=
  .ite h.upd (.ite h h.orcInstall)

protected theorem Keeps.fillStep {w : Wheel} (h : Keeps s₀ s) (e : fillStep w s = some t) : Keeps s₀ t := by
  unfold fillStep at e
  dsimp only at e
  split at e
  · cases e
  split at e
  · cases e
  split at e
  · split at e
    · cases e
      exact h.upd.orcTouch.askBeats.enterBeats
    · cases e
      refine Keeps.enterBeats (Keeps.askBeats ?_)
      exact .ite h.stagingReads.upd.orcFill h.stagingReads
  · split at e
    · split at e
      · cases e
      · cases e
        exact h.askTranslation
    · cases e
      exact (h.foldl fun _ h => h.keyFlt).dropDenial.askBeats.enterGot
    · split at e
      · cases e
        exact h.upd.orcTouch.askBeats.enterGot
      · split at e
        · cases e
          exact h.upd.askBeats
        · cases e

protected theorem Keeps.fillFree {w : Wheel} {n : Nat} {any : Bool} (h : Keeps s₀ s) :
    Keeps s₀ (fillFree w n any s).2 := by
  induction n generalizing s any with
  | zero => exact h
  | succ n ih =>
    unfold fillFree
    split
    next e => exact ih (h.fillStep e)
    · exact h

protected theorem Keeps.fillHost {w : Wheel} (h : Keeps s₀ s) : Keeps s₀ (fillHost w s) := by
  unfold fillHost
  extract_lets x open_
  split
  · exact h
  · extract_lets n s1 _
    have h1 : Keeps s₀ s1 := h.sendRead.askBeats
    clear_value s1
    exact .ite h1.upd h1

protected theorem Keeps.serveReader {q : Req} (h : Keeps s₀ s) : Keeps s₀ (serveReader q s) := by
  unfold serveReader
  split
  · split
    · extract_lets s1
      have h1 : Keeps s₀ s1 := h.sendNext
      clear_value s1
      split
      · exact .ite h1.modCmd h1
      · exact h1
    · exact h
  · split
    · exact h.fillHost
    · exact h

protected theorem Keeps.grantRead (h : Keeps s₀ s) : Keeps s₀ (grantRead s).2 := by
  unfold grantRead
  split
  · exact h
  · extract_lets a
    split
    · exact h
    · exact h.onArb.serveReader

protected theorem Keeps.cragCycle {k : Nat} {n : Crag} (h : Keeps s₀ s) : Keeps s₀ (cragCycle k n s).2 := by
  unfold cragCycle
  extract_lets g ins x x1
  refine .iteSnd h ?_
  split
  · exact h.onCrag

protected theorem Keeps.rowanFill {e : Eng} (h : Keeps s₀ s) : Keeps s₀ (rowanFill e s).2 := by
  unfold rowanFill
  extract_lets y
  split
  · extract_lets w x
    split
    · exact .iteSnd h.enterBeats.askBeats.onRowan h
    · exact h
  · exact h

protected theorem Keeps.rowanDrain {e : Eng} (h : Keeps s₀ s) : Keeps s₀ (rowanDrain e s).2 := by
  unfold rowanDrain
  extract_lets y
  split
  · extract_lets w x
    refine .iteSnd h ?_
    split
    · exact .iteSnd h.snoopFeed.beatGone.onRowan h
    · exact h
  · exact h

protected theorem Keeps.anyOf {α : Type} {f : α → State → Bool × State} {l : List α} (h : Keeps s₀ s)
    (hf : ∀ {s : State} (a : α), Keeps s₀ s → Keeps s₀ (f a s).2) : Keeps s₀ (anyOf f l s).2 :=
  Keeps.foldlPair (p := (false, s)) h fun a h => hf a h

protected theorem Keeps.pumpRound {k : Nat} (h : Keeps s₀ s) : Keeps s₀ (pumpRound k s).2 := by
  unfold pumpRound
  extract_lets ins outs
  split
  next e =>
    have h1 := (h.anyOf (fun _ h => h.deliver_)).pair e
    split
    next e =>
      have h2 := (h1.anyOf (fun _ h1 => h1.cragCycle)).pair e
      split
      next e =>
        have h3 := (h2.anyOf (fun _ h2 => h2.produceOne)).pair e
        split
        next e =>
          have h4 := (h3.anyOf (fun _ h3 => h3.drainOne)).pair e
          split
          next e =>
            have h5 := (h4.anyOf (fun _ h4 => h4.fillFree)).pair e
            split
            next e =>
              have h6 := (h5.anyOf (fun _ h5 => h5.rowanFill)).pair e
              split
              next e =>
                have h7 := (h6.anyOf (fun _ h6 => h6.rowanDrain)).pair e
                split
                next e =>
                  have h8 := h7.grantRead.pair e
                  exact h8

protected theorem Keeps.pumpRounds {n : Nat} (h : Keeps s₀ s) : Keeps s₀ (pumpRounds n s) := by
  induction n generalizing s with
  | zero => exact h
  | succ n ih =>
    unfold pumpRounds
    dsimp only
    split
    · exact ih h.pumpRound
    · exact h.pumpRound

protected theorem Keeps.noteStall {w : Wheel} (h : Keeps s₀ s) : Keeps s₀ (noteStall w s) := by
  unfold noteStall
  extract_lets x slot empty held tags s1 s2
  have h1 : Keeps s₀ s1 := h.onWheel
  have h2 : Keeps s₀ s2 := by
    unfold s2
    split
    · exact .ite h1.countHeld h1
    · exact h1
  clear_value s1 s2
  clear_value tags
  split
  · exact h2
  · extract_lets s3
    have h3 : Keeps s₀ s3 := by
      unfold s3
      split
      · exact h2
      · exact h2.onRing
    clear_value s3
    split
    · exact h3.delayCmd
    · exact h3

protected theorem Keeps.pumpWheels (h : Keeps s₀ s) : Keeps s₀ (pumpWheels s) := by
  unfold pumpWheels
  extract_lets s1 s2
  have h1 : Keeps s₀ s1 := h.pumpRounds
  have h2 : Keeps s₀ s2 := h1.foldl (fun _ h1 => h1.noteStall)
  clear_value s1 s2
  exact .ite h (h2.foldl (fun _ h2 => .ite h2.noteRest h2))

protected theorem Keeps.placeRead {q : ReadReq} {gs : List Got} (h : Keeps s₀ s) : Keeps s₀ (placeRead q gs s) := by
  unfold placeRead
  split
  · exact h.modCmd
  · exact h.onRowan
  · exact h.enterGot
  · exact h.enterGot
  · exact h

protected theorem Keeps.finishFill {q : ReadReq} (h : Keeps s₀ s) : Keeps s₀ (finishFill q s) := by
  unfold finishFill
  extract_lets origin s1 _ s2
  have h1 : Keeps s₀ s1 := h.foldl (fun _ h => h.placeRead)
  have h2 : Keeps s₀ s2 := h1.upd
  clear_value s1 s2
  exact .ite h2.orcFill h2

protected theorem Keeps.completeRead {tag : Nat} {got : List Got} (h : Keeps s₀ s) :
    Keeps s₀ (completeRead tag got s) := by
  unfold completeRead
  split
  · exact h
  · extract_lets gs s1 q1 reads _ s2
    have h1 : Keeps s₀ s1 := by
      unfold s1
      split
      · exact h
      · refine h.foldl (fun _ h => ?_)
        split
        · exact h.keyFlt
        · exact h
    have h2 : Keeps s₀ s2 := h1.upd.placeRead
    clear_value s1 s2
    exact .ite h2.finishFill h2

/-! ### Cairns -/

protected theorem Keeps.resumeUnits (h : Keeps s₀ s) : Keeps s₀ (resumeUnits s) :=
  (h.foldl (fun _ h => .ite h h.drainTap)).pumpWheels

protected theorem Keeps.signalAct {r : Ring} {c : Cmd} (h : Keeps s₀ s) : Keeps s₀ (signalAct r c s) := by
  unfold signalAct
  extract_lets k s1
  have h1 : Keeps s₀ s1 := h.applySignal
  clear_value s1
  exact .ite h.complete (.ite h h1.complete)

protected theorem Keeps.blockedAtHead {r : Ring} (h : Keeps s₀ s) : Keeps s₀ (blockedAtHead r s) := by
  unfold blockedAtHead
  split
  · exact h
  · refine .ite ?_ h
    split
    · exact .ite h.blockSignal h
    · exact h

protected theorem Keeps.execSignal {r : Ring} (h : Keeps s₀ s) : Completes s₀ (execSignal r s) :=
  (h.blockedAtHead.headStep (fun _ h => h.signalAct)).resumeUnits.completes

protected theorem Keeps.waitAct {r : Ring} {c : Cmd} (h : Keeps s₀ s) : Keeps s₀ (waitAct r c s) := by
  unfold waitAct
  extract_lets k v
  refine .ite h ?_
  split
  · exact h.complete
  · exact h.modCmd
  · exact h.complete

protected theorem Keeps.execWait {r : Ring} (h : Keeps s₀ s) : Completes s₀ (execWait r s) :=
  (h.headStep (fun _ h => h.waitAct)).completes

protected theorem Keeps.execUnitSignal {u : SigUnit} {c : Cairn} {add : Word} (h : Keeps s₀ s) :
    Completes s₀ (execUnitSignal u c add s) :=
  (Keeps.ite h.wake.signalFrom.resumeUnits h).completes

protected theorem Keeps.execUnitWait {u : SigUnit} {c : Cairn} {target : Word} {m : WaitMode} (h : Keeps s₀ s) :
    Completes s₀ (execUnitWait u c target m s) := by
  unfold execUnitWait
  refine Keeps.completes ?_
  refine .ite ?_ h
  split
  · exact h
  · exact h.upd
  · exact h.upd.raiseEvent

protected theorem Keeps.pageWrite {t : Tenant} {off size : Nat} {v : Word} (h : Keeps s₀ s) :
    Keeps s₀ (pageWrite t off size v s) := by
  unfold pageWrite
  extract_lets c addWord
  exact .ite h.rejectSignal (.ite h.blockSignal h.applySignal)

protected theorem Keeps.execSignalPageAdd {t : Tenant} {off size : Nat} {v : Word} (h : Keeps s₀ s) :
    Completes s₀ (execSignalPageAdd t off size v s) :=
  (Keeps.ite h h.pageWrite.resumeUnits).completes

protected theorem Keeps.execCairnPublication {c : Cairn} (h : Keeps s₀ s) :
    Completes s₀ (execCairnPublication c s) := by
  unfold execCairnPublication
  extract_lets x addr s1 k
  have h1 : Keeps s₀ s1 := h.onCairn
  clear_value s1
  refine Keeps.completes ?_
  refine .ite h ?_
  split
  · exact h1.emit
  · exact h.askTranslation
  · exact h1.onCairn.keyFlt.takeDenials.raiseEvent

/-! ### Rowan -/

protected theorem Keeps.writeElems {k : Key} {staging : Bool} {size : Nat} {countPoison : Bool} {es : List Elem} {b
    : Bad} (h : Keeps s₀ s) : Keeps s₀ (writeElems k staging size countPoison es b s).2.2 := by
  unfold writeElems
  refine h.foldlTriple (fun _ h => ?_)
  split
  · dsimp only
    refine .iteThird (.iteThird h.storeBytes h.keyFlt) ?_
    split
    · exact h.emit
    · exact h.keyFlt
    · exact h.keyFlt

protected theorem Keeps.assignXfers {n : Nat} (h : Keeps s₀ s) : Keeps s₀ (assignXfers n s) := by
  induction n generalizing s with
  | zero => exact h
  | succ n ih =>
    unfold assignXfers
    split
    · exact ih h.upd.onRowan
    · exact h

protected theorem Keeps.claimEngine {r : Ring} {cid : Nat} {rd wd : Desc} (h : Keeps s₀ s) :
    Keeps s₀ (claimEngine r cid rd wd s).2 := by
  unfold claimEngine
  dsimp only
  split
  · split
    · exact .iteSnd h.onRowan h.delayCmd
    · exact h
  · split
    · exact h.delayCmd
    · split
      · exact .iteSnd h.onRowan.onRowan h.onRowan.delayCmd
      · exact h.onRowan

protected theorem Keeps.sweepEngines (h : Keeps s₀ s) : Keeps s₀ (sweepEngines s) := by
  unfold sweepEngines
  extract_lets gone s1
  have h1 : Keeps s₀ s1 := by
    unfold s1
    refine h.foldl (fun _ h => ?_)
    refine h.foldl (fun _ h1 => ?_)
    split
    · exact .ite h1.leaveEngines h1
    · exact h1
  clear_value s1
  exact h1.assignXfers

protected theorem Keeps.countElems {e : Eng} {n lost : Nat} (h : Keeps s₀ s) : Keeps s₀ (countElems e n lost s) :=
  h.onRowan

/-! ### Images -/

protected theorem Keeps.thaw {m : MapSec} {isIn : List Bool} (h : Keeps s₀ s) : Keeps s₀ (thaw m isIn s) := by
  unfold thaw
  extract_lets needed _
  exact h.upd

protected theorem Keeps.rowanTap {e : Eng} {own : Ring × Nat} {streams : Unit → List (List Byte × List Nat)}
    (h : Keeps s₀ s) : Keeps s₀ (rowanTap e own streams s) :=
  .ite h (h.foldl (fun _ h => h.snoopRun))

protected theorem Keeps.leafResult {l : Lane} {c : Chunk} {alg : Alg} (h : Keeps s₀ s) :
    Keeps s₀ (leafResult l c alg s) := by
  unfold leafResult
  split
  · exact h
  · exact h.laneCount.onCtx

protected theorem Keeps.countRead {o : ReadOut} (h : Keeps s₀ s) : Keeps s₀ (countRead o s) := h.upd

protected theorem Keeps.trimStaging (h : Keeps s₀ s) : Keeps s₀ (trimStaging s) := h.upd

protected theorem Keeps.reclaimUntil {n : Nat} {l : List Image} (h : Keeps s₀ s) (e : reclaimUntil n l s = some t) :
    Keeps s₀ t := by
  induction l generalizing s with
  | nil =>
    rw [reclaimUntil] at e
    split at e
    · cases e
      exact h
    · cases e
  | cons i l ih =>
    rw [reclaimUntil] at e
    split at e
    · cases e
      exact h
    · exact ih h.releaseImage e

protected theorem Keeps.reserveArea {t' : Tenant} {n : Nat}
    (h : Keeps s₀ s) (e : reserveArea t' n s = some t) : Keeps s₀ t :=
  h.reclaimUntil e

/-! ### Units -/

protected theorem Keeps.setPlace {p : Byte} {n : Byte} (h : Keeps s₀ s) : Keeps s₀ (setPlace p n s) := by
  unfold setPlace
  split
  · exact h.upd
  · exact h

protected theorem Keeps.rebind {a b : Crag} (h : Keeps s₀ s) : Keeps s₀ (rebind a b s) := h.upd

protected theorem Keeps.placeOn {n : Crag} {p : Byte} {t : Tenant} {body : List Host.Cell} (h : Keeps s₀ s) :
    Keeps s₀ (placeOn n p t body s) :=
  h.onCrag.setPlace

protected theorem Keeps.unplace {n : Crag} (h : Keeps s₀ s) : Keeps s₀ (unplace n s) := h.onCrag

protected theorem Keeps.discardWork {unit : Nat} {uses : Ring → Cmd → Bool} (h : Keeps s₀ s) :
    Keeps s₀ (discardWork unit uses s) :=
  h.foldl (fun _ h => h.foldl (fun _ h1 => h1.abortContexts.pushEntry))

protected theorem Keeps.capture {n : Crag} (h : Keeps s₀ s) : Keeps s₀ (capture n s) := by
  unfold capture
  extract_lets waits image _
  exact h.upd

protected theorem Keeps.reloadElsewhere {n : Crag} (h : Keeps s₀ s) : Keeps s₀ (reloadElsewhere n s) := by
  unfold reloadElsewhere
  extract_lets x s1
  have h1 : Keeps s₀ s1 := h.unplace
  clear_value s1
  refine .ite h ?_
  split
  · exact h1.placeOn.rebind
  · exact h1.setPlace.raiseEvent

protected theorem Keeps.fenceCrag {n : Crag} {why : Nat} (h : Keeps s₀ s) : Keeps s₀ (fenceCrag n why s) := by
  unfold fenceCrag
  extract_lets x v _ s1 s2 s3 _ s4 s5
  have h1 : Keeps s₀ v := h.zeroCrag
  have h2 : Keeps s₀ s1 := .ite h1.upd h.capture
  have h3 : Keeps s₀ s2 := h2.onCrag
  have h4 : Keeps s₀ s3 := .ite h3.discardWork.dropStreams h3
  have h5 : Keeps s₀ s4 := h4.upd
  have h6 : Keeps s₀ s5 := h5.raiseEvent
  clear_value v s1 s2 s3 s4 s5
  exact .ite h h6.reloadElsewhere.refreshView

protected theorem Keeps.fenceWheel {w : Wheel} {why : Nat} (h : Keeps s₀ s) : Keeps s₀ (fenceWheel w why s) := by
  unfold fenceWheel
  extract_lets s1 s2
  have h1 : Keeps s₀ s1 := h.onWheel
  have h2 : Keeps s₀ s2 := h1.discardWork.dropStream
  clear_value s1 s2
  exact .ite h h2.raiseEvent

protected theorem Keeps.dropXferReads {e : Eng} (h : Keeps s₀ s) : Keeps s₀ (dropXferReads e s) := h.upd

protected theorem Keeps.requeue {e : Eng} {keep : Nat} (h : Keeps s₀ s) : Keeps s₀ (requeue e keep s) := by
  unfold requeue
  extract_lets x go s1 s1_2 _ s2
  have h1 : Keeps s₀ s1 := h.onRowan
  have h2 : Keeps s₀ s1_2 := .ite h1.dropXferReads h1
  have h3 : Keeps s₀ s2 := h2.upd
  clear_value s1 s1_2 s2
  exact h3.assignXfers

protected theorem Keeps.fenceRowan {e : Eng} {why : Nat} (h : Keeps s₀ s) : Keeps s₀ (fenceRowan e why s) := by
  unfold fenceRowan
  extract_lets s1 s2
  have h1 : Keeps s₀ s1 := h.onRowan
  have h2 : Keeps s₀ s2 := h1.discardWork
  clear_value s1 s2
  exact .ite h h2.raiseEvent.requeue.refreshView

/-! ### Bit-streams -/

protected theorem Keeps.clearExpert (h : Keeps s₀ s) : Keeps s₀ (clearExpert s) := h.upd

protected theorem Keeps.releaseCovered {b : Sections} (h : Keeps s₀ s) : Keeps s₀ (releaseCovered b s) :=
  h.foldl (fun _ h => h.releaseImage)

protected theorem Keeps.abandonOpen (h : Keeps s₀ s) : Keeps s₀ (abandonOpen s) := h.foldl (fun _ h => h.abandonImage)

protected theorem Keeps.zeroPrevious (h : Keeps s₀ s) : Keeps s₀ (zeroPrevious s) :=
  h.zeroClaims.foldl (fun _ h => h.zeroKey)

protected theorem Keeps.tearDown (h : Keeps s₀ s) : Keeps s₀ (tearDown s) := by
  unfold tearDown
  extract_lets s1 _ _ _
  have h1 : Keeps s₀ s1 := h.abandonOpen.zeroPrevious
  clear_value s1
  exact h1.upd.fencePower

protected theorem Keeps.setTenants {b : Sections} (h : Keeps s₀ s) : Keeps s₀ (setTenants b s) := h.upd

protected theorem Keeps.setOwners {b : Sections} (h : Keeps s₀ s) : Keeps s₀ (setOwners b s) := by
  unfold setOwners
  extract_lets keys s1 _ _
  have h1 : Keeps s₀ s1 := h.foldl (fun _ h => h.zeroKey)
  clear_value s1
  exact h1.upd

protected theorem Keeps.setWheels {b : Sections} (h : Keeps s₀ s) : Keeps s₀ (setWheels b s) := h.upd

protected theorem Keeps.setSetting {x : SettingSec} (h : Keeps s₀ s) : Keeps s₀ (setSetting x s) := by
  unfold setSetting
  split
  · exact h.onRing
  · exact h.onRing
  · exact h.onRing
  · exact h.onRing
  · exact h

protected theorem Keeps.setService {b : Sections} (h : Keeps s₀ s) : Keeps s₀ (setService b s) :=
  h.foldl (fun _ h => h.onArb)

protected theorem Keeps.setWarnings {b : Sections} (h : Keeps s₀ s) : Keeps s₀ (setWarnings b s) := by
  unfold setWarnings
  extract_lets s1
  have h1 : Keeps s₀ s1 := h.foldl (fun _ h => h.flagWarn)
  clear_value s1
  refine h1.foldl (fun _ h1 => ?_)
  extract_lets c
  exact .ite h1.flagWarn h1

protected theorem Keeps.placeAll {fails named : List Crag} {l : List (ProgSec × Nat)} (h : Keeps s₀ s) :
    Keeps s₀ (placeAll fails named l s).2 := by
  induction l generalizing s with
  | nil => exact h
  | cons x l ih =>
    obtain ⟨p, i⟩ := x
    have first : Keeps s₀ (if fails.contains p.crag ∧ !s.ma.crags[p.crag].fenced then fenceCrag p.crag 1 s else s)
        := by
      split
      · exact h.fenceCrag
      · exact h
    unfold placeAll
    dsimp only
    revert first
    generalize (if fails.contains p.crag ∧ !s.ma.crags[p.crag].fenced then fenceCrag p.crag 1 s else s) = v
    intro first
    split
    · exact ih first.placeOn
    · split
      · exact ih first.placeOn.rebind
      · exact first

protected theorem Keeps.unconfigure (h : Keeps s₀ s) : Keeps s₀ (unconfigure s) := h.upd.setService.setWarnings

protected theorem Keeps.setUp {b : Sections} (h : Keeps s₀ s) : Keeps s₀ (setUp b s) := by
  unfold setUp
  extract_lets s1 s2 _ _
  have h1 : Keeps s₀ s1 := h.setTenants.setOwners.setWheels
  have h2 : Keeps s₀ s2 := h1.foldl (fun _ h1 => h1.setSetting)
  clear_value s1 s2
  exact h2.upd.setService.setWarnings

protected theorem Keeps.loadDone {digest : BitVec 384} (h : Keeps s₀ s) : Keeps s₀ (loadDone digest s) := by
  unfold loadDone
  extract_lets _ _ s1 s2
  have h1 : Keeps s₀ s1 := h.upd
  have h2 : Keeps s₀ s2 := h1.foldl (fun _ h1 => h1.endBreach)
  clear_value s1 s2
  exact h2.recap.refreshView.assignXfers.refreshSessions

/-! ### LOAD_BITSTREAM -/

protected theorem Keeps.loadFails {code : Nat} (h : Keeps s₀ s) : Keeps s₀ (loadFails code s) := by
  unfold loadFails
  extract_lets s1 _
  have h1 : Keeps s₀ s1 := h.clearExpert
  clear_value s1
  exact h1.upd

protected theorem Keeps.replaceConfig {r : Ring} {c : Cmd} {bs : List Byte} {g : Gsb} (h : Keeps s₀ s) :
    Keeps s₀ (replaceConfig r c bs g s) := by
  unfold replaceConfig
  extract_lets b s1 s2
  have h1 : Keeps s₀ s1 := h.clearExpert.effectOf
  have h2 : Keeps s₀ s2 := h1.releaseCovered.tearDown.setUp
  clear_value s1 s2
  split
  next e =>
    have h3 := h2.placeAll.pair e
    exact h3.loadDone.complete.pumpWheels
  next e =>
    have h3 := h2.placeAll.pair e
    extract_lets s4 _
    have h4 : Keeps s₀ s4 := h3.unconfigure
    clear_value s4
    exact h4.upd.complete.recap.refreshView.refreshSessions

protected theorem Keeps.loadChecks {r : Ring} {g : Gsb} {c : Cmd} {bs : List Byte} {bad : Bad} (h : Keeps s₀ s) :
    Keeps s₀ (loadChecks r g c bs bad s) := by
  unfold loadChecks
  split
  · exact h.loadFails.pushEntry
  · exact h.loadFails.complete
  · split
    · exact h.loadFails.pushEntry
    · exact h.replaceConfig

protected theorem Keeps.loadAct {r : Ring} {g : Gsb} {c : Cmd} (h : Keeps s₀ s) : Keeps s₀ (loadAct r g c s) := by
  unfold loadAct
  refine .ite h.complete ?_
  refine .ite h.complete ?_
  split
  next e =>
    have h1 := h.gather.triple e
    exact h1
  next e =>
    have h1 := h.gather.triple e
    split
    · exact h1
    · extract_lets gs
      split
      next e =>
        have h2 := h1.beatsOf.pair e
        exact h2.snoopRun.loadChecks

protected theorem Keeps.execLoadBitstream {r : Ring} {g : Gsb} (h : Keeps s₀ s) :
    Completes s₀ (execLoadBitstream r g s) :=
  (h.headStep (fun _ h => h.loadAct)).completes

/-! ### Configuration writes -/

protected theorem Keeps.underExp {x : ExpRes} {f : State → State}
    (h : Keeps s₀ s) (hf : Keeps s₀ s → Keeps s₀ (f s)) :
    Keeps s₀ (underExp x f s) := by
  unfold underExp
  split
  · exact (hf h).setExp
  · exact h.setExp

protected theorem Keeps.unback {old : WinEnt} {ws : List WinEnt} (h : Keeps s₀ s) : Keeps s₀ (unback old ws s) := by
  have ok : MemoryOk s → MemoryOk (unback old ws s) := unback_wf old ws
  unfold unback at ok ⊢
  dsimp only at ok ⊢
  split at ok
  next idle => rw [if_pos idle]; exact h
  next valid => rw [if_neg valid]; exact h.store ok

protected theorem Keeps.windowApply {w : Win} {k : Fin 4} {v : Word} (h : Keeps s₀ s) :
    Keeps s₀ (windowApply w k v s) := by
  unfold windowApply
  extract_lets old e ws adds frozen _
  exact .ite h.setExp h.upd.unback.setExp

protected theorem Keeps.windowWrite {w : Win} {k : Fin 4} {v : Word} (h : Keeps s₀ s) :
    Keeps s₀ (windowWrite w k v s) :=
  .ite h.upd h.windowApply

protected theorem Keeps.bar2WinWrite {v : Word} (h : Keeps s₀ s) : Keeps s₀ (bar2WinWrite v s) :=
  .ite h.setExp h.upd.setExp

protected theorem Keeps.svcWrite {q : Req} {k : Res} {v : Word} (h : Keeps s₀ s) : Keeps s₀ (svcWrite q k v s) := by
  unfold svcWrite
  dsimp only
  exact h.underExp (fun h => (Keeps.ite h.onArb (.ite (.ite h.onArb h.onArb.flagWarn) (Keeps.ite h.onArb
      h.onArb.flagWarn).flagWarn)).recapOne)

/-! ### Snapshots, RESTORE and RESHARD -/

protected theorem Keeps.holdForProg {r : Ring} {c : Cmd} {k : Option ProgKind}
    (h : Keeps s₀ s) (e : holdForProg r c k s = some t) :
    Keeps s₀ t := by
  unfold holdForProg at e
  obtain ⟨-, held⟩ := Option.ite_none_right_eq_some.mp e
  cases held
  exact h.delayCmd

protected theorem Keeps.freeze {m : MapSec} (h : Keeps s₀ s) : Keeps s₀ (freeze m s) := h.upd

protected theorem Keeps.beginAct {r : Ring} {c : Cmd} (h : Keeps s₀ s) : Keeps s₀ (beginAct r c s) := by
  unfold beginAct
  split
  · exact h
  · exact h.pushEntry
  · extract_lets t worst c2
    split
    · exact h.pushEntry
    · refine .ite h.delayCmd ?_
      split
      · exact h.pushEntry
      next e =>
        have h1 := h.reserveArea e
        extract_lets _ s2
        have h2 : Keeps s₀ s2 := h1.upd.freeze
        clear_value s2
        exact h2.complete

protected theorem Keeps.execSnapBegin {r : Ring} (h : Keeps s₀ s) : Completes s₀ (execSnapBegin r s) :=
  (h.headStep (fun _ h => h.beginAct)).completes

protected theorem Keeps.stageRange {r : Ring} {cid : Nat} {i : Image} {k : Nat} {cs : List Chunk} {bad : Bad}
    (h : Keeps s₀ s) : Keeps s₀ (stageRange r cid i k cs bad s) := by
  unfold stageRange
  extract_lets secs _ s1
  have h1 : Keeps s₀ s1 := h.upd
  clear_value s1
  exact h1.modImage.effectOf

protected theorem Keeps.finishRange {r : Ring} {e : Eng} {c : Cmd} {i : Image} {m : MapSec} {k : Nat} {x :
    RangeRead} (h : Keeps s₀ s) : Keeps s₀ (finishRange r e c i m k x s) := by
  unfold finishRange
  extract_lets cs s1 s1_2 s1_3 s2 n s3 s4 s5 s6
  have h1 : Keeps s₀ s1 := h.upd
  have h2 : Keeps s₀ s1_2 := by
    unfold s1_2
    split
    · exact h1.foldl (fun _ h1 => h1.leafResult)
    · exact h1
  have h3 : Keeps s₀ s1_3 := h2.foldl (fun _ h2 => h2.snoopRun)
  have h4 : Keeps s₀ s2 := h3.rowanTap
  have h5 : Keeps s₀ s3 := h4.countElems.stageRange
  have h6 : Keeps s₀ s4 := by
    unfold s4
    split
    · exact h5.thaw
    · exact h5
  have h7 : Keeps s₀ s5 := by
    unfold s5
    split
    · exact h6.signalFrom
    · exact h6
  have h8 : Keeps s₀ s6 := .ite h7.pushEntry h7.complete
  clear_value s1 s1_2 s1_3 s2 s3 s4 s5 s6
  exact h8.resumeUnits.stageWaiting

protected theorem Keeps.frozenRead {k : Key} {m : MapId} {base : Nat} {g : RangeSec} (h : Keeps s₀ s) :
    Keeps s₀ (frozenRead s k m base g).2 := by
  unfold frozenRead
  extract_lets out plan
  exact h.foldl (fun _ h => h.keyFlt)

protected theorem Keeps.packNow {r : Ring} {e : Eng} {c : Cmd} {i : Image} {m : MapSec} {x : RangeRead}
    (h : Keeps s₀ s) : Keeps s₀ (packNow r e c i m x s) :=
  .ite h.countTapStall.delayCmd h.finishRange

protected theorem Keeps.rangeReads {r : Ring} {c : Cmd} {plan : List Nat} (h : Keeps s₀ s) :
    Keeps s₀ (rangeReads r c plan s).2 := by
  unfold rangeReads
  extract_lets g
  have h1 : Keeps s₀ g.2.2 := h.gather
  clear_value g
  split
  · exact h1
  · extract_lets s1
    have h2 : Keeps s₀ s1 := .ite h.modCmd.onWheel.pumpWheels h
    clear_value s1
    split
    · exact h2
    · exact h2

protected theorem Keeps.rangeRun {r : Ring} {e : Eng} {c : Cmd} {i : Image} {m : MapSec} {g : RangeSec}
    (h : Keeps s₀ s) : Keeps s₀ (rangeRun r e c i m g s) := by
  unfold rangeRun
  extract_lets src plan
  split
  · split
    next e =>
      have h1 := h.frozenRead.pair e
      exact h1.packNow
  · split
    next e =>
      have h1 := h.rangeReads.pair e
      exact h1
    next e =>
      have h1 := h.rangeReads.pair e
      split
      · exact h1
      · extract_lets gs x
        exact .ite h1.pushEntry (Keeps.ite h1.snoopRun h1).packNow

protected theorem Keeps.rangeAct {r : Ring} {c : Cmd} (h : Keeps s₀ s) : Keeps s₀ (rangeAct r c s) := by
  unfold rangeAct
  split
  · exact h.pushEntry
  · exact h.pushEntry
  · extract_lets src ds
    split
    · exact h.pushEntry
    · exact h.pushEntry
    next e =>
      have h1 := h.holdForProg e
      exact h1
    · refine .ite h.pushEntry ?_
      split
      next e =>
        have h1 := h.modCmd.claimEngine.pair e
        exact h1
      next e =>
        have h1 := h.modCmd.claimEngine.pair e
        split
        · exact h1.rangeRun
        · exact h1

protected theorem Keeps.execSnapRange {r : Ring} (h : Keeps s₀ s) : Completes s₀ (execSnapRange r s) :=
  (h.headStep (fun _ h => h.rangeAct)).sweepEngines.completes

protected theorem Keeps.sealImage {cid : Nat} {i : Image} (h : Keeps s₀ s) : Keeps s₀ (sealImage cid i s) := by
  unfold sealImage
  extract_lets lim ts cs area s0 src _
  have h1 : Keeps s₀ s0 := h.modImage
  clear_value s0
  split
  · extract_lets lba tail s1
    have h2 : Keeps s₀ s1 := h.upd
    clear_value s1
    exact h2.modImage.journalAdd

protected theorem Keeps.sealStages {r : Ring} {c : Cmd} {i : Image} (h : Keeps s₀ s) :
    Keeps s₀ (sealStages r c i s) := by
  unfold sealStages
  extract_lets s1 s2
  have h1 : Keeps s₀ s1 := h.sealReport.leaveHead
  have h2 : Keeps s₀ s2 := by
    unfold s2
    split
    · exact h1.sealReport
    · exact h1
  clear_value s1 s2
  split
  · exact h2
  · refine .ite h2 ?_
    split
    · exact h2
    · exact .ite h2.sealReport h2.beginPairing

protected theorem Keeps.sealAct {r : Ring} {c : Cmd} (h : Keeps s₀ s) : Keeps s₀ (sealAct r c s) := by
  unfold sealAct
  extract_lets t img
  split
  · exact h.complete
  · extract_lets s1
    have h1 : Keeps s₀ s1 := h.effectOf.sealImage.trimStaging
    clear_value s1
    refine .ite h.complete ?_
    refine .ite h.sealStages ?_
    refine .ite h.complete ?_
    refine .ite h ?_
    split
    · exact h1.sealStages
    · exact h1

protected theorem Keeps.execSnapSeal {r : Ring} (h : Keeps s₀ s) : Completes s₀ (execSnapSeal r s) :=
  (h.headStep (fun _ h => h.sealAct)).completes

protected theorem Keeps.reportDurable {t : Tenant} {img : Word} {o : Outc} (h : Keeps s₀ s) :
    Keeps s₀ (reportDurable t img o s) := by
  unfold reportDurable
  refine h.foldl (fun _ h => ?_)
  refine .ite h ?_
  refine h.foldl (fun _ h1 => ?_)
  split
  · exact h1.sealReport
  · exact h1

protected theorem Keeps.execImageDurable {t : Tenant} {img : Word} (h : Keeps s₀ s) :
    Completes s₀ (execImageDurable t img s) := by
  unfold execImageDurable
  refine Keeps.completes ?_
  split
  · exact h
  · extract_lets s1 _ s2 s3
    have h1 : Keeps s₀ s1 := h.foldl (fun _ h => h.putVault)
    have h2 : Keeps s₀ s2 := h1.upd.modImage
    have h3 : Keeps s₀ s3 := .ite h2.commitTail h2
    clear_value s1 s2 s3
    refine .ite h ?_
    split
    · exact h.reportDurable
    · exact .ite h h3.reportDurable.trimStaging

protected theorem Keeps.restoreChunk {r : Ring} {e : Eng} {c : Cmd} {m : MapSec} {bases : List Nat} {secs : List
    Sec} {o : Opened}
    {ci : Nat} {acc : RestoreAcc × State} (h : Keeps s₀ acc.2) : Keeps s₀ (restoreChunk r e c m bases secs o ci
        acc).2 := by
  obtain ⟨a, s⟩ := acc
  unfold restoreChunk
  dsimp only
  split
  · exact h
  · exact h.countRead.rowanTap.writeElems

protected theorem Keeps.restoreRun {r : Ring} {e : Eng} {c : Cmd} {m : MapSec} {i : Image} {bases : List Nat}
    (h : Keeps s₀ s) : Keeps s₀ (restoreRun r e c m i bases s) := by
  unfold restoreRun
  extract_lets secs n
  split
  · exact h.pushEntry
  · refine .ite h.complete ?_
    refine .ite h.countTapStall.delayCmd ?_
    refine h.withWrites (fun h => ?_)
    extract_lets s1
    have h2 : Keeps s₀ s1 := by
      unfold s1
      split
      · exact h.effectOf.abandonImage
      · exact h
    clear_value s1
    split
    · exact h2.copySome.delayCmd
    next e =>
      have h3 := h2.copyPages e
      extract_lets s2 s3
      have h4 : Keeps s₀ s2 := .ite h3.snoopRun h3
      have h5 : Keeps s₀ s3 := h4.modCmd.effectOf
      clear_value s2 s3
      split
      next e =>
        have h6 := (h5.foldlPair (fun _ h5 => h5.restoreChunk)).pair e
        extract_lets s5
        have h7 : Keeps s₀ s5 := h6.countElems
        clear_value s5
        split
        · exact h7
        · split
          · exact h7.pushEntry
          · exact h7.pushEntry

protected theorem Keeps.onEngine {r : Ring} {c : Cmd} {rd wd : Desc} {act : Eng → Cmd → State → State}
    (h : Keeps s₀ s)
    (ha : ∀ {s : State} (e : Eng) (c : Cmd), Keeps s₀ s → Keeps s₀ (act e c s)) : Keeps s₀ (onEngine r c rd wd act
        s) := by
  unfold onEngine
  split
  next e =>
    have h1 := h.modCmd.claimEngine.pair e
    exact h1
  next e =>
    have h1 := h.modCmd.claimEngine.pair e
    split
    · exact ha _ _ h1
    · exact h1

protected theorem Keeps.restoreAct {r : Ring} {c : Cmd} (h : Keeps s₀ s) : Keeps s₀ (restoreAct r c s) := by
  unfold restoreAct
  split
  · exact h
  · exact h.pushEntry
  · extract_lets t
    refine .ite h ?_
    split
    · exact h.pushEntry
    · split
      · exact h.pushEntry
      next e =>
        have h1 := h.holdForProg e
        exact h1
      · refine h.onEngine (fun _ _ h => ?_)
        extract_lets plan
        split
        next e =>
          have h2 := h.gather.triple e
          refine .ite h2 ?_
          split
          · exact h2
          · extract_lets gs bases
            split
            · exact h2.pushEntry
            · exact h2.complete
            · refine .ite ?_ h2.restoreRun
              split
              · exact h2.beginXfer
              · exact h2

protected theorem Keeps.execRestore {r : Ring} (h : Keeps s₀ s) : Completes s₀ (execRestore r s) :=
  (h.headStep (fun _ h => h.restoreAct)).sweepEngines.settleFetches.completes

protected theorem Keeps.reshardData {k : Key} {a : MapSec} {reads : List (PieceSec × Nat × Nat)} {gs : List (Nat ×
    Got)} (h : Keeps s₀ s) : Keeps s₀ (reshardData k a reads gs s).2.2 := by
  unfold reshardData
  extract_lets failed r1
  refine .iteThird ?_ h
  refine h.foldlTriple (fun _ h => ?_)
  split
  next e =>
    have h2 := h.stagingReads.triple e
    exact h2

protected theorem Keeps.reshardOne {r : Ring} {e : Eng} {c : Cmd} {a b : MapSec} {sb : List Nat} {p : SourcePiece}
    {acc : ReshardAcc × State} (h : Keeps s₀ acc.2) : Keeps s₀ (reshardOne r e c a b sb p acc).2 := by
  unfold reshardOne
  dsimp only
  exact h.rowanTap.writeElems

protected theorem Keeps.reshardWrite {r : Ring} {e : Eng} {c : Cmd} {a b : MapSec} {sb : List Nat} {data : List
    SourcePiece} {bad : Bad} (h : Keeps s₀ s) : Keeps s₀ (reshardWrite r e c a b sb data bad s) := by
  unfold reshardWrite
  refine h.withWrites (fun h => ?_)
  split
  · exact h.copySome.delayCmd
  next e =>
    have h2 := h.copyPages e
    extract_lets s2 s2_2
    have h3 : Keeps s₀ s2 := h2.modCmd.effectOf
    have h4 : Keeps s₀ s2_2 := .ite h3.snoopRun h3
    clear_value s2 s2_2
    split
    next e =>
      have h5 := (h4.foldlPair (fun _ h4 => h4.reshardOne)).pair e
      extract_lets s4
      have h6 : Keeps s₀ s4 := h5.countElems
      clear_value s4
      split
      · exact h6
      · exact h6.pushEntry

protected theorem Keeps.reshardMove {r : Ring} {e : Eng} {c : Cmd} {a b : MapSec} {tables : List Nat} {sa sb : List
    Nat} (h : Keeps s₀ s) : Keeps s₀ (reshardMove r e c a b tables sa sb s) := by
  unfold reshardMove
  extract_lets reads plan
  refine .ite h.complete ?_
  split
  · exact h.complete
  · exact h.complete
  · refine .ite h ?_
    refine .ite h.countTapStall.delayCmd ?_
    split
    next e =>
      have h1 := h.gather.triple e
      refine .ite h1 ?_
      split
      · exact h1
      · split
        next e =>
          have h2 := h1.reshardData.triple e
          exact h2.reshardWrite

protected theorem Keeps.reshardAct {r : Ring} {c : Cmd} (h : Keeps s₀ s) : Keeps s₀ (reshardAct r c s) := by
  unfold reshardAct
  split
  · extract_lets cast kind
    refine .ite h.complete ?_
    refine .ite h.complete ?_
    refine .ite h.complete ?_
    split
    · exact h.pushEntry
    next e =>
      have h1 := h.holdForProg e
      exact h1
    · refine h.onEngine (fun _ _ h => ?_)
      extract_lets p1 p2 s1
      have h2 : Keeps s₀ s1 := .ite h h.gather
      clear_value s1
      refine .ite h.gather ?_
      split
      · exact h2
      · extract_lets gs bs
        split
        · exact h2.pushEntry
        · exact h2.reshardMove
  · exact h

protected theorem Keeps.execReshard {r : Ring} (h : Keeps s₀ s) : Completes s₀ (execReshard r s) :=
  (h.headStep (fun _ h => h.reshardAct)).sweepEngines.completes

protected theorem Keeps.landBar2 {n : Nat} (h : Keeps s₀ s) : Keeps s₀ (landBar2 n s) := by
  induction n generalizing s with
  | zero => exact h
  | succ n ih =>
    unfold landBar2
    split
    · exact h
    · split
      · exact h
      · exact ih h.upd.storeBytes

protected theorem Keeps.execPageCopy {page : Nat} {fail : Bool} (h : Keeps s₀ s) :
    Completes s₀ (execPageCopy page fail s) := by
  unfold execPageCopy
  extract_lets s1
  have h1 : Keeps s₀ s1 := .ite h.copyPage h
  clear_value s1
  exact (Keeps.ite h h1.landBar2).completes

end

end Sys2Proof.Proofs

/-! What every step keeps: digests, the host link, the Pair link, units and management. -/

namespace Sys2Proof.Proofs

open Sys2Proof Sys2Proof.Machine Sys2Proof.Safety Sys2Proof.Laws

section

-- Hundreds of short rules: proved in turn, they never wait for one another in threads of their own.
set_option Elab.async false

variable {s₀ s t u : State}

/-! ### Digests -/

protected theorem Keeps.digestSource {r : Ring} {c : Cmd} (h : Keeps s₀ s) : Keeps s₀ (digestSource r c s).2 := by
  unfold digestSource
  extract_lets n src own pe gs secs bs bad
  split
  · split
    next e =>
      have h1 := h.beatsOf.pair e
      exact h1.snoopRun
  · split
    next e =>
      have h1 := h.stagingReads.triple e
      exact h1
  · exact h.snoopRun
  · split
    · exact h
    · extract_lets secs_2 bs_2 p dirty
      exact .ite h h.snoopRun

protected theorem Keeps.takeCtx {r : Ring} {c : Cmd} {l : Lane} {x : Ctx} (h : Keeps s₀ s) :
    Keeps s₀ (takeCtx r c l x s) := by
  unfold takeCtx
  extract_lets m s1 s2
  have h1 : Keeps s₀ s1 := h.onCtx
  have h2 : Keeps s₀ s2 := h1.onRing
  clear_value s1 s2
  exact h2.modCmd

protected theorem Keeps.feedDigest {r : Ring} {c : Cmd} (h : Keeps s₀ s) : Keeps s₀ (feedDigest r c s) := by
  unfold feedDigest
  split
  · extract_lets pe ge eb
    split
    next e =>
      have h1 := h.beatsOf.pair e
      extract_lets s1
      have h2 : Keeps s₀ s1 := .ite h1 h1.snoopRun
      clear_value s1
      split
      next e =>
        have h3 := h2.digestSource.pair e
        extract_lets s3
        have h4 : Keeps s₀ s3 := h3.onCtx
        clear_value s3
        exact h4.modCmd.leaveHead

protected theorem Keeps.digestReady {r : Ring} (h : Keeps s₀ s) : Keeps s₀ (digestReady r s) := by
  unfold digestReady
  refine h.foldl (fun _ h => ?_)
  split
  · exact .ite h.feedDigest h
  · exact h

protected theorem Keeps.digestReads {r : Ring} {c : Cmd} (h : Keeps s₀ s) : Keeps s₀ (digestReads r c s) := by
  unfold digestReads
  split
  next e =>
    have h1 := h.gather.triple e
    refine .ite ?_ (.ite h1.leaveHead h1)
    split
    · exact h1.feedDigest
    · exact h1

protected theorem Keeps.digestAct {r : Ring} {c : Cmd} (h : Keeps s₀ s) : Keeps s₀ (digestAct r c s) := by
  unfold digestAct
  extract_lets t lanes
  refine .ite h.digestReads ?_
  split
  · exact h.pushEntry
  · exact h.pushEntry
  · split
    · exact h.pushEntry
    · split
      · exact h.delayCmd
      · extract_lets s1
        have h1 : Keeps s₀ s1 := h.takeCtx
        clear_value s1
        split
        · exact h1.digestReads
        · exact h1

protected theorem Keeps.execDigestVerify {r : Ring} (h : Keeps s₀ s) : Completes s₀ (execDigestVerify r s) :=
  (h.headStep (fun _ h => h.digestAct)).completes

protected theorem Keeps.finishDigest {r : Ring} {c : Cmd} {l : Lane} {x : Ctx} {m : SloeMsg} (h : Keeps s₀ s) :
    Keeps s₀ (finishDigest r c l x m s) := by
  unfold finishDigest
  extract_lets o slot pair k fate why s1 first n d0
  have h1 : Keeps s₀ s1 := by
    unfold s1
    refine .ite h ?_
    clear_value fate
    split
    · exact h.emit
    · exact h.keyFlt.takeDenials
    · exact h
  clear_value s1
  exact h1.pushEntry

protected theorem Keeps.execSloeDigestComplete {l : Lane} {c : Ctx} {glitch : Option (Bool × Bool)} {selfTestOk :
    Bool} (h : Keeps s₀ s) : Completes s₀ (execSloeDigestComplete l c glitch selfTestOk s) := by
  unfold execSloeDigestComplete
  refine Keeps.completes ?_
  refine .ite h ?_
  split
  · exact h
  · extract_lets s0 s1
    have h1 : Keeps s₀ s0 := .ite h.onLane h
    have h2 : Keeps s₀ s1 := h1.writeResult
    clear_value s0 s1
    refine .ite h ?_
    split
    · exact h.askTranslation
    · refine .ite h.fenceLane ?_
      refine Keeps.resumeUnits ?_
      refine Keeps.drainTap ?_
      split
      · exact h2
      · refine .ite h2 ?_
        split
        · exact h2.finishDigest
        · exact h2

protected theorem Keeps.srSet {l : Lane} {c : Ctx} {res : BitVec 4} (h : Keeps s₀ s) : Keeps s₀ (srSet l c res s) :=
  h.upd

protected theorem Keeps.execSrSave {l : Lane} {c : Ctx} (h : Keeps s₀ s) : Completes s₀ (execSrSave l c s) := by
  unfold execSrSave
  refine Keeps.completes ?_
  refine .ite h ?_
  refine .ite h.setExp ?_
  split
  · exact h.srSet.setExp
  · extract_lets s1 _
    have h1 : Keeps s₀ s1 := h.srSet
    clear_value s1
    exact .ite h.srSet.setExp h1.upd.setExp
  · exact h

protected theorem Keeps.execSrRestore {l : Lane} {c : Ctx} (h : Keeps s₀ s) : Completes s₀ (execSrRestore l c s) := by
  unfold execSrRestore
  refine Keeps.completes ?_
  refine .ite h ?_
  refine .ite h.setExp ?_
  split
  · exact h.srSet.setExp
  · exact .ite h.srSet.setExp (.ite h.srSet.setExp h.onCtx.srSet.setExp)
  · exact h

/-! ### The host link -/

protected theorem Keeps.execStagingWindowWrite {w : Win} {k : Fin 4} {v : Word} (h : Keeps s₀ s) :
    Completes s₀ (execStagingWindowWrite w k v s) :=
  (Keeps.ite h h.windowWrite).completes

protected theorem Keeps.execSvcEntWrite {q : Req} {k : Res} {v : Word} (h : Keeps s₀ s) :
    Completes s₀ (execSvcEntWrite q k v s) :=
  (Keeps.ite h h.svcWrite).completes

protected theorem Keeps.inboundFault {off : Nat} {cause : Cause} {write : Bool} {rid : BitVec 16}
    (h : Keeps s₀ s) : Keeps s₀ (inboundFault off cause write rid s) := by
  unfold inboundFault
  split
  next e =>
    have h1 := h.draw.pair e
    exact h1.fltRecord

protected theorem Keeps.findBad {beats : List Nat} (h : Keeps s₀ s) : Keeps s₀ (findBad beats s) :=
  h.foldl (fun _ h => .ite h h.upd.markBad)

protected theorem Keeps.readThrough {off n : Nat} (h : Keeps s₀ s) : Keeps s₀ (readThrough off n s).2 := by
  unfold readThrough
  split
  next e =>
    have h1 := Keeps.pair (s₀ := s₀) (by
      refine h.foldlPair (fun _ h => ?_)
      extract_lets b
      split
      next e =>
        have h2 := (Keeps.iteSnd h.drawBeat h).pair e
        exact h2) e
    exact h1

protected theorem Keeps.execBar2Read {rid : BitVec 16} {host : Bool} {addr len : Nat} {ue : List Nat}
    (h : Keeps s₀ s) : Completes s₀ (execBar2Read rid host addr len ue s) := by
  unfold execBar2Read
  extract_lets s0 off plan s1 bad
  have h1 : Keeps s₀ s0 := h.wakeNap
  have h2 : Keeps s₀ s1 := h1.findBad
  clear_value s0 s1
  refine Keeps.completes ?_
  refine .ite h.emit ?_
  refine .ite h1.inboundFault.emit ?_
  split
  next e =>
    have h3 := h2.readThrough.pair e
    exact h3.emit

protected theorem Keeps.execBar2Write {rid : BitVec 16} {host : Bool} {addr : Nat} {data : List Byte} {ep : Bool} (h
    : Keeps s₀ s) : Completes s₀ (execBar2Write rid host addr data ep s) := by
  unfold execBar2Write
  extract_lets s0 off _ s1
  have h1 : Keeps s₀ s0 := h.wakeNap
  have h2 : Keeps s₀ s1 := h1.upd
  clear_value s0 s1
  exact (Keeps.ite h.emit (.ite h1.inboundFault.emit (.ite h1.inboundFault.emit h2.landBar2))).completes

protected theorem Keeps.dropInv {i : Option (BitVec 20) × Nat × Nat} (h : Keeps s₀ s) : Keeps s₀ (dropInv i s) :=
  h.upd

protected theorem Keeps.settleInv (h : Keeps s₀ s) : Keeps s₀ (settleInv s) := h.foldl (fun _ h => .ite h h.upd.emit)

protected theorem Keeps.afterRead (h : Keeps s₀ s) : Keeps s₀ (afterRead s) :=
  (h.foldl (fun _ h => h.stageReady.digestReady)).pumpWheels.settleInv

protected theorem Keeps.execReadCompletion {tag : Nat} {got : List Got} (h : Keeps s₀ s) :
    Completes s₀ (execReadCompletion tag got s) := by
  unfold execReadCompletion
  refine Keeps.completes ?_
  refine .ite h ?_
  split
  · exact h
  · extract_lets s1
    have h1 : Keeps s₀ s1 := .ite h.emit h
    clear_value s1
    exact h1.completeRead.afterRead

protected theorem Keeps.execCompletionTimeout {tag : Nat} (h : Keeps s₀ s) :
    Completes s₀ (execCompletionTimeout tag s) := by
  unfold execCompletionTimeout
  refine Keeps.completes ?_
  refine .ite h ?_
  split
  · exact h
  · exact h.advanceTo.completeRead.afterRead

protected theorem Keeps.holdTranslation {e : AtcEnt} (h : Keeps s₀ s) : Keeps s₀ (holdTranslation e s) := h.upd

protected theorem Keeps.denyRequest {q : AtsReq} {c : Cause} (h : Keeps s₀ s) : Keeps s₀ (denyRequest q c s) := h.upd

protected theorem Keeps.execAtsTranslationCompletion {req : Nat} {a : AtsReply} (h : Keeps s₀ s) :
    Completes s₀ (execAtsTranslationCompletion req a s) := by
  unfold execAtsTranslationCompletion
  extract_lets _ s1
  have h1 : Keeps s₀ s1 := h.upd
  clear_value s1
  refine Keeps.completes ?_
  refine .ite h ?_
  split
  · exact h
  · refine .ite h1 ?_
    refine Keeps.afterRead ?_
    split
    · exact h1.denyRequest
    · exact h1.denyRequest
    · extract_lets s2
      have h2 : Keeps s₀ s2 := h1.holdTranslation
      clear_value s2
      exact .ite (.ite h2 h2.denyRequest) (.ite h2 h2.denyRequest)

protected theorem Keeps.execAtsInvalidation {pasid : Option (BitVec 20)} {addr len : Nat} (h : Keeps s₀ s) :
    Completes s₀ (execAtsInvalidation pasid addr len s) := by
  unfold execAtsInvalidation
  extract_lets i mine _
  exact (Keeps.ite h h.upd.dropInv.pumpWheels.settleInv).completes

protected theorem Keeps.execLinkRetrain {rate width : BitVec 4} {flit : Bool} {tagw : BitVec 2}
    (h : Keeps s₀ s) : Completes s₀ (execLinkRetrain rate width flit tagw s) := by
  unfold execLinkRetrain
  extract_lets _ s1
  have h1 : Keeps s₀ s1 := h.upd
  clear_value s1
  refine Keeps.completes ?_
  split
  · exact h
  · exact h
  · exact h
  · exact h
  · exact .ite h (.ite h1 h1.reportLink.recap.pumpWheels)

protected theorem Keeps.execLinkMargin {which : Fin 3} (h : Keeps s₀ s) : Completes s₀ (execLinkMargin which s) :=
  (Keeps.ite h h.raiseEvent).completes

protected theorem Keeps.execCapacityChange {onfi : BitVec 16} {derated : Bool} (h : Keeps s₀ s) :
    Completes s₀ (execCapacityChange onfi derated s) :=
  (Keeps.ite h h.upd.recap.refreshView).completes

protected theorem Keeps.execBreachEnd {k : Res} (h : Keeps s₀ s) : Completes s₀ (execBreachEnd k s) := by
  unfold execBreachEnd
  refine Keeps.completes ?_
  split
  · exact .ite h.advanceTo.endBreach h
  · exact h

protected theorem Keeps.msixFlush (h : Keeps s₀ s) : Keeps s₀ (msixFlush s) := by
  unfold msixFlush
  refine .ite h ?_
  refine h.foldl (fun _ h => ?_)
  extract_lets x _ s1
  have h2 : Keeps s₀ s1 := h.upd
  clear_value s1
  exact .ite (.ite h2.msixFire h2) h

protected theorem Keeps.execMsixUnmask {v : Vec} (h : Keeps s₀ s) : Completes s₀ (execMsixUnmask v s) :=
  (Keeps.ite h h.upd.msixFlush).completes

protected theorem Keeps.execMsixRepeat {v : Vec} (h : Keeps s₀ s) : Completes s₀ (execMsixRepeat v s) :=
  (Keeps.ite h.advanceTo.msixFire h).completes

protected theorem Keeps.configData {reg : Nat} (h : Keeps s₀ s) : Keeps s₀ (configData reg s) := by
  unfold configData
  split
  next e =>
    have h1 := h.upd.pair e
    exact h1.emit

protected theorem Keeps.configure {q : CfgReq} (h : Keeps s₀ s) : Keeps s₀ (configure q s) := by
  unfold configure
  split
  · exact h.configData
  · exact h.emit
  · exact .ite h h.upd
  · exact h.upd.msixFlush
  · exact h.upd.msixFlush
  · extract_lets _ s1 _
    have h1 : Keeps s₀ s1 := h.upd
    clear_value s1
    exact (Keeps.ite h1 h1.upd).afterRead
  · exact h.upd.pumpWheels
  · exact h.upd
  · exact h.upd
  · exact h.emit

protected theorem Keeps.execConfigurationRequest {q : CfgReq} (h : Keeps s₀ s) :
    Completes s₀ (execConfigurationRequest q s) := by
  unfold execConfigurationRequest
  refine Keeps.completes ?_
  split
  · exact h
  · exact h
  · exact h
  · exact h
  · exact h
  · exact h
  · exact h
  · exact .ite h.emit h.configure
  · exact .ite h.emit h.configure
  · exact h.configure

/-! ### The Pair link -/

protected theorem Keeps.execPairPortUp {p : PPort} (h : Keeps s₀ s) : Completes s₀ (execPairPortUp p s) :=
  (Keeps.ite h h.onPort.refreshSessions.recap).completes

protected theorem Keeps.execPairPortDown {p : PPort} (h : Keeps s₀ s) : Completes s₀ (execPairPortDown p s) :=
  (Keeps.ite h h.onPort.recap).completes

protected theorem Keeps.execNeighbourMessage {p : PPort} {m : Neighbour} (h : Keeps s₀ s) :
    Completes s₀ (execNeighbourMessage p m s) := by
  unfold execNeighbourMessage
  extract_lets x own
  refine Keeps.completes ?_
  refine .ite h ?_
  split
  · exact .ite h.onPort.emit h
  · exact h.onPort
  · exact .ite h.onPort.emit h
  · exact h.onPort

protected theorem Keeps.execIcmpEcho {p : PPort} {v6 : Bool} {src dst : BitVec 128} {payload : List Byte}
    (h : Keeps s₀ s) : Completes s₀ (execIcmpEcho p v6 src dst payload s) := by
  unfold execIcmpEcho
  extract_lets x mine
  exact (Keeps.ite h h.emit).completes

protected theorem Keeps.execFrameDropped {e : Option Peer} (h : Keeps s₀ s) : Completes s₀ (execFrameDropped e s) :=
  (Keeps.ite h h.countDrop).completes

protected theorem Keeps.peerWrite {e : Peer} {word : Nat} {v : Word} (h : Keeps s₀ s) :
    Keeps s₀ (peerWrite e word v s) := by
  unfold peerWrite
  extract_lets old c s1 s2 said ended freed
  have h1 : Keeps s₀ s1 := h.onPeer.setExp
  have h2 : Keeps s₀ s2 := .ite h1.flagWarn h1
  have h3 : Keeps s₀ said := .ite h2.pairSend h2
  have h4 : Keeps s₀ ended := h3.endXfers.endSignals
  have h5 : Keeps s₀ freed := .ite h4 (h4.foldl fun _ h => h.releaseCopy)
  clear_value s1 s2 said ended freed
  exact .ite h.setExp (.ite h.setExp (.ite h.setExp (.ite h2 (h5.onPeer fun _ => Nat.zero_le _).refreshSessions)))

protected theorem Keeps.execPeerEntryWrite {e : Peer} {word : Nat} {v : Word} (h : Keeps s₀ s) :
    Completes s₀ (execPeerEntryWrite e word v s) :=
  (Keeps.ite h h.peerWrite).completes

protected theorem Keeps.meetNonce {e : Peer} {nonce : Word} (h : Keeps s₀ s) : Keeps s₀ (meetNonce e nonce s) := by
  unfold meetNonce
  extract_lets s1
  have h1 : Keeps s₀ s1 := by
    unfold s1
    split
    · exact .ite h h.peerReopened
    · exact h
  clear_value s1
  exact h1.onPeer

protected theorem Keeps.execHello {x : PairRx} {nonce epoch : Word} {holds : List HoldRec} (h : Keeps s₀ s) :
    Completes s₀ (execHello x nonce epoch holds s) := by
  unfold execHello
  refine Keeps.completes ?_
  split
  next e =>
    have h1 := h.pairAccept.pair e
    exact h1
  next e =>
    have h1 := h.pairAccept.pair e
    extract_lets s2
    have h2 : Keeps s₀ s2 := h1.meetNonce
    clear_value s2
    exact h2.pairSend.becomeUp

protected theorem Keeps.execHelloAck {x : PairRx} {nonce epoch : Word} {holds : List HoldRec} (h : Keeps s₀ s) :
    Completes s₀ (execHelloAck x nonce epoch holds s) := by
  unfold execHelloAck
  refine Keeps.completes ?_
  split
  next e =>
    have h1 := h.pairAccept.pair e
    exact h1
  next e =>
    have h1 := h.pairAccept.pair e
    exact h1.meetNonce.becomeUp

protected theorem Keeps.execHeartbeat {x : PairRx} (h : Keeps s₀ s) : Completes s₀ (execHeartbeat x s) :=
  h.pairAccept.completes

protected theorem Keeps.byeIn {e : Peer} {drained : List Dword} (h : Keeps s₀ s) : Keeps s₀ (byeIn e drained s) := by
  unfold byeIn
  extract_lets p s1 _ s2
  have h1 : Keeps s₀ s1 := h.onPeer.endXfers
  have h2 : Keeps s₀ s2 := .ite h1.upd h1
  clear_value s1 s2
  exact h2.raiseEvent

protected theorem Keeps.execBye {x : PairRx} {drained : List Dword} (h : Keeps s₀ s) :
    Completes s₀ (execBye x drained s) := by
  unfold execBye
  refine Keeps.completes ?_
  split
  next e =>
    have h1 := h.pairAccept.pair e
    exact h1
  next e =>
    have h1 := h.pairAccept.pair e
    exact h1.byeIn

protected theorem Keeps.execPairTransmit {e : Peer} (h : Keeps s₀ s) : Completes s₀ (execPairTransmit e s) := by
  unfold execPairTransmit
  extract_lets p
  refine Keeps.completes ?_
  refine .ite h ?_
  split
  · exact h.pairRelease
  · exact h

protected theorem Keeps.execPairSignalForward {e : Peer} (h : Keeps s₀ s) :
    Completes s₀ (execPairSignalForward e s) := by
  unfold execPairSignalForward
  extract_lets p
  refine Keeps.completes ?_
  refine .ite h ?_
  split
  · exact h
  · extract_lets s1
    have h1 : Keeps s₀ s1 := h.onPeer
    clear_value s1
    exact h1.pairRelease

protected theorem Keeps.execAckTimer {e : Peer} (h : Keeps s₀ s) : Completes s₀ (execAckTimer e s) :=
  (Keeps.ite h h.sendAck).completes

protected theorem Keeps.resendPkt {e : Peer} {k : PairPkt} (h : Keeps s₀ s) : Keeps s₀ (resendPkt e k s) := by
  unfold resendPkt
  extract_lets s1
  have h1 : Keeps s₀ s1 := h.onPeer
  clear_value s1
  exact h1.pairEmit

protected theorem Keeps.execRetransmitTimer {e : Peer} {psn : Word} (h : Keeps s₀ s) :
    Completes s₀ (execRetransmitTimer e psn s) := by
  unfold execRetransmitTimer
  extract_lets p
  refine Keeps.completes ?_
  split
  · exact h
  · extract_lets s1
    have h1 : Keeps s₀ s1 := h.advanceTo
    clear_value s1
    exact .ite h (.ite h1.loseSession h1.resendPkt)

protected theorem Keeps.ackIn {e : Peer} {base : Word} {got : BitVec 512} (h : Keeps s₀ s) :
    Keeps s₀ (ackIn e base got s) := by
  unfold ackIn
  extract_lets s1 high
  have h1 : Keeps s₀ s1 := h.onPeer
  clear_value s1
  exact h1.foldl (fun _ h1 => h1.resendPkt)

protected theorem Keeps.execAck {x : PairRx} {base : Word} {got : BitVec 512} (h : Keeps s₀ s) :
    Completes s₀ (execAck x base got s) := by
  unfold execAck
  refine Keeps.completes ?_
  split
  next e =>
    have h1 := h.pairAccept.pair e
    exact h1
  next e =>
    have h1 := h.pairAccept.pair e
    exact h1.ackIn

protected theorem Keeps.execHeartbeatTimer {e : Peer} (h : Keeps s₀ s) : Completes s₀ (execHeartbeatTimer e s) := by
  unfold execHeartbeatTimer
  extract_lets p
  exact (Keeps.ite h h.advanceTo.pairSend).completes

protected theorem Keeps.execHelloTimer {e : Peer} (h : Keeps s₀ s) : Completes s₀ (execHelloTimer e s) := by
  unfold execHelloTimer
  extract_lets p
  exact (Keeps.ite h.advanceTo.pairSend h).completes

protected theorem Keeps.execPairLost {e : Peer} (h : Keeps s₀ s) : Completes s₀ (execPairLost e s) := by
  unfold execPairLost
  extract_lets p
  exact (Keeps.ite h h.advanceTo.loseSession).completes

protected theorem Keeps.execPairSessionTimeout {e : Peer} (h : Keeps s₀ s) :
    Completes s₀ (execPairSessionTimeout e s) := by
  unfold execPairSessionTimeout
  extract_lets p
  refine Keeps.completes ?_
  split
  · exact h
  · exact .ite h h.advanceTo.endXfer

protected theorem Keeps.offerIn {e : Peer} {xfer img : Word} {step : Dword} {total : Nat} {alg : Alg} {kind : Bool}
    {root : BitVec 512} (h : Keeps s₀ s) : Keeps s₀ (offerIn e xfer img step total alg kind root s) := by
  unfold offerIn
  dsimp only
  refine .ite ?_ ?_
  · split
    · exact .ite h h.modXfer.fetchAccept
    · exact h
  · refine .ite h ?_
    refine .ite h.pairQueue ?_
    refine .ite h.pairQueue ?_
    split
    · exact h.pairQueue
    · refine .ite h.pairQueue ?_
      refine .ite h.pairQueue ?_
      refine .ite h.pairQueue ?_
      refine .ite h.pairQueue ?_
      refine Keeps.pairQueue ?_
      refine Keeps.onPeer ?_
      refine .ite ?_ h
      split
      · exact h.releaseCopy
      · exact h

protected theorem Keeps.acceptIn {e : Peer} {xfer : Word} (h : Keeps s₀ s) : Keeps s₀ (acceptIn e xfer s) := by
  unfold acceptIn
  split
  · extract_lets order sent s1
    have h1 : Keeps s₀ s1 := h.modXfer
    clear_value s1
    exact .ite h (Keeps.ite h1 h1.snoopRun).queueData
  · exact h

protected theorem Keeps.refuseIn {e : Peer} {xfer : Word} {reason : Byte} (h : Keeps s₀ s) :
    Keeps s₀ (refuseIn e xfer reason s) := by
  unfold refuseIn
  split
  · exact h.endXfer
  · split
    · exact h.endXfer
    · exact h

protected theorem Keeps.snoopRx {t : Transfer} {new : List (Nat × Sec)} (h : Keeps s₀ s) :
    Keeps s₀ (snoopRx t new s) :=
  .ite h h.snoopFeed

protected theorem Keeps.dataIn {e : Peer} {xfer : Word} {sector : Nat} {secs : List Sec} (h : Keeps s₀ s) :
    Keeps s₀ (dataIn e xfer sector secs s) := by
  unfold dataIn
  split
  · extract_lets new t1
    exact .ite h h.modXfer.snoopRx.rxSettle
  · exact h

protected theorem Keeps.heldIn {e : Peer} {xfer : Word} {tainted : Bool} {step : Dword} (h : Keeps s₀ s) :
    Keeps s₀ (heldIn e xfer tainted step s) := by
  unfold heldIn
  split
  · exact h
  · extract_lets s1 s2
    have h1 : Keeps s₀ s1 := h.dropXfer
    have h2 : Keeps s₀ s2 := h1.onPeer
    clear_value s1 s2
    exact .ite h1 (.ite h2.pairOutcome h2.modImage.pairOutcome)

protected theorem Keeps.resendIn {e : Peer} {xfer : Word} {sector count : Nat} (h : Keeps s₀ s) :
    Keeps s₀ (resendIn e xfer sector count s) := by
  unfold resendIn
  split
  · exact .ite h.queueData h
  · exact h

protected theorem Keeps.signalIn {e : Peer} {cairn : Byte} {add : Word} {seq : Dword} (h : Keeps s₀ s) :
    Keeps s₀ (signalIn e cairn add seq s) := by
  unfold signalIn
  extract_lets t c
  split
  next eq =>
    refine Keeps.pairQueue (Keeps.pair (α := Nat) ?_ eq)
    have woken : Keeps s₀ (resumeUnits (applySignal c 7 e.val add s)) := h.applySignal.resumeUnits
    generalize resumeUnits (applySignal c 7 e.val add s) = v at woken ⊢
    exact .iteSnd h (.iteSnd h (.iteSnd h.blockSignal (.iteSnd h woken)))

protected theorem Keeps.sigAckIn {e : Peer} {seq : Dword} {status : Byte} (h : Keeps s₀ s) :
    Keeps s₀ (sigAckIn e seq status s) := by
  unfold sigAckIn
  extract_lets s1
  have h1 : Keeps s₀ s1 := h.onPeer
  clear_value s1
  exact .ite (.ite h1 h1.onPeer.raiseEvent) h

protected theorem Keeps.fenceWard {o : Peer} (h : Keeps s₀ s) : Keeps s₀ (fenceWard o s) := by
  unfold fenceWard
  extract_lets s1 s2
  have h1 : Keeps s₀ s1 := h.onPeer
  have h2 : Keeps s₀ s2 := h1.foldl (fun _ h1 => h1.refuseXfer)
  clear_value s1 s2
  exact .ite h h2.raiseEvent

protected theorem Keeps.fetchIn {e : Peer} {xfer : Word} {owner step : Dword} (h : Keeps s₀ s) :
    Keeps s₀ (fetchIn e xfer owner step s) := by
  unfold fetchIn
  dsimp only
  refine .ite h.pairQueue ?_
  split
  · exact h.pairQueue
  · refine .ite h.pairQueue ?_
    split
    · exact (Keeps.ite h h.fenceWard).pairQueue
    · exact (Keeps.ite h h.fenceWard).onPeer.pairQueue

protected theorem Keeps.deliver {e : Peer} {i : Instr} (h : Keeps s₀ s) : Keeps s₀ (deliver e i s) := by
  unfold deliver
  split
  · exact h.offerIn
  · exact h.acceptIn
  · exact h.refuseIn
  · exact h.dataIn
  · exact h.heldIn
  · exact h.resendIn
  · exact h.signalIn
  · exact h.sigAckIn
  · exact h.fetchIn
  · exact h

protected theorem Keeps.pumpAhead {e : Peer} {n : Nat} (h : Keeps s₀ s) : Keeps s₀ (pumpAhead e n s) := by
  induction n generalizing s with
  | zero => exact h
  | succ n ih =>
    unfold pumpAhead
    dsimp only
    split
    · exact h
    · exact ih h.onPeer.deliver

/-- A reliable packet is one more to acknowledge. -/
protected theorem Keeps.reliable {x : PairRx} {i : Instr} (h : Keeps s₀ s) : Safe s₀ (reliable x i s) := by
  unfold reliable
  split
  next e => exact (h.pairAccept.pair e).toSafe
  next e v eq =>
    have taken := h.pairAccept.pair eq
    dsimp only
    have counted (w : State) (k : Keeps (v.onPeer e (fun p => { p with unacked := p.unacked + 1 })) w) : Safe s₀ w :=
      ⟨fun ok => k.mem (taken.mem ok), fun bound => k.rdy (taken.rdy bound)⟩
    refine counted _ ?_
    generalize v.onPeer e (fun p => { p with unacked := p.unacked + 1 }) = u
    have put : Keeps u (if x.psn = v.pair.peers[e].rxPsn then
        pumpAhead e v.pair.peers[e].rxAhead.length (deliver e i (u.onPeer e (fun p => { p with rxPsn := p.rxPsn + 1
            })))
      else if psnLt x.psn v.pair.peers[e].rxPsn || v.pair.peers[e].rxAhead.any (fun q => q.1 == x.psn) then u
      else u.onPeer e (fun p => { p with rxAhead := p.rxAhead ++ [(x.psn, i)] })) := by
      split
      · exact (Keeps.refl u).onPeer.deliver.pumpAhead
      · split
        · exact .refl u
        · exact (Keeps.refl u).onPeer
    exact .ite put.sendAck put

protected theorem Keeps.execOffer {x : PairRx} {xfer img : Word} {step : Dword} {total : Nat} {alg : Alg} {kind :
    Bool} {root : BitVec 512} (h : Keeps s₀ s) :
    StaysSafe s₀ (execOffer x xfer img step total alg kind root s) := h.reliable.completes

protected theorem Keeps.execAccept {x : PairRx} {xfer : Word} (h : Keeps s₀ s) :
    StaysSafe s₀ (execAccept x xfer s) := h.reliable.completes

protected theorem Keeps.execRefuse {x : PairRx} {xfer : Word} {reason : Byte} (h : Keeps s₀ s) :
    StaysSafe s₀ (execRefuse x xfer reason s) := h.reliable.completes

protected theorem Keeps.execData {x : PairRx} {xfer : Word} {sector : Nat} {secs : List Sec} (h : Keeps s₀ s) :
    StaysSafe s₀ (execData x xfer sector secs s) := h.reliable.completes

protected theorem Keeps.execHeld {x : PairRx} {xfer : Word} {tainted : Bool} {step : Dword} (h : Keeps s₀ s) :
    StaysSafe s₀ (execHeld x xfer tainted step s) := h.reliable.completes

protected theorem Keeps.execResend {x : PairRx} {xfer : Word} {sector count : Nat} (h : Keeps s₀ s) :
    StaysSafe s₀ (execResend x xfer sector count s) := h.reliable.completes

protected theorem Keeps.execPairSignalReceive {x : PairRx} {cairn : Byte} {add : Word} {seq : Dword}
    (h : Keeps s₀ s) :
    StaysSafe s₀ (execPairSignalReceive x cairn add seq s) := h.reliable.completes

protected theorem Keeps.execSigAck {x : PairRx} {seq : Dword} {status : Byte} (h : Keeps s₀ s) :
    StaysSafe s₀ (execSigAck x seq status s) := h.reliable.completes

protected theorem Keeps.execFetch {x : PairRx} {xfer : Word} {owner step : Dword} (h : Keeps s₀ s) :
    StaysSafe s₀ (execFetch x xfer owner step s) := h.reliable.completes

protected theorem Keeps.pairSyncAct {r : Ring} {c : Cmd} (h : Keeps s₀ s) : Keeps s₀ (pairSyncAct r c s) := by
  unfold pairSyncAct
  split
  · exact h.complete
  · exact .ite h.complete (.ite h.complete h.leaveHead.beginPairing)

protected theorem Keeps.execPairSync {r : Ring} (h : Keeps s₀ s) : Completes s₀ (execPairSync r s) :=
  (h.headStep (fun _ h => h.pairSyncAct)).completes

protected theorem Keeps.pairTakeoverAct {r : Ring} {c : Cmd} (h : Keeps s₀ s) : Keeps s₀ (pairTakeoverAct r c s) := by
  unfold pairTakeoverAct
  extract_lets t tr
  split
  · exact h.pushEntry
  · exact .ite h.complete (.ite h.complete h.leaveHead.beginXfer)

protected theorem Keeps.execPairTakeover {r : Ring} (h : Keeps s₀ s) : Completes s₀ (execPairTakeover r s) :=
  (h.headStep (fun _ h => h.pairTakeoverAct)).settleFetches.completes

/-! ### Units: scans, gates and faults -/

protected theorem Keeps.orcInvWrite {mask : BitVec 8} (h : Keeps s₀ s) : Keeps s₀ (orcInvWrite mask s) := h.upd

protected theorem Keeps.execOrcInv {mask : BitVec 8} (h : Keeps s₀ s) : Completes s₀ (execOrcInv mask s) :=
  (Keeps.ite h h.orcInvWrite).completes

protected theorem Keeps.execOrcInvDone {t : Tenant} (h : Keeps s₀ s) : Completes s₀ (execOrcInvDone t s) :=
  (Keeps.ite h.upd h).completes

protected theorem Keeps.execDrainRelease {w : Wheel} (h : Keeps s₀ s) : Completes s₀ (execDrainRelease w s) :=
  (Keeps.ite h.onWheel.pumpWheels h).completes

protected theorem Keeps.setScanRes {n : Crag} {v : BitVec 4} (h : Keeps s₀ s) : Keeps s₀ (setScanRes n v s) :=
  h.onCrag

protected theorem Keeps.setSuspend {n : Crag} {on : Bool} (h : Keeps s₀ s) : Keeps s₀ (setSuspend n on s) :=
  h.onCrag.pumpWheels

protected theorem Keeps.startScan {n : Crag} {op : BitVec 2} {debug : Bool} (h : Keeps s₀ s) :
    Keeps s₀ (startScan n op debug s) :=
  .ite h.setScanRes (.ite h.setScanRes h.onCrag)

protected theorem Keeps.cragWrite {n : Crag} {x : ExpRes} {f : State → State} (h : Keeps s₀ s)
    (hf : Keeps s₀ s → Keeps s₀ (f s)) : Keeps s₀ (cragWrite n x f s) := by
  unfold cragWrite
  split
  · split
    · exact h.setExp
    · exact h.setScanRes
  · exact h.underExp hf

protected theorem Keeps.execSuspend {n : Crag} {on : Bool} (h : Keeps s₀ s) : Completes s₀ (execSuspend n on s) :=
  (Keeps.ite h (h.cragWrite (fun h => h.setSuspend))).completes

protected theorem Keeps.execScanOut {n : Crag} (h : Keeps s₀ s) : Completes s₀ (execScanOut n s) :=
  (Keeps.ite h (h.cragWrite (fun h => h.startScan))).completes

protected theorem Keeps.execScanIn {n : Crag} (h : Keeps s₀ s) : Completes s₀ (execScanIn n s) :=
  (Keeps.ite h (h.cragWrite (fun h => h.startScan))).completes

protected theorem Keeps.writeScan {n : Crag} {image : List Byte} (h : Keeps s₀ s) :
    Keeps s₀ (writeScan n image s) := by
  unfold writeScan
  extract_lets a
  refine h.foldl (fun _ h => ?_)
  refine .ite h.storeBeat ?_
  split
  next e =>
    have h2 := h.draw.pair e
    exact h2.fltRecord

protected theorem Keeps.endScanOut {n : Crag} (h : Keeps s₀ s) : Keeps s₀ (endScanOut n s) := by
  unfold endScanOut
  extract_lets x image done
  have ended {v : State} (k : Keeps s₀ v) : Keeps s₀ (done v) := k.onCrag
  clear_value x image done
  refine .ite (ended h.upd) ?_
  split
  · exact h.copySome
  next e => exact ended (h.copyPages e).writeScan

protected theorem Keeps.endScanIn {n : Crag} {raced progBad : Bool} (h : Keeps s₀ s) :
    Keeps s₀ (endScanIn n raced progBad s) := by
  unfold endScanIn
  split
  · extract_lets v s1 _ s2 init bs _ s3
    have h1 : Keeps s₀ s1 := h.onCrag
    have h2 : Keeps s₀ s2 := h1.upd
    have h3 : Keeps s₀ s3 := h2.upd
    clear_value s1 s2 s3
    exact .ite h1 (.ite h2.onCrag h3.onCrag.noteRest)

protected theorem Keeps.execScanComplete {n : Crag} {fault raced progBad : Bool} (h : Keeps s₀ s) :
    Completes s₀ (execScanComplete n fault raced progBad s) := by
  unfold execScanComplete
  extract_lets x
  exact (Keeps.ite h (.ite h.onCrag.fenceCrag (.ite h.endScanOut h.endScanIn))).completes

protected theorem Keeps.setGateBits {u : KeepUnit} {g : Bool × Bool} (h : Keeps s₀ s) :
    Keeps s₀ (setGateBits u g s) := by
  unfold setGateBits
  split
  · exact h.onCrag
  · exact h.upd
  · exact h.upd

protected theorem Keeps.setOutcome {u : KeepUnit} {v : BitVec 2} (h : Keeps s₀ s) : Keeps s₀ (setOutcome u v s) := by
  unfold setOutcome
  split
  · exact h.onCrag
  · exact h.upd
  · exact h.upd

protected theorem Keeps.cutUnit {u : KeepUnit} (h : Keeps s₀ s) : Keeps s₀ (cutUnit u s) := by
  unfold cutUnit
  extract_lets g
  split
  · exact h
  · exact h.onLane
  · exact h.onKey

protected theorem Keeps.endHold {u : KeepUnit} (h : Keeps s₀ s) : Keeps s₀ (endHold u s) := h.upd

protected theorem Keeps.gateUnit {u : KeepUnit} {g : Bool × Bool} (h : Keeps s₀ s) : Keeps s₀ (gateUnit u g s) := by
  unfold gateUnit
  extract_lets s1 _
  have h1 : Keeps s₀ s1 := h.setGateBits
  clear_value s1
  exact .ite h (.ite h1.setOutcome.cutUnit (.ite h1.endHold.setOutcome (.ite h1 h1.upd.setOutcome)))

protected theorem Keeps.gateWrite {gs : List (KeepUnit × (Bool × Bool))} (h : Keeps s₀ s) :
    Keeps s₀ (gateWrite gs s) :=
  .ite h.setExp (h.foldl (fun _ h => h.gateUnit)).setExp.refreshView

protected theorem Keeps.execClkGate {n : Crag} {on : Bool} (h : Keeps s₀ s) : Completes s₀ (execClkGate n on s) :=
  (Keeps.ite h h.gateWrite).completes

protected theorem Keeps.execPwrGate {n : Crag} {on : Bool} (h : Keeps s₀ s) : Completes s₀ (execPwrGate n on s) :=
  (Keeps.ite h h.gateWrite).completes

protected theorem Keeps.laneGateWrite {v : Word} (h : Keeps s₀ s) : Keeps s₀ (laneGateWrite v s) := h.gateWrite

protected theorem Keeps.slotGateWrite {v : Word} (h : Keeps s₀ s) : Keeps s₀ (slotGateWrite v s) := h.gateWrite

protected theorem Keeps.execLaneGate {v : Word} (h : Keeps s₀ s) : Completes s₀ (execLaneGate v s) :=
  (Keeps.ite h h.laneGateWrite).completes

protected theorem Keeps.execSlotGate {v : Word} (h : Keeps s₀ s) : Completes s₀ (execSlotGate v s) :=
  (Keeps.ite h h.slotGateWrite).completes

protected theorem Keeps.releaseClaim {u : KeepUnit} (h : Keeps s₀ s) : Keeps s₀ (releaseClaim u s) := by
  unfold releaseClaim
  split
  · exact h.zeroCrag.onCrag
  · exact h.zeroLane.onLane
  · exact h.zeroKey.onKey

protected theorem Keeps.execKeepClaimRelease {u : KeepUnit} {readBackFails : Nat} (h : Keeps s₀ s) :
    Completes s₀ (execKeepClaimRelease u readBackFails s) := by
  unfold execKeepClaimRelease
  extract_lets loaded s1
  have h1 : Keeps s₀ s1 := h.releaseClaim.endHold.setOutcome.cutUnit
  clear_value s1
  exact (Keeps.ite h (Keeps.ite h1.zeroFail h1).refreshView).completes

protected theorem Keeps.execKeepHoldRefused {u : KeepUnit} (h : Keeps s₀ s) :
    Completes s₀ (execKeepHoldRefused u s) := by
  unfold execKeepHoldRefused
  refine Keeps.completes ?_
  split
  · exact h
  · exact h.endHold.setGateBits.setOutcome.advanceTo.raiseEvent

protected theorem Keeps.noteMove {src dst : Crag} {why : MoveWhy} (h : Keeps s₀ s) :
    Keeps s₀ (noteMove src dst why s) := by
  unfold noteMove
  split
  · exact h
  · extract_lets _ s1 s2
    have h1 : Keeps s₀ s1 := h.upd
    have h2 : Keeps s₀ s2 := .ite h1.advanceTo h1
    clear_value s1 s2
    split
    · exact h2.onCrag.onCrag
    · exact h2

protected theorem Keeps.moveProgram {src dst : Crag} (h : Keeps s₀ s) : Keeps s₀ (moveProgram src dst s) := by
  unfold moveProgram
  extract_lets x s1 _ s2
  have h1 : Keeps s₀ s1 := h.onCrag.setPlace.rebind
  have h2 : Keeps s₀ s2 := h1.upd
  clear_value s1 s2
  exact h2.unplace.onCrag

protected theorem Keeps.execPlacementMove {src dst : Crag} {why : MoveWhy} {res : MoveRes} (h : Keeps s₀ s) :
    Completes s₀ (execPlacementMove src dst why res s) := by
  unfold execPlacementMove
  extract_lets prog u s1
  have h1 : Keeps s₀ s1 := h.noteMove
  clear_value s1
  refine Keeps.completes ?_
  refine .ite h ?_
  split
  · exact h1.moveProgram.raiseEvent.refreshView.pumpWheels
  · exact h1.fenceCrag.raiseEvent
  · exact h1.fenceCrag

protected theorem Keeps.countCorr {u : Nat} (h : Keeps s₀ s) : Keeps s₀ (countCorr u s) := h.upd

protected theorem Keeps.markCorrected {u : Nat} (h : Keeps s₀ s) : Keeps s₀ (markCorrected u s) := h.upd

protected theorem Keeps.loseChannel {n : Fin 8} (h : Keeps s₀ s) : Keeps s₀ (loseChannel n s) := by
  unfold loseChannel
  extract_lets c p ws beats hit secs _ _ s1
  have h1 : Keeps s₀ s1 := h.upd
  clear_value s1
  exact .ite h h1.raiseEvent.recap.refreshView

protected theorem Keeps.loseOnfi {n : Fin 16} {why : Nat} (h : Keeps s₀ s) : Keeps s₀ (loseOnfi n why s) := by
  have cut : Keeps s₀ { s with st := { s.st with onfi := setBit s.st.onfi n.val false } } := h.upd
  unfold loseOnfi
  dsimp only
  split
  · exact h
  · refine Keeps.refreshView (Keeps.recap (Keeps.raiseEvent ?_))
    have gone := cut.discardWork (unit := 60 + n.val) (uses := fun _ c => s.st.staged.any (fun g => g.cid == c.cid
        && g.onChannel n))
    generalize discardWork _ _ _ = v at gone ⊢
    exact gone.upd

protected theorem Keeps.fenceUnit {u why : Nat} (h : Keeps s₀ s) : Keeps s₀ (fenceUnit u why s) :=
  .ite h.fenceCrag (.ite h.fenceRowan (.ite h.fenceLane (.ite h.loseChannel (.ite h.loseOnfi (.ite h.onPort.recap
      (.ite h.fenceWheel h))))))

protected theorem Keeps.countStorm {u : Nat} (h : Keeps s₀ s) : Keeps s₀ (countStorm u s) := by
  unfold countStorm
  extract_lets l _ s1
  have h1 : Keeps s₀ s1 := h.upd
  clear_value s1
  exact .ite h1.fenceUnit h1

protected theorem Keeps.poisonWord {n : Crag} {w : Nat} (h : Keeps s₀ s) : Keeps s₀ (poisonWord n w s) := by
  unfold poisonWord
  split
  · exact h.onCrag

protected theorem Keeps.lastingFault {u : Nat} {at_ : FaultAt} (h : Keeps s₀ s) :
    Keeps s₀ (lastingFault u at_ s) := by
  unfold lastingFault
  split
  · exact h.fenceUnit
  · exact h.loseChannel
  · exact h.loseOnfi
  · exact h.upd
  · exact .ite h h.upd.markBad
  · exact .ite h.poisonWord h

protected theorem Keeps.execInternalFault {u : BitVec 8} {at_ : FaultAt} {retryOk : Bool} (h : Keeps s₀ s) :
    Completes s₀ (execInternalFault u at_ retryOk s) := by
  unfold execInternalFault
  extract_lets n s1
  have h1 : Keeps s₀ s1 := h.countCorr.markCorrected
  clear_value s1
  refine Keeps.completes ?_
  refine .ite h ?_
  split
  · exact h.lastingFault
  · refine .ite h.lastingFault.pumpWheels ?_
    refine .ite h ?_
    split
    · exact h1
    · exact .ite h1.onCrag h1
    · exact (Keeps.ite h1.onRowan h1).countStorm

/-! ### Management -/

protected theorem Keeps.reply {kind : String} {bytes : List Byte} (h : Keeps s₀ s) : Keeps s₀ (reply kind bytes s) :=
  h.emit

protected theorem Keeps.replyFree {kind : String} (h : Keeps s₀ s) : Keeps s₀ (replyFree kind s) := h.upd.reply

protected theorem Keeps.serveRequest {need : MgmtNeed} {f : State → State} (h : Keeps s₀ s)
    (hf : ∀ {s : State}, Keeps s₀ s → Keeps s₀ (f s)) : Keeps s₀ (serveRequest need f s) := by
  unfold serveRequest
  exact .ite h (.ite (hf h) (.ite h.upd.emit.reply (.ite h.reply (.ite (.ite (hf (.ite h.wakeNap h)) h.reply) (hf
      h)))))

protected theorem Keeps.execSetEndpointId {eid : Byte} (h : Keeps s₀ s) : Completes s₀ (execSetEndpointId eid s) :=
  (h.serveRequest (fun h => h.upd.reply)).completes

protected theorem Keeps.execI3cDynamicAddress {a : BitVec 7} (h : Keeps s₀ s) :
    Completes s₀ (execI3cDynamicAddress a s) :=
  (Keeps.ite h.upd.alertPin h).completes

protected theorem Keeps.execRstdaa (h : Keeps s₀ s) : Completes s₀ (execRstdaa s) :=
  (Keeps.ite h.upd.alertPin h).completes

protected theorem Keeps.execPldmBaseRequest {cmd : Byte} (h : Keeps s₀ s) :
    Completes s₀ (execPldmBaseRequest cmd s) :=
  (h.serveRequest (fun h => h.reply.replyFree)).completes

protected theorem Keeps.execFruDataRequest {cmd : Byte} (h : Keeps s₀ s) : Completes s₀ (execFruDataRequest cmd s) :=
  (h.serveRequest (fun h => h.reply.replyFree)).completes

protected theorem Keeps.execGetPdr {handle : Word} (h : Keeps s₀ s) : Completes s₀ (execGetPdr handle s) :=
  (h.serveRequest (fun h => h.reply.replyFree)).completes

protected theorem Keeps.execViewAck {gen : BitVec 16} (h : Keeps s₀ s) : Completes s₀ (execViewAck gen s) := by
  unfold execViewAck
  refine Keeps.completes ?_
  split
  · exact h
  · extract_lets later same _ _
    exact h.upd

protected theorem Keeps.execViewSkew (h : Keeps s₀ s) : Completes s₀ (execViewSkew s) :=
  (Keeps.ite h h.upd.raiseEvent).completes

protected theorem Keeps.readSensor {k : Sensor} (h : Keeps s₀ s) : Keeps s₀ (readSensor k s) := by
  unfold readSensor
  split
  · exact h.reply
  · exact h.reply
  · refine .ite h.reply ?_
    split
    · exact h.reply
    · exact h.reply
  · exact h.replyFree
  · exact h.replyFree
  · exact h.replyFree
  · exact h.replyFree
  · exact h.replyFree

protected theorem Keeps.execSensorReading {k : Sensor} (h : Keeps s₀ s) : Completes s₀ (execSensorReading k s) :=
  (h.serveRequest (fun h => h.readSensor)).completes

protected theorem Keeps.execSetPowerCap {watts : Nat} (h : Keeps s₀ s) : Completes s₀ (execSetPowerCap watts s) :=
  (h.serveRequest (fun h => .ite h.reply h.upd.reply)).completes

protected theorem Keeps.markedOffline {u : Nat} (h : Keeps s₀ s) : Keeps s₀ (markedOffline u s) := by
  unfold markedOffline
  extract_lets x
  exact .ite (.ite h.raiseEvent h) (.ite h.requeue (.ite h.onPort.recap h))

protected theorem Keeps.execUnitOffline {u : Nat} (h : Keeps s₀ s) : Completes s₀ (execUnitOffline u s) :=
  (h.serveRequest (fun h => .ite h.reply (.ite h.reply h.upd.markedOffline.refreshView.reply))).completes

protected theorem Keeps.execUnitOnline {u : Nat} (h : Keeps s₀ s) : Completes s₀ (execUnitOnline u s) := by
  unfold execUnitOnline
  refine Keeps.completes ?_
  refine h.serveRequest (fun h => ?_)
  extract_lets _ s1 s2
  have h2 : Keeps s₀ s1 := h.upd
  have h3 : Keeps s₀ s2 := .ite h2.onPort h2
  clear_value s1 s2
  exact .ite h.reply h3.recap.refreshView.assignXfers.reply

protected theorem Keeps.execSetEventReceiver {on : Bool} (h : Keeps s₀ s) :
    Completes s₀ (execSetEventReceiver on s) :=
  (h.serveRequest (fun h => h.upd.reply)).completes

protected theorem Keeps.execPollForPlatformEventMessage (h : Keeps s₀ s) :
    Completes s₀ (execPollForPlatformEventMessage s) := by
  unfold execPollForPlatformEventMessage
  refine Keeps.completes ?_
  refine h.serveRequest (fun h => ?_)
  split
  · exact h.reply
  · exact h.upd.reply.alertPin

protected theorem Keeps.execRequestUpdate (h : Keeps s₀ s) : Completes s₀ (execRequestUpdate s) :=
  (h.serveRequest (fun h => .ite h.reply h.upd.reply)).completes

protected theorem Keeps.execFirmwareUpdateData {off : Nat} {bytes : List Byte} (h : Keeps s₀ s) :
    Completes s₀ (execFirmwareUpdateData off bytes s) :=
  (h.serveRequest (fun h => .ite h.reply h.upd)).completes

protected theorem Keeps.execVerifyComplete {sigOk : Bool} {svn : BitVec 16} {ver : Word} (h : Keeps s₀ s) :
    Completes s₀ (execVerifyComplete sigOk svn ver s) :=
  (h.serveRequest (fun h => .ite h.reply (.ite h.upd.reply h.upd.reply))).completes

protected theorem Keeps.execActivateFirmware (h : Keeps s₀ s) : Completes s₀ (execActivateFirmware s) :=
  (h.serveRequest (fun h => .ite h.reply h.upd.reply)).completes

protected theorem Keeps.execSpdmSecuredSession {mutualOk certOk usageOk : Bool} (h : Keeps s₀ s) :
    Completes s₀ (execSpdmSecuredSession mutualOk certOk usageOk s) :=
  (h.serveRequest (fun h => h.upd.reply)).completes

protected theorem Keeps.underSession {f : State → State}
    (h : Keeps s₀ s) (hf : ∀ {s : State}, Keeps s₀ s → Keeps s₀ (f s)) :
    Keeps s₀ (underSession f s) := by
  unfold underSession
  exact .ite (hf h) h.reply

protected theorem Keeps.execKeyLoad {slot alg tenant : Nat} {label : BitVec 16} {key : List Byte}
    (h : Keeps s₀ s) : Completes s₀ (execKeyLoad slot alg tenant label key s) := by
  unfold execKeyLoad
  refine Keeps.completes ?_
  refine h.serveRequest (fun h => ?_)
  refine h.underSession (fun h1 => ?_)
  extract_lets k x
  exact .ite h1.reply h1.onKey.reply

protected theorem Keeps.execKeyZero {slot : Nat} {readBackFails : Nat} (h : Keeps s₀ s) :
    Completes s₀ (execKeyZero slot readBackFails s) := by
  unfold execKeyZero
  refine Keeps.completes ?_
  refine h.serveRequest (fun h => ?_)
  refine h.underSession (fun h1 => ?_)
  extract_lets k s1
  have h3 : Keeps s₀ s1 := h1.zeroKey
  clear_value s1
  exact .ite h1.reply (Keeps.ite h3.zeroFail h3).reply

protected theorem Keeps.execKeyList (h : Keeps s₀ s) : Completes s₀ (execKeyList s) :=
  (h.serveRequest (fun h => h.underSession (fun h1 => h1.reply))).completes

end

end Sys2Proof.Proofs

/-! What every step keeps: resets, registers, debug access, and every step. -/

namespace Sys2Proof.Proofs

open Sys2Proof Sys2Proof.Machine Sys2Proof.Safety Sys2Proof.Laws

section

-- Hundreds of short rules: proved in turn, they never wait for one another in threads of their own.
set_option Elab.async false

variable {s₀ s t u : State}

/-! ### Resets -/

protected theorem Keeps.answerAbort {r : Ring} {a : AbortRec} (h : Keeps s₀ s) : Keeps s₀ (answerAbort r a s) := by
  unfold answerAbort
  extract_lets tag d0 d1
  refine .ite h.complete ?_
  refine .ite h.complete ?_
  split
  · exact h.complete.complete
  · exact h.complete

protected theorem Keeps.execAbortTag {r : Ring} (h : Keeps s₀ s) : Completes s₀ (execAbortTag r s) := by
  unfold execAbortTag
  refine Keeps.completes ?_
  refine .ite h ?_
  split
  · exact h
  · exact h.onRing.answerAbort

protected theorem Keeps.stopElsewhere {cid : Nat} (h : Keeps s₀ s) : Keeps s₀ (stopElsewhere cid s) := by
  have gone := (h.abortContexts (cid := cid)).dropCmdXfers (cid := cid)
  unfold stopElsewhere
  dsimp only
  generalize dropCmdXfers cid (abortContexts cid s) = v at gone ⊢
  split
  · split
    · exact gone.upd
    · exact gone
  · exact gone

protected theorem Keeps.writeIfFree {r : Ring} {e : Entry} (h : Keeps s₀ s) : Keeps s₀ (writeIfFree r e s).2 := by
  unfold writeIfFree
  extract_lets x
  split
  · exact .iteSnd (.ite h.leaveScopes h) h.writeEntry
  · exact .ite h.leaveScopes h

protected theorem Keeps.writeDying {r : Ring} {d : Dying} (h : Keeps s₀ s) : Keeps s₀ (writeDying r d s).2 := by
  unfold writeDying
  extract_lets n _
  exact h.foldlPair (fun _ h => h.writeIfFree)

protected theorem Keeps.writeDiscards {r : Ring} (h : Keeps s₀ s) : Keeps s₀ (writeDiscards r s) := by
  unfold writeDiscards
  extract_lets ds dead
  split
  next e =>
    have h1 := Keeps.pair (s₀ := s₀) (by
      refine h.foldlPair (fun _ h => ?_)
      split
      next e =>
        have h2 := h.writeDying.pair e
        exact h2) e
    exact h1.onRing

protected theorem Keeps.tryDiscards {r : Ring} (h : Keeps s₀ s) : Keeps s₀ (tryDiscards r s) :=
  .ite h (.ite h.askTranslation h.writeDiscards)

protected theorem Keeps.beginReset {r : Ring} {stall : Bool} (h : Keeps s₀ s) : Keeps s₀ (beginReset r stall s) := by
  unfold beginReset
  extract_lets ds dead load s1 _ _ s2 s3 s4
  have h1 : Keeps s₀ s1 := h.onRing
  have h2 : Keeps s₀ s2 := h1.upd
  have h3 : Keeps s₀ s3 := h2.foldl (fun _ h2 => h2.stopElsewhere)
  have h4 : Keeps s₀ s4 := .ite h3.endLoad h3
  clear_value s1 s2 s3 s4
  exact h4.tryDiscards.settleFlushes

protected theorem Keeps.execRingReset {r : Ring} (h : Keeps s₀ s) : Completes s₀ (execRingReset r s) := by
  unfold execRingReset
  extract_lets s1
  have h1 : Keeps s₀ s1 := h.setExp
  clear_value s1
  exact (Keeps.ite h (.ite h1 h1.beginReset)).completes

protected theorem Keeps.execRingResetEnd {r : Ring} (h : Keeps s₀ s) : Completes s₀ (execRingResetEnd r s) := by
  unfold execRingResetEnd
  extract_lets s1
  have h1 : Keeps s₀ s1 := .ite h h.writeDiscards
  clear_value s1
  exact (Keeps.ite h (.ite h.askTranslation h1.onRing)).completes

protected theorem Keeps.execStall {r : Ring} (h : Keeps s₀ s) : Completes s₀ (execStall r s) := by
  unfold execStall
  refine Keeps.completes ?_
  split
  · exact h
  · extract_lets s1
    have h1 : Keeps s₀ s1 := h.advanceTo
    clear_value s1
    refine .ite h ?_
    split
    · exact h1.onRing.raiseEvent.beginReset

/-! ### The watchdog -/

protected theorem Keeps.expire {arg : Word} (h : Keeps s₀ s) : Keeps s₀ (expire arg s) := by
  unfold expire
  extract_lets early cause fails s1 _ _
  have h1 : Keeps s₀ s1 := h.tableReset.emit
  clear_value s1
  exact .ite h (.ite h1 (.ite h1.upd h1.upd))

protected theorem Keeps.serve (h : Keeps s₀ s) : Keeps s₀ (serve s) := by
  unfold serve
  split
  next e =>
    have h1 := h.draw.pair e
    exact h1.upd

protected theorem Keeps.tokenWrite {v : Word} (h : Keeps s₀ s) : Keeps s₀ (tokenWrite v s) :=
  .ite h (.ite h.serve (.ite h.expire h.upd.raiseEvent))

protected theorem Keeps.execWdtToken {v : Word} (h : Keeps s₀ s) : Completes s₀ (execWdtToken v s) :=
  h.tokenWrite.completes

protected theorem Keeps.execWdtWarn (h : Keeps s₀ s) : Completes s₀ (execWdtWarn s) := by
  unfold execWdtWarn
  extract_lets s1 left _
  have h1 : Keeps s₀ s1 := h.advanceTo
  clear_value s1
  exact (Keeps.ite h h1.upd.raiseEvent).completes

protected theorem Keeps.execWatchdogExpiry (h : Keeps s₀ s) : Completes s₀ (execWatchdogExpiry s) :=
  (Keeps.ite h.advanceTo.expire h).completes

/-! ### Registers read -/

protected theorem Keeps.ringClear {r : Ring} {o : Nat} (h : Keeps s₀ s) : Keeps s₀ (ringClear r o s) := h.onRing

protected theorem Keeps.cairnClear {o : Nat} (h : Keeps s₀ s) : Keeps s₀ (cairnClear o s) := .ite h h.onCairn

protected theorem Keeps.wheelClear {o : Nat} (h : Keeps s₀ s) : Keeps s₀ (wheelClear o s) := by
  unfold wheelClear
  extract_lets p _
  exact .ite h.onWheel h.upd

protected theorem Keeps.rowanClear {o : Nat} (h : Keeps s₀ s) : Keeps s₀ (rowanClear o s) := h.onRowan

protected theorem Keeps.sloeClear {o : Nat} (h : Keeps s₀ s) : Keeps s₀ (sloeClear o s) := .ite h h.onLane

protected theorem Keeps.watchClear {o : Nat} (h : Keeps s₀ s) : Keeps s₀ (watchClear o s) :=
  .ite h.onRing (.ite h.upd (.ite h.upd (.ite h.upd h)))

protected theorem Keeps.pairClear {o : Nat} (h : Keeps s₀ s) : Keeps s₀ (pairClear o s) := by
  unfold pairClear
  split
  · exact h.upd
  · split
    · refine h.onPeer fun p => ?_
      dsimp only
      split_ifs <;> exact Nat.le_refl _
    · exact h

protected theorem Keeps.vaultClear {o : Nat} (h : Keeps s₀ s) : Keeps s₀ (vaultClear o s) := by
  unfold vaultClear
  refine h.upd ?_
  dsimp only
  split_ifs <;> rfl

protected theorem Keeps.atpuClear {o : Nat} (h : Keeps s₀ s) : Keeps s₀ (atpuClear o s) := .ite h.upd h

protected theorem Keeps.cragClear {n : Crag} {o : Nat} (h : Keeps s₀ s) : Keeps s₀ (cragClear n o s) :=
  .ite h h.onCrag

protected theorem Keeps.clearWord {off : Nat} (h : Keeps s₀ s) : Keeps s₀ (clearWord off s) := by
  unfold clearWord
  exact .ite (.ite h.upd (.ite h.upd h)) (.ite h.watchClear (.ite h (.ite h.ringClear (.ite h.cairnClear (.ite
      h.wheelClear
    (.ite (.ite h.rowanClear h) (.ite h.sloeClear (.ite (.ite h.upd h) (.ite h.pairClear (.ite h.vaultClear (.ite
        h.atpuClear
    (.ite h.cragClear h))))))))))))

protected theorem Keeps.readWord {off : Nat} (h : Keeps s₀ s) : Keeps s₀ (readWord off s).2 := h.clearWord

protected theorem Keeps.readWords {n off : Nat} (h : Keeps s₀ s) : Keeps s₀ (readWords n off s).2 := by
  induction n generalizing s off with
  | zero => exact h
  | succ n ih => exact ih h.clearWord

/-! ### Power commands -/

protected theorem Keeps.stateReq {v : BitVec 2} (h : Keeps s₀ s) : Keeps s₀ (stateReq v s) := by
  unfold stateReq
  extract_lets _ s1
  have h1 : Keeps s₀ s1 := h.upd
  clear_value s1
  exact .ite h1 (.ite h1.wake h1)

protected theorem Keeps.stateReqWrite {v : BitVec 2} (h : Keeps s₀ s) : Keeps s₀ (stateReqWrite v s) :=
  .ite h (.ite h.setExp h.stateReq.setExp)

protected theorem Keeps.execStateReqNap (h : Keeps s₀ s) : Completes s₀ (execStateReqNap s) :=
  h.stateReqWrite.completes

protected theorem Keeps.execStateReqActive (h : Keeps s₀ s) : Completes s₀ (execStateReqActive s) :=
  h.stateReqWrite.completes

protected theorem Keeps.execStateReqAuto (h : Keeps s₀ s) : Completes s₀ (execStateReqAuto s) :=
  h.stateReqWrite.completes

protected theorem Keeps.execNapEntry (h : Keeps s₀ s) : Completes s₀ (execNapEntry s) := (Keeps.ite h.upd h).completes

protected theorem Keeps.execIdleEntry (h : Keeps s₀ s) : Completes s₀ (execIdleEntry s) :=
  (Keeps.ite h.upd h).completes

protected theorem Keeps.execPwrbrkNAssert (h : Keeps s₀ s) : Completes s₀ (execPwrbrkNAssert s) :=
  (Keeps.ite h h.upd.recap).completes

protected theorem Keeps.execPwrbrkNDeassert (h : Keeps s₀ s) : Completes s₀ (execPwrbrkNDeassert s) :=
  (Keeps.ite h.upd.recap h).completes

protected theorem Keeps.execDvfsEval {m : PowerMeas} (h : Keeps s₀ s) : Completes s₀ (execDvfsEval m s) := by
  unfold execDvfsEval
  extract_lets cap mem _
  exact (Keeps.ite h h.upd.askStep.recap).completes

protected theorem Keeps.execAvsAdjust {mv : Nat} (h : Keeps s₀ s) : Completes s₀ (execAvsAdjust mv s) := by
  unfold execAvsAdjust
  extract_lets want v new _ s1 lim _
  have h1 : Keeps s₀ s1 := h.upd
  clear_value s1
  exact (Keeps.ite h (.ite h1 h1.upd.askStep.raiseEvent)).completes

protected theorem Keeps.execClkStepChange (h : Keeps s₀ s) : Completes s₀ (execClkStepChange s) := by
  have step (w : BitVec 2) : (changeStep w s.pw).rdy = s.pw.rdy ∧ (changeStep w s.pw).phase = s.pw.phase := by
    unfold changeStep
    split <;> exact ⟨rfl, rfl⟩
  unfold execClkStepChange
  refine Keeps.completes ?_
  generalize (if s.pw.phase = .holdUp then none else s.pw.stepWant) = want
  split
  · exact h
  · split
    · exact h
    · exact h.upd (hr := (step _).1) (hp := (step _).2)

protected theorem Keeps.execThermalThreshold {degC : Nat} (h : Keeps s₀ s) :
    Completes s₀ (execThermalThreshold degC s) := by
  unfold execThermalThreshold
  extract_lets a b c _ s1 s2 s3 s4
  have h1 : Keeps s s1 := (Keeps.refl s).upd
  have h2 : Keeps s s2 := .ite h1 h1.emit
  have h3 : Keeps s s3 := .ite h2.raiseEvent h2
  have h4 : Keeps s s4 := .ite h3.raiseEvent h3
  have kept : Keeps s₀ s4 := h.trans h4
  clear_value s1 s2 s3 s4
  refine Keeps.completes ?_
  split
  next hold =>
    exact .ite (kept.enterPhase fun bound => h4.unready (h.off (by rw [hold]; decide) bound)) kept
  · exact .ite kept.beginHoldUp (.ite kept.askStep.refreshView kept)

protected theorem Keeps.execSupplyRange {which : Supply} {mv : Int} (h : Keeps s₀ s) :
    Completes s₀ (execSupplyRange which mv s) := by
  unfold execSupplyRange
  split
  split
  · exact .fault
  · refine Keeps.completes ?_
    extract_lets s1
    have h1 : Keeps s₀ s1 := .ite h.raiseEvent h
    clear_value s1
    refine .ite ?_ h1
    exact h1.upd.beginHoldUp

protected theorem Keeps.execClkFail (h : Keeps s₀ s) : Completes s₀ (execClkFail s) :=
  (Keeps.ite h.upd.beginHoldUp h).completes

protected theorem Keeps.execHoldupBankCheck {mJ : Nat} (h : Keeps s₀ s) :
    Completes s₀ (execHoldupBankCheck mJ s) := by
  unfold execHoldupBankCheck
  extract_lets s1
  have h1 : Keeps s₀ s1 := h.checkBank
  clear_value s1
  exact (Keeps.ite h (.ite (.ite h1.busyOff h1) h1.commitTail)).completes

protected theorem Keeps.execAuxConnectorSense {a : AuxInd} (h : Keeps s₀ s) :
    Completes s₀ (execAuxConnectorSense a s) := by
  unfold execAuxConnectorSense
  extract_lets _ s1 _
  have h1 : Keeps s₀ s1 := h.upd
  clear_value s1
  exact (Keeps.ite (Keeps.ite h1.busyOn h1.busyOff).askStep (.ite h1.upd h1)).completes

protected theorem Keeps.execRbNAttentionPulse (h : Keeps s₀ s) : Completes s₀ (execRbNAttentionPulse s) :=
  (Keeps.ite h h.upd.emit).completes

protected theorem Keeps.execRbNPulseRepeat (h : Keeps s₀ s) : Completes s₀ (execRbNPulseRepeat s) :=
  (Keeps.ite h (.ite h.upd h.advanceTo.emit)).completes

protected theorem Keeps.execRbNBusyEnd (h : Keeps s₀ s) : Completes s₀ (execRbNBusyEnd s) := by
  unfold execRbNBusyEnd
  extract_lets s1 _
  have h1 : Keeps s₀ s1 := h.advanceTo
  clear_value s1
  exact (Keeps.ite h h1.upd.emit).completes

/-! ### Registers written -/

protected theorem Keeps.closeArm (h : Keeps s₀ s) : Keeps s₀ (closeArm s) := h.upd

protected theorem Keeps.expertArm {t : Tenant} {v : BitVec 16} (h : Keeps s₀ s) : Keeps s₀ (expertArm t v s) := by
  unfold expertArm
  refine .ite h ?_
  split
  next e =>
    have h1 := h.draw.pair e
    extract_lets n _
    exact h1.upd

protected theorem Keeps.failUnlock {t : Tenant} (h : Keeps s₀ s) : Keeps s₀ (failUnlock t s) := by
  unfold failUnlock
  extract_lets n _ s1 _
  have h1 : Keeps s₀ s1 := h.upd
  clear_value s1
  exact .ite h1 h1.upd.raiseEvent

protected theorem Keeps.expertUnlock {t : Tenant} {v : BitVec 16} (h : Keeps s₀ s) :
    Keeps s₀ (expertUnlock t v s) := by
  unfold expertUnlock
  extract_lets code s1 _
  have h1 : Keeps s₀ s1 := h.closeArm
  clear_value s1
  exact .ite h1.upd h1.failUnlock

protected theorem Keeps.expertLock {t : Tenant} {v : BitVec 16} (h : Keeps s₀ s) : Keeps s₀ (expertLock t v s) :=
  .ite h h.upd

protected theorem Keeps.execExpertArm {t : Tenant} {v : BitVec 16} (h : Keeps s₀ s) :
    Completes s₀ (execExpertArm t v s) :=
  (Keeps.ite h h.expertArm).completes

protected theorem Keeps.execExpertUnlock {t : Tenant} {v : BitVec 16} (h : Keeps s₀ s) :
    Completes s₀ (execExpertUnlock t v s) :=
  (Keeps.ite h h.expertUnlock).completes

protected theorem Keeps.execExpertLock {t : Tenant} {v : BitVec 16} (h : Keeps s₀ s) :
    Completes s₀ (execExpertLock t v s) :=
  (Keeps.ite h h.expertLock).completes

protected theorem Keeps.execExpertArmExpire (h : Keeps s₀ s) : Completes s₀ (execExpertArmExpire s) :=
  (Keeps.ite h h.advanceTo.closeArm).completes

protected theorem Keeps.setPend {f : FieldId} {v : Option Nat} (h : Keeps s₀ s) : Keeps s₀ (setPend f v s) := by
  unfold setPend
  extract_lets rest _
  exact h.upd

protected theorem Keeps.applyDepth {w : Wheel} {n : Nat} (h : Keeps s₀ s) : Keeps s₀ (applyDepth w n s) :=
  h.onWheel.pumpWheels

protected theorem Keeps.applyCeil {n : Nat} (h : Keeps s₀ s) : Keeps s₀ (applyCeil n s) := h.upd.askStep

protected theorem Keeps.execExpertWriteTakesEffect {f : FieldId} (h : Keeps s₀ s) :
    Completes s₀ (execExpertWriteTakesEffect f s) := by
  unfold execExpertWriteTakesEffect
  refine Keeps.completes ?_
  refine .ite h ?_
  split
  · exact .ite h.setPend.applyDepth h
  · exact .ite h h.setPend.applyCeil
  · exact h

protected theorem Keeps.after {o : Host.Outcome State Fault Refusal} (h : Keeps s₀ s) (ho : Completes s₀ o) :
    Keeps s₀ (after o s) := by
  unfold after
  split
  · exact ho _ rfl
  · exact h

protected theorem Keeps.dbgLog {kind : Byte} (h : Keeps s₀ s) : Keeps s₀ (dbgLog kind s) := h.upd

protected theorem Keeps.devCtlWrite {v : Word} (h : Keeps s₀ s) : Keeps s₀ (devCtlWrite v s) := by
  unfold devCtlWrite
  extract_lets _ t
  refine .ite h.upd ?_
  split
  · exact h.expertArm
  · exact h.expertUnlock
  · exact h.expertLock
  · exact h

protected theorem Keeps.globalWrite {o : Nat} {v : Word} (h : Keeps s₀ s) : Keeps s₀ (globalWrite o v s) :=
  .ite (h.after h.execFactoryResetCommand) (.ite h (.ite h.devCtlWrite (.ite h.laneGateWrite (.ite h.slotGateWrite
      (.ite h.bar2WinWrite h)))))

protected theorem Keeps.rngCtlWrite {r : Ring} {v : Word} (h : Keeps s₀ s) : Keeps s₀ (rngCtlWrite r v s) := by
  unfold rngCtlWrite
  dsimp only
  split
  · exact (Keeps.ite (h.onRing.after h.onRing.execRingReset) h.onRing).setExp
  · exact (Keeps.ite (h.after h.execRingReset) h).setExp
  · exact h.setExp

protected theorem Keeps.tagCapWrite {r : Ring} {v : Word} (h : Keeps s₀ s) : Keeps s₀ (tagCapWrite r v s) := by
  unfold tagCapWrite
  extract_lets n x
  exact h.underExp (fun h => h.onRing.pumpWheels)

protected theorem Keeps.ringWrite {r : Ring} {o : Nat} {v : Word} (h : Keeps s₀ s) : Keeps s₀ (ringWrite r o v s) :=
  .ite (h.after h.execTrbGo) (.ite h.rngCtlWrite (.ite h.tagCapWrite (.ite h.cplSetup (.ite h.cplSetup (.ite
      h.cplSetup (.ite h.cplHead (.ite h.deferHead h)))))))

protected theorem Keeps.setReach {c : Cairn} {target : Word} {f : CairnSt → CairnSt} (h : Keeps s₀ s) :
    Keeps s₀ (setReach c target f s) := by
  unfold setReach
  split
  · exact h.setExp
  · refine Keeps.setExp ?_
    refine Keeps.announcing ?_
    exact h.onCairn
  · exact h.onCairn.setExp

protected theorem Keeps.crnCfgWrite {c : Cairn} {v : Word} (h : Keeps s₀ s) : Keeps s₀ (crnCfgWrite c v s) := by
  unfold crnCfgWrite
  extract_lets x ring f
  exact .ite h.setExp (.ite h.setReach h.onCairn.setExp)

protected theorem Keeps.cairnWrite {c : Cairn} {o : Nat} {v : Word} (h : Keeps s₀ s) :
    Keeps s₀ (cairnWrite c o v s) := by
  unfold cairnWrite
  extract_lets f
  exact .ite h.setExp (.ite h.crnCfgWrite (.ite (.ite h.setReach h.onCairn.setExp) (.ite h.onCairn.setExp (.ite
      h.onCairn.setExp h))))

protected theorem Keeps.cairnBlockWrite {o : Nat} {v : Word} (h : Keeps s₀ s) : Keeps s₀ (cairnBlockWrite o v s) :=
  .ite h.cairnWrite (.ite h.upd h)

protected theorem Keeps.wheelCfgWrite {w : Wheel} {v : Word} (h : Keeps s₀ s) : Keeps s₀ (wheelCfgWrite w v s) := by
  unfold wheelCfgWrite
  extract_lets x d p newD newP owner res
  refine h.underExp (fun h => ?_)
  extract_lets s1 s2
  have h2 : Keeps s₀ s1 := .ite h.onWheel h
  have h3 : Keeps s₀ s2 := .ite h2.flagWarn h2
  clear_value s1 s2
  exact (Keeps.ite h3 (.ite h3.setPend.applyDepth (.ite h3.setPend h3.setPend))).pumpWheels

protected theorem Keeps.wheelBlockWrite {o : Nat} {v : Word} (h : Keeps s₀ s) : Keeps s₀ (wheelBlockWrite o v s) :=
  .ite (.ite h.wheelCfgWrite h) (.ite h.orcInvWrite h)

protected theorem Keeps.srCtlWrite {v : Word} (h : Keeps s₀ s) : Keeps s₀ (srCtlWrite v s) := by
  unfold srCtlWrite
  extract_lets l c
  split
  · exact h.after h.execSrSave
  · exact h.after h.execSrRestore
  · exact h.underExp (fun h => h.upd)

protected theorem Keeps.sloeBlockWrite {o : Nat} {v : Word} (h : Keeps s₀ s) : Keeps s₀ (sloeBlockWrite o v s) :=
  .ite (.ite h.onLane h) (.ite h.srCtlWrite (.ite h.upd (.ite h.upd h)))

protected theorem Keeps.windowSWrite {v : Word} (h : Keeps s₀ s) : Keeps s₀ (windowSWrite v s) := by
  unfold windowSWrite
  extract_lets n _
  exact .ite h.upd.setExp h.setExp

protected theorem Keeps.stallMsWrite {r : Ring} {v : Word} (h : Keeps s₀ s) : Keeps s₀ (stallMsWrite r v s) := by
  unfold stallMsWrite
  extract_lets n x
  exact h.underExp (fun h => h.onRing)

protected theorem Keeps.watchBlockWrite {dbg : Bool} {o : Nat} {v : Word} (h : Keeps s₀ s) :
    Keeps s₀ (watchBlockWrite dbg o v s) :=
  .ite h (.ite h.windowSWrite (.ite (Keeps.ite h.dbgLog h).tokenWrite (.ite h.stallMsWrite (.ite h.evtHead h))))

protected theorem Keeps.admBlockWrite {o : Nat} {v : Word} (h : Keeps s₀ s) : Keeps s₀ (admBlockWrite o v s) :=
  .ite h.svcWrite h

protected theorem Keeps.clkCtlWrite {v : Word} (h : Keeps s₀ s) : Keeps s₀ (clkCtlWrite v s) := by
  unfold clkCtlWrite
  extract_lets cap place ceil req below newCeil xCeil xPlace capBad x rej _ s0
  have h1 : Keeps s₀ s0 := .ite h.upd h
  clear_value s0
  refine h1.underExp (fun h1 => ?_)
  extract_lets _ s1 s2
  have h3 : Keeps s₀ s1 := h1.upd
  have h4 : Keeps s₀ s2 := .ite h3 (.ite h3.setPend h3.setPend.applyCeil)
  clear_value s1 s2
  exact .ite h4 h4.stateReq

protected theorem Keeps.portWrite {p : PPort} {o : Nat} {v : Word} (h : Keeps s₀ s) : Keeps s₀ (portWrite p o v s) :=
  h.onPort

protected theorem Keeps.pairBlockWrite {o : Nat} {v : Word} (h : Keeps s₀ s) : Keeps s₀ (pairBlockWrite o v s) :=
  .ite h.portWrite (.ite h.peerWrite h)

protected theorem Keeps.pasidWrite {r : Ring} {v : Word} (h : Keeps s₀ s) : Keeps s₀ (pasidWrite r v s) :=
  .ite h.setExp h.onRing.setExp

protected theorem Keeps.atpuBlockWrite {o : Nat} {v : Word} (h : Keeps s₀ s) : Keeps s₀ (atpuBlockWrite o v s) :=
  .ite h.pasidWrite (.ite h.windowWrite h)

protected theorem Keeps.cragCtlWrite {dbg : Bool} {n : Crag} {v : Word} (h : Keeps s₀ s) :
    Keeps s₀ (cragCtlWrite dbg n v s) := by
  unfold cragCtlWrite
  extract_lets c gates op scan sus xs x
  refine .ite h.gateWrite ?_
  refine h.cragWrite (fun h => ?_)
  extract_lets s1 s2
  have h2 : Keeps s₀ s1 := h.gateWrite
  have h3 : Keeps s₀ s2 := .ite h2.setSuspend h2
  clear_value s1 s2
  exact .ite h3.startScan h3

protected theorem Keeps.cragWindowWrite {dbg : Bool} {n : Crag} {o : Nat} {v : Word} (h : Keeps s₀ s) :
    Keeps s₀ (cragWindowWrite dbg n o v s) :=
  .ite h.cragCtlWrite (.ite h.onCrag h)

protected theorem Keeps.writeWord {dbg : Bool} {off : Nat} {v : Word} (h : Keeps s₀ s) :
    Keeps s₀ (writeWord dbg off v s) := by
  unfold writeWord
  exact .ite h.globalWrite (.ite h (.ite h.ringWrite (.ite h.cairnBlockWrite (.ite h.wheelBlockWrite (.ite
      h.sloeBlockWrite
    (.ite h.watchBlockWrite (.ite h.admBlockWrite (.ite (.ite h.clkCtlWrite h) (.ite h.pairBlockWrite (.ite
        h.atpuBlockWrite
    (.ite h.cragWindowWrite h)))))))))))

protected theorem Keeps.trbWrite {r : Ring} {o size : Nat} {v : BitVec 512} (h : Keeps s₀ s) :
    Keeps s₀ (trbWrite r o size v s) := by
  unfold trbWrite
  extract_lets mask
  exact h.onRing

protected theorem Keeps.pageStore {off size : Nat} {v : Word} (h : Keeps s₀ s) : Keeps s₀ (pageStore off size v s) :=
  h.pageWrite.resumeUnits

protected theorem Keeps.badAccess {off : Nat} (h : Keeps s₀ s) : Keeps s₀ (badAccess off s) := .ite h.upd h

protected theorem Keeps.writeWords {dbg : Bool} {n off : Nat} {v : BitVec 512} (h : Keeps s₀ s) :
    Keeps s₀ (writeWords dbg n off v s) := by
  induction n generalizing s off v with
  | zero => exact h
  | succ n ih =>
    unfold writeWords
    dsimp only
    refine ih ?_
    split
    · split
      · exact h.pageStore
      · exact h
    · exact h.writeWord

protected theorem Keeps.storeAt {dbg : Bool} {off size : Nat} {v : BitVec 512} (h : Keeps s₀ s) :
    Keeps s₀ (storeAt dbg off size v s) := by
  unfold storeAt
  extract_lets s1
  have h1 : Keeps s₀ s1 := h.pageStore
  clear_value s1
  exact .ite h (.ite (.ite h.trbWrite h) (.ite (.ite h1 h1.badAccess) (.ite h.writeWords h.badAccess)))

protected theorem Keeps.loadAt {off size : Nat} (h : Keeps s₀ s) : Keeps s₀ (loadAt off size s).2 := by
  unfold loadAt
  refine .iteSnd (.iteSnd h h) ?_
  refine .iteSnd ?_ h.badAccess
  split
  next e =>
    have h1 := h.readWords.pair e
    exact h1

protected theorem Keeps.execRegisterWrite {off size : Nat} {v : BitVec 512} (h : Keeps s₀ s) :
    Completes s₀ (execRegisterWrite off size v s) :=
  h.storeAt.completes

protected theorem Keeps.execReadToClear {off size : Nat} (h : Keeps s₀ s) :
    Completes s₀ (execReadToClear off size s) := by
  unfold execReadToClear
  refine Keeps.completes ?_
  refine .ite h ?_
  split
  next e =>
    have h1 := h.loadAt.pair e
    exact h1.emit

protected theorem Keeps.execBar0Badacc {write : Bool} {off size : Nat} (h : Keeps s₀ s) :
    Completes s₀ (execBar0Badacc write off size s) := by
  unfold execBar0Badacc
  extract_lets s1 s2
  have h1 : Keeps s₀ s1 := .ite h.pageStore h
  have h2 : Keeps s₀ s2 := h1.badAccess
  clear_value s1 s2
  exact (Keeps.ite h (.ite h2 h2.emit)).completes

protected theorem Keeps.adminAct {r : Ring} {c : Cmd} (h : Keeps s₀ s) : Keeps s₀ (adminAct r c s) := by
  unfold adminAct
  extract_lets page t dest
  refine h.withWrites (fun h => ?_)
  extract_lets beats
  split
  next e =>
    have h2 := h.effectOf.hostWrites.pair e
    split
    · exact h2.pushEntry
    · exact h2

protected theorem Keeps.execAdminQuery {r : Ring} (h : Keeps s₀ s) : Completes s₀ (execAdminQuery r s) :=
  (h.headStep (fun _ h => h.adminAct)).completes

/-! ### Debug access -/

protected theorem Keeps.tapSelect {code : Byte} {f : State → State} (h : Keeps s₀ s)
    (hf : ∀ {s : State}, Keeps s₀ s → Keeps s₀ (f s)) : Keeps s₀ (tapSelect code f s) := by
  unfold tapSelect
  exact .ite h (hf h.upd)

protected theorem Keeps.execTapIdcode (h : Keeps s₀ s) : Completes s₀ (execTapIdcode s) :=
  (h.tapSelect (fun h => h.emit)).completes

protected theorem Keeps.execTapSamplePreload (h : Keeps s₀ s) : Completes s₀ (execTapSamplePreload s) := by
  unfold execTapSamplePreload
  refine Keeps.completes ?_
  refine h.tapSelect (fun h => ?_)
  split
  next e =>
    have h2 := h.draw.pair e
    exact h2.upd.emit

protected theorem Keeps.execTapExtest {boundary : Word} (h : Keeps s₀ s) : Completes s₀ (execTapExtest boundary s) :=
  (h.tapSelect (fun h => h.upd.emit)).completes

protected theorem Keeps.execTapBypass {code : Byte} (h : Keeps s₀ s) : Completes s₀ (execTapBypass code s) :=
  (Keeps.ite h (h.tapSelect (fun h => h.emit))).completes

protected theorem Keeps.dbgDone {op : BitVec 2} {addr : Nat} {st : DbgSt} {data : Option Word} (h : Keeps s₀ s) :
    Keeps s₀ (dbgDone op addr st data s) := by
  unfold dbgDone
  split
  next e =>
    have h1 := Keeps.pair (s₀ := s₀) (by
      split
      next e =>
        have h1 := h.pair e
        exact h
      next e =>
        have h1 := Keeps.pair (s₀ := s₀) (by
          split
          · exact h
          · exact h.draw) e
        exact h.draw) e
    exact h1.upd

protected theorem Keeps.dbgXfer {op : BitVec 2} {addr : Nat} {f : State → DbgSt × Option Word × State}
    (h : Keeps s₀ s)
    (hf : ∀ {s : State}, Keeps s₀ s → Keeps s₀ (f s).2.2) : Keeps s₀ (dbgXfer op addr f s) := by
  unfold dbgXfer
  extract_lets s1
  have h1 : Keeps s₀ s1 := h.tapSelect (fun h => h.emit)
  clear_value s1
  refine .ite h ?_
  refine .ite h1.dbgDone ?_
  split
  next e =>
    have h2 := (hf h1).triple e
    exact h2.dbgDone

protected theorem Keeps.resumeSteward (h : Keeps s₀ s) : Keeps s₀ (resumeSteward s) := by
  unfold resumeSteward
  extract_lets _ s1
  have h1 : Keeps s₀ s1 := h.upd.dbgLog
  clear_value s1
  exact .ite h (h1.foldl (fun _ h1 => h1.windowApply)).pumpWheels

protected theorem Keeps.setLive {on : Bool} (h : Keeps s₀ s) : Keeps s₀ (setLive on s) := .ite h h.upd.dbgLog

protected theorem Keeps.endSession (h : Keeps s₀ s) : Keeps s₀ (endSession s) := by
  unfold endSession
  extract_lets _ s1 _
  have h1 : Keeps s₀ s1 := h.upd.resumeSteward.setLive.dbgLog
  clear_value s1
  exact h1.upd

protected theorem Keeps.startAuth (h : Keeps s₀ s) : Keeps s₀ (startAuth s) := by
  unfold startAuth
  split
  next e =>
    have h1 := h.draw.pair e
    split
    next e =>
      have h2 := h1.draw.pair e
      split
      next e =>
        have h3 := h2.draw.pair e
        split
        next e =>
          have h4 := h3.draw.pair e
          exact h4.upd

protected theorem Keeps.setHalt {on : Bool} (h : Keeps s₀ s) : Keeps s₀ (setHalt on s) :=
  .ite (.ite h h.upd) h.upd.resumeSteward

protected theorem Keeps.dbgCtlWrite {v : Word} (h : Keeps s₀ s) : Keeps s₀ (dbgCtlWrite v s).2 := by
  unfold dbgCtlWrite
  extract_lets auth s1
  have h1 : Keeps s₀ s1 := .ite h.endSession (.ite h.setLive.setHalt h)
  clear_value s1
  exact .iteSnd (.iteSnd h (.iteSnd h h.startAuth)) (.iteSnd h (.iteSnd h (.ite h1.startAuth h1)))

protected theorem Keeps.execDbgAuthComplete {certOk sigOk : Bool} (h : Keeps s₀ s) :
    Completes s₀ (execDbgAuthComplete certOk sigOk s) := by
  unfold execDbgAuthComplete
  extract_lets _ s1 _ n
  have h1 : Keeps s₀ s1 := h.upd
  clear_value s1
  exact (Keeps.ite h (.ite h1.upd.dbgLog h1.upd.dbgLog)).completes

protected theorem Keeps.readSpace0 {addr : Nat} (h : Keeps s₀ s) : Keeps s₀ (readSpace0 addr s).2.2 := by
  unfold readSpace0
  extract_lets v
  exact .iteThird h (.iteThird h (.ite h.loadAt h))

protected theorem Keeps.writeSpace0 {addr : Nat} {v : Word} (h : Keeps s₀ s) : Keeps s₀ (writeSpace0 addr v s).2.2 :=
  .iteThird h (.iteThird h h.storeAt)

protected theorem Keeps.readSpace1 {addr : Nat} (h : Keeps s₀ s) : Keeps s₀ (readSpace1 addr s).2.2 := by
  unfold readSpace1
  extract_lets d c
  exact .iteThird h (.iteThird h (.iteThird h (.iteThird h (.iteThird h h))))

protected theorem Keeps.writeSpace1 {addr : Nat} {v : Word} (h : Keeps s₀ s) :
    Keeps s₀ (writeSpace1 addr v s).2.2 := by
  unfold writeSpace1
  refine .iteThird ?_ (.iteThird h (.iteThird h (.iteThird h h)))
  split
  next e =>
    have h1 := h.dbgCtlWrite.pair e
    exact h1

protected theorem Keeps.readSpace2 {addr : Nat} (h : Keeps s₀ s) : Keeps s₀ (readSpace2 addr s).2.2 := by
  unfold readSpace2
  extract_lets i o
  exact .iteThird h (.iteThird h (.iteThird h (.iteThird h h)))

protected theorem Keeps.writeSpace2 {addr : Nat} {v : Word} (h : Keeps s₀ s) : Keeps s₀ (writeSpace2 addr v s).2.2 :=
  .iteThird (.iteThird h.upd h) (.iteThird h (.iteThird h (.iteThird (.iteThird h.upd h) (.iteThird h h))))

protected theorem Keeps.execDbgRead {space : Fin 3} {addr : Nat} (h : Keeps s₀ s) :
    Completes s₀ (execDbgRead space addr s) := by
  unfold execDbgRead
  refine Keeps.completes ?_
  refine h.dbgXfer (fun h => ?_)
  split
  · exact h.readSpace0
  · exact h.readSpace1
  · exact h.readSpace2

protected theorem Keeps.dbgStore {space addr : Nat} {v : Word} (h : Keeps s₀ s) :
    Keeps s₀ (dbgStore space addr v s) := by
  unfold dbgStore
  refine h.dbgXfer (fun h => ?_)
  split
  · exact h.writeSpace0
  · exact h.writeSpace1
  · exact h.writeSpace2

protected theorem Keeps.execDbgWrite {space : Fin 3} {addr : Nat} {v : Word} (h : Keeps s₀ s) :
    Completes s₀ (execDbgWrite space addr v s) :=
  h.dbgStore.completes

protected theorem Keeps.execDbgNop (h : Keeps s₀ s) : Completes s₀ (execDbgNop s) := by
  unfold execDbgNop
  extract_lets s1 _
  have h1 : Keeps s₀ s1 := h.tapSelect (fun h => h.emit)
  clear_value s1
  exact (Keeps.ite h h1.upd).completes

protected theorem Keeps.execDbgAuth (h : Keeps s₀ s) : Completes s₀ (execDbgAuth s) := h.dbgStore.completes

protected theorem Keeps.execDbgEnd (h : Keeps s₀ s) : Completes s₀ (execDbgEnd s) := h.dbgStore.completes

protected theorem Keeps.execLiveRead {on : Bool} (h : Keeps s₀ s) : Completes s₀ (execLiveRead on s) :=
  h.dbgStore.completes

protected theorem Keeps.execHalt (h : Keeps s₀ s) : Completes s₀ (execHalt s) := h.dbgStore.completes

protected theorem Keeps.execResume (h : Keeps s₀ s) : Completes s₀ (execResume s) := h.dbgStore.completes

protected theorem Keeps.execStewardHalted (h : Keeps s₀ s) : Completes s₀ (execStewardHalted s) :=
  (Keeps.ite h h.upd.dbgLog).completes

protected theorem Keeps.execHaltForced {held : BitVec 6} {r : Ring} (h : Keeps s₀ s) :
    Completes s₀ (execHaltForced held r s) :=
  (Keeps.ite h h.upd.dbgLog).completes

/-! ### Rowan transfers -/

protected theorem Keeps.blameXfer {x : XferSec} {b : Bad} (h : Keeps s₀ s) : Keeps s₀ (blameXfer x b s) := by
  unfold blameXfer
  split
  · exact h
  · exact .ite h h.modCmd

protected theorem Keeps.judgeXfer {e : Eng} {k : Key} {plan : List Nat} (h : Keeps s₀ s) :
    Keeps s₀ (judgeXfer e k plan s) := by
  unfold judgeXfer
  refine h.foldl (fun _ h => ?_)
  refine .ite h ?_
  split
  · exact h.onRowan.keyFlt
  · exact h.askTranslation
  · exact h

protected theorem Keeps.stallXfer {e : Eng} {x : XferSec} {cap : Bool} (h : Keeps s₀ s) :
    Keeps s₀ (stallXfer e x cap s) := by
  unfold stallXfer
  extract_lets s1
  have h1 : Keeps s₀ s1 := h.onRowan
  clear_value s1
  split
  · exact h1.stallForTag
  · exact h1.onRing

protected theorem Keeps.issueXfer {e : Eng} {x : XferSec} {k : Key} {plan : List Nat} {n : Nat} (h : Keeps s₀ s) :
    Keeps s₀ (issueXfer e x k plan n s) := by
  induction n generalizing s with
  | zero => exact h
  | succ n ih =>
    unfold issueXfer
    split
    · exact h
    · split
      · exact h.stallXfer
      · exact ih h.sendRead

protected theorem Keeps.xferGather {e : Eng} {x : XferSec} {plan : List Nat} (h : Keeps s₀ s) :
    Keeps s₀ (xferGather e x plan s).2 := by
  unfold xferGather
  extract_lets k s0 s1 got
  have h1 : Keeps s₀ s0 := .ite h h.onRowan
  have h2 : Keeps s₀ s1 := h1.judgeXfer.issueXfer.takeDenials
  clear_value s0 s1
  exact .iteSnd h2 h2

protected theorem Keeps.prePass {e : Eng} {x : XferSec} {d : Desc} {scatter : Bool} (h : Keeps s₀ s) :
    Keeps s₀ (prePass e x d scatter s).2 := by
  unfold prePass
  split
  · exact h
  · extract_lets plan
    split
    · exact h
    · split
      next e =>
        have h1 := h.xferGather.pair e
        exact h1
      next e =>
        have h1 := h.xferGather.pair e
        exact h1
    · split
      next e =>
        have h1 := h.stagingReads.triple e
        exact h1

protected theorem Keeps.readStaging {k : Key} {size : Nat} {addrs : List Nat} (h : Keeps s₀ s) :
    Keeps s₀ (readStaging k size addrs s).2 := by
  unfold readStaging
  refine h.foldlPair (fun _ h => ?_)
  extract_lets s_2
  have h2 : Keeps s₀ s_2 := h
  clear_value s_2
  refine .iteSnd ?_ h2.keyFlt
  refine .iteSnd ?_ h2
  split
  next e =>
    have h3 := h2.drawBeat.pair e
    exact h3

protected theorem Keeps.readSide {e : Eng} {x : XferSec} {idx : List Nat} (h : Keeps s₀ s) :
    Keeps s₀ (readSide e x idx s).2 := by
  unfold readSide
  extract_lets n size addrs s1 bs
  have h1 : Keeps s₀ s1 := h.pumpWheels
  clear_value s1
  split
  · split
    next e =>
      have h2 := h.xferGather.pair e
      exact h2
    next e =>
      have h2 := h.xferGather.pair e
      exact h2
  · split
    next e =>
      have h2 := h.readStaging.pair e
      exact h2
  · exact .iteSnd h1 h1

protected theorem Keeps.leaveEngine {e : Eng} {x : XferSec} {ok : Bool} (h : Keeps s₀ s) :
    Keeps s₀ (leaveEngine e x ok s) := by
  unfold leaveEngine
  extract_lets t s1 s2
  have h1 : Keeps s₀ s1 := h.onRowan
  have h2 : Keeps s₀ s2 := by
    unfold s2
    split
    · exact .ite h1.signalFrom h1
    · exact h1
  clear_value s1 s2
  exact h2.assignXfers.resumeUnits

protected theorem Keeps.rejectXfer {e : Eng} {x : XferSec} {o : Cmd → Outc} (h : Keeps s₀ s) :
    Keeps s₀ (rejectXfer e x o s) := by
  unfold rejectXfer
  extract_lets s1 s2
  have h1 : Keeps s₀ s1 := h.onRowan
  have h2 : Keeps s₀ s2 := by
    unfold s2
    split
    · exact h1.pushEntry.leaveEngines.removeStreams
    · exact h1
  clear_value s1 s2
  exact h2.leaveEngine

protected theorem Keeps.writeMemory {e : Eng} {x : XferSec} {idx : List Nat} {els : List Moved} (h : Keeps s₀ s) :
    Keeps s₀ (writeMemory e x idx els s).2 := by
  unfold writeMemory
  dsimp only
  refine .iteSnd ?_ ?_
  · split
    · exact h
    next e =>
      have h1 := h.copyPages e
      exact h1
  · split
    next e =>
      have h1 := h.writesJudged.pair e
      exact h1
    next e =>
      have h1 := h.writesJudged.pair e
      exact h1

/-- What the elements of a transfer leave where they were written. -/
protected theorem Keeps.writeMemory_put {e : Eng} {x : XferSec} {idx : List Nat} {els : List Moved} {b : Bad}
    (h : Keeps s₀ s)
    (eq : (writeMemory e x idx els s).1 = some (b, t)) : Keeps s₀ t := by
  unfold writeMemory at eq
  dsimp only at eq
  split at eq
  · split at eq
    · cases eq
    next copied =>
      cases eq
      exact (h.copyPages copied).writeElems.onRowan
  · split at eq
    · cases eq
    next judged =>
      cases eq
      exact (h.writesJudged.pair judged).writeElems.onRowan.takeDenials

protected theorem Keeps.settleFill {e : Eng} {x : XferSec} (h : Keeps s₀ s) : Keeps s₀ (settleFill e x s) := by
  unfold settleFill
  extract_lets s1
  have h1 : Keeps s₀ s1 := h.pumpWheels
  clear_value s1
  exact .ite h1.leaveEngine h1.onRowan

protected theorem Keeps.runXfer {e : Eng} {x : XferSec} {idx : List Nat} (h : Keeps s₀ s) :
    Keeps s₀ (runXfer e x idx s) := by
  unfold runXfer
  split
  · exact h.settleFill
  · split
    next read => exact h.readSide.pair read
    next els s1 read =>
      have got := h.readSide.pair read
      have counted {v : State} (k : Keeps s₀ v) (beats : List (Beat × Bool)) (own : Option (Ring × Nat)) :
          Keeps s₀ (countElems e els.length (els.filter (·.failed)).length (blameXfer x (readBad x idx els)
            (snoopRun (.rowan e) beats own v))) := k.snoopRun.blameXfer.countElems
      refine .ite got.countTapStall (.ite (counted got _ _).onRowan.settleFill ?_)
      split
      next wrote => exact got.writeMemory.pair wrote
      next wrote => exact (counted (got.writeMemory_put (congrArg Prod.fst wrote)) _ _).blameXfer.leaveEngine

protected theorem Keeps.prePassThenRun {e : Eng} {x : XferSec} (h : Keeps s₀ s) :
    Keeps s₀ (prePassThenRun e x s) := by
  unfold prePassThenRun
  split
  · split
    next e =>
      have h1 := h.prePass.pair e
      exact h1.onRowan
    next e =>
      have h1 := h.prePass.pair e
      exact h1.rejectXfer
    next e =>
      have h1 := h.prePass.pair e
      exact h1.onRowan.rejectXfer
    next e =>
      have h1 := h.prePass.pair e
      exact h1.onRowan.runXfer

protected theorem Keeps.presentWait {e : Eng} {w : Cairn × Word × WaitMode} (h : Keeps s₀ s) :
    Keeps s₀ (presentWait e w s) := by
  unfold presentWait
  dsimp only
  split
  · exact h.onRowan
  · exact h.upd
  · exact h.upd.raiseEvent

protected theorem Keeps.execRowanTransfer {e : Eng} (h : Keeps s₀ s) : Completes s₀ (execRowanTransfer e s) := by
  unfold execRowanTransfer
  refine Keeps.completes ?_
  split
  · exact h
  · extract_lets s0 s1
    have h1 : Keeps s₀ s0 := h.wake
    have h2 : Keeps s₀ s1 := by
      unfold s1
      split
      · exact .ite h1 h1.presentWait
      · exact h1
    clear_value s0 s1
    exact .ite h (.ite h2.onRowan (.ite h2.runXfer h2.prePassThenRun))

/-! ### Every step -/

/-- Every command keeps both invariants where it completes. -/
theorem exec_staysSafe (h : Keeps s₀ s) (i : Instr) : StaysSafe s₀ (exec i s) := by
  cases i with
  | trbGo _ _ => exact h.execTrbGo.safe
  | writeSectors _ => exact h.execWriteSectors.safe
  | readSectors _ => exact h.execReadSectors.safe
  | flush _ => exact h.execFlush.safe
  | fence _ => exact h.execFence.safe
  | signal _ => exact h.execSignal.safe
  | wait _ => exact h.execWait.safe
  | snapBegin _ => exact h.execSnapBegin.safe
  | snapRange _ => exact h.execSnapRange.safe
  | snapSeal _ => exact h.execSnapSeal.safe
  | imageDurable _ _ => exact h.execImageDurable.safe
  | restore _ => exact h.execRestore.safe
  | reshard _ => exact h.execReshard.safe
  | digestVerify _ => exact h.execDigestVerify.safe
  | pairSync _ => exact h.execPairSync.safe
  | pairTakeover _ => exact h.execPairTakeover.safe
  | abortTag _ => exact h.execAbortTag.safe
  | loadBitstream _ _ => exact h.execLoadBitstream.safe
  | sanitise _ => exact h.execSanitise.safe
  | format _ => exact h.execFormat.safe
  | adminQuery _ => exact h.execAdminQuery.safe
  | completionEntryWrite _ => exact h.execCompletionEntryWrite.safe
  | cplHeadWrite _ _ => exact h.execCplHeadWrite.safe
  | cplRingSetup _ _ _ => exact h.execCplRingSetup.safe
  | cplRingSetupTakesEffect _ => exact h.execCplRingSetupTakesEffect.safe
  | ringReset _ => exact h.execRingReset.safe
  | ringResetEnd _ => exact h.execRingResetEnd.safe
  | deferHeadWrite _ _ => exact h.execDeferHeadWrite.safe
  | evtHeadWrite _ => exact h.execEvtHeadWrite.safe
  | readToClear _ _ => exact h.execReadToClear.safe
  | registerWrite _ _ _ => exact h.execRegisterWrite.safe
  | expertWriteTakesEffect _ => exact h.execExpertWriteTakesEffect.safe
  | bar0Badacc _ _ _ => exact h.execBar0Badacc.safe
  | expertArm _ _ => exact h.execExpertArm.safe
  | expertUnlock _ _ => exact h.execExpertUnlock.safe
  | expertLock _ _ => exact h.execExpertLock.safe
  | expertArmExpire => exact h.execExpertArmExpire.safe
  | stateReqNap => exact h.execStateReqNap.safe
  | stateReqActive => exact h.execStateReqActive.safe
  | stateReqAuto => exact h.execStateReqAuto.safe
  | napEntry => exact h.execNapEntry.safe
  | idleEntry => exact h.execIdleEntry.safe
  | factoryResetCommand _ => exact h.execFactoryResetCommand.safe
  | retainedCommit => exact h.execRetainedCommit.safe
  | stagingWindowWrite _ _ _ => exact h.execStagingWindowWrite.safe
  | bar2Read _ _ _ _ _ => exact h.execBar2Read.safe
  | bar2Write _ _ _ _ _ => exact h.execBar2Write.safe
  | pageCopy _ _ => exact h.execPageCopy.safe
  | signalPageAdd _ _ _ _ => exact h.execSignalPageAdd.safe
  | unitSignal _ _ _ => exact h.execUnitSignal.safe
  | unitWait _ _ _ _ => exact h.execUnitWait.safe
  | cairnPublication _ => exact h.execCairnPublication.safe
  | orcInv _ => exact h.execOrcInv.safe
  | orcInvDone _ => exact h.execOrcInvDone.safe
  | readCompletion _ _ => exact h.execReadCompletion.safe
  | completionTimeout _ => exact h.execCompletionTimeout.safe
  | atsTranslationCompletion _ _ => exact h.execAtsTranslationCompletion.safe
  | atsInvalidation _ _ _ => exact h.execAtsInvalidation.safe
  | linkRetrain _ _ _ _ => exact h.execLinkRetrain.safe
  | capacityChange _ _ => exact h.execCapacityChange.safe
  | breachEnd _ => exact h.execBreachEnd.safe
  | svcEntWrite _ _ _ => exact h.execSvcEntWrite.safe
  | drainRelease _ => exact h.execDrainRelease.safe
  | rowanTransfer _ => exact h.execRowanTransfer.safe
  | sloeDigestComplete _ _ _ _ => exact h.execSloeDigestComplete.safe
  | sectorProgrammed _ _ => exact h.execSectorProgrammed.safe
  | programUnitStart _ => exact h.execProgramUnitStart.safe
  | vaultOpUnitDone _ => exact h.execVaultOpUnitDone.safe
  | vaultOpDone => exact h.execVaultOpDone.safe
  | backgroundErase _ => exact h.execBackgroundErase.safe
  | patrolScrub _ _ => exact h.execPatrolScrub.safe
  | internalFault _ _ _ => exact h.execInternalFault.safe
  | placementMove _ _ _ _ => exact h.execPlacementMove.safe
  | clkStepChange => exact h.execClkStepChange.safe
  | dvfsEval _ => exact h.execDvfsEval.safe
  | avsAdjust _ => exact h.execAvsAdjust.safe
  | suspend _ _ => exact h.execSuspend.safe
  | scanOut _ => exact h.execScanOut.safe
  | scanIn _ => exact h.execScanIn.safe
  | scanComplete _ _ _ _ => exact h.execScanComplete.safe
  | clkGate _ _ => exact h.execClkGate.safe
  | pwrGate _ _ => exact h.execPwrGate.safe
  | laneGate _ => exact h.execLaneGate.safe
  | slotGate _ => exact h.execSlotGate.safe
  | keepClaimRelease _ _ => exact h.execKeepClaimRelease.safe
  | keepHoldRefused _ => exact h.execKeepHoldRefused.safe
  | srSave _ _ => exact h.execSrSave.safe
  | srRestore _ _ => exact h.execSrRestore.safe
  | wdtToken _ => exact h.execWdtToken.safe
  | wdtWarn => exact h.execWdtWarn.safe
  | watchdogExpiry => exact h.execWatchdogExpiry.safe
  | stall _ => exact h.execStall.safe
  | trialConfirm => exact h.execTrialConfirm.safe
  | auxPowerUp _ => exact h.execAuxPowerUp.safe
  | resetRelease _ => exact h.execResetRelease.safe
  | rdy => exact h.execRdy
  | perstAssert _ => exact h.execPerstAssert.safe
  | hotReset => exact h.execHotReset.safe
  | flr => exact h.execFlr.safe
  | mainPowerFail => exact h.execMainPowerFail.safe
  | surpriseRemoval => exact h.execSurpriseRemoval.safe
  | holdUpSequence _ _ => exact h.execHoldUpSequence.safe
  | pmeTurnOff => exact h.execPmeTurnOff.safe
  | pwrbrkNAssert => exact h.execPwrbrkNAssert.safe
  | pwrbrkNDeassert => exact h.execPwrbrkNDeassert.safe
  | thermalThreshold _ => exact h.execThermalThreshold.safe
  | supplyRange _ _ => exact h.execSupplyRange.safe
  | clkFail => exact h.execClkFail.safe
  | holdupBankCheck _ => exact h.execHoldupBankCheck.safe
  | rbNAttentionPulse => exact h.execRbNAttentionPulse.safe
  | rbNPulseRepeat => exact h.execRbNPulseRepeat.safe
  | rbNBusyEnd => exact h.execRbNBusyEnd.safe
  | msixRepeat _ => exact h.execMsixRepeat.safe
  | msixUnmask _ => exact h.execMsixUnmask.safe
  | pairPortUp _ => exact h.execPairPortUp.safe
  | pairPortDown _ => exact h.execPairPortDown.safe
  | peerEntryWrite _ _ _ => exact h.execPeerEntryWrite.safe
  | hello _ _ _ _ => exact h.execHello.safe
  | helloAck _ _ _ _ => exact h.execHelloAck.safe
  | heartbeat _ => exact h.execHeartbeat.safe
  | bye _ _ => exact h.execBye.safe
  | ack _ _ _ => exact h.execAck.safe
  | offer _ _ _ _ _ _ _ _ => exact h.execOffer
  | accept _ _ => exact h.execAccept
  | refuse _ _ _ => exact h.execRefuse
  | data _ _ _ _ => exact h.execData
  | held _ _ _ _ => exact h.execHeld
  | resend _ _ _ _ => exact h.execResend
  | pairSignalReceive _ _ _ _ => exact h.execPairSignalReceive
  | sigAck _ _ _ => exact h.execSigAck
  | fetch _ _ _ _ => exact h.execFetch
  | frameDropped _ => exact h.execFrameDropped.safe
  | neighbourMessage _ _ => exact h.execNeighbourMessage.safe
  | icmpEcho _ _ _ _ _ => exact h.execIcmpEcho.safe
  | pairTransmit _ => exact h.execPairTransmit.safe
  | pairSignalForward _ => exact h.execPairSignalForward.safe
  | ackTimer _ => exact h.execAckTimer.safe
  | retransmitTimer _ _ => exact h.execRetransmitTimer.safe
  | heartbeatTimer _ => exact h.execHeartbeatTimer.safe
  | helloTimer _ => exact h.execHelloTimer.safe
  | pairLost _ => exact h.execPairLost.safe
  | pairSessionTimeout _ => exact h.execPairSessionTimeout.safe
  | setEndpointId _ => exact h.execSetEndpointId.safe
  | i3cDynamicAddress _ => exact h.execI3cDynamicAddress.safe
  | rstdaa => exact h.execRstdaa.safe
  | pldmBaseRequest _ => exact h.execPldmBaseRequest.safe
  | fruDataRequest _ => exact h.execFruDataRequest.safe
  | getPdr _ => exact h.execGetPdr.safe
  | sensorReading _ => exact h.execSensorReading.safe
  | setPowerCap _ => exact h.execSetPowerCap.safe
  | unitOffline _ => exact h.execUnitOffline.safe
  | unitOnline _ => exact h.execUnitOnline.safe
  | setEventReceiver _ => exact h.execSetEventReceiver.safe
  | pollForPlatformEventMessage => exact h.execPollForPlatformEventMessage.safe
  | requestUpdate => exact h.execRequestUpdate.safe
  | firmwareUpdateData _ _ => exact h.execFirmwareUpdateData.safe
  | verifyComplete _ _ _ => exact h.execVerifyComplete.safe
  | activateFirmware => exact h.execActivateFirmware.safe
  | spdmSecuredSession _ _ _ => exact h.execSpdmSecuredSession.safe
  | keyLoad _ _ _ _ _ => exact h.execKeyLoad.safe
  | keyZero _ _ => exact h.execKeyZero.safe
  | keyList => exact h.execKeyList.safe
  | viewAck _ => exact h.execViewAck.safe
  | viewSkew => exact h.execViewSkew.safe
  | tapIdcode => exact h.execTapIdcode.safe
  | tapSamplePreload => exact h.execTapSamplePreload.safe
  | tapExtest _ => exact h.execTapExtest.safe
  | tapBypass _ => exact h.execTapBypass.safe
  | dbgRead _ _ => exact h.execDbgRead.safe
  | dbgWrite _ _ _ => exact h.execDbgWrite.safe
  | dbgNop => exact h.execDbgNop.safe
  | dbgAuth => exact h.execDbgAuth.safe
  | dbgAuthComplete _ _ => exact h.execDbgAuthComplete.safe
  | dbgEnd => exact h.execDbgEnd.safe
  | liveRead _ => exact h.execLiveRead.safe
  | halt => exact h.execHalt.safe
  | stewardHalted => exact h.execStewardHalted.safe
  | haltForced _ _ => exact h.execHaltForced.safe
  | resume => exact h.execResume.safe
  | configurationRequest _ => exact h.execConfigurationRequest.safe
  | linkMargin _ => exact h.execLinkMargin.safe
  | mainPowerReturn => exact h.execMainPowerReturn.safe
  | auxConnectorSense _ => exact h.execAuxConnectorSense.safe
  | vaultReadDone _ _ => exact h.execVaultReadDone.safe

/-- Every step keeps both invariants. -/
theorem step_staysSafe (s : State) : StaysSafe s (step s) := by
  unfold step
  split
  · exact (Keeps.refl s).upd.completes.safe
  · exact exec_staysSafe (Keeps.refl s).upd _

end

/-- Settles O2: a rule for each function of the model, down to the commands, carries the canonical form. -/
theorem stagingMemoryStaysCanonical : Obligations.StagingMemoryStaysCanonical :=
  fun s _ ok ran => (step_staysSafe s _ ran).mem ok

/-- Settles O3: a rule for each function of the model, down to the commands, binds RDY to the running phase. -/
theorem readyOnlyWhileRunning : Obligations.ReadyOnlyWhileRunning :=
  fun s _ bound ran => (step_staysSafe s _ ran).rdy bound

end Sys2Proof.Proofs

/-! Frames of the Pair link (16): which are accepted, which are counted, and the order of reliable packets. -/

namespace Sys2Proof.Proofs

open Sys2Proof Sys2Proof.Machine Sys2Proof.Safety Sys2Proof.Laws

theorem exec_heartbeat (x : PairRx) (s : State) : exec (.heartbeat x) s = .next (pairAccept x (pairFrame (.heartbeat x)) s).2 := rfl

theorem pairAccept_stranger {s : State} {x : PairRx} (f : Nat × List Byte) (up : Up s) (port : s.pair.ports[x.port].up = true)
    (load : s.cfg.loading = false) (entry : pairEntry s x = none) : pairAccept x f s = (none, countDrop none s) := by
  unfold pairAccept
  have taken : ¬ (s.pw.rdy = false ∨ s.pw.phase ≠ .ready ∨ s.pair.ports[x.port].up = false ∨ s.cfg.loading = true) := by
    rw [up.1, up.2, port, load]
    decide
  rw [if_neg taken, entry]

/-- A dropped frame is counted while a port is up. -/
theorem exec_frameDropped {s : State} {p : PPort} (up : Up s) (port : s.pair.ports[p].up = true) (e : Option Peer) :
    exec (.frameDropped e) s
      = .next (countDrop (match e with | some e => if s.pair.peers[e].cfg.valid then some e else none | none => none) s) := by
  refine congrArg Host.Outcome.next (if_neg (not_or.mpr ⟨ne_false_of_eq_true up.1, fun down => ?_⟩))
  have mem : s.pair.ports[p] ∈ s.pair.ports.toList := Vector.mem_toList_iff.mpr (Vector.getElem_mem p.isLt)
  have := List.all_eq_true.mp down _ mem
  rw [port] at this
  exact absurd this Bool.false_ne_true

theorem onPeer_twice (s : State) (e : Peer) (f g : PeerSt → PeerSt) :
    (s.onPeer e f).onPeer e g = s.onPeer e (fun p => g (f p)) := by
  unfold State.onPeer
  dsimp only
  rw [modAt_modAt]

theorem onPeer_congr {s : State} {e : Peer} {f g : PeerSt → PeerSt} (h : f s.pair.peers[e] = g s.pair.peers[e]) :
    s.onPeer e f = s.onPeer e g := by
  have : modAt s.pair.peers e f = modAt s.pair.peers e g := congrArg (s.pair.peers.set e.val · e.isLt) h
  unfold State.onPeer
  rw [this]

theorem psnLt_ne {a b : Word} (h : psnLt a b = true) : a ≠ b := by
  rintro rfl
  simp [psnLt] at h

section
variable {s : State} {x : PairRx} {e : Peer} {i : Instr}

/-- A reliable packet that is not the next counts as unacknowledged and is discarded or waits its turn. -/
theorem exec_outOfOrder (hr : Reliable x i) (h : Pre.accepted s x e i) (other : x.psn ≠ s.pair.peers[e].rxPsn) :
    exec i s = .next (
      let s2 := (Met s x e).onPeer e (fun p => { p with unacked := p.unacked + 1 })
      let s3 := if psnLt x.psn s.pair.peers[e].rxPsn || s.pair.peers[e].rxAhead.any (fun q => q.1 == x.psn) then s2
        else s2.onPeer e (fun p => { p with rxAhead := p.rxAhead ++ [(x.psn, i)] })
      if 32 ≤ s3.pair.peers[e].unacked then sendAck e s3 else s3) := by
  have psn : (Met s x e).pair.peers[e].rxPsn = s.pair.peers[e].rxPsn := by rw [met_peer, metPeer]
  have ahead : (Met s x e).pair.peers[e].rxAhead = s.pair.peers[e].rxAhead := by rw [met_peer, metPeer]
  rw [exec_reliable hr]
  unfold reliable
  rw [pairAccept_accepted h (reliable_notHello hr)]
  dsimp only
  rw [psn, ahead, if_neg other]

theorem met_unacked (s : State) (x : PairRx) (e : Peer) :
    ((Met s x e).onPeer e (fun p => { p with unacked := p.unacked + 1 })).pair.peers[e].unacked = s.pair.peers[e].unacked + 1 := by
  rw [State.onPeer_same, met_peer]
  rfl

/-- One already received is discarded. -/
theorem exec_duplicate (hr : Reliable x i) (h : Pre.accepted s x e i) (old : psnLt x.psn s.pair.peers[e].rxPsn = true) :
    exec i s = .next (
      let s2 := (Met s x e).onPeer e (fun p => { p with unacked := p.unacked + 1 })
      if 32 ≤ s.pair.peers[e].unacked + 1 then sendAck e s2 else s2) := by
  rw [exec_outOfOrder hr h (psnLt_ne old), old]
  dsimp only
  rw [Bool.true_or, if_pos rfl, met_unacked]

/-- One ahead of the next waits its turn. -/
theorem exec_ahead (hr : Reliable x i) (h : Pre.accepted s x e i) (none : s.pair.peers[e].rxAhead = [])
    (few : s.pair.peers[e].unacked < 31) (other : x.psn ≠ s.pair.peers[e].rxPsn)
    (new : psnLt x.psn s.pair.peers[e].rxPsn = false) :
    exec i s = .next ((Met s x e).onPeer e (fun p => { p with unacked := p.unacked + 1, rxAhead := [(x.psn, i)] })) := by
  have entry : (Met s x e).pair.peers[e].rxAhead = [] := by rw [met_peer, metPeer, none]
  have held : ((Met s x e).onPeer e (fun p => { p with unacked := p.unacked + 1 })).onPeer e
      (fun p => { p with rxAhead := p.rxAhead ++ [(x.psn, i)] })
      = (Met s x e).onPeer e (fun p => { p with unacked := p.unacked + 1, rxAhead := [(x.psn, i)] }) := by
    rw [onPeer_twice]
    refine onPeer_congr ?_
    dsimp only
    rw [entry]
    rfl
  rw [exec_outOfOrder hr h other, none, new]
  dsimp only
  rw [List.any_nil, Bool.or_false, if_neg Bool.false_ne_true, held, State.onPeer_same, met_peer]
  exact congrArg Host.Outcome.next (if_neg (Nat.not_le.mpr (Nat.succ_lt_succ few)))

theorem sendAck_unacked (e : Peer) (s : State) : (sendAck e s).pair.peers[e].unacked = 0 := by
  unfold sendAck pairSend
  rw [pairEmit_peer, State.onPeer_same]

theorem sendAck_rings (e : Peer) (s : State) : (sendAck e s).rings = s.rings := rfl

theorem sendAck_st (e : Peer) (s : State) : (sendAck e s).st = s.st := rfl

end

/-- Settles O49: acceptance of frames, and the order of reliable packets. -/
theorem pairFramesComeInOrder : Obligations.PairFramesComeInOrder := by
  refine ⟨fun s x => ⟨fun e h => ?_, fun e h bad => ?_, fun up port load entry => ?_, fun up port => ?_, fun e up port valid => ?_⟩,
    fun s x e i hr => ⟨fun h => ?_, fun h old few => ?_, fun h none few other new => ?_, fun h old last => ?_, fun h bad => ?_⟩⟩
  · have kept := met_massifOnly s x e
    refine ⟨Met s x e, by rw [exec_heartbeat, pairAccept_accepted h (by simp [pairFrame])], ?_, ?_, ?_, fun k hk => ?_,
      fun f other => met_other s x other, kept.rings, storeKept_of_st kept.st⟩
    · rw [met_peer]
      rfl
    · rw [met_peer]
      rfl
    · rw [met_peer]
      rfl
    · rw [met_peer] at hk
      obtain ⟨mem, open_⟩ := List.mem_filter.mp hk
      exact ⟨mem, by simpa [imp_iff_not_or] using open_⟩
  · rw [exec_heartbeat, pairAccept_dropped h (by simp [pairFrame]) bad]
    rfl
  · rw [exec_heartbeat, pairAccept_stranger _ up port load entry]
    rfl
  · exact exec_frameDropped up port none
  · rw [exec_frameDropped up port]
    dsimp only
    rw [if_pos valid]
    rfl
  · exact reliable_inOrder_of_le h hr ((Keeps.refl _).deliver.acks e)
  · rw [exec_duplicate hr h old]
    exact congrArg Host.Outcome.next (if_neg (by omega))
  · exact exec_ahead hr h none few other new
  · rw [exec_duplicate hr h old]
    have kept := met_massifOnly s x e
    exact ⟨_, congrArg Host.Outcome.next (if_pos (by omega)), sendAck_unacked _ _, (sendAck_rings _ _).trans kept.rings,
      storeKept_of_st ((sendAck_st _ _).trans kept.st)⟩
  · rw [exec_reliable hr]
    unfold reliable
    rw [pairAccept_dropped h (reliable_notHello hr) bad]
    rfl

end Sys2Proof.Proofs

/-! The drain of staged sectors into the Vault, and the upkeep of memory and medium (15). -/

namespace Sys2Proof.Proofs

open Sys2Proof Sys2Proof.Machine Sys2Proof.Safety Sys2Proof.Laws

/-! ### Where a command stands -/

theorem ringOf_none {s : State} {cid : Nat} (h : ∀ q : Ring, s.rings[q].find cid = none) : s.ringOf cid = none :=
  List.find?_eq_none.mpr fun q _ => by rw [h q]; exact Bool.false_ne_true

theorem ringOf_only {s : State} {cid : Nat} {r : Ring} (h : (s.rings[r].find cid).isSome = true)
    (others : ∀ q : Ring, q ≠ r → s.rings[q].find cid = none) : s.ringOf cid = some r := by
  cases found : s.ringOf cid with
  | none => exact absurd h (List.find?_eq_none.mp found r (List.mem_finRange r))
  | some q =>
    have holds := List.find?_some (p := fun q : Ring => (s.rings[q].find cid).isSome) found
    by_contra other
    rw [others q fun e => other (congrArg some e)] at holds
    exact absurd holds Bool.false_ne_true

theorem find_nothing {x : RingSt} (hq : x.queue = []) (hp : x.past = []) (cid : Nat) : x.find cid = none := by
  simp [RingSt.find, hq, hp]

theorem mapBank_get {α : Type} {n : Nat} (f : Nat → α → α) (v : Vector α n) (i : Fin n) : (mapBank f v)[i] = f i.val v[i] := by
  simp [mapBank]

/-! ### What the parts of a program unit change (R298, R301, R306) -/

/-- The state without the pool's spare blocks, the events and what announces them. -/
def sansSpare (s : State) : Vector RingSt 16 × List (Nat × Sec) × List Staged × List Host.Cell × List Image :=
  (s.rings, s.st.vault, s.st.staged, s.st.mem, s.st.images)

theorem raiseEvent_sansSpare (code : Nat) (u : Byte) (a0 a1 : Word) (s : State) :
    sansSpare (raiseEvent code u a0 a1 s) = sansSpare s := by
  unfold sansSpare
  rw [raiseEvent_rings, raiseEvent_st]

theorem retire_sansSpare (n : Nat) (s : State) : sansSpare (retire n s) = sansSpare s := by
  have low : ∀ (p : Prop) [Decidable p] (code : Nat) (a0 : Word) (t u : State), sansSpare t = sansSpare s →
      sansSpare u = sansSpare s → sansSpare (if p then raiseEvent code 0xFF a0 0 t else u) = sansSpare s := by
    intro p _ code a0 t u ht hu
    split
    · exact (raiseEvent_sansSpare ..).trans ht
    · exact hu
  unfold retire
  split
  · rfl
  · exact low _ _ _ _ _ (low _ _ _ _ _ rfl rfl) (low _ _ _ _ _ rfl rfl)

theorem journalAdd_sansSpare (n : Nat) (s : State) : sansSpare (journalAdd n s) = sansSpare s := by
  unfold journalAdd
  dsimp only
  split <;> rfl

theorem retire_zero (s : State) : retire 0 s = s := if_pos (.inl rfl)

/-- A sector programmed at once stands in the Vault, and its write has one more unit. -/
theorem programOne_ok (g : Staged) {r : Ring} (hs : g.src = .ring r) (alone : g.stands = []) (s : State) :
    programOne g .ok s = creditCmd g.lba false false g.cid (journalSec r g (putVault g.lba g.sec s)) := by
  unfold programOne
  rw [hs, alone]
  dsimp only
  rw [retire_zero]
  rfl

theorem programOne_failed (g : Staged) {r : Ring} (hs : g.src = .ring r) (alone : g.stands = []) (s : State) :
    programOne g .failed s = creditCmd g.lba true false g.cid (retire 2 s) := by
  unfold programOne
  rw [hs, alone]
  rfl

theorem putVault_vaultSec {s : State} (ok : kvOk ({} : Sec) none s.st.vault = true) (lba l : Nat) (x : Sec) (hx : x.psn = 0) :
    (putVault lba x s).vaultSec l = if l = lba then x else s.vaultSec l := by
  have same : { x with psn := if x.psn = 0 then 0 else BitVec.allOnes 64 } = x := by rw [if_pos hx, ← hx]
  unfold putVault State.vaultSec
  dsimp only
  rw [same, kvGet_kvSet ok]

/-! ### A unit of one sector -/

section
variable {s : State} {u : Nat} {g : Staged} {r : Ring}

theorem exec_sectorProgrammed (res : List ProgRes) (held : s.heldRes 4 = false) (staged : s.st.staged = [g])
    (inUnit : g.inUnit = some u) : exec (.sectorProgrammed u res) s = .next (programUnit u res s) := by
  have first : unitBehind s u = false := by simp [unitBehind, staged, inUnit]
  have some_ : s.st.staged.any (fun g => g.inUnit == some u) = true := by simp [staged, inUnit]
  exact congrArg Host.Outcome.next (if_pos ⟨held, first, some_⟩)

/-- A program unit of one sector: it is programmed or not, reported where it failed after its write was answered, and the
commands that waited for it go on. -/
theorem programUnit_one (res : ProgRes) (staged : s.st.staged = [g]) (inUnit : g.inUnit = some u) (alone : g.stands = [])
    (hs : g.src = .ring r) : programUnit u [res] s =
      let s2 := programOne g res { s with st := { s.st with staged := [] } }
      stageWaiting (settleFlushes (settleWrites [g.cid] (if g.acked = true ∧ res = .failed then deferSectors r 1 [g] s2 else s2))) := by
  have mine : s.st.staged.filter (fun g => g.inUnit == some u) = [g] := by simp [staged, inUnit]
  have rest : s.st.staged.filter (fun g => g.inUnit != some u) = [] := by simp [staged, inUnit]
  unfold programUnit
  rw [mine, rest]
  dsimp only
  generalize { s with st := { s.st with staged := [] } } = s1
  have reported : ∀ s2 : State, (List.finRange 16).foldl (fun s q =>
      let mine := ([(g, 0)].filter (fun p => p.1.acked && ([res][p.2]?).getD .ok == .failed)).map (·.1) |>.filter (fun g => g.src == .ring q)
      if mine = [] then s else deferSectors q 1 mine s) s2
      = if g.acked = true ∧ res = .failed then deferSectors r 1 [g] s2 else s2 := by
    intro s2
    by_cases lost : g.acked = true ∧ res = .failed
    · have here : [(g, 0)].filter (fun p : Staged × Nat => p.1.acked && ([res][p.2]?).getD .ok == .failed) = [(g, 0)] := by
        simp [lost]
      have other : ∀ (t : State) (q : Ring), q ≠ r → (let mine := [g].filter (fun g => g.src == .ring q)
          if mine = [] then t else deferSectors q 1 mine t) = t := by
        intro t q hq
        have : (Source.ring r == Source.ring q) = false := beq_eq_false_iff_ne.mpr fun e => hq (Source.ring.inj e).symm
        simp [hs, this]
      rw [here, if_pos lost]
      refine (foldl_single (List.mem_finRange r) (List.nodup_finRange 16) (fun q _ hq => other _ q hq)
        fun q _ hq => other _ q hq).trans ?_
      simp [hs]
    · have none : [(g, 0)].filter (fun p : Staged × Nat => p.1.acked && ([res][p.2]?).getD .ok == .failed) = [] := by
        simpa using lost
      rw [none, if_neg lost]
      exact foldl_still fun q _ => rfl
  simp only [List.zipIdx_cons, List.zipIdx_nil, List.foldl_cons, List.foldl_nil, List.flatMap_cons, List.flatMap_nil, alone,
    List.append_nil, Nat.zero_add]
  rw [← reported]
  rfl

theorem settleWrites_none {cid : Nat} {t : State} (h : t.ringOf cid = none) : settleWrites [cid] t = t := by
  simp [settleWrites, h]

theorem stageReady_none {t : State} {q : Ring} (h : t.rings[q].past.filter (fun c => c.op == 1 && !c.effect) = []) :
    stageReady q t = t := by
  rw [stageReady, h]
  rfl

theorem stageWaiting_none {t : State} (h : ∀ q : Ring, t.rings[q].past = []) : stageWaiting t = t :=
  foldl_still fun q _ => stageReady_none (by rw [h q]; rfl)

/-- With no command held by a ring, nothing waits for a sector. -/
theorem settled_empty {t : State} (cid : Nat) (hq : ∀ q : Ring, t.rings[q].queue = []) (hp : ∀ q : Ring, t.rings[q].past = []) :
    stageWaiting (settleFlushes (settleWrites [cid] t)) = t := by
  rw [settleWrites_none (ringOf_none fun q => find_nothing (hq q) (hp q) cid),
    settleFlushes_none fun q => by rw [hp q]; rfl, stageWaiting_none hp]

/-! ### What the drain's obligation asks of it -/

theorem creditCmd_gone_st {t : State} {cid : Nat} (h : t.ringOf cid = none) (lba : Nat) (failed corrected : Bool) :
    (creditCmd lba failed corrected cid t).st = t.st := by
  unfold creditCmd
  rw [h]
  dsimp only
  split <;> rfl

/-- A sector whose command is gone counts for no ring but in the entry of one that dies. -/
theorem creditCmd_gone_ring {t : State} {cid : Nat} (h : t.ringOf cid = none) (lba : Nat) (failed corrected : Bool) (q : Ring) :
    ∃ d, (creditCmd lba failed corrected cid t).rings[q] = { t.rings[q] with dying := d } := by
  unfold creditCmd
  rw [h]
  dsimp only
  split
  · exact ⟨_, rfl⟩
  · exact ⟨_, mapBank_get _ _ q⟩

theorem journalSec_sansSpare (r : Ring) (g : Staged) (s : State) : sansSpare (journalSec r g s) = sansSpare s :=
  journalAdd_sansSpare _ _

/-- The sectors of a state seen without its spare blocks. -/
theorem sansSpare_parts {s t : State} (h : sansSpare t = sansSpare s) :
    t.rings = s.rings ∧ t.st.vault = s.st.vault ∧ t.st.staged = s.st.staged ∧ t.st.mem = s.st.mem := by
  simp only [sansSpare, Prod.mk.injEq] at h
  exact ⟨h.1, h.2.1, h.2.2.1, h.2.2.2.1⟩

/-- Where the written ring holds no command, none does. -/
theorem programmed_idle (h : Pre.programmed s u g r) (past : s.rings[r].past = []) :
    (∀ q : Ring, s.rings[q].queue = []) ∧ ∀ q : Ring, s.rings[q].past = [] := by
  obtain ⟨-, -, -, -, -, others, queue, -⟩ := h
  refine ⟨fun q => ?_, fun q => ?_⟩
  · by_cases e : q = r
    · rw [e, queue]
    · exact (others q e).2
  · by_cases e : q = r
    · rw [e, past]
    · exact (others q e).1

/-- The state as its one staged sector is in the Vault and the journal. -/
def landed (s : State) (g : Staged) (r : Ring) : State :=
  journalSec r g (putVault g.lba g.sec { s with st := { s.st with staged := [] } })

theorem landed_parts (s : State) (g : Staged) (r : Ring) : (landed s g r).rings = s.rings
    ∧ (landed s g r).st.staged = [] ∧ (landed s g r).st.mem = s.st.mem := by
  obtain ⟨rings, -, staged, mem⟩ := sansSpare_parts
    (journalSec_sansSpare r g (putVault g.lba g.sec { s with st := { s.st with staged := [] } }))
  exact ⟨rings, staged, mem⟩

theorem landed_vaultSec (ok : kvOk ({} : Sec) none s.st.vault = true) (hx : g.sec.psn = 0) (l : Nat) :
    (landed s g r).vaultSec l = if l = g.lba then g.sec else s.vaultSec l := by
  obtain ⟨-, vault, -⟩ := sansSpare_parts
    (journalSec_sansSpare r g (putVault g.lba g.sec { s with st := { s.st with staged := [] } }))
  rw [landed, State.vaultSec, vault]
  exact putVault_vaultSec (s := { s with st := { s.st with staged := [] } }) ok g.lba l g.sec hx

/-- A sector of an answered write that was programmed stands in the Vault. -/
theorem sectorProgrammed_acked (h : Pre.programmed s u g r) (past : s.rings[r].past = [])
    (sound : g.sec.psn = 0) : ∃ t, exec (.sectorProgrammed u [.ok]) s = .next t ∧ t.vaultSec g.lba = g.sec ∧ t.st.staged = []
      ∧ (∀ l, l ≠ g.lba → t.vaultSec l = s.vaultSec l) ∧ t.st.mem = s.st.mem
      ∧ t.rings[r].waiting = s.rings[r].waiting ∧ t.rings[r].rseq = s.rings[r].rseq := by
  obtain ⟨hq, hp⟩ := programmed_idle h past
  obtain ⟨held, staged, inUnit, src, alone, -, -, ok⟩ := h
  obtain ⟨rings, left, mem⟩ := landed_parts s g r
  have sec := fun l => landed_vaultSec (r := r) ok sound l
  have run : programUnit u [.ok] s = stageWaiting (settleFlushes (settleWrites [g.cid]
      (creditCmd g.lba false false g.cid (landed s g r)))) := by
    rw [programUnit_one .ok staged inUnit alone src, programOne_ok g src alone]
    dsimp only
    rw [if_neg (by simp)]
    rfl
  generalize landed s g r = v at rings left mem sec run
  have gone : v.ringOf g.cid = none := ringOf_none fun q => by rw [rings]; exact find_nothing (hq q) (hp q) _
  have st := creditCmd_gone_st gone g.lba false false
  have ring : ∀ q : Ring, ∃ d, (creditCmd g.lba false false g.cid v).rings[q] = { s.rings[q] with dying := d } := by
    rw [← rings]
    exact creditCmd_gone_ring gone g.lba false false
  rw [settled_empty _ (fun q => by obtain ⟨d, e⟩ := ring q; rw [e]; exact hq q)
    fun q => by obtain ⟨d, e⟩ := ring q; rw [e]; exact hp q] at run
  obtain ⟨d, e⟩ := ring r
  refine ⟨_, (exec_sectorProgrammed _ held staged inUnit).trans (congrArg Host.Outcome.next run), ?_, ?_, fun l hl => ?_, ?_, ?_, ?_⟩
  · rw [State.vaultSec, st]
    exact (sec g.lba).trans (if_pos rfl)
  · rw [st, left]
  · rw [State.vaultSec, st]
    exact (sec l).trans (if_neg hl)
  · rw [st, mem]
  · rw [e]
  · rw [e]

/-- A record of lost sectors takes the ring's next RSEQ and is owed to the next entry (R133, R306). -/
theorem deferRecord_ring (r : Ring) (lba count : Nat) (tag : BitVec 16) (cause : Nat) (ctx : Dword) (s : State) :
    ∃ l n o, (deferRecord r lba count tag cause ctx s).rings[r] = { s.rings[r] with
      log := l, dTail := n, ovf := o, deferOwed := true
      rseq := if s.rings[r].rseq = 0xFFFFFFFF then 1 else s.rings[r].rseq + 1 } := by
  unfold deferRecord
  dsimp only
  rw [raiseEvent_rings, State.onRing_same]
  split
  · exact ⟨_, _, _, rfl⟩
  · exact ⟨_, _, _, rfl⟩

theorem deferRecord_others (r : Ring) (lba count : Nat) (tag : BitVec 16) (cause : Nat) (ctx : Dword) (s : State) :
    OtherRings s (deferRecord r lba count tag cause ctx s) r := by
  intro q hq
  unfold deferRecord
  dsimp only
  rw [raiseEvent_rings, State.onRing_other _ _ _ _ hq]

theorem deferRecord_st (r : Ring) (lba count : Nat) (tag : BitVec 16) (cause : Nat) (ctx : Dword) (s : State) :
    (deferRecord r lba count tag cause ctx s).st = s.st := raiseEvent_st ..

theorem deferSectors_one (r : Ring) (cause : Nat) (g : Staged) (s : State) :
    deferSectors r cause [g] s = deferRecord r g.lba 1 g.tag cause g.ctx s := by
  simp [deferSectors, insLost, runs]

/-- A sector of an answered write that could not be programmed is reported by its ring. -/
theorem sectorProgrammed_failed (h : Pre.programmed s u g r) (acked : g.acked = true) (past : s.rings[r].past = []) :
    ∃ t, exec (.sectorProgrammed u [.failed]) s = .next t ∧ t.st.vault = s.st.vault ∧ t.st.staged = []
      ∧ t.rings[r].rseq = (if s.rings[r].rseq = 0xFFFFFFFF then 1 else s.rings[r].rseq + 1)
      ∧ t.rings[r].deferOwed = true ∧ t.st.mem = s.st.mem ∧ t.rings[r].waiting = s.rings[r].waiting := by
  obtain ⟨hq, hp⟩ := programmed_idle h past
  obtain ⟨held, staged, inUnit, src, alone, -⟩ := h
  obtain ⟨rings, vault, left, mem⟩ := sansSpare_parts (retire_sansSpare 2 { s with st := { s.st with staged := [] } })
  have run : programUnit u [.failed] s = stageWaiting (settleFlushes (settleWrites [g.cid] (deferSectors r 1 [g]
      (creditCmd g.lba true false g.cid (retire 2 { s with st := { s.st with staged := [] } }))))) := by
    rw [programUnit_one .failed staged inUnit alone src, programOne_failed g src alone]
    dsimp only
    rw [if_pos ⟨acked, rfl⟩]
  generalize retire 2 { s with st := { s.st with staged := [] } } = v at rings vault left mem run
  have gone : v.ringOf g.cid = none := ringOf_none fun q => by rw [rings]; exact find_nothing (hq q) (hp q) _
  have uncounted : creditCmd g.lba true false g.cid v = v := by
    unfold creditCmd
    rw [gone]
    rfl
  obtain ⟨l, n, o, ring⟩ := deferRecord_ring r g.lba 1 g.tag 1 g.ctx v
  have others := deferRecord_others r g.lba 1 g.tag 1 g.ctx v
  have st := deferRecord_st r g.lba 1 g.tag 1 g.ctx v
  rw [uncounted, deferSectors_one] at run
  rw [rings] at ring
  have idle : ∀ q : Ring, (deferRecord r g.lba 1 g.tag 1 g.ctx v).rings[q].queue = []
      ∧ (deferRecord r g.lba 1 g.tag 1 g.ctx v).rings[q].past = [] := by
    intro q
    by_cases e : q = r
    · rw [e, ring]
      exact ⟨hq r, hp r⟩
    · rw [others q e, rings]
      exact ⟨hq q, hp q⟩
  rw [settled_empty _ (fun q => (idle q).1) fun q => (idle q).2] at run
  refine ⟨_, (exec_sectorProgrammed _ held staged inUnit).trans (congrArg Host.Outcome.next run), ?_, ?_, ?_, ?_, ?_, ?_⟩
  · rw [st, vault]
  · rw [st, left]
  · rw [ring]
  · rw [ring]
  · rw [st, mem]
  · rw [ring]

/-- A write with no unit left in staging and no beat or sector of it bad completes OK. -/
theorem finishWrite_ok {c : Cmd} (sound : c.failedLba = []) (bad : c.badBeats = 0) (cause : c.badCause = none) (t : State) :
    finishWrite r c t = pushEntry r c { status := stOK } t := by
  unfold finishWrite
  rw [cause, if_neg (by simp), sound]
  dsimp only
  rw [if_pos bad]

/-- The last entry of a ring's one command past the head leaves the ring without commands. -/
theorem pushEntry_last_past {t : State} {c : Cmd} {o : Outc} (queue : t.rings[r].queue = []) (past : t.rings[r].past = [c])
    (hm : o.more = false) : (pushEntry r c o t).rings[r].past = [] := by
  have found : t.rings[r].find c.cid = some c := by
    rw [RingSt.find, queue, past]
    simp
  have same : (stopWaiting t.now c).cid = c.cid := (stopWaiting_sameWork _ _).cid
  rw [pushEntry_rings, modAt_same]
  dsimp only
  rw [found, hm, if_neg Bool.false_ne_true, RingSt.drop]
  dsimp only
  rw [past, Option.getD_some, same]
  simp

/-- A command one more of whose units succeeded. -/
def credited (c : Cmd) : Cmd := { c with units := c.units + 1, corrected := c.corrected || false }

theorem creditCmd_found {t : State} {cid : Nat} (h : t.ringOf cid = some r) (lba : Nat) :
    creditCmd lba false false cid t = modCmd r cid credited t := by
  unfold creditCmd
  rw [h]
  rfl

/-- The last sector of a write not yet answered completes it. -/
theorem sectorProgrammed_completes {c : Cmd} (h : Pre.programmed s u g r) (acked : g.acked = false)
    (past : s.rings[r].past = [c]) (cid : c.cid = g.cid) (op : c.op = 1) (effect : c.effect = true) (sound : c.failedLba = [])
    (bad : c.badBeats = 0) (cause : c.badCause = none) (whole : c.trunc = none) (hx : g.sec.psn = 0) :
    ∃ t, exec (.sectorProgrammed u [.ok]) s = .next t ∧ Answered s t r c stOK 0 0 ∧ t.vaultSec g.lba = g.sec
      ∧ t.rings[r].past = [] ∧ t.st.staged = [] ∧ t.st.mem = s.st.mem := by
  obtain ⟨held, staged, inUnit, src, alone, others, queue, ok⟩ := h
  obtain ⟨rings, left, mem⟩ := landed_parts s g r
  have sec := fun l => landed_vaultSec (r := r) ok hx l
  have run : programUnit u [.ok] s = stageWaiting (settleFlushes (settleWrites [g.cid]
      (creditCmd g.lba false false g.cid (landed s g r)))) := by
    rw [programUnit_one .ok staged inUnit alone src, programOne_ok g src alone]
    dsimp only
    rw [if_neg (by simp [acked])]
    rfl
  generalize landed s g r = v at rings left mem sec run
  have absent : ∀ q : Ring, q ≠ r → s.rings[q].find g.cid = none := fun q hq => find_nothing (others q hq).2 (others q hq).1 _
  have found : v.ringOf g.cid = some r := by
    refine ringOf_only ?_ fun q hq => by rw [rings, absent q hq]
    rw [rings, RingSt.find, queue, past]
    simp [cid]
  have ring : (creditCmd g.lba false false g.cid v).rings[r] = { s.rings[r] with past := [credited c] } := by
    rw [creditCmd_found found, modCmd, State.onRing_same, rings, RingSt.mod, queue, past, List.map_nil, List.map_cons,
      List.map_nil, if_pos cid, ← queue]
  have other : OtherRings s (creditCmd g.lba false false g.cid v) r := fun q hq => by
    rw [creditCmd_found found, modCmd_others r _ _ _ q hq, rings]
  have st : (creditCmd g.lba false false g.cid v).st = v.st := by rw [creditCmd_found found, modCmd_st]
  generalize creditCmd g.lba false false g.cid v = w at ring other st run
  have past' : w.rings[r].past = [credited c] := by rw [ring]
  have queue' : w.rings[r].queue = [] := by rw [ring, queue]
  have here : w.rings[r].find g.cid = some (credited c) := by
    rw [RingSt.find, queue', past']
    simp [credited, cid]
  have whose : w.ringOf g.cid = some r :=
    ringOf_only (by rw [here]; rfl) fun q hq => by rw [other q hq, absent q hq]
  have settled : settleWrites [g.cid] w = pushEntry r (credited c) { status := stOK } w := by
    have held : w.rings[r].past.find? (·.cid == g.cid) = some (credited c) := by
      rw [past']
      simp [credited, cid]
    have none : nothingStaged w g.cid = true := by simp [nothingStaged, st, left]
    rw [settleWrites, List.foldl_cons, List.foldl_nil, whose]
    dsimp only
    rw [held]
    dsimp only
    rw [if_pos ⟨op, effect, none⟩]
    exact finishWrite_ok (c := credited c) sound bad cause w
  have gone : (pushEntry r (credited c) { status := stOK } w).rings[r].past = [] := pushEntry_last_past queue' past' rfl
  have idle : ∀ q : Ring, (pushEntry r (credited c) { status := stOK } w).rings[q].past = [] := by
    intro q
    by_cases e : q = r
    · rw [e, gone]
    · rw [pushEntry_others _ _ _ _ q e, other q e, (others q e).1]
  rw [settled, settleFlushes_none fun q => by rw [idle q]; rfl, stageWaiting_none idle] at run
  have answer := pushEntry_answers (s := w) (r := r) (c := credited c) (o := { status := stOK })
    (by rw [← here]; exact congrArg _ cid) whole bad (by decide) rfl
  refine ⟨_, (exec_sectorProgrammed _ held staged inUnit).trans (congrArg Host.Outcome.next run), ?_, ?_, gone, ?_, ?_⟩
  · exact answered_of_rings (d := credited c) (by rw [ring]) rfl rfl answer
  · rw [State.vaultSec, pushEntry_st, st]
    exact (sec g.lba).trans (if_pos rfl)
  · rw [pushEntry_st, st, left]
  · rw [pushEntry_st, st, mem]

end

/-! ### The obligation -/

/-- A program unit takes sectors of its source. -/
theorem exec_programUnitStart {src : Source} {s : State} (h : Pre.unitStart s src) : exec (.programUnitStart src) s
    = .next { s with st := { s.st with staged := unitTake src s.st.nextUnit 32 s.st.staged, nextUnit := s.st.nextUnit + 1 } } := by
  obtain ⟨⟨rdy, phase⟩, onfi, op, drain, may, rw_, some_⟩ := h
  refine congrArg Host.Outcome.next ((if_neg ?_).trans (if_neg (ne_true_of_eq_false rw_)))
  simp only [rdy, phase, drain, may, some_, onfi, op]
  simp

theorem exec_patrolScrub_uncorrectable {s : State} (b : Nat) (rdy : s.pw.rdy = true) :
    ∃ t, exec (.patrolScrub (.offset b) .uncorrectable) s = .next t ∧ b ∈ t.st.memBad
      ∧ (∀ k ∈ s.st.memBad, k ∈ t.st.memBad) ∧ t.st.mem = s.st.mem ∧ t.rings = s.rings := by
  refine ⟨_, congrArg Host.Outcome.next (if_neg (ne_false_of_eq_true rdy)), ?_, fun k hk => ?_, ?_, ?_⟩
  · rw [raiseEvent_st]
    exact (mem_nIns _ _ _).mpr (.inl rfl)
  · rw [raiseEvent_st]
    exact (mem_nIns _ _ _).mpr (.inr hk)
  · rw [raiseEvent_st]
    rfl
  · rw [raiseEvent_rings]
    rfl

/-- An unreadable sector reads poisoned from then on. -/
theorem exec_vaultReadDone_unreadable {s : State} (lba : Nat) (rdy : s.pw.rdy = true) :
    ∃ t, exec (.vaultReadDone lba .unreadable) s = .next t ∧ t.st.unreadable = satAdd s.st.unreadable 1
      ∧ (t.readSec lba).psn = BitVec.allOnes 64 ∧ t.st.vault = s.st.vault ∧ t.st.mem = s.st.mem ∧ t.rings = s.rings := by
  refine ⟨_, congrArg Host.Outcome.next (if_neg (ne_false_of_eq_true rdy)), rfl, ?_, rfl, rfl, rfl⟩
  have noted : (nIns lba s.st.unread).contains lba = true := List.contains_iff_mem.mpr ((mem_nIns _ _ _).mpr (.inl rfl))
  unfold State.readSec
  dsimp only
  rw [if_pos (.inl noted)]

/-- Settles O38: the drain puts sectors into the Vault, and upkeep keeps what is stored. -/
theorem drainAndUpkeepKeepSectors : Obligations.DrainAndUpkeepKeepSectors := by
  refine ⟨⟨fun s src h => exec_programUnitStart h, fun s u g r h acked past => ⟨sectorProgrammed_acked h past,
    sectorProgrammed_failed h acked past⟩, fun s u g r c h acked past cid op effect sound bad cause whole hx =>
      sectorProgrammed_completes h acked past cid op effect sound bad cause whole hx⟩, fun s b lba n rdy => ?_⟩
  have on : ¬ s.pw.rdy = false := ne_false_of_eq_true rdy
  refine ⟨congrArg Host.Outcome.next (if_neg on), congrArg Host.Outcome.next (if_neg on), exec_patrolScrub_uncorrectable b rdy,
    congrArg Host.Outcome.next (if_neg on), exec_vaultReadDone_unreadable lba rdy, fun open_ => ?_⟩
  exact congrArg Host.Outcome.next (if_neg (not_or.mpr ⟨on, ne_true_of_eq_false open_⟩))

end Sys2Proof.Proofs

/-! Images sealed and made durable (13, 15). -/

namespace Sys2Proof.Proofs

open Sys2Proof Sys2Proof.Machine Sys2Proof.Safety Sys2Proof.Laws

/-! ### A command alone on its ring -/

theorem find_alone {x : RingSt} {c : Cmd} (hq : x.queue = [c]) : x.find c.cid = some c := by
  rw [RingSt.find, hq]
  simp

theorem mod_alone {x : RingSt} {c : Cmd} (hq : x.queue = [c]) (hp : x.past = []) (f : Cmd → Cmd) :
    x.mod c.cid f = { x with queue := [f c] } := by
  unfold RingSt.mod
  rw [hq, hp]
  simp

theorem stopWaiting_answer (n : Nat) (c : Cmd) : (stopWaiting n c).badBeats = c.badBeats ∧ (stopWaiting n c).tag = c.tag := by
  unfold stopWaiting
  split <;> exact ⟨rfl, rfl⟩

theorem modCmd_alone {s : State} {r : Ring} {c : Cmd} (hq : s.rings[r].queue = [c]) (hp : s.rings[r].past = []) (f : Cmd → Cmd) :
    (modCmd r c.cid f s).rings[r] = { s.rings[r] with queue := [f c] } := by
  rw [modCmd, State.onRing_same, mod_alone hq hp]

/-! ### A stage of SNAP_SEAL is reported (R8) -/

/-- A command whose stage was reported, ready for its next entry. -/
def stageCleared (c : Cmd) : Cmd := { c with corrected := false, delayed := false, delay := 0, res := 7, cause := 0 }

section
variable {s : State} {r : Ring} {c : Cmd}

theorem sealReport_st (stage : Nat) (o : Outc) : (sealReport r c stage o s).st = s.st := by
  unfold sealReport
  split
  · rfl
  · exact (pushEntry_st ..).trans (modCmd_st ..)

theorem sealReport_others (stage : Nat) (o : Outc) : OtherRings s (sealReport r c stage o s) r := by
  intro q hq
  unfold sealReport
  split
  · rfl
  · rw [pushEntry_others _ _ _ _ q hq, modCmd_others r _ _ _ q hq]

/-- The STAGED entry of a SNAP_SEAL: stage 1, with more to come. -/
theorem sealReport_staged (hq : s.rings[r].queue = [c]) (hp : s.rings[r].past = []) (first : c.stages = 0) (ht : c.trunc = none)
    (hb : c.badBeats = 0) {o : Outc} (hd : o.status ≠ stDISCARDED) :
    ∃ e d, (sealReport r c 1 o s).rings[r] = { s.rings[r] with queue := [d], waiting := s.rings[r].waiting ++ [e] }
      ∧ e.tag = c.tag ∧ e.stage = 1 ∧ e.status = o.status ∧ e.more = true ∧ e.last = false ∧ e.d1 = BitVec.ofNat 32 o.d1
      ∧ d.cid = c.cid ∧ d.f = c.f := by
  have unreported : bit c.stages 1 = false := by rw [first]; rfl
  have more : (sealOwed c).any (fun k => k != 1 && !bit c.stages k) = true := by
    unfold sealOwed
    rw [first]
    split <;> decide
  let o' : Outc := { o with stage := BitVec.ofNat 8 1, more := true }
  let c' : Cmd := { c with stages := setBit c.stages 1 true }
  have run : sealReport r c 1 o s = pushEntry r c o' (modCmd r c.cid (fun c => { c with stages := setBit c.stages 1 true }) s) := by
    unfold sealReport
    rw [unreported, more]
    rfl
  have ring := modCmd_alone hq hp (fun c => { c with stages := setBit c.stages 1 true })
  generalize modCmd r c.cid (fun c => { c with stages := setBit c.stages 1 true }) s = u at run ring
  have found : u.rings[r].find c.cid = some c' := by
    rw [ring]
    exact find_alone (c := c') rfl
  have w := stopWaiting_sameWork u.now c'
  have plain : entryFor u r (stopWaiting u.now c') o' = { entryOf (stopWaiting u.now c') o' with
      done := min (doneUnits u r (stopWaiting u.now c')) 0xFFFFFFFF } :=
    entryFor_plain (w.trunc.trans ht) ((stopWaiting_answer _ _).1.trans hb) hd
  refine ⟨entryFor u r (stopWaiting u.now c') o', stageCleared c', ?_, ?_⟩
  · rw [run, pushEntry_rings, modAt_same]
    dsimp only
    rw [show c.cid = c'.cid from rfl, found, if_pos rfl, Option.getD_some, w.cid, ring]
    exact mod_alone (x := { s.rings[r] with queue := [c'], waiting := _ }) (c := c') rfl hp stageCleared
  · rw [plain]
    exact ⟨(stopWaiting_answer _ _).2, rfl, rfl, rfl, rfl, rfl, rfl, rfl⟩

end

/-! ### SNAP_SEAL (R262, R303) -/

theorem modImage_only {s : State} {i : Image} (h : s.st.images = [i]) (f : Image → Image) :
    sansSpare (modImage i.tenant i.img f s) = (s.rings, s.st.vault, s.st.staged, s.st.mem, [f i]) := by
  unfold modImage sansSpare
  dsimp only
  rw [h, List.map_cons, if_pos ⟨rfl, rfl⟩, List.map_nil]

/-- The image sealed: whole in staging memory, its sectors behind what the drain already has. -/
theorem sealImage_seals {s : State} {i : Image} (cid : Nat) (h : s.st.images = [i]) :
    ∃ (i2 : Image) (old : List Staged) (g : Staged) (tail : List Staged), sansSpare (sealImage cid i s)
        = (s.rings, s.st.vault, old ++ g :: tail, s.st.mem, [i2])
      ∧ g.src = .image i.tenant i.img ∧ i2.tenant = i.tenant ∧ i2.img = i.img ∧ i2.sealed_ = true ∧ i2.inStage = true
      ∧ i2.total = i2.secs.length ∧ i2.durable = i.durable ∧ i2.badCount = i.badCount := by
  unfold sealImage
  dsimp only
  refine ⟨_, _, _, _, (journalAdd_sansSpare 1 _).trans (modImage_only (by exact h) _), ?_⟩
  exact ⟨rfl, rfl, rfl, rfl, rfl, rfl, rfl, rfl⟩

theorem image?_only {s : State} {i : Image} (h : s.st.images = [i]) : s.image? i.tenant i.img = some i := by
  unfold State.image?
  rw [h]
  simp

/-- An image not yet durable stays whole in staging memory (R302). -/
theorem trimStaging_undurable {s : State} {i : Image} (h : s.st.images = [i]) (hd : i.durable = false) : trimStaging s = s := by
  unfold trimStaging
  rw [show s.st.images.map _ = s.st.images from ?_]
  rw [h, List.map_cons, List.map_nil, if_neg]
  rw [hd]
  exact fun h => absurd h.2.2.1 Bool.false_ne_true

theorem exec_snapSeal (r : Ring) (s : State) : exec (.snapSeal r) s = .next (headStep r 0x12 (sealAct r) s) := rfl

section
variable {s : State} {r : Ring} {c : Cmd} {i : Image}

/-- With every range in, SNAP_SEAL seals the image and reports its stages. -/
theorem sealAct_seals (h : Pre.snapSeal s r c i) : ∃ (s1 : State) (i2 : Image) (old : List Staged) (g : Staged) (tail : List Staged),
    sealAct r c s = sealStages r { c with effect := true } i2 s1
      ∧ sansSpare s1 = ((effectOf r c.cid s).rings, s.st.vault, old ++ g :: tail, s.st.mem, [i2])
      ∧ g.src = .image i.tenant i.img ∧ i2.tenant = i.tenant ∧ i2.img = i.img ∧ i2.sealed_ = true ∧ i2.inStage = true
      ∧ i2.total = i2.secs.length ∧ i2.durable = i.durable ∧ i2.badCount = i.badCount := by
  obtain ⟨started, queue, past, -, -, images, tenant, img, copy, unsealed, undurable, op, ranges, -⟩ := h
  obtain ⟨i2, old, g, tail, sealed_, parts⟩ := sealImage_seals (s := effectOf r c.cid s) c.cid images
  have ⟨_, sameTenant, sameImg, _, _, _, sameDurable, _⟩ := parts
  refine ⟨sealImage c.cid i (effectOf r c.cid s), i2, old, g, tail, ?_, sealed_, parts⟩
  simp only [sansSpare, Prod.mk.injEq] at sealed_
  obtain ⟨rings, -, -, -, only⟩ := sealed_
  have here : s.image? (s.ringTenant r) (BitVec.ofNat 32 (c.f 0x10 4)) = some i := by
    rw [← tenant, ← img]
    exact image?_only images
  have all : (i.ranges.any fun g => !g.isIn) = false := by
    rw [List.any_eq_false]
    exact fun x hx => by simp [List.all_eq_true.mp ranges x hx]
  have found : (sealImage c.cid i (effectOf r c.cid s)).rings[r].find c.cid = some { c with effect := true } := by
    rw [rings, effectOf, modCmd_alone queue past]
    exact find_alone (c := { c with effect := true }) rfl
  have now := image?_only only
  unfold sealAct
  dsimp only
  rw [here]
  dsimp only
  rw [if_neg (ne_true_of_eq_false copy), if_neg (ne_true_of_eq_false unsealed), if_neg op, if_neg (ne_true_of_eq_false all),
    trimStaging_undurable only (sameDurable.trans undurable), ← tenant, ← img, ← sameTenant, ← sameImg, now, found]

theorem leaveHead_alone {u : State} {d : Cmd} (hq : u.rings[r].queue = [d]) (hp : u.rings[r].past = []) :
    (leaveHead r d.cid u).rings[r] = { u.rings[r] with queue := [], past := [{ d with atHead := false }] } := by
  rw [leaveHead, State.onRing_same, leaveHead_queue hq, hp]
  rfl

/-- While sectors of the image wait in the drain and no pairing was asked for, STAGED is all there is to report. -/
theorem sealStages_staged {u : State} (hq : u.rings[r].queue = [c]) (hp : u.rings[r].past = []) (first : c.stages = 0)
    (ht : c.trunc = none) (hb : c.badBeats = 0) (hd : (stagedOutc i).status ≠ stDISCARDED)
    (waits : imageStaged u i.tenant i.img = true) (undurable : i.durable = false) (alone : c.f 0x14 1 = 0) :
    ∃ e d, (sealStages r c i u).rings[r] = { u.rings[r] with queue := [], past := [d], waiting := u.rings[r].waiting ++ [e] }
      ∧ e.tag = c.tag ∧ e.stage = 1 ∧ e.status = (stagedOutc i).status ∧ e.more = true ∧ e.last = false
      ∧ e.d1 = BitVec.ofNat 32 (stagedOutc i).d1 ∧ d.cid = c.cid ∧ (sealStages r c i u).st = u.st
      ∧ OtherRings u (sealStages r c i u) r := by
  obtain ⟨e, d, ring, tag, stage, status, more, last, d1, cid, field⟩ := sealReport_staged hq hp first ht hb hd
  have left : (leaveHead r c.cid (sealReport r c 1 (stagedOutc i) u)).rings[r] = { u.rings[r] with
      queue := [], past := [{ d with atHead := false }], waiting := u.rings[r].waiting ++ [e] } := by
    rw [← cid, leaveHead_alone (by rw [ring]) (by rw [ring, hp]), ring]
  have st : (leaveHead r c.cid (sealReport r c 1 (stagedOutc i) u)).st = u.st := sealReport_st 1 _
  have others : OtherRings u (leaveHead r c.cid (sealReport r c 1 (stagedOutc i) u)) r := fun q hq =>
    (State.onRing_other _ _ _ _ hq).trans (sealReport_others 1 _ q hq)
  have run : sealStages r c i u = leaveHead r c.cid (sealReport r c 1 (stagedOutc i) u) := by
    unfold sealStages
    generalize leaveHead r c.cid (sealReport r c 1 (stagedOutc i) u) = v at left st others
    have undecided : durableOutc v i = none := by
      rw [durableOutc, undurable, imageStaged, st]
      rw [if_neg Bool.false_ne_true]
      exact if_pos waits
    have found : v.rings[r].find c.cid = some { d with atHead := false } := by
      rw [left, RingSt.find]
      simp [cid]
    have none : ({ d with atHead := false } : Cmd).f 0x14 1 = 0 := (congrFun (congrFun field 0x14) 1).trans alone
    dsimp only
    rw [undecided, found]
    exact if_pos none
  rw [run]
  exact ⟨e, _, left, tag, stage, status, more, last, d1, cid, st, others⟩

theorem stagedOutc_sound (h : i.badCount = 0) : stagedOutc i = { status := stOK, d0 := 4096 * i.total, d1 := i.total, tainted := i.tainted } :=
  if_neg (not_not.mpr h)

/-- SNAP_SEAL with every range in. -/
theorem snapSeal_staged (h : Pre.snapSeal s r c i) :
    ∃ t i2 e d, exec (.snapSeal r) s = .next t ∧ t.image? i.tenant i.img = some i2 ∧ i2.sealed_ = true ∧ i2.inStage = true
      ∧ i2.total = i2.secs.length ∧ i2.durable = false ∧ t.rings[r].waiting = s.rings[r].waiting ++ [e]
      ∧ e.tag = c.tag ∧ e.stage = 1 ∧ e.status = stOK ∧ e.more = true ∧ e.last = false
      ∧ e.d1 = BitVec.ofNat 32 i2.total ∧ t.rings[r].queue = [] ∧ t.rings[r].past = [d] ∧ d.cid = c.cid
      ∧ imageStaged t i.tenant i.img = true ∧ t.st.mem = s.st.mem ∧ t.st.vault = s.st.vault ∧ OtherRings s t r := by
  obtain ⟨u, i2, old, g, tail, run, sealed_, src, tenant, img, whole, inStage, total, durable, bad⟩ := sealAct_seals h
  obtain ⟨started, queue, past, alone, first, -, -, -, -, -, undurable, -, -, sound⟩ := h
  simp only [sansSpare, Prod.mk.injEq] at sealed_
  obtain ⟨rings, vault, staged, mem, only⟩ := sealed_
  have ring : u.rings[r] = { s.rings[r] with queue := [{ c with effect := true }] } := by
    rw [rings, effectOf, modCmd_alone queue past]
  have ok := stagedOutc_sound (bad.trans sound)
  have waits : imageStaged u i.tenant i.img = true := by
    rw [imageStaged, staged]
    simp [src]
  obtain ⟨e, d, ring', tag, stage, status, more, last, d1, cid, st, others⟩ := sealStages_staged (r := r) (u := u) (i := i2)
    (c := { c with effect := true }) (by rw [ring]) (by rw [ring, past]) first started.2.2.2.2.1 started.2.2.2.2.2
    (by rw [ok]; exact (by decide : stOK ≠ stDISCARDED)) (by rw [tenant, img]; exact waits) (durable.trans undurable) alone
  generalize sealStages r { c with effect := true } i2 u = t at run ring' st others
  refine ⟨t, i2, e, d, ?_, ?_, whole, inStage, total, durable.trans undurable, ?_, tag, stage, ?_, more, last, ?_, ?_, ?_, cid,
    ?_, ?_, ?_, fun q hq => ?_⟩
  · rw [exec_snapSeal, headStep_started started, run]
  · rw [← tenant, ← img]
    exact image?_only (by rw [st, only])
  · rw [ring', ring]
  · rw [status, ok]
  · rw [d1, ok]
  · rw [ring']
  · rw [ring']
  · rw [imageStaged, st]
    exact waits
  · rw [st, mem]
  · rw [st, vault]
  · rw [others q hq, rings, effectOf, modCmd_others r _ _ _ q hq]

end

/-! ### IMAGE_DURABLE (R303, R307) -/

/-- A sector as the Vault keeps it: a poisoned one poisoned whole. -/
def inVault (x : Sec) : Sec := { x with psn := if x.psn = 0 then 0 else BitVec.allOnes 64 }

/-- The sectors of an image put in the Vault one after the other. -/
def putAll (lba : Nat) (xs : List (Sec × Nat)) (s : State) : State := xs.foldl (fun s p => putVault (lba + p.2) p.1 s) s

/-- The state without the Vault's sectors and the marks of unread ones. -/
def sansVault (s : State) : State := { s with st := { s.st with vault := [], unread := [] } }

theorem putAll_sansVault (lba : Nat) (xs : List (Sec × Nat)) (s : State) : sansVault (putAll lba xs s) = sansVault s :=
  foldl_keeps sansVault (fun (s : State) (p : Sec × Nat) => putVault (lba + p.2) p.1 s) (fun _ _ => rfl) xs s

theorem putAll_vaultSec {s : State} (ok : kvOk ({} : Sec) none s.st.vault = true) (lba : Nat) (xs : List Sec) (n l : Nat) :
    (putAll lba (xs.zipIdx n) s).vaultSec l
      = if lba + n ≤ l then ((xs[l - (lba + n)]?).map inVault).getD (s.vaultSec l) else s.vaultSec l := by
  induction xs generalizing s n with
  | nil => simp [putAll]
  | cons x xs ih =>
    have first : (putVault (lba + n) x s).vaultSec l = if l = lba + n then inVault x else s.vaultSec l := kvGet_kvSet ok
    rw [List.zipIdx_cons, putAll, List.foldl_cons]
    refine (ih (s := putVault (lba + n) x s) (kvSet_ok ok) (n + 1)).trans ?_
    rw [first]
    rcases Nat.lt_trichotomy l (lba + n) with lt | rfl | gt
    · rw [if_neg (by omega), if_neg (by omega), if_neg (by omega)]
    · rw [if_neg (by omega), if_pos rfl, if_pos (by omega), Nat.sub_self]
      rfl
    · obtain ⟨k, hk⟩ : ∃ k, l = lba + n + 1 + k := ⟨l - (lba + n + 1), by omega⟩
      rw [if_pos (by omega), if_neg (by omega), if_pos (by omega), show l - (lba + n) = (l - (lba + (n + 1))) + 1 by omega,
        List.getElem?_cons_succ]

theorem reportDurable_none {s : State} (h : ∀ q : Ring, s.rings[q].past = []) (t : Tenant) (img : Word) (o : Outc) :
    reportDurable t img o s = s := by
  refine foldl_still fun q _ => ?_
  rw [h q, List.filter_nil, List.foldl_nil, ite_self]

theorem trimStaging_only {s : State} {i : Image} (h : s.st.images = [i]) : ∃ j : Image, (trimStaging s).st.images = [j]
    ∧ j.tenant = i.tenant ∧ j.img = i.img ∧ j.durable = i.durable := by
  unfold trimStaging
  dsimp only
  rw [h, List.map_cons, List.map_nil]
  refine ⟨_, rfl, ?_⟩
  split <;> exact ⟨rfl, rfl, rfl⟩

/-- The state with an image's sectors in the Vault and the image DURABLE, its command not yet told. -/
def madeDurable (i : Image) (s : State) : State :=
  let s1 := putAll i.lba i.secs.zipIdx s
  let s2 := modImage i.tenant i.img (fun x => { x with durable := true, durOrder := s.st.nextSeal })
    { s1 with st := { s1.st with nextSeal := s1.st.nextSeal + 1 } }
  if s2.st.journal = 0 then commitTail s2 else s2

theorem madeDurable_parts {s : State} {i : Image} (h : s.st.images = [i]) : sansSpare (madeDurable i s)
      = (s.rings, (putAll i.lba i.secs.zipIdx s).st.vault, s.st.staged, s.st.mem, [{ i with durable := true, durOrder := s.st.nextSeal }])
    ∧ (madeDurable i s).cairns = s.cairns := by
  have same := putAll_sansVault i.lba i.secs.zipIdx s
  unfold madeDurable
  generalize putAll i.lba i.secs.zipIdx s = s1 at same
  have rings : s1.rings = s.rings := (congrArg State.rings same :)
  have cairns : s1.cairns = s.cairns := (congrArg State.cairns same :)
  have staged : s1.st.staged = s.st.staged := (congrArg (fun s => s.st.staged) same :)
  have mem : s1.st.mem = s.st.mem := (congrArg (fun s => s.st.mem) same :)
  have images : s1.st.images = [i] := (congrArg (fun s => s.st.images) same :).trans h
  have made : sansSpare (modImage i.tenant i.img (fun x => { x with durable := true, durOrder := s.st.nextSeal })
      { s1 with st := { s1.st with nextSeal := s1.st.nextSeal + 1 } })
      = (s.rings, s1.st.vault, s.st.staged, s.st.mem, [{ i with durable := true, durOrder := s.st.nextSeal }]) := by
    rw [← rings, ← staged, ← mem]
    exact modImage_only (by exact images) _
  dsimp only
  split
  · exact ⟨made, cairns⟩
  · exact ⟨made, cairns⟩

theorem exec_imageDurable {s : State} {i : Image} (h : Pre.imageDurable s i) :
    exec (.imageDurable i.tenant i.img) s = .next (trimStaging (madeDurable i s)) := by
  obtain ⟨images, held, sealed_, copy, undurable, inStage, total, some_, failed, programmed, past, ok⟩ := h
  have undecided : durableOutc s i = none := by
    rw [durableOutc, undurable, programmed, failed]
    rfl
  have idle : ∀ q : Ring, (madeDurable i s).rings[q].past = [] := by
    have parts := (madeDurable_parts images).1
    simp only [sansSpare, Prod.mk.injEq] at parts
    rw [parts.1]
    exact past
  refine congrArg Host.Outcome.next ?_
  rw [image?_only images]
  dsimp only
  rw [if_neg, undecided]
  · dsimp only
    rw [if_neg (ne_false_of_eq_true inStage)]
    exact congrArg trimStaging (reportDurable_none idle _ _ _)
  · rw [held, sealed_, copy, undurable, programmed]
    simp [some_]

/-- Settles O40: SNAP_SEAL reports STAGED, and a durable image stands in the Vault. -/
theorem imagesSealAndBecomeDurable : Obligations.ImagesSealAndBecomeDurable := by
  refine ⟨fun s r c i h => snapSeal_staged h, fun s i h => ?_⟩
  have run := exec_imageDurable h
  obtain ⟨images, -, -, -, -, -, total, -, -, -, -, ok⟩ := h
  obtain ⟨parts, cairns⟩ := madeDurable_parts images
  simp only [sansSpare, Prod.mk.injEq] at parts
  obtain ⟨rings, vault, -, mem, only⟩ := parts
  obtain ⟨j, left, tenant, img, durable⟩ := trimStaging_only only
  have sec : ∀ l, (trimStaging (madeDurable i s)).vaultSec l
      = if i.lba ≤ l then ((i.secs[l - i.lba]?).map inVault).getD (s.vaultSec l) else s.vaultSec l := by
    intro l
    refine (congrArg (kvGet ({} : Sec) · l) vault).trans ?_
    exact putAll_vaultSec ok i.lba i.secs 0 l
  refine ⟨_, run, ?_, fun k x hx => ?_, fun l hl => ?_, rings, cairns, mem⟩
  · have found := image?_only left
    rw [tenant, img] at found
    rw [found]
    exact congrArg some durable
  · rw [sec, if_pos (Nat.le_add_right ..), Nat.add_sub_cancel_left, hx]
    exact ⟨rfl, rfl⟩
  · rw [sec]
    rcases hl with below | above
    · rw [if_neg (by omega)]
    · rw [if_pos (by omega), List.getElem?_eq_none (by omega)]
      rfl

end Sys2Proof.Proofs

/-! WRITE_SECTORS and READ_SECTORS of staging memory (R116, R117, R300). -/

namespace Sys2Proof.Proofs

open Sys2Proof Sys2Proof.Machine Sys2Proof.Safety Sys2Proof.Laws

/-! ### Bytes of beats and of sectors -/

theorem natLE_append (l l' : List Byte) : natLE (l ++ l') = natLE l + 2 ^ (8 * l.length) * natLE l' := by
  induction l with
  | nil => simp [natLE]
  | cons b l ih =>
    rw [List.cons_append, natLE, natLE, ih, List.length_cons, show 8 * (l.length + 1) = 8 + 8 * l.length by omega, Nat.pow_add]
    ring

theorem natLE_lt (l : List Byte) : natLE l < 2 ^ (8 * l.length) := by
  induction l with
  | nil => simp [natLE]
  | cons b l ih =>
    have small := b.isLt
    rw [natLE, List.length_cons, show 8 * (l.length + 1) = 8 + 8 * l.length by omega, Nat.pow_add]
    omega

theorem ofBytes_toNat {w : Nat} {l : List Byte} (h : 8 * l.length ≤ w) : (ofBytes w l).toNat = natLE l := by
  rw [ofBytes, BitVec.toNat_ofNat, Nat.mod_eq_of_lt (lt_of_lt_of_le (natLE_lt l) (Nat.pow_le_pow_right (by decide) h))]

/-- A beat of 64 bytes, without poison. -/
def soundBeat (bs : List Byte) : Beat := { data := ofBytes 512 bs }

/-- A sector of sound beats holds their bytes and no poison. -/
theorem secOf_sound {l : List (List Byte)} (h : ∀ bs ∈ l, bs.length = 64) :
    secOf (l.map soundBeat) = { data := ofBytes 32768 l.flatten, psn := 0 } := by
  have data : (l.map soundBeat).foldr (fun (b : Beat) n => n * 2 ^ 512 + b.data.toNat) 0 = natLE l.flatten := by
    induction l with
    | nil => rfl
    | cons bs l ih =>
      have len := h bs List.mem_cons_self
      rw [List.map_cons, List.foldr_cons, ih fun x hx => h x (List.mem_cons_of_mem _ hx), List.flatten_cons, natLE_append, len,
        soundBeat, ofBytes_toNat (by omega)]
      omega
  have psn : ∀ m : List (List Byte), (m.map soundBeat).foldr (fun (b : Beat) n => n * 2 + (if b.psn then 1 else 0)) 0 = 0 := by
    intro m
    induction m with
    | nil => rfl
    | cons bs m ih =>
      rw [List.map_cons, List.foldr_cons, ih]
      rfl
  unfold secOf
  rw [List.foldl_reverse, List.foldl_reverse, ← List.map_take, psn, data]
  rfl

/-- An element of as many lists of one length, set one behind the other. -/
theorem flatMap_const_get {α : Type} {f : Nat → List α} {m n q k : Nat} (h : ∀ i, (f i).length = m) (hq : q < n) (hk : k < m) :
    ((List.range n).flatMap f)[m * q + k]? = (f q)[k]? := by
  have len : ∀ n, ((List.range n).flatMap f).length = m * n := by
    intro n
    simp [List.length_flatMap, h, Nat.mul_comm]
  induction n with
  | zero => omega
  | succ n ih =>
    rw [List.range_succ, List.flatMap_append, List.flatMap_singleton]
    by_cases last : q = n
    · subst last
      rw [List.getElem?_append_right (by rw [len]; omega), len, Nat.add_sub_cancel_left]
    · have before : m * q + m ≤ m * n := by
        rw [← Nat.mul_succ]
        exact Nat.mul_le_mul_left m (by omega)
      rw [List.getElem?_append_left (by rw [len]; omega)]
      exact ih (by omega)

/-! ### A source in staging memory (R116) -/

theorem beat_sound {s : State} (clean : s.st.memBad = []) (b : Nat) : s.beat b = soundBeat (readBytes s.st.mem (64 * b) 64) := by
  rw [State.beat, clean]
  rfl

/-- Reads inside the windows of memory without poison find what it holds. -/
theorem stagingReads_sound {s : State} (k : Key) (clean : s.st.memBad = []) {plan : List Nat}
    (inside : ∀ a ∈ plan, inWindows s k.tenant a 64 = true) : stagingReads k plan s
      = (plan.map (fun a => (a, .ok (s.beat (a / 64)).data)), plan.map (fun a => s.beat (a / 64)), s) := by
  induction plan with
  | nil => rfl
  | cons a plan ih =>
    have sound : (s.beat (a / 64)).psn = false := by rw [beat_sound clean]; rfl
    rw [stagingReads, if_pos (inside a List.mem_cons_self)]
    dsimp only
    rw [sound, if_neg Bool.false_ne_true, if_neg Bool.false_ne_true]
    dsimp only
    rw [ih fun x hx => inside x (List.mem_cons_of_mem _ hx), List.map_cons, List.map_cons]
    rw [show s.beat (a / 64) = { data := (s.beat (a / 64)).data, psn := false } from by rw [← sound]]

/-- The sector that staging memory holds from `a` on. -/
def memSec (s : State) (a : Nat) : Sec := { data := ofBytes 32768 (readBytes s.st.mem a 4096), psn := 0 }

theorem range_piece {α : Type} (f : Nat → α) {n i m : Nat} (h : i + m ≤ n) :
    (((List.range n).map f).drop i).take m = (List.range m).map (fun j => f (i + j)) := by
  refine List.ext_getElem ?_ fun j _ _ => ?_
  · simp only [List.length_take, List.length_drop, List.length_map, List.length_range]
    omega
  · simp

theorem cutSecs_memory {s : State} (clean : s.st.memBad = []) {a : Nat} (aligned : a % 64 = 0) (n : Nat) :
    cutSecs ((beatPlan a (4096 * n)).map (fun a => s.beat (a / 64))) n = (List.range n).map (fun i => memSec s (a + 4096 * i)) := by
  have count : ceilDiv (4096 * n) 64 = 64 * n := by
    rw [ceilDiv]
    omega
  unfold cutSecs beatPlan
  rw [count, List.map_map]
  refine List.map_congr_left fun i hi => ?_
  have last : i < n := List.mem_range.mp hi
  rw [range_piece _ (by omega)]
  have beats : (List.range 64).map (fun j => ((fun a => s.beat (a / 64)) ∘ fun i => a + 64 * i) (64 * i + j))
      = ((List.range 64).map (fun j => readBytes s.st.mem (a + 4096 * i + 64 * j) 64)).map soundBeat := by
    rw [List.map_map]
    refine List.map_congr_left fun j _ => ?_
    rw [Function.comp, Function.comp, beat_sound clean, show 64 * ((a + 64 * (64 * i + j)) / 64) = a + 4096 * i + 64 * j by omega]
  rw [beats, secOf_sound, memSec, ← List.flatMap_def, flatMap_beats]
  intro bs hbs
  obtain ⟨j, -, rfl⟩ := List.mem_map.mp hbs
  rw [readBytes, List.length_map, List.length_range]

theorem memSec_byte (s : State) (a : Nat) {j : Nat} (hj : j < 4096) : fld (memSec s a).data (8 * j) 8 = readByte s.st.mem (a + j) := by
  have len : (readBytes s.st.mem a 4096).length = 4096 := by rw [readBytes, List.length_map, List.length_range]
  have bytes : bytesLE 4096 (memSec s a).data = readBytes s.st.mem a 4096 := bytesLE_ofBytes len (by decide)
  have := congrArg (·[j]?) bytes
  simpa [bytesLE, readBytes, hj] using this

theorem badOf_sound (l : List Nat) (f : Nat → BeatBits) : badOf (l.map (fun a => (a, .ok (f a)))) = {} := by
  induction l with
  | nil => rfl
  | cons a l ih => exact ih

/-! ### Sectors are staged (R298) -/

/-- What a write stages for its sector `i`. -/
def writeStaged (r : Ring) (c : Cmd) (x : Sec) (i : Nat) : Staged :=
  { src := .ring r, cid := c.cid, lba := c.f 0x18 8 + i, sec := x, acked := !c.durable, tag := c.tag, ctx := c.ctx }

/-- A sector that supersedes none joins the end. -/
theorem stageSector_new {g : Staged} {l : List Staged} (new : ∀ x ∈ l, x.lba ≠ g.lba) (alone : g.stands = []) :
    stageSector g l = l ++ [g] := by
  have none : l.filter (fun x => x.src == g.src && x.lba == g.lba && x.inUnit.isNone) = [] := by
    rw [List.filter_eq_nil_iff]
    exact fun x hx => by simp [new x hx]
  have rest : l.filter (fun x => !(x.src == g.src && x.lba == g.lba && x.inUnit.isNone)) = l := by
    rw [List.filter_eq_self]
    exact fun x hx => by simp [new x hx]
  unfold stageSector
  dsimp only
  rw [none, rest, List.flatMap_nil, ← alone]

theorem stageSectors_new (r : Ring) (c : Cmd) (xs : List Sec) (n : Nat) {l : List Staged} (below : ∀ x ∈ l, x.lba < c.f 0x18 8 + n) :
    (xs.zipIdx n).foldl (fun l p => stageSector (writeStaged r c p.1 p.2) l) l
      = l ++ (xs.zipIdx n).map (fun p => writeStaged r c p.1 p.2) := by
  induction xs generalizing n l with
  | nil => simp
  | cons x xs ih =>
    rw [List.zipIdx_cons, List.foldl_cons, stageSector_new (fun y hy => Nat.ne_of_lt (below y hy)) rfl, ih, List.map_cons,
      List.append_assoc]
    · rfl
    · intro y hy
      rcases List.mem_append.mp hy with old | new
      · have := below y old
        omega
      · rw [List.mem_singleton.mp new, writeStaged]
        exact Nat.lt_succ_self _

theorem stagedBlocks_rings {l : List Staged} (h : ∀ g ∈ l, ∃ r, g.src = .ring r) : stagedBlocks l = ceilDiv l.length 512 := by
  unfold stagedBlocks
  rw [List.filter_eq_self.mpr]
  intro g hg
  obtain ⟨r, e⟩ := h g hg
  rw [e]

/-! ### WRITE_SECTORS (R116, R117) -/

section
variable {s : State} {r : Ring} {c : Cmd}

/-- The sectors a write stages, from its source in staging memory. -/
def staging (s : State) (r : Ring) (c : Cmd) : List Staged :=
  (List.range (c.f 0x20 4)).map fun i => writeStaged r c (memSec s (c.f 0x10 8 + 4096 * i)) i

/-- A command once its sectors are staged. -/
def stagedCmd (s : State) (c : Cmd) : Cmd :=
  { stopWaiting s.now c with effect := true, got := [], badBeats := 0, badFirst := none, badCause := none }

theorem zipIdx_range {α : Type} (f : Nat → α) (n : Nat) : ((List.range n).map f).zipIdx = (List.range n).map (fun i => (f i, i)) := by
  refine List.ext_getElem (by simp) fun i _ _ => by simp

theorem writeBeats_memory (h : Pre.writeSectors s r c) :
    ∃ l : List Nat, writeBeats r c s = (l.map (fun a => (a, .ok (s.beat (a / 64)).data)),
      (beatPlan (c.f 0x10 8) (4096 * c.f 0x20 4)).map (fun a => s.beat (a / 64)), s) := by
  obtain ⟨started, queue, past, gate, space, aligned, inside, clean, staged, room⟩ := h
  refine ⟨_, (if_neg (by rw [space]; decide)).trans (stagingReads_sound (s.cmdKey r c) clean fun a ha => ?_)⟩
  unfold beatPlan at ha
  obtain ⟨i, hi, rfl⟩ := List.mem_map.mp ha
  refine inside i ?_
  have := List.mem_range.mp hi
  rw [ceilDiv] at this
  omega

/-- A write whose source lies in staging memory stages its sectors; BUFFERED it is answered, DURABLE it leaves the head. -/
theorem stageWrite_memory (h : Pre.writeSectors s r c) : (stageWrite r c.cid s).2 =
    let s2 := modCmd r c.cid (stagedCmd s) { s with st := { s.st with staged := staging s r c } }
    if c.durable then leaveHead r c.cid s2 else pushEntry r (stagedCmd s c) { status := stOK } s2 := by
  obtain ⟨l, beats⟩ := writeBeats_memory h
  obtain ⟨started, queue, past, gate, space, aligned, inside, clean, staged, room⟩ := h
  have found : s.rings[r].find c.cid = some c := find_alone queue
  have secs : (cutSecs ((beatPlan (c.f 0x10 8) (4096 * c.f 0x20 4)).map (fun a => s.beat (a / 64))) (c.f 0x20 4)).zipIdx.foldl
      (fun l p => stageSector { src := .ring r, cid := c.cid, lba := c.f 0x18 8 + p.2, sec := p.1, acked := !c.durable
                                tag := c.tag, ctx := c.ctx } l) s.st.staged = staging s r c := by
    rw [cutSecs_memory clean aligned, staged]
    refine (stageSectors_new r c _ 0 fun x hx => absurd hx List.not_mem_nil).trans ?_
    rw [zipIdx_range, List.nil_append, List.map_map]
    rfl
  have blocks : ¬ s.poolFreeBlocks + stagedBlocks s.st.staged < stagedBlocks (staging s r c) := by
    rw [stagedBlocks_rings (l := staging s r c), staging, List.length_map, List.length_range]
    · omega
    · intro g hg
      obtain ⟨i, -, rfl⟩ := List.mem_map.mp hg
      exact ⟨r, rfl⟩
  unfold stageWrite
  rw [found]
  dsimp only
  rw [beats]
  dsimp only
  rw [secs, if_neg blocks, badOf_sound]
  have ring := modCmd_alone (s := { s with st := { s.st with staged := staging s r c } }) queue (past r) (stagedCmd s)
  have same : (stagedCmd s c).cid = c.cid := (stopWaiting_sameWork s.now c).cid
  have held : (modCmd r c.cid (stagedCmd s) { s with st := { s.st with staged := staging s r c } }).rings[r].find c.cid
      = some (stagedCmd s c) := by
    rw [ring, ← same]
    exact find_alone rfl
  change (match (modCmd r c.cid (stagedCmd s) { s with st := { s.st with staged := staging s r c } }).rings[r].find c.cid with
    | none => _ | some c1 => _ : Bool × State).2 = _
  rw [held]
  dsimp only
  split <;> rfl

theorem exec_writeSectors (h : Pre.writeSectors s r c) :
    exec (.writeSectors r) s = .next (settleFlushes (stageReady r (stageWrite r c.cid s).2)) := by
  obtain ⟨started, queue, past, gate, space, -⟩ := h
  have first : earlierWrite s r c = false := by
    rw [earlierWrite, queue, past r]
    simp
  have host : ¬ c.f 0x24 1 = 0 := by rw [space]; decide
  refine congrArg (fun s => Host.Outcome.next (settleFlushes s)) ((headStep_started started).trans ?_)
  unfold writeAct
  rw [gate]
  dsimp only
  rw [if_neg host]
  dsimp only
  rw [if_pos rfl, first]
  exact if_neg Bool.false_ne_true

/-- What the statement asks of the staged sectors. -/
theorem staging_get (s : State) (r : Ring) (c : Cmd) {i : Nat} (hi : i < c.f 0x20 4) :
    ∃ g, (staging s r c)[i]? = some g ∧ g.lba = c.f 0x18 8 + i ∧ g.src = .ring r ∧ g.cid = c.cid
      ∧ g.acked = !c.durable ∧ g.sec.psn = 0
      ∧ ∀ j < 4096, fld g.sec.data (8 * j) 8 = readByte s.st.mem (c.f 0x10 8 + 4096 * i + j) := by
  refine ⟨writeStaged r c (memSec s (c.f 0x10 8 + 4096 * i)) i, by simp [staging, hi], rfl, rfl, rfl, rfl, rfl, fun j hj => ?_⟩
  exact memSec_byte s _ hj

/-- The last entry of the command at the head, alone on its ring, leaves the ring without commands. -/
theorem pushEntry_last_queue {t : State} {d : Cmd} {o : Outc} (queue : t.rings[r].queue = [d]) (past : t.rings[r].past = [])
    (hm : o.more = false) : (pushEntry r d o t).rings[r].queue = [] ∧ (pushEntry r d o t).rings[r].past = [] := by
  have same : (stopWaiting t.now d).cid = d.cid := (stopWaiting_sameWork _ _).cid
  rw [pushEntry_rings, modAt_same]
  dsimp only
  rw [find_alone queue, hm, if_neg Bool.false_ne_true, RingSt.drop]
  dsimp only
  rw [queue, past, Option.getD_some, same]
  simp

/-- Writes past the head that have taken effect wait for no staging, and no FLUSH is among them. -/
theorem writesOnly_settled {v : State} (others : ∀ q : Ring, q ≠ r → v.rings[q].past = [])
    (mine : ∀ d ∈ v.rings[r].past, d.op = 1 ∧ d.effect = true) : settleFlushes (stageReady r v) = v := by
  have staged : stageReady r v = v := stageReady_none <| by
    rw [List.filter_eq_nil_iff]
    exact fun d hd => by simp [(mine d hd).2]
  rw [staged]
  refine settleFlushes_none fun q => ?_
  by_cases e : q = r
  · subst e
    rw [List.filter_eq_nil_iff]
    exact fun d hd => by simp [(mine d hd).1]
  · rw [others q e]
    rfl

theorem writeSectors_stages (h : Pre.writeSectors s r c) :
    ∃ t, exec (.writeSectors r) s = .next t ∧ t.st.staged.length = c.f 0x20 4
      ∧ (∀ i < c.f 0x20 4, ∃ g, t.st.staged[i]? = some g ∧ g.lba = c.f 0x18 8 + i ∧ g.src = .ring r ∧ g.cid = c.cid
          ∧ g.acked = !c.durable ∧ g.sec.psn = 0
          ∧ ∀ j < 4096, fld g.sec.data (8 * j) 8 = readByte s.st.mem (c.f 0x10 8 + 4096 * i + j))
      ∧ (c.durable = false → Answered s t r c stOK 0 0 ∧ t.rings[r].past = [])
      ∧ (c.durable = true → t.rings[r].waiting = s.rings[r].waiting ∧ ∃ d, t.rings[r].past = [d] ∧ d.cid = c.cid)
      ∧ t.rings[r].queue = [] ∧ OtherRings s t r ∧ t.cairns = s.cairns ∧ t.st.vault = s.st.vault
      ∧ (∀ a, readByte t.st.mem a = readByte s.st.mem a) := by
  have run := exec_writeSectors h
  rw [stageWrite_memory h] at run
  obtain ⟨started, queue, past, -⟩ := h
  have op : (stagedCmd s c).op = 1 := by
    have w := stopWaiting_sameWork s.now c
    exact w.op.trans started.2.1
  have ring := modCmd_alone (s := { s with st := { s.st with staged := staging s r c } }) queue (past r) (stagedCmd s)
  have others := modCmd_others r c.cid (stagedCmd s) { s with st := { s.st with staged := staging s r c } }
  have st : (modCmd r c.cid (stagedCmd s) { s with st := { s.st with staged := staging s r c } }).st
      = { s.st with staged := staging s r c } := rfl
  have cairns : (modCmd r c.cid (stagedCmd s) { s with st := { s.st with staged := staging s r c } }).cairns = s.cairns := rfl
  have same : (stagedCmd s c).cid = c.cid := (stopWaiting_sameWork s.now c).cid
  dsimp only at run
  generalize modCmd r c.cid (stagedCmd s) { s with st := { s.st with staged := staging s r c } } = u at run ring others st cairns
  have queue' : u.rings[r].queue = [stagedCmd s c] := by rw [ring]
  have past' : u.rings[r].past = [] := by rw [ring]; exact past r
  have waiting : u.rings[r].waiting = s.rings[r].waiting := by rw [ring]
  have length : (staging s r c).length = c.f 0x20 4 := by rw [staging, List.length_map, List.length_range]
  by_cases durable : c.durable = true
  · rw [if_pos durable, ← same] at run
    have gone := leaveHead_alone (r := r) queue' past'
    have apart : OtherRings u (leaveHead r (stagedCmd s c).cid u) r := fun q hq => State.onRing_other _ _ _ _ hq
    have st' : (leaveHead r (stagedCmd s c).cid u).st = { s.st with staged := staging s r c } := st
    have cairns' : (leaveHead r (stagedCmd s c).cid u).cairns = s.cairns := cairns
    generalize leaveHead r (stagedCmd s c).cid u = v at run gone apart st' cairns'
    have quiet := writesOnly_settled (v := v) (r := r) (fun q hq => by rw [apart q hq, others q hq]; exact past q) fun d hd => by
      rw [gone] at hd
      rw [List.mem_singleton.mp hd]
      exact ⟨op, rfl⟩
    rw [quiet] at run
    refine ⟨v, run, by rw [st', length], fun i hi => by rw [st']; exact staging_get s r c hi,
      fun k => absurd durable (ne_true_of_eq_false k),
      fun _ => ⟨by rw [gone]; exact waiting, _, congrArg RingSt.past gone, same⟩, by rw [gone], fun q hq => by rw [apart q hq, others q hq],
      cairns', by rw [st'], fun a => by rw [st']⟩
  · rw [if_neg durable] at run
    obtain ⟨noQueue, noPast⟩ := pushEntry_last_queue (o := { status := stOK }) queue' past' rfl
    have answer := pushEntry_answers (s := u) (r := r) (c := stagedCmd s c) (o := { status := stOK }) (find_alone queue')
      ((stopWaiting_sameWork s.now c).trunc.trans started.2.2.2.2.1) rfl (by decide) rfl
    have apart := pushEntry_others r (stagedCmd s c) { status := stOK } u
    have st' := (pushEntry_st r (stagedCmd s c) { status := stOK } u).trans st
    have cairns' := (pushEntry_cairns r (stagedCmd s c) { status := stOK } u).trans cairns
    generalize pushEntry r (stagedCmd s c) { status := stOK } u = v at run noQueue noPast answer apart st' cairns'
    have quiet := writesOnly_settled (v := v) (r := r) (fun q hq => by rw [apart q hq, others q hq]; exact past q) fun d hd => by
      rw [noPast] at hd
      exact absurd hd List.not_mem_nil
    rw [quiet] at run
    refine ⟨v, run, by rw [st', length], fun i hi => by rw [st']; exact staging_get s r c hi,
      fun _ => ⟨answered_of_rings waiting rfl (stopWaiting_answer s.now c).2 answer, noPast⟩, fun k => absurd k durable, noQueue,
      fun q hq => by rw [apart q hq, others q hq], cairns', by rw [st'], fun a => by rw [st']⟩

end

/-! ### READ_SECTORS (R116, R300) -/

theorem snoopRun_silent {s : State} {tap : Tap} (h : snoopsOn s tap = []) (bs : List (Beat × Bool)) (own : Option (Ring × Nat)) :
    snoopRun tap bs own s = s := by
  have quietEvents : ∀ evs own len, snoopEvents tap evs own len s = s := by
    intro evs own len
    unfold snoopEvents
    rw [h]
    rfl
  unfold snoopRun
  rw [h]
  rcases own with _ | ⟨r, cid⟩ <;> exact quietEvents _ _ _

theorem snoopsOn_bytesOnly {s t : State} (h : BytesOnly s t) (tap : Tap) : snoopsOn t tap = snoopsOn s tap := by
  obtain ⟨_, _, _, rfl⟩ := h
  rfl

theorem freshBeats_sound {bs : List Beat} (h : ∀ b ∈ bs, b.psn = false) (s : State) : freshBeats bs s = (bs, s) := by
  induction bs with
  | nil => rfl
  | cons b bs ih =>
    rw [freshBeats, h b List.mem_cons_self]
    dsimp only
    rw [if_neg Bool.false_ne_true, ih fun x hx => h x (List.mem_cons_of_mem _ hx), ← h b List.mem_cons_self]

/-- The bytes of beats. -/
def beatsBytes (bs : List Beat) : List Byte := bs.flatMap fun b => bytesLE 64 b.data

/-- One beat of a destination in staging memory. -/
def stagingWrite (k : Key) (a : Nat) (acc : Bad × State) (p : Beat × Nat) : Bad × State :=
  if inWindows acc.2 k.tenant (a + 64 * p.2) 64 then
    (if p.1.psn then acc.1.add (a + 64 * p.2) 1 else acc.1, storeBeat ((a + 64 * p.2) / 64) p.1 acc.2)
  else (acc.1.add (a + 64 * p.2) 1, keyFlt k (a + 64 * p.2) .window true acc.2)

theorem stagingWrites_eq (k : Key) (a : Nat) (bs : List Beat) (b : Bad) (s : State) :
    stagingWrites k a bs b s = bs.zipIdx.foldl (stagingWrite k a) (b, s) := rfl

theorem stagingWrite_sound {k : Key} {a : Nat} {b : Bad} {s : State} {x : Beat} {n : Nat}
    (inside : inWindows s k.tenant (a + 64 * n) 64 = true) (sound : x.psn = false) :
    stagingWrite k a (b, s) (x, n) = (b, storeBeat ((a + 64 * n) / 64) x s) := by
  refine (if_pos inside).trans ?_
  rw [sound, if_neg Bool.false_ne_true]

/-- Sound beats written inside the windows land as they are. -/
theorem stagingWrites_lands {k : Key} {a : Nat} (aligned : a % 64 = 0) (b : Bad) {bs : List Beat} (sound : ∀ x ∈ bs, x.psn = false)
    (n : Nat) {s : State} (inside : ∀ i < bs.length, inWindows s k.tenant (a + 64 * (n + i)) 64 = true) :
    ∃ t, (bs.zipIdx n).foldl (stagingWrite k a) (b, s) = (b, t)
      ∧ BytesOnly s t ∧ t.st.mem = writeBytes (a + 64 * n) (beatsBytes bs) s.st.mem := by
  induction bs generalizing n s with
  | nil => exact ⟨s, rfl, .refl s, rfl⟩
  | cons x bs ih =>
    have stored := storeBeat_bytesOnly ((a + 64 * n) / 64) x s
    obtain ⟨t, run, only, mem⟩ := ih (fun y hy => sound y (List.mem_cons_of_mem _ hy)) (n + 1)
      (s := storeBeat ((a + 64 * n) / 64) x s) fun i hi => by
        rw [inWindows_bytesOnly stored, Nat.add_right_comm, Nat.add_assoc]
        exact inside (i + 1) (Nat.succ_lt_succ hi)
    refine ⟨t, ?_, stored.trans only, ?_⟩
    · rw [List.zipIdx_cons, List.foldl_cons, stagingWrite_sound (n := n) (inside 0 (Nat.succ_pos _)) (sound x List.mem_cons_self)]
      exact run
    · rw [mem, storeBeat_mem, beatsBytes, beatsBytes, List.flatMap_cons, writeBytes_append, bytesLE_length,
        show 64 * ((a + 64 * n) / 64) = a + 64 * n by omega, Nat.mul_succ, Nat.add_assoc]

/-- The beats of a sector hold its bytes. -/
theorem beatsBytes_sector (x : Sec) : beatsBytes (Sec.beats x) = bytesLE 4096 x.data := by
  have whole : bytesLE 4096 x.data = (bytesLE 4096 x.data).take (64 * 64) := by
    rw [List.take_of_length_le (by rw [bytesLE_length])]
  rw [whole, ← flatMap_pieces, beatsBytes, Sec.beats, List.flatMap_map]
  refine List.flatMap_congr fun i hi => ?_
  have := List.mem_range.mp hi
  rw [bytesLE, bytesLE, range_piece _ (by omega)]
  refine List.map_congr_left fun j hj => ?_
  have := List.mem_range.mp hj
  refine BitVec.eq_of_getLsbD_eq fun m hm => ?_
  simp only [fld, BitVec.getLsbD_extractLsb', hm, decide_true, Bool.true_and, show 8 * j + m < 512 by omega]
  exact congrArg x.data.getLsbD (by omega)

/-- A sector without poison has sound beats. -/
theorem sector_beats_sound {x : Sec} (h : x.psn = 0) : ∀ b ∈ Sec.beats x, b.psn = false := by
  intro b hb
  obtain ⟨i, -, rfl⟩ := List.mem_map.mp hb
  dsimp only
  rw [h]
  simp [bit]

theorem sector_beats_length (x : Sec) : (Sec.beats x).length = 64 := by rw [Sec.beats, List.length_map, List.length_range]

theorem beatsBytes_sectors (xs : List Sec) : beatsBytes (xs.flatMap Sec.beats) = xs.flatMap fun x => bytesLE 4096 x.data := by
  rw [beatsBytes, List.flatMap_assoc]
  exact List.flatMap_congr fun x _ => beatsBytes_sector x

/-- Sectors without poison add no poisoned beat to what a read has found. -/
theorem sourceBad_sound (lba : Nat) {xs : List Sec} (h : ∀ x ∈ xs, x.psn = 0) (n : Nat) :
    (xs.zipIdx n).foldl (fun (b : Bad) p => b.add (lba + p.2) (popCount p.1.psn)) {} = {} := by
  induction xs generalizing n with
  | nil => rfl
  | cons x xs ih =>
    have none : ∀ b : Bad, b.add (lba + n) (popCount x.psn) = b := by
      intro b
      rw [h x List.mem_cons_self]
      rfl
    rw [List.zipIdx_cons, List.foldl_cons, none]
    exact ih (fun y hy => h y (List.mem_cons_of_mem _ hy)) (n + 1)

section
variable {s : State} {r : Ring} {c : Cmd}

/-- The bytes a READ_SECTORS moves: what is visible of each sector. -/
def sectorBytes (s : State) (lba n : Nat) : List Byte := (List.range n).flatMap fun i => bytesLE 4096 (s.visibleSec (lba + i)).data

theorem sectorBytes_length (s : State) (lba n : Nat) : (sectorBytes s lba n).length = 4096 * n := by
  simp [sectorBytes, List.length_flatMap, Nat.mul_comm]

theorem sectorBytes_get (s : State) (lba : Nat) {n i : Nat} (hi : i < 4096 * n) : (sectorBytes s lba n)[i]? = some (sectorByte s lba i) := by
  have byte := flatMap_const_get (f := fun i => bytesLE 4096 (s.visibleSec (lba + i)).data) (m := 4096) (n := n) (q := i / 4096)
    (k := i % 4096) (fun i => bytesLE_length 4096 _) (by omega) (by omega)
  rw [Nat.div_add_mod] at byte
  refine byte.trans ?_
  have : i % 4096 < 4096 := Nat.mod_lt _ (by decide)
  simp [bytesLE, sectorByte, this]

/-- A read of sound sectors into staging memory writes their bytes there and completes OK. -/
theorem readMove_memory (h : Pre.readSectors s r c) : ∃ t, readMove r c s = pushEntry r c { status := stOK } t ∧ BytesOnly s t
    ∧ t.st.mem = writeBytes (c.f 0x10 8) (sectorBytes s (c.f 0x18 8) (c.f 0x20 4)) s.st.mem := by
  obtain ⟨started, found, gate, first, space, aligned, inside, sound, unread, thawed, silent, -⟩ := h
  have host : ¬ c.f 0x24 1 = 0 := by rw [space]; decide
  have secs : ∀ x ∈ (List.range (c.f 0x20 4)).map (fun i => s.visibleSec (c.f 0x18 8 + i)), x.psn = 0 := by
    intro x hx
    obtain ⟨i, hi, rfl⟩ := List.mem_map.mp hx
    exact sound i (List.mem_range.mp hi)
  have beats : ∀ b ∈ ((List.range (c.f 0x20 4)).map (fun i => s.visibleSec (c.f 0x18 8 + i))).flatMap Sec.beats, b.psn = false := by
    intro b hb
    obtain ⟨x, hx, hb⟩ := List.mem_flatMap.mp hb
    exact sector_beats_sound (secs x hx) b hb
  have readable : (List.range (c.f 0x20 4)).filter (fun i => (s.stagedSec (c.f 0x18 8 + i)).isNone
      && s.st.unread.contains (c.f 0x18 8 + i)) = [] := by
    rw [unread, List.filter_eq_nil_iff]
    simp
  have count : (((List.range (c.f 0x20 4)).map (fun i => s.visibleSec (c.f 0x18 8 + i))).flatMap Sec.beats).length
      = 64 * c.f 0x20 4 := by
    simp [List.length_flatMap, sector_beats_length, Function.comp_def, Nat.mul_comm]
  obtain ⟨t, lands, only, mem⟩ := stagingWrites_lands (k := s.cmdKey r c) aligned {} beats 0 (s := s) fun i hi => by
    rw [Nat.zero_add]
    exact inside i (count ▸ hi)
  refine ⟨t, ?_, only, ?_⟩
  · unfold readMove
    dsimp only
    rw [readable, freshBeats_sound beats, sourceBad_sound _ secs 0]
    dsimp only
    rw [if_neg host, stagingWrites_eq, lands]
    dsimp only
    rw [if_pos rfl, snoopRun_silent ((snoopsOn_bytesOnly only _).trans silent), ite_self]
    rfl
  · rw [mem, Nat.mul_zero, Nat.add_zero, beatsBytes_sectors, List.flatMap_map]
    rfl

theorem exec_readSectors (h : Pre.readSectors s r c) : exec (.readSectors r) s = .next (readMove r c s) := by
  obtain ⟨started, found, gate, first, space, -, -, -, -, thawed, -⟩ := h
  have host : ¬ c.f 0x24 1 = 0 := by rw [space]; decide
  refine congrArg Host.Outcome.next ((headStep_started started).trans ?_)
  unfold readAct
  rw [gate]
  dsimp only
  rw [if_neg (ne_true_of_eq_false first), if_neg host, copyPages_thawed thawed]
  dsimp only
  rw [found]
  rfl

theorem readSectors_fills (h : Pre.readSectors s r c) :
    ∃ t, exec (.readSectors r) s = .next t ∧ Answered s t r c stOK 0 0
      ∧ (∀ i < 4096 * c.f 0x20 4, readByte t.st.mem (c.f 0x10 8 + i) = sectorByte s (c.f 0x18 8) i)
      ∧ (∀ a, a < c.f 0x10 8 ∨ c.f 0x10 8 + 4096 * c.f 0x20 4 ≤ a → readByte t.st.mem a = readByte s.st.mem a)
      ∧ t.st.vault = s.st.vault ∧ t.st.staged = s.st.staged ∧ OtherRings s t r ∧ t.cairns = s.cairns := by
  obtain ⟨t, run, only, mem⟩ := readMove_memory h
  have exec_ := exec_readSectors h
  obtain ⟨⟨-, -, -, -, whole, sound⟩, found, -, -, -, -, -, -, -, -, -, ok⟩ := h
  rw [run] at exec_
  have rings : t.rings = s.rings := by obtain ⟨_, _, _, rfl⟩ := only; rfl
  have rest : t.st.vault = s.st.vault ∧ t.st.staged = s.st.staged ∧ t.cairns = s.cairns := by
    obtain ⟨_, _, _, rfl⟩ := only
    exact ⟨rfl, rfl, rfl⟩
  have answer := pushEntry_answers (s := t) (r := r) (c := c) (o := { status := stOK }) (by rw [rings, found]) whole sound (by decide) rfl
  refine ⟨_, exec_, answered_of_rings (by rw [rings]) rfl rfl answer, fun i hi => ?_, fun a ha => ?_, ?_, ?_, fun q hq => ?_, ?_⟩
  · rw [pushEntry_st, mem, readByte_writeBytes ok, sectorBytes_length, if_pos (by omega), Nat.add_sub_cancel_left,
      sectorBytes_get s _ hi, Option.getD_some]
  · rw [pushEntry_st, mem, readByte_writeBytes_out ok (by rw [sectorBytes_length]; exact ha)]
  · rw [pushEntry_st, rest.1]
  · rw [pushEntry_st, rest.2.1]
  · rw [pushEntry_others _ _ _ _ q hq, rings]
  · rw [pushEntry_cairns, rest.2.2]

end

/-- Settles O36: WRITE_SECTORS stages its source, READ_SECTORS fills its destination. -/
theorem sectorCommandsMoveSectors : Obligations.SectorCommandsMoveSectors :=
  ⟨fun _ _ _ h => writeSectors_stages h, fun _ _ _ h => readSectors_fills h⟩

end Sys2Proof.Proofs

/-! Messages of Sloe contexts (12): a message that took bytes past its declared length. -/

namespace Sys2Proof.Proofs

open Sys2Proof Sys2Proof.Machine Sys2Proof.Safety Sys2Proof.Laws

/-- The three bytes of an ended message of declared length 3 and one byte past them. -/
def excessMsg : SloeMsg := { declared := 3, bytes := [1, 2, 3], ended := true, cid := some 5, ring := 0, excess := 1 }

/-- The DIGEST_VERIFY that brought them. -/
def excessCmd : Cmd := { cid := 5, trb := (0x18 : BitVec 32).setWidth' (by decide), started := true, effect := true }

/-- Context 1 of lane 2 holds the message, and its command stands past ring 0's head. -/
def excessState : State :=
  ({ pw := { phase := .ready, rdy := true }
     rings := (Vector.replicate 16 {}).set 0 { past := [excessCmd] } } : State).onCtx 2 1 (fun x => { x with msg := some excessMsg })

theorem excessState_meets : Pre.digestDone excessState 2 1 excessMsg excessCmd :=
  ⟨⟨rfl, rfl⟩, rfl, rfl, rfl, rfl,
    ⟨by decide +kernel, by decide +kernel, by decide +kernel, by decide +kernel, by decide +kernel⟩, by decide +kernel⟩

/-- The statuses of the entries ring 0 has waiting once the digest is complete. -/
def excessAnswers : List Byte :=
  match exec (.sloeDigestComplete 2 1 none true) excessState with
  | .next t => t.rings[(0 : Ring)].waiting.map (·.status)
  | _ => []

/-- The command is told of the excess. -/
theorem excessAnswers_trunc : excessAnswers = [stTRUNC] := by decide +kernel

/-- Refutes O42: a message that took more bytes than it declared completes its DIGEST_VERIFY TRUNC, not OK (R232). -/
theorem not_digestsTakeAndGiveMessages : ¬ Obligations.DigestsTakeAndGiveMessages := by
  intro h
  obtain ⟨-, done, -⟩ := h
  obtain ⟨t, run, -, -, -, ⟨e, waiting, -, status, -⟩, -⟩ := done excessState 2 1 excessMsg excessCmd excessState_meets
  have answer := excessAnswers_trunc
  rw [excessAnswers, run] at answer
  have none : excessState.rings[excessMsg.ring].waiting = [] := rfl
  rw [none, List.nil_append] at waiting
  have : t.rings[(0 : Ring)].waiting = [e] := waiting
  dsimp only at answer
  rw [this, List.map_cons, List.map_nil, status] at answer
  exact absurd answer (by decide)

end Sys2Proof.Proofs

/-! LOAD_BITSTREAM up to the checks of its container (R71, Table 4-8). -/

namespace Sys2Proof.Proofs

open Sys2Proof Sys2Proof.Machine Sys2Proof.Safety Sys2Proof.Laws

section
variable {s : State} {r : Ring} {c : Cmd}

/-! ### The entry of a load -/

/-- The last entry of a load ends LOADING, and keeps the rest of the configuration (R73). -/
theorem pushEntry_load {o : Outc} (found : s.rings[r].find c.cid = some c) (op : c.op = 0x40) :
    (pushEntry r c o s).cfg = { s.cfg with loading := false } ∧ (pushEntry r c o s).ma = s.ma
      ∧ (pushEntry r c o s).tenants = s.tenants := by
  have load : (stopWaiting s.now ((s.rings[r].find c.cid).getD c)).op = 0x40 := by
    rw [found]
    exact (stopWaiting_sameWork s.now c).op.trans op
  unfold pushEntry
  dsimp only
  rw [if_pos load]
  have kept := busyOff_kept 2
  exact ⟨(kept _).cfg, (kept _).ma, (kept _).tenants⟩

theorem exec_loadBitstream (h : Started s r c 0x40) (g : Gsb) : exec (.loadBitstream r g) s = .next (loadAct r g c s) :=
  congrArg Host.Outcome.next (headStep_started h)

/-- A load that a check refuses at once leaves all but LOADING. -/
theorem loadRefused {g : Gsb} {d0 : Nat} (h : Started s r c 0x40) (found : s.rings[r].find c.cid = some c)
    (run : loadAct r g c s = complete r c stREFUSED d0 0 s) :
    ∃ t, exec (.loadBitstream r g) s = .next t ∧ Answered s t r c stREFUSED (BitVec.ofNat 64 d0) 0 ∧ t.cfg.bs = s.cfg.bs
      ∧ t.cfg.digest = s.cfg.digest ∧ t.cfg.unlocked = s.cfg.unlocked ∧ t.cfg.loading = false ∧ t.ma = s.ma ∧ StoreKept s t := by
  have ex := exec_loadBitstream h g
  obtain ⟨head, op, room, started, whole, sound⟩ := h
  have answer := pushEntry_answers (o := { status := stREFUSED, d0 := d0, d1 := 0 }) found whole sound (by exact (by decide : stREFUSED ≠ stDISCARDED)) rfl
  obtain ⟨cfg, ma, -⟩ := pushEntry_load (o := { status := stREFUSED, d0 := d0, d1 := 0 }) found op
  refine ⟨_, ex.trans (congrArg _ run), answer, ?_, ?_, ?_, ?_, ma, storeKept_of_st (pushEntry_st ..)⟩
  · rw [cfg]
  · rw [cfg]
  · rw [cfg]
  · rw [cfg]

/-! ### The container has come -/

/-- Reads already asked for are not judged again. -/
theorem judgeReads_asked {cid : Nat} {d : Cmd} {u : State} (found : u.rings[r].find cid = some d) {l : List (Nat × Nat)}
    (asked : ∀ p ∈ l, u.asked d p.2 = true) : judgeReads r cid l u = u := by
  induction l with
  | nil => rfl
  | cons p l ih =>
    rw [judgeReads, found]
    dsimp only
    rw [if_pos (asked p List.mem_cons_self)]
    exact ih fun q hq => asked q (List.mem_cons_of_mem _ hq)

theorem issueReads_asked {cid n : Nat} {d : Cmd} {u : State} (found : u.rings[r].find cid = some d)
    (asked : ∀ p ∈ d.plan.zipIdx, u.asked d p.2 = true) : issueReads r cid (n + 1) u = modCmd r cid (stopWaiting u.now) u := by
  have none : (readyReads u r d).isEmpty = true := by
    rw [readyReads, List.filter_eq_nil_iff.mpr]
    · rfl
    · exact fun p hp => by simp [asked p hp]
  rw [issueReads, found]
  dsimp only
  rw [if_pos none]

/-- With every beat of the plan there, a command's reads are done: only what is kept of it and of its refused translations
changes. -/
theorem gather_done (found : s.rings[r].find c.cid = some c) (idle : c.waitFrom = none)
    (got : ∀ i < c.plan.length, ∃ d, gotAt c i = some (.ok d)) :
    ∃ b rings bad, gather r c.cid c.plan s = (true, b, { s with rings := rings, link := { s.link with atsBad := bad } })
      ∧ rings[r].find c.cid = some c ∧ rings[r].waiting = s.rings[r].waiting := by
  have held : ∀ i < c.plan.length, (gotAt c i).isSome = true := fun i hi => by
    obtain ⟨d, e⟩ := got i hi
    rw [e]
    rfl
  have asked : ∀ (u : State), ∀ p ∈ c.plan.zipIdx, u.asked c p.2 = true := by
    intro u p hp
    have := (List.mem_zipIdx hp).2.1
    rw [State.asked, held p.2 (by omega), Bool.true_or]
  have planned : (modCmd r c.cid (fun d => { d with plan := c.plan }) s).rings[r].find c.cid = some c :=
    (modCmd_find (f := fun d => { d with plan := c.plan }) found fun _ => rfl).trans rfl
  have same : stopWaiting (modCmd r c.cid (fun d => { d with plan := c.plan }) s).now c = c := by
    unfold stopWaiting
    rw [idle]
  have still := modCmd_find (f := stopWaiting (modCmd r c.cid (fun d => { d with plan := c.plan }) s).now) planned
    fun d => (stopWaiting_sameWork _ d).cid
  rw [same] at still
  have all : allGot c c.plan = true := List.all_eq_true.mpr fun i hi => held i (List.mem_range.mp hi)
  unfold gather
  dsimp only
  rw [judgeReads_asked planned (asked _), issueReads_asked planned (asked _), still]
  dsimp only
  rw [all]
  exact ⟨_, _, _, rfl, still, (modCmd_waiting ..).trans (modCmd_waiting ..)⟩

theorem beatsOf_sound {l : List (Nat × Got)} (h : ∀ p ∈ l, ∃ d, p.2 = .ok d) (u : State) : beatsOf l u = (zeroFailed l, u) := by
  induction l with
  | nil => rfl
  | cons p l ih =>
    obtain ⟨a, g⟩ := p
    obtain ⟨d, e⟩ := h _ List.mem_cons_self
    cases e
    rw [beatsOf, ih fun q hq => h q (List.mem_cons_of_mem _ hq)]
    rfl

theorem badOf_ok {l : List (Nat × Got)} (h : ∀ p ∈ l, ∃ d, p.2 = .ok d) : badOf l = {} := by
  induction l with
  | nil => rfl
  | cons p l ih =>
    obtain ⟨a, g⟩ := p
    obtain ⟨d, e⟩ := h _ List.mem_cons_self
    cases e
    exact ih fun q hq => h q (List.mem_cons_of_mem _ hq)

/-- A load whose container has come judges it. -/
theorem loadAct_fetched (h : Pre.fetched s r c) (g : Gsb) : ∃ rings bad, loadAct r g c s
      = loadChecks r g c (fetchedBytes c) {} { s with rings := rings, link := { s.link with atsBad := bad } }
    ∧ rings[r].find c.cid = some c ∧ rings[r].waiting = s.rings[r].waiting := by
  obtain ⟨started, found, plan, some_, idle, got, silent⟩ := h
  obtain ⟨b, rings, bad, gathered, still, waiting⟩ := gather_done found idle got
  have sound : ∀ p ∈ planBeats c c.plan, ∃ d, p.2 = .ok d := by
    intro p hp
    obtain ⟨q, hq, rfl⟩ := List.mem_map.mp hp
    obtain ⟨d, e⟩ := got q.2 (by have := (List.mem_zipIdx hq).2.1; omega)
    exact ⟨d, by dsimp only; rw [e]; rfl⟩
  refine ⟨rings, bad, ?_, still, waiting⟩
  unfold loadAct
  rw [if_neg fun k => some_ k.1, if_neg fun k => some_ k.1, ← plan, gathered]
  dsimp only
  rw [still]
  dsimp only
  rw [beatsOf_sound sound, badOf_ok sound]
  dsimp only
  rw [snoopRun_none (by exact silent), fetchedBytes, ← plan]

/-- A container that fails a check from 3 to 9 leaves the configuration (R73, Table 4-8). -/
theorem load_checkFails {g : Gsb} {e : Nat} (h : Pre.fetched s r c) (fails : loadErrOf s.fwVer (fetchedBytes c) false g = some e) :
    ∃ t, exec (.loadBitstream r g) s = .next t ∧ Answered s t r c stREFUSED (BitVec.ofNat 64 e) 0
      ∧ t.cfg.loadErr = BitVec.ofNat 4 e ∧ t.cfg.unlocked = 0 ∧ t.cfg.bs = s.cfg.bs ∧ t.cfg.digest = s.cfg.digest
      ∧ t.cfg.loading = false ∧ t.ma = s.ma ∧ t.tenants = s.tenants ∧ StoreKept s t := by
  obtain ⟨rings, bad, run, found, waiting⟩ := loadAct_fetched h g
  obtain ⟨started, -⟩ := h
  have ex := exec_loadBitstream started g
  obtain ⟨head, op, room, begun, whole, sound⟩ := started
  have second : e ≠ 2 := by
    rintro rfl
    unfold loadErrOf at fails
    dsimp only at fails
    rw [if_neg (c := false = true) Bool.false_ne_true] at fails
    split_ifs at fails <;> cases fails
  have check : loadErrOf ({ s with rings := rings, link := { s.link with atsBad := bad } } : State).fwVer (fetchedBytes c) (({} : Bad).n != 0) g = some e := fails
  have judged : loadChecks r g c (fetchedBytes c) {} { s with rings := rings, link := { s.link with atsBad := bad } }
      = complete r c stREFUSED e 0 (loadFails e { s with rings := rings, link := { s.link with atsBad := bad } }) := by
    unfold loadChecks
    rw [check]
    split
    · next k => exact absurd (Option.some.inj k) second
    · next k => cases k; rfl
    · next k => cases k
  rw [run, judged] at ex
  have found' : (loadFails e { s with rings := rings, link := { s.link with atsBad := bad } }).rings[r].find c.cid = some c := found
  have answer := pushEntry_answers (o := { status := stREFUSED, d0 := e, d1 := 0 }) found' whole sound (by exact (by decide : stREFUSED ≠ stDISCARDED)) rfl
  obtain ⟨cfg, ma, tenants⟩ := pushEntry_load (o := { status := stREFUSED, d0 := e, d1 := 0 }) found' op
  refine ⟨_, ex, answered_of_rings waiting rfl rfl answer, ?_, ?_, ?_, ?_, ?_, ma, tenants, storeKept_of_st (pushEntry_st ..)⟩
  · rw [cfg]; rfl
  · rw [cfg]; rfl
  · rw [cfg]; rfl
  · rw [cfg]; rfl
  · rw [cfg]

end

end Sys2Proof.Proofs

/-! The configuration a load replaces (R72). -/

namespace Sys2Proof.Proofs

open Sys2Proof Sys2Proof.Machine Sys2Proof.Safety Sys2Proof.Laws

/-! ### The load's command through the teardown and the set-up -/

/-- Under this number ring `r` finds in `t` a command only where it does in `s`, of the same TRB and with the same truncation
noted. -/
def SameCmd (r : Ring) (n : Nat) (s t : State) : Prop :=
  ∀ d, t.rings[r].find n = some d → ∃ c, s.rings[r].find n = some c ∧ d.trb = c.trb ∧ d.trunc = c.trunc

namespace SameCmd

variable {r : Ring} {n : Nat} {s t u : State}

theorem refl (r : Ring) (n : Nat) (s : State) : SameCmd r n s s := fun d h => ⟨d, h, rfl, rfl⟩

theorem trans (a : SameCmd r n s t) (b : SameCmd r n t u) : SameCmd r n s u := by
  intro d h
  obtain ⟨c, hc, trb, trunc⟩ := b d h
  obtain ⟨c', hc', trb', trunc'⟩ := a c hc
  exact ⟨c', hc', trb.trans trb', trunc.trans trunc'⟩

theorem of_rings (h : t.rings = s.rings) : SameCmd r n s t := by
  intro d hd
  rw [h] at hd
  exact ⟨d, hd, rfl, rfl⟩

theorem foldl {β : Type} {f : State → β → State} (h : ∀ s b, SameCmd r n s (f s b)) (l : List β) (s : State) :
    SameCmd r n s (l.foldl f s) := by
  induction l generalizing s with
  | nil => exact refl r n s
  | cons b l ih => exact (h s b).trans (ih (f s b))

end SameCmd

theorem find_drop (x : RingSt) (m n : Nat) {d : Cmd} (h : (x.drop m).find n = some d) : x.find n = some d := by
  have kept : ∀ l : List Cmd, m ≠ n → (l.filter (·.cid != m)).find? (·.cid == n) = l.find? (·.cid == n) := by
    intro l hm
    rw [List.find?_filter]
    congr 1
    funext c
    by_cases e : c.cid = n
    · simp [e, Ne.symm hm]
    · simp [e]
  have gone : ∀ l : List Cmd, (l.filter (·.cid != m)).find? (·.cid == m) = none := by
    intro l
    rw [List.find?_eq_none]
    intro c hc
    have := (List.mem_filter.mp hc).2
    simpa using this
  unfold RingSt.find RingSt.drop at h
  dsimp only at h
  by_cases e : m = n
  · subst e
    rw [gone, gone] at h
    cases h
  · rw [kept _ e, kept _ e] at h
    exact h

theorem find_mod_inv {x : RingSt} {m n : Nat} {f : Cmd → Cmd} (hf : ∀ d, (f d).cid = d.cid) {d : Cmd}
    (h : (x.mod m f).find n = some d) : ∃ c, x.find n = some c ∧ (d = c ∨ d = f c) := by
  have mapped : ∀ l : List Cmd, (l.map (fun d => if d.cid = m then f d else d)).find? (·.cid == n)
      = (l.find? (·.cid == n)).map (fun d => if d.cid = m then f d else d) := by
    intro l
    rw [List.find?_map]
    congr 2
    funext c
    by_cases e : c.cid = m <;> simp [e, hf]
  unfold RingSt.find RingSt.mod at h
  dsimp only at h
  rw [mapped, mapped] at h
  unfold RingSt.find
  have pick : ∀ c, d = (if c.cid = m then f c else c) → d = c ∨ d = f c := by
    intro c e
    split at e
    · exact .inr e
    · exact .inl e
  cases hq : x.queue.find? (·.cid == n) with
  | some c =>
    rw [hq] at h
    exact ⟨c, rfl, pick c (Option.some.inj h).symm⟩
  | none =>
    rw [hq] at h
    obtain ⟨c, hc, e⟩ := Option.map_eq_some_iff.mp h
    exact ⟨c, hc, pick c e.symm⟩

theorem modCmd_same (r : Ring) (n : Nat) (q : Ring) (m : Nat) {f : Cmd → Cmd} (hf : ∀ d, (f d).cid = d.cid ∧ (f d).trb = d.trb
    ∧ (f d).trunc = d.trunc) (s : State) : SameCmd r n s (modCmd q m f s) := by
  by_cases e : r = q
  · subst e
    intro d h
    rw [modCmd, State.onRing_same] at h
    obtain ⟨c, hc, rfl | rfl⟩ := find_mod_inv (fun d => (hf d).1) h
    · exact ⟨d, hc, rfl, rfl⟩
    · exact ⟨c, hc, (hf c).2.1, (hf c).2.2⟩
  · intro d h
    rw [modCmd_others q m f s r e] at h
    exact ⟨d, h, rfl, rfl⟩

/-- An entry of any command leaves the load's command as it was, or takes it from its ring. -/
theorem pushEntry_same (r : Ring) (n : Nat) (q : Ring) (c : Cmd) (o : Outc) (s : State) : SameCmd r n s (pushEntry q c o s) := by
  by_cases e : r = q
  · subst e
    intro d h
    rw [pushEntry_rings, modAt_same] at h
    dsimp only at h
    split at h
    · obtain ⟨b, hb, rfl | rfl⟩ := find_mod_inv (f := stageCleared) (fun _ => rfl) h
      · exact ⟨d, hb, rfl, rfl⟩
      · exact ⟨b, hb, rfl, rfl⟩
    · exact ⟨d, find_drop _ _ _ h, rfl, rfl⟩
  · intro d h
    rw [pushEntry_others q c o s r e] at h
    exact ⟨d, h, rfl, rfl⟩

/-! ### What the teardown keeps -/

/-- What the teardown leaves as it is: staging memory, the EXPERT levels, marks and fences. -/
def tornView (s : State) : List Host.Cell × Byte × List Nat × List Nat × (Crag → Bool) :=
  (s.st.mem, s.cfg.unlocked, s.cfg.mgmtOff, s.wd.powerFenced, fun n => s.ma.crags[n].fenced)

/-- The load's command leaves at most, and a view of the state stays. -/
structure ViewKept {α : Type} (g : State → α) (r : Ring) (n : Nat) (s t : State) : Prop where
  view : g t = g s
  cmd : SameCmd r n s t

namespace ViewKept

variable {α : Type} {g : State → α} {r : Ring} {n : Nat} {s t u : State}

theorem refl (g : State → α) (r : Ring) (n : Nat) (s : State) : ViewKept g r n s s := ⟨rfl, .refl r n s⟩

theorem of_rings (h : g t = g s) (k : t.rings = s.rings) : ViewKept g r n s t := ⟨h, .of_rings k⟩

theorem trans (a : ViewKept g r n s t) (b : ViewKept g r n t u) : ViewKept g r n s u := ⟨b.view.trans a.view, a.cmd.trans b.cmd⟩

theorem foldl {β : Type} {f : State → β → State} (h : ∀ s b, ViewKept g r n s (f s b)) (l : List β) (s : State) :
    ViewKept g r n s (l.foldl f s) :=
  ⟨foldl_keeps g f (fun s b => (h s b).view) l s, .foldl (fun s b => (h s b).cmd) l s⟩

theorem ite {p : Prop} [Decidable p] (a : ViewKept g r n s t) (b : ViewKept g r n s u) : ViewKept g r n s (if p then t else u) := by
  split
  · exact a
  · exact b

end ViewKept

/-- What the teardown keeps, and ring `r`'s command. -/
abbrev Torn (r : Ring) (n : Nat) (s t : State) : Prop := ViewKept tornView r n s t

theorem endLoad_tornView (s : State) : tornView (endLoad s) = tornView s := by
  unfold endLoad busyOff
  split <;> rfl

section
variable (r : Ring) (n : Nat)

theorem pushEntry_torn (q : Ring) (c : Cmd) (o : Outc) (s : State) : Torn r n s (pushEntry q c o s) := by
  refine ⟨?_, pushEntry_same r n q c o s⟩
  unfold pushEntry
  dsimp only
  split
  · exact endLoad_tornView _
  · rfl

theorem journalAdd_torn (k : Nat) (s : State) : Torn r n s (journalAdd k s) := by
  unfold journalAdd
  dsimp only
  exact .ite (.of_rings rfl rfl) (.of_rings rfl rfl)

theorem releaseImage_torn (t : Tenant) (img : Word) (s : State) : Torn r n s (releaseImage t img s) := by
  unfold releaseImage
  split
  · exact .refl _ r n s
  · next i _ =>
    have unmapped : Torn r n s (unmapLbas i.lba i.total s) := .of_rings rfl rfl
    have first : Torn r n s (if i.sealed_ then journalAdd 1 (unmapLbas i.lba i.total s) else s) :=
      .ite (unmapped.trans (journalAdd_torn r n 1 _)) (.refl _ r n s)
    dsimp only
    generalize (if i.sealed_ then journalAdd 1 (unmapLbas i.lba i.total s) else s) = u at first
    exact first.trans (.of_rings rfl rfl)

theorem refusePending_torn (t : Tenant) (img : Word) (s : State) : Torn r n s (refusePending t img s) := by
  unfold refusePending
  refine .foldl (fun s q => ?_) _ s
  refine .ite (.refl _ r n s) (.foldl (fun s c => ?_) _ s)
  exact .ite (pushEntry_torn r n q c _ s) (.refl _ r n s)

theorem abandonImage_torn (t : Tenant) (img : Word) (s : State) : Torn r n s (abandonImage t img s) := by
  unfold abandonImage
  split
  · exact .refl _ r n s
  · have first := (releaseImage_torn r n t img s).trans (refusePending_torn r n t img _)
    dsimp only
    generalize refusePending t img (releaseImage t img s) = u at first
    exact first.trans (.of_rings rfl rfl)

theorem releaseCovered_torn (b : Sections) (s : State) : Torn r n s (releaseCovered b s) := by
  unfold releaseCovered
  exact .foldl (fun s (i : Image) => releaseImage_torn r n i.tenant i.img s) _ s

theorem abandonOpen_torn (s : State) : Torn r n s (abandonOpen s) := by
  unfold abandonOpen
  exact .foldl (fun s (i : Image) => abandonImage_torn r n i.tenant i.img s) _ s

theorem onCrag_torn (k : Crag) {f : CragSt → CragSt} (hf : ∀ x, (f x).fenced = x.fenced) (s : State) : Torn r n s (s.onCrag k f) := by
  refine ⟨?_, .of_rings rfl⟩
  have same : (fun j : Crag => (s.onCrag k f).ma.crags[j].fenced) = fun j => s.ma.crags[j].fenced := by
    funext j
    by_cases e : j = k
    · subst e
      rw [State.onCrag_same, hf]
    · rw [State.onCrag_other _ _ _ _ e]
  unfold tornView
  rw [same]
  rfl

theorem zeroPrevious_torn (s : State) : Torn r n s (zeroPrevious s) := by
  have crag : ∀ (s : State) k, Torn r n s (zeroCrag k s) := fun s k =>
    onCrag_torn r n k (f := fun x => { x with body := [], undefinedSince := none, written := [] }) (fun _ => rfl) s
  have lane : ∀ (s : State) l, Torn r n s (zeroLane l s) := fun s l => .of_rings rfl rfl
  have key : ∀ (s : State) k, Torn r n s (zeroKey k s) := fun s k => .of_rings rfl rfl
  unfold zeroPrevious zeroClaims
  exact .trans (.trans (.foldl crag _ s) (.foldl lane _ _)) (.foldl key _ _)

theorem fencePower_none {s : State} (h : s.wd.powerFenced = []) : fencePower s = s := by
  rw [fencePower, h]
  rfl

/-- The teardown, with no unit fenced for its power. -/
theorem tearDown_torn {s : State} (h : s.wd.powerFenced = []) : Torn r n s (tearDown s) := by
  have first := (abandonOpen_torn r n s).trans (zeroPrevious_torn r n _)
  unfold tearDown
  dsimp only
  generalize zeroPrevious (abandonOpen s) = u at first
  have none : u.wd.powerFenced = [] := by
    have := congrArg (·.2.2.2.1) first.view
    exact this.trans h
  rw [fencePower_none (by exact none)]
  refine first.trans ⟨?_, .of_rings rfl⟩
  have fences : (fun k : Crag => (mapBank (fun _ x => resetCrag x) u.ma.crags)[k].fenced) = fun k => u.ma.crags[k].fenced := by
    funext k
    rw [mapBank_get]
    rfl
  unfold tornView
  dsimp only
  rw [fences]

/-! ### What the set-up changes -/

/-- What the teardown keeps, with the cairns, the bit-stream and the service table. -/
def setView (s : State) : (List Host.Cell × Byte × List Nat × List Nat × (Crag → Bool)) × Vector CairnSt 128 × Sections
    × (Res → Vector SvcEnt 64) :=
  (tornView s, s.cairns, s.cfg.bs, fun k => s.adm[k].ent)

theorem setSetting_kept (x : SettingSec) (s : State) : ViewKept setView r n s (setSetting x s) := by
  have ring : ∀ (q : Ring) (f : RingSt → RingSt), (∀ y, (f y).queue = y.queue ∧ (f y).past = y.past) →
      ViewKept setView r n s (s.onRing q f) := by
    intro q f hf
    refine ⟨rfl, fun d h => ?_⟩
    by_cases e : r = q
    · subst e
      rw [State.onRing_same, RingSt.find, (hf _).1, (hf _).2] at h
      exact ⟨d, h, rfl, rfl⟩
    · rw [State.onRing_other _ _ _ _ e] at h
      exact ⟨d, h, rfl, rfl⟩
  unfold setSetting
  split
  · exact ring _ _ fun _ => ⟨rfl, rfl⟩
  · exact ring _ _ fun _ => ⟨rfl, rfl⟩
  · exact ring _ _ fun _ => ⟨rfl, rfl⟩
  · exact ring _ _ fun _ => ⟨rfl, rfl⟩
  · exact .refl _ r n s

theorem flagWarn_kept (kind item : Nat) (s : State) : ViewKept setView r n s (flagWarn kind item s) := by
  unfold flagWarn
  exact .ite (.refl _ r n s) (.of_rings rfl rfl)

theorem setWarnings_kept (b : Sections) (s : State) : ViewKept setView r n s (setWarnings b s) := by
  unfold setWarnings
  refine .trans (.foldl (fun s (p : Nat × Nat) => flagWarn_kept r n p.1 p.2 s) _ s) (.foldl (fun s e => ?_) _ _)
  exact .ite (flagWarn_kept r n 6 e.val s) (.refl _ r n s)

/-- The service table replaced, every resource's entries are the new ones. -/
theorem setService_ent (b : Sections) (s : State) (k : Res) : (setService b s).adm[k].ent = svcTable b k := by
  have each : ∀ (l : List Res) (s : State), (k ∈ l ∨ s.adm[k].ent = svcTable b k) → (l.foldl (fun s k => s.onArb k (fun a =>
      { a with ent := svcTable b k, age := Vector.replicate 64 0, tokens := Vector.replicate 64 64, tokAt := s.now, last := 0
               share := 0 })) s).adm[k].ent = svcTable b k := by
    intro l
    induction l with
    | nil => exact fun s h => h.resolve_left List.not_mem_nil
    | cons j l ih =>
      intro s h
      refine ih _ ?_
      by_cases e : k = j
      · subst e
        exact .inr (by rw [State.onArb_same])
      · refine (h.imp_left fun m => (List.mem_cons.mp m).resolve_left e).imp_right fun old => ?_
        rw [State.onArb_other _ _ _ _ e, old]
  exact each _ s (.inl (List.mem_finRange k))

/-- What is left of the view but the service table. -/
theorem setService_rest (b : Sections) (s : State) : ViewKept (fun s => (tornView s, s.cairns, s.cfg.bs)) r n s (setService b s) := by
  have arb : ∀ (s : State) k f, ViewKept (fun s => (tornView s, s.cairns, s.cfg.bs)) r n s (s.onArb k f) := fun _ _ _ =>
    .of_rings rfl rfl
  unfold setService
  exact .foldl (fun s k => arb s k _) _ s

theorem setOwners_kept (b : Sections) (s : State) : ViewKept (fun s => (tornView s, s.cairns)) r n s (setOwners b s) := by
  have key : ∀ (s : State) k, ViewKept (fun s => (tornView s, s.cairns)) r n s (zeroKey k s) := fun _ _ => .of_rings rfl rfl
  unfold setOwners
  dsimp only
  generalize eq : List.foldl (fun s k => zeroKey k s) s _ = u
  have first : ViewKept (fun s => (tornView s, s.cairns)) r n s u := by
    rw [← eq]
    exact .foldl key _ s
  refine first.trans (.of_rings ?_ rfl)
  have fences : ∀ f : Nat → CragSt → CragSt, (∀ i x, (f i x).fenced = x.fenced) →
      (fun k : Crag => (mapBank f u.ma.crags)[k].fenced) = fun k => u.ma.crags[k].fenced := by
    intro f hf
    funext k
    rw [mapBank_get, hf]
  exact congrArg (fun f => ((u.st.mem, u.cfg.unlocked, u.cfg.mgmtOff, u.wd.powerFenced, f), u.cairns)) (fences _ fun _ _ => rfl)

theorem setTenants_cairn (b : Sections) (s : State) (k : Cairn) :
    (setTenants b s).cairns[k].value = ((b.limits.cairnInit.find? (fun p => p.1 == k)).map (·.2)).getD 0 := by
  simp [setTenants]

/-- The set-up of a bit-stream on a torn-down engine. -/
theorem setUp_sets (b : Sections) (s : State) : Torn r n s (setUp b s) ∧ (setUp b s).cfg.bs = b
    ∧ (∀ k : Cairn, (setUp b s).cairns[k].value = ((b.limits.cairnInit.find? (fun p => p.1 == k)).map (·.2)).getD 0)
    ∧ ∀ k : Res, (setUp b s).adm[k].ent = svcTable b k := by
  have owned : ViewKept (fun s => (tornView s, s.cairns)) r n (setTenants b s) (setWheels b (setOwners b (setTenants b s))) :=
    (setOwners_kept r n b (setTenants b s)).trans (.of_rings rfl rfl)
  have settings : ViewKept setView r n (setWheels b (setOwners b (setTenants b s)))
      (b.settings.foldl (fun s x => setSetting x s) (setWheels b (setOwners b (setTenants b s)))) :=
    .foldl (fun s x => setSetting_kept r n x s) _ _
  unfold setUp
  dsimp only
  generalize b.settings.foldl (fun s x => setSetting x s) (setWheels b (setOwners b (setTenants b s))) = u at settings ⊢
  generalize setWheels b (setOwners b (setTenants b s)) = w at owned settings
  generalize ev : ({ u with cfg := { u.cfg with bs := b }, ma := { u.ma with xferWait := b.xfers.map (fun x => { x := x }) } } : State) = v
  have placed : ViewKept (fun s => (tornView s, s.cairns)) r n u v := by subst ev; exact .of_rings rfl rfl
  have bs : v.cfg.bs = b := by subst ev; rfl
  have service := setService_rest r n b v
  have ent := setService_ent b v
  generalize setService b v = x at service ent
  have warned := setWarnings_kept r n b x
  generalize setWarnings b x = y at warned
  have torn : tornView y = tornView s := calc
    tornView y = tornView x := congrArg (·.1) warned.view
    _ = tornView v := congrArg (·.1) service.view
    _ = tornView u := congrArg (·.1) placed.view
    _ = tornView w := congrArg (·.1) settings.view
    _ = tornView s := congrArg (·.1) owned.view
  have cairns : y.cairns = (setTenants b s).cairns := calc
    y.cairns = x.cairns := congrArg (·.2.1) warned.view
    _ = v.cairns := congrArg (·.2.1) service.view
    _ = u.cairns := congrArg (·.2) placed.view
    _ = w.cairns := congrArg (·.2.1) settings.view
    _ = (setTenants b s).cairns := congrArg (·.2) owned.view
  have cmd : SameCmd r n s y := (SameCmd.of_rings rfl).trans
    (owned.cmd.trans (settings.cmd.trans (placed.cmd.trans (service.cmd.trans warned.cmd))))
  refine ⟨⟨torn, cmd⟩, ?_, fun k => ?_, fun k => ?_⟩
  · exact (congrArg (·.2.2.1) warned.view).trans ((congrArg (·.2.2) service.view).trans bs)
  · rw [cairns, setTenants_cairn]
  · exact (congrFun (congrArg (·.2.2.2) warned.view) k).trans (ent k)

end

end Sys2Proof.Proofs

/-! What a successful load leaves (R72). -/

namespace Sys2Proof.Proofs

open Sys2Proof Sys2Proof.Machine Sys2Proof.Safety Sys2Proof.Laws

section
variable (r : Ring) (n : Nat)

/-! ### Programs are placed -/

theorem placeOn_kept (m : Crag) (p : Byte) (t : Tenant) (body : List Host.Cell) (s : State) :
    ViewKept setView r n s (placeOn m p t body s) := by
  have crag : ViewKept setView r n s (s.onCrag m (fun x => { x with
      used := true, prog := p, tenant := t, body := body, rest := true, restSince := s.now, step := none
      undefinedSince := none, written := [] })) := by
    have torn := onCrag_torn r n m (f := fun x => { x with
      used := true, prog := p, tenant := t, body := body, rest := true, restSince := s.now, step := none
      undefinedSince := none, written := [] }) (fun _ => rfl) s
    exact ⟨congrArg (fun v => (v, s.cairns, s.cfg.bs, fun k : Res => s.adm[k].ent)) torn.view, torn.cmd⟩
  unfold placeOn setPlace
  split
  · exact crag.trans (.of_rings rfl rfl)
  · exact crag

/-- With no crag fenced, marked or failing, every program finds its place. -/
theorem placeAll_places (named : List Crag) (l : List (ProgSec × Nat)) {s : State} (whole : ∀ m : Crag, s.ma.crags[m].fenced = false)
    (marks : s.cfg.mgmtOff = []) : ∃ t, placeAll [] named l s = (none, t) ∧ ViewKept setView r n s t := by
  induction l generalizing s with
  | nil => exact ⟨s, rfl, .refl _ r n s⟩
  | cons q l ih =>
    obtain ⟨p, i⟩ := q
    have kept := placeOn_kept r n p.crag (BitVec.ofNat 8 i) s.ma.crags[p.crag].tenant p.initial s
    have whole' : ∀ m : Crag, (placeOn p.crag (BitVec.ofNat 8 i) s.ma.crags[p.crag].tenant p.initial s).ma.crags[m].fenced = false :=
      fun m => (congrFun (congrArg (·.1.2.2.2.2) kept.view) m).trans (whole m)
    have marks' := (congrArg (·.1.2.2.1) kept.view).trans marks
    obtain ⟨t, run, rest⟩ := ih whole' marks'
    refine ⟨t, ?_, kept.trans rest⟩
    have fits : ¬ (([] : List Crag).contains p.crag = true ∧ (!s.ma.crags[p.crag].fenced) = true) := fun k => absurd k.1 (by simp)
    have free : (!s.ma.crags[p.crag].fenced && !s.cfg.mgmtOff.contains p.crag.val) = true := by
      rw [whole, marks]
      rfl
    rw [placeAll]
    rw [if_neg fits, if_pos free]
    exact run

/-! ### What follows the placement -/

/-- What the rest of a load keeps. -/
def doneView (s : State) : List Host.Cell × Byte × Sections × BitVec 384 × Bool × BitVec 4 × Vector CairnSt 128
    × (Res → Vector SvcEnt 64) :=
  (s.st.mem, s.cfg.unlocked, s.cfg.bs, s.cfg.digest, s.cfg.loaded, s.cfg.loadErr, s.cairns, fun k => s.adm[k].ent)

theorem raiseEvent_done (code : Nat) (u : Byte) (a0 a1 : Word) (s : State) : ViewKept doneView r n s (raiseEvent code u a0 a1 s) := by
  have kept := raiseEvent_kept code u a0 a1 s
  refine .of_rings ?_ kept.rings
  unfold doneView
  rw [kept.st, kept.cfg, kept.cairns, raiseEvent_adm]

theorem onArb_done {s : State} (k : Res) {f : Arb → Arb} (hf : (f s.adm[k]).ent = s.adm[k].ent) : ViewKept doneView r n s (s.onArb k f) := by
  refine .of_rings ?_ rfl
  have same : (fun j : Res => (s.onArb k f).adm[j].ent) = fun j => s.adm[j].ent := by
    funext j
    by_cases e : j = k
    · subst e
      rw [State.onArb_same, hf]
    · rw [State.onArb_other _ _ _ _ e]
  unfold doneView
  rw [same]
  rfl

theorem endBreach_done (k : Res) (s : State) : ViewKept doneView r n s (endBreach k s) := by
  unfold endBreach
  exact .ite ((onArb_done r n k rfl).trans (raiseEvent_done r n ..)) (.refl _ r n s)

theorem recapOne_done (k : Res) (s : State) : ViewKept doneView r n s (recapOne k s) := by
  have announced : doneView (recapOne k s) = doneView (s.onArb k fun _ => recapped k s) :=
    (congrArg doneView (recapOne_quiet k s) : doneView (quiet _) = doneView (quiet _))
  exact .of_rings (announced.trans (onArb_done r n k (recapped_ent k s)).view) (recapOne_rings k s)

theorem refreshView_done (s : State) : ViewKept doneView r n s (refreshView s) := by
  unfold refreshView
  generalize (Vector.ofFn _ : Vector Byte 78) = v
  dsimp only
  generalize List.length _ = m
  by_cases same : m = 0
  · rw [if_pos same]
    exact .refl _ r n s
  · rw [if_neg same]
    exact .of_rings rfl rfl

theorem assignXfers_done (k : Nat) (s : State) : ViewKept doneView r n s (assignXfers k s) := by
  induction k generalizing s with
  | zero => exact .refl _ r n s
  | succ k ih =>
    unfold assignXfers
    split
    · exact ViewKept.trans (by exact .of_rings rfl rfl) (ih _)
    · exact .refl _ r n s

theorem endLoad_doneView (s : State) : doneView (endLoad s) = doneView s := by
  unfold endLoad busyOff
  split <;> rfl

theorem pushEntry_done (q : Ring) (c : Cmd) (o : Outc) (s : State) : ViewKept doneView r n s (pushEntry q c o s) := by
  refine ⟨?_, pushEntry_same r n q c o s⟩
  unfold pushEntry
  dsimp only
  split
  · exact endLoad_doneView _
  · rfl

theorem sealReport_done (q : Ring) (c : Cmd) (stage : Nat) (o : Outc) (s : State) : ViewKept doneView r n s (sealReport q c stage o s) := by
  have noted : ViewKept doneView r n s (modCmd q c.cid (fun c => { c with stages := setBit c.stages stage true }) s) :=
    ⟨rfl, modCmd_same r n q c.cid (f := fun c => { c with stages := setBit c.stages stage true }) (fun _ => ⟨rfl, rfl, rfl⟩) s⟩
  unfold sealReport
  exact .ite (.refl _ r n s) (noted.trans (pushEntry_done r n ..))

theorem pairOutcome_done (own : Option (Ring × Nat)) (o : Outc) (s : State) : ViewKept doneView r n s (pairOutcome own o s) := by
  unfold pairOutcome
  split
  · exact .refl _ r n s
  · split
    · exact .refl _ r n s
    · exact .ite (sealReport_done r n ..) (pushEntry_done r n ..)

theorem abortTap_done (tap : Tap) (s : State) : ViewKept doneView r n s (abortTap tap s) := by
  have lane : ∀ (s : State) l f, ViewKept doneView r n s (s.onLane l f) := fun _ _ _ => .of_rings rfl rfl
  unfold abortTap
  exact .foldl (fun s (x : Lane × Nat × Snoop) => lane s x.1 _) _ s

theorem endXfer_done (e : Peer) (t : Transfer) (reason : Nat) (s : State) : ViewKept doneView r n s (endXfer e t reason s) := by
  have peer : ∀ (s : State) f, ViewKept doneView r n s (s.onPeer e f) := fun _ _ => .of_rings rfl rfl
  unfold endXfer dropXfer
  exact ((ViewKept.ite (.refl _ r n s) (abortTap_done r n _ s)).trans (peer _ _)).trans (pairOutcome_done r n ..)

theorem refreshSessions_done (s : State) : ViewKept doneView r n s (refreshSessions s) := by
  have peer : ∀ (s : State) e f, ViewKept doneView r n s (s.onPeer e f) := fun _ _ _ => .of_rings rfl rfl
  have opened : ∀ (s : State) e, ViewKept doneView r n s (openSession e s) := fun s e =>
    .trans (t := (drawNonce s).2) (.of_rings rfl rfl) (peer _ e _)
  unfold refreshSessions
  refine .foldl (fun s e => ?_) _ s
  dsimp only
  refine .ite (.ite (opened s e) (.refl _ r n s)) (.ite (.refl _ r n s) ?_)
  exact ((peer s e _).trans (peer _ e _)).trans (.foldl (fun s t => endXfer_done r n e t 0x60 s) _ _)

/-- The rest of a load, once its programs are placed. -/
theorem loadDone_leaves (digest : BitVec 384) (s : State) : SameCmd r n s (loadDone digest s)
    ∧ doneView (loadDone digest s) = (s.st.mem, s.cfg.unlocked, s.cfg.bs, digest, true, 0, s.cairns, fun k => s.adm[k].ent) := by
  unfold loadDone
  dsimp only
  generalize ev : ({ s with
    cfg := { s.cfg with
      loaded := true, loadErr := 0, digest := digest, loadCount := satAdd s.cfg.loadCount 1
      loadId := s.cfg.lastLoadId + 1, lastLoadId := s.cfg.lastLoadId + 1, lockout := 0, fails := Vector.replicate 8 0 }
    boot := { s.boot with lastDigest := digest } } : State) = v
  have here : doneView v = (s.st.mem, s.cfg.unlocked, s.cfg.bs, digest, true, 0, s.cairns, fun k => s.adm[k].ent)
      ∧ v.rings = s.rings := by
    subst ev
    exact ⟨rfl, rfl⟩
  have breaches : ViewKept doneView r n v ((List.finRange 7).foldl (fun s k => endBreach k s) v) :=
    .foldl (fun s k => endBreach_done r n k s) _ v
  generalize (List.finRange 7).foldl (fun s k => endBreach k s) v = w at breaches
  have capacity : ViewKept doneView r n w (recap w) := .foldl (fun s k => recapOne_done r n k s) _ w
  have rest := ((breaches.trans capacity).trans (refreshView_done r n _)).trans
    ((assignXfers_done r n w.ma.xferWait.length _).trans (refreshSessions_done r n _))
  exact ⟨(SameCmd.of_rings here.2).trans rest.cmd, rest.view.trans here.1⟩

end

/-! ### The load that succeeds -/

section
variable {r : Ring} {c : Cmd}

/-- The last entry of a load, whatever is left of its command on the ring. -/
theorem pushEntry_loadOk {s w : State} (found : s.rings[r].find c.cid = some c) (op : c.op = 0x40) (whole : c.trunc = none)
    (same : SameCmd r c.cid s w) : doneView (complete r c stOK 0 0 w) = doneView w ∧ (complete r c stOK 0 0 w).cfg.loading = false
      ∧ ∃ e ∈ (complete r c stOK 0 0 w).rings[r].waiting, e.tag = c.tag ∧ e.status = stOK ∧ e.last = true := by
  obtain ⟨d, hd, trb, trunc⟩ : ∃ d, (w.rings[r].find c.cid).getD c = d ∧ d.trb = c.trb ∧ d.trunc = none := by
    cases h : w.rings[r].find c.cid with
    | none => exact ⟨c, rfl, rfl, whole⟩
    | some d =>
      obtain ⟨c', hc', trb, trunc⟩ := same d h
      rw [found] at hc'
      cases hc'
      exact ⟨d, rfl, trb, trunc.trans whole⟩
  have work := stopWaiting_sameWork w.now d
  have trb' : (stopWaiting w.now d).trb = c.trb := work.trb.trans trb
  have op' : (stopWaiting w.now d).op = 0x40 := (congrArg (fun t : BitVec 512 => ({ trb := t } : Cmd).op) trb').trans op
  have tag : (stopWaiting w.now d).tag = c.tag := (congrArg (fun t : BitVec 512 => ({ trb := t } : Cmd).tag) trb' :)
  have plain : withTrunc (stopWaiting w.now d) (withBad (stopWaiting w.now d) { status := stOK }) = { status := stOK } := by
    simp [withTrunc, withBad, work.trunc.trans trunc, op']
  have entry : entryFor w r (stopWaiting w.now d) { status := stOK } = { entryOf (stopWaiting w.now d) { status := stOK } with
      done := min (doneUnits w r (stopWaiting w.now d)) 0xFFFFFFFF } := by
    unfold entryFor
    dsimp only
    rw [plain, if_neg (by decide)]
  refine ⟨(pushEntry_done r c.cid r c _ w).view, ?_, entryFor w r (stopWaiting w.now d) { status := stOK }, ?_, ?_⟩
  · unfold complete pushEntry
    dsimp only
    rw [hd, if_pos op']
    exact congrArg (·.loading) (busyOff_kept 2 _).cfg
  · rw [pushEntry_rings, modAt_same]
    dsimp only
    rw [hd, if_neg Bool.false_ne_true]
    exact List.mem_append_right _ (List.mem_singleton.mpr rfl)
  · rw [entry]
    exact ⟨tag, rfl, rfl⟩

/-- What `tornView` says field by field. -/
theorem tornView_parts {s t : State} (h : tornView t = tornView s) : t.st.mem = s.st.mem ∧ t.cfg.unlocked = s.cfg.unlocked
    ∧ t.cfg.mgmtOff = s.cfg.mgmtOff ∧ t.wd.powerFenced = s.wd.powerFenced ∧ ∀ m : Crag, t.ma.crags[m].fenced = s.ma.crags[m].fenced := by
  simp only [tornView, Prod.mk.injEq] at h
  obtain ⟨mem, unlocked, marks, power, fenced⟩ := h
  exact ⟨mem, unlocked, marks, power, fun m => congrFun fenced m⟩

/-- What `setView` says field by field. -/
theorem setView_parts {s t : State} (h : setView t = setView s) : tornView t = tornView s ∧ t.cairns = s.cairns ∧ t.cfg.bs = s.cfg.bs
    ∧ ∀ k : Res, t.adm[k].ent = s.adm[k].ent := by
  simp only [setView, Prod.mk.injEq] at h
  obtain ⟨torn, cairns, bs, ents⟩ := h
  exact ⟨torn, cairns, bs, fun k => congrFun ents k⟩

/-- The configuration torn down, the new one set up, its programs placed. -/
theorem placeAll_setUp (n : Nat) (b : Sections) {u : State} (power : u.wd.powerFenced = [])
    (whole : ∀ m : Crag, u.ma.crags[m].fenced = false) (marks : u.cfg.mgmtOff = []) :
    ∃ v, placeAll [] (b.programs.map (·.crag)) b.programs.zipIdx (setUp b (tearDown u)) = (none, v) ∧ SameCmd r n u v
      ∧ v.st.mem = u.st.mem ∧ v.cfg.unlocked = u.cfg.unlocked ∧ v.cfg.bs = b
      ∧ (∀ k : Cairn, v.cairns[k].value = ((b.limits.cairnInit.find? (fun p => p.1 == k)).map (·.2)).getD 0)
      ∧ ∀ k : Res, v.adm[k].ent = svcTable b k := by
  have torn := (tearDown_torn r n power).trans (setUp_sets r n b (tearDown u)).1
  obtain ⟨-, bits, cairns, ents⟩ := setUp_sets r n b (tearDown u)
  generalize setUp b (tearDown u) = w at torn bits cairns ents
  obtain ⟨mem, unlocked, marks', -, fenced⟩ := tornView_parts torn.view
  obtain ⟨v, run, rest⟩ := placeAll_places r n (b.programs.map (·.crag)) b.programs.zipIdx (fun m => (fenced m).trans (whole m))
    (marks'.trans marks)
  obtain ⟨torn', cairns', bits', ents'⟩ := setView_parts rest.view
  obtain ⟨mem', unlocked', -⟩ := tornView_parts torn'
  refine ⟨v, run, torn.cmd.trans rest.cmd, mem'.trans mem, unlocked'.trans unlocked, bits'.trans bits, fun k => ?_,
    fun k => (ents' k).trans (ents k)⟩
  rw [cairns']
  exact cairns k

/-- The placement done, the rest of the load and its last entry. -/
theorem complete_loadDone {s v : State} (found : s.rings[r].find c.cid = some c) (op : c.op = 0x40) (trunc : c.trunc = none)
    (same : SameCmd r c.cid s v) (digest : BitVec 384) (t : State) (et : t = complete r c stOK 0 0 (loadDone digest v)) :
    t.st.mem = v.st.mem ∧ t.cfg.unlocked = v.cfg.unlocked ∧ t.cfg.bs = v.cfg.bs ∧ t.cfg.digest = digest ∧ t.cfg.loaded = true
      ∧ t.cfg.loadErr = 0 ∧ t.cairns = v.cairns ∧ (∀ k : Res, t.adm[k].ent = v.adm[k].ent) ∧ t.cfg.loading = false
      ∧ ∃ e ∈ t.rings[r].waiting, e.tag = c.tag ∧ e.status = stOK ∧ e.last = true := by
  obtain ⟨left, done⟩ := loadDone_leaves r c.cid digest v
  obtain ⟨view, loading, answer⟩ := pushEntry_loadOk found op trunc (same.trans left)
  rw [← et] at view loading answer
  have final := view.trans done
  simp only [doneView, Prod.mk.injEq] at final
  obtain ⟨mem, unlocked, bits, dig, loaded, err, cairns, ents⟩ := final
  exact ⟨mem, unlocked, bits, dig, loaded, err, cairns, fun k => congrFun ents k, loading, answer⟩

/-- The state a load begins to tear down: EXPERT level gone, what it covered released. -/
theorem releaseCovered_begun (n : Nat) (b : Sections) (s : State) : ∃ u, releaseCovered b (effectOf r n (clearExpert s)) = u
    ∧ SameCmd r n s u ∧ u.st.mem = s.st.mem ∧ u.cfg.unlocked = 0 ∧ u.cfg.mgmtOff = s.cfg.mgmtOff
    ∧ u.wd.powerFenced = s.wd.powerFenced ∧ ∀ m : Crag, u.ma.crags[m].fenced = s.ma.crags[m].fenced := by
  have begun : SameCmd r n s (effectOf r n (clearExpert s)) := (SameCmd.of_rings rfl).trans
    (modCmd_same r n r n (f := fun c => { c with effect := true }) (fun _ => ⟨rfl, rfl, rfl⟩) (clearExpert s))
  have released := releaseCovered_torn r n b (effectOf r n (clearExpert s))
  obtain ⟨mem, unlocked, marks, power, fenced⟩ := tornView_parts released.view
  exact ⟨_, rfl, begun.trans released.cmd, mem, unlocked, marks, power, fenced⟩

/-- A container that passes the checks replaces the configuration. -/
theorem replaceConfig_loads {s : State} {g : Gsb} (found : s.rings[r].find c.cid = some c) (op : c.op = 0x40)
    (trunc : c.trunc = none) (bs : List Byte) (fails : g.loadFails = []) (power : s.wd.powerFenced = [])
    (whole : ∀ m : Crag, s.ma.crags[m].fenced = false) (marks : s.cfg.mgmtOff = []) :
    ∃ t, replaceConfig r c bs g s = pumpWheels t ∧ t.cfg.loaded = true ∧ t.cfg.bs = knownPart bs g.contents
      ∧ t.cfg.digest = gsbDigest bs ∧ t.cfg.loadErr = 0 ∧ t.cfg.unlocked = 0 ∧ t.cfg.loading = false
      ∧ (∀ k : Cairn, t.cairns[k].value = ((g.contents.limits.cairnInit.find? (fun p => p.1 == k)).map (·.2)).getD 0)
      ∧ (∀ k : Res, t.adm[k].ent = svcTable (knownPart bs g.contents) k)
      ∧ (∃ e ∈ t.rings[r].waiting, e.tag = c.tag ∧ e.status = stOK ∧ e.last = true) ∧ t.st.mem = s.st.mem := by
  have inits : (knownPart bs g.contents).limits.cairnInit = g.contents.limits.cairnInit := rfl
  unfold replaceConfig
  dsimp only
  obtain ⟨u, begun, same, mem, unlocked, marks', power', fenced⟩ := releaseCovered_begun (r := r) c.cid (knownPart bs g.contents) s
  rw [begun, fails]
  obtain ⟨v, placed, same', mem', unlocked', bits, cairns, ents⟩ := placeAll_setUp (r := r) c.cid (knownPart bs g.contents)
    (power'.trans power) (fun m => (fenced m).trans (whole m)) (marks'.trans marks)
  rw [placed]
  obtain ⟨t, et⟩ : ∃ t, t = complete r c stOK 0 0 (loadDone (gsbDigest bs) v) := ⟨_, rfl⟩
  obtain ⟨mem'', unlocked'', bits', digest, loaded, err, cairns', ents', loading, answer⟩ :=
    complete_loadDone found op trunc (same.trans same') (gsbDigest bs) t et
  refine ⟨t, congrArg pumpWheels et.symm, loaded, bits'.trans bits, digest, err, unlocked''.trans (unlocked'.trans unlocked), loading,
    fun k => ?_, fun k => (ents' k).trans (ents k), answer, mem''.trans (mem'.trans mem)⟩
  rw [cairns', cairns k, inits]

/-- Settles O43: LOAD_BITSTREAM replaces the configuration or keeps it. -/
theorem loadReplacesOrKeepsConfig : Obligations.LoadReplacesOrKeepsConfig := by
  intro s r c g
  refine ⟨fun h found fresh other => loadRefused h found (if_pos ⟨fresh, other⟩), fun h found fresh own busy => ?_,
    fun e h fails => load_checkFails h fails, fun h passes fits fails power whole marks => ?_⟩
  · obtain ⟨t, run, answer, bits, digest, -, rest⟩ := loadRefused (g := g) (d0 := 1) h found
      ((if_neg fun k => k.2 own).trans (if_pos ⟨fresh, busy⟩))
    exact ⟨t, run, answer, bits, digest, rest⟩
  · obtain ⟨rings, bad, run, found, -⟩ := loadAct_fetched h g
    obtain ⟨started, -⟩ := h
    have ex := exec_loadBitstream started g
    obtain ⟨-, op, -, -, trunc, -⟩ := started
    have judged : loadChecks r g c (fetchedBytes c) {} { s with rings := rings, link := { s.link with atsBad := bad } }
        = replaceConfig r c (fetchedBytes c) g { s with rings := rings, link := { s.link with atsBad := bad } } := by
      have check : loadErrOf ({ s with rings := rings, link := { s.link with atsBad := bad } } : State).fwVer (fetchedBytes c)
        (({} : Bad).n != 0) g = none := passes
      have room : overCapacity { s with rings := rings, link := { s.link with atsBad := bad } }
        (knownPart (fetchedBytes c) g.contents) = none := fits
      unfold loadChecks
      rw [check]
      dsimp only
      rw [room]
    obtain ⟨t, loads, facts⟩ := replaceConfig_loads (g := g) (s := { s with rings := rings, link := { s.link with atsBad := bad } })
      found op trunc (fetchedBytes c) fails power whole marks
    rw [run, judged, loads] at ex
    exact ⟨t, ex, fun rest => by rw [ex, pumpWheels_rest rest], facts⟩

end

end Sys2Proof.Proofs

/-! What RESTORE and RESHARD share: their engine, their reads, their writes inside the tenant's windows, their entry (R209,
R224, R84). -/

namespace Sys2Proof.Proofs

open Sys2Proof Sys2Proof.Machine Sys2Proof.Safety Sys2Proof.Laws

/-! ### What a command of a Rowan engine can change -/

/-- A command rewritten while it runs still asks for the same and has failed no more. -/
structure SameTask (c d : Cmd) : Prop where
  cid : d.cid = c.cid
  trb : d.trb = c.trb
  trunc : d.trunc = c.trunc
  badBeats : d.badBeats = c.badBeats

namespace SameTask

variable {c d e : Cmd}

theorem refl (c : Cmd) : SameTask c c := ⟨rfl, rfl, rfl, rfl⟩

theorem trans (h : SameTask c d) (k : SameTask d e) : SameTask c e :=
  ⟨k.cid.trans h.cid, k.trb.trans h.trb, k.trunc.trans h.trunc, k.badBeats.trans h.badBeats⟩

theorem op (h : SameTask c d) : d.op = c.op := by simp [Cmd.op, h.trb]
theorem tag (h : SameTask c d) : d.tag = c.tag := by simp [Cmd.tag, h.trb]
theorem f (h : SameTask c d) (off n : Nat) : d.f off n = c.f off n := by simp [Cmd.f, h.trb]

end SameTask

theorem stopWaiting_sameTask (now : Nat) (c : Cmd) : SameTask c (stopWaiting now c) := by
  unfold stopWaiting
  split <;> exact ⟨rfl, rfl, rfl, rfl⟩

/-- A state without what a command that reads and writes staging memory may change: bytes and marks, counts of its reads,
engines, refused translations, rings, and the free values drawn. -/
def sansTask (s : State) : State :=
  { s with
    st := { s.st with mem := [], memBad := [], secOk := 0, missing := 0, falseMark := 0, recovered := 0, poisonSec := 0, stale := 0 }
    ma := { s.ma with lines := [], rowan := Vector.replicate 4 {} }
    link := { s.link with fltCnt := 0, fltLast := 0, atsBad := [] }
    rings := Vector.replicate 16 {}
    freeIx := 0 }

/-- From `s` to `t` bytes inside the windows of tenant `u` may change, and the bookkeeping of command `n` on ring `r`. -/
structure Works (u : Tenant) (r : Ring) (n : Nat) (s t : State) : Prop where
  frame : sansTask t = sansTask s
  ok : MemoryOk s → MemoryOk t
  outside : MemoryOk s → ∀ a, inWindows s u a 1 = false → readByte t.st.mem a = readByte s.st.mem a
  others : OtherRings s t r
  waiting : t.rings[r].waiting = s.rings[r].waiting
  task : ∀ c, s.rings[r].find n = some c → ∃ d, t.rings[r].find n = some d ∧ SameTask c d

namespace Works

variable {u : Tenant} {r : Ring} {n : Nat} {s t v : State}

theorem windows (h : Works u r n s t) (w : Tenant) (a k : Nat) : inWindows t w a k = inWindows s w a k :=
  (congrArg (fun s => inWindows s w a k) h.frame :)

theorem refl (s : State) : Works u r n s s := ⟨rfl, id, fun _ _ _ => rfl, fun _ _ => rfl, rfl, fun c h => ⟨c, h, .refl c⟩⟩

theorem trans (a : Works u r n s t) (b : Works u r n t v) : Works u r n s v where
  frame := b.frame.trans a.frame
  ok h := b.ok (a.ok h)
  outside h x hx := (b.outside (a.ok h) x (by rw [a.windows, hx])).trans (a.outside h x hx)
  others q hq := (b.others q hq).trans (a.others q hq)
  waiting := b.waiting.trans a.waiting
  task c h := by
    obtain ⟨d, hd, one⟩ := a.task c h
    obtain ⟨e, he, two⟩ := b.task d hd
    exact ⟨e, he, one.trans two⟩

/-- What leaves memory and rings. -/
theorem of_mem (frame : sansTask t = sansTask s) (mem : t.st.mem = s.st.mem) (rings : t.rings = s.rings) : Works u r n s t where
  frame := frame
  ok h := by rw [MemoryOk, mem]; exact h
  outside _ a _ := by rw [mem]
  others q _ := by rw [rings]
  waiting := by rw [rings]
  task c h := ⟨c, by rw [rings, h], .refl c⟩

theorem of_moved (h : MovedWithin u s t) : Works u r n s t where
  frame := (congrArg sansTask h.frame :)
  ok := h.ok
  outside := h.outside
  others q _ := (congrArg (fun s => s.rings[q]) h.frame :)
  waiting := (congrArg (fun s => s.rings[r].waiting) h.frame :)
  task c hc := ⟨c, ((congrArg (fun s => s.rings[r].find n) h.frame :) : t.rings[r].find n = s.rings[r].find n).trans hc, .refl c⟩

theorem modCmd {f : Cmd → Cmd} (hf : ∀ c, SameTask c (f c)) (s : State) : Works u r n s (modCmd r n f s) where
  frame := rfl
  ok := id
  outside _ _ _ := rfl
  others := modCmd_others r n f s
  waiting := modCmd_waiting r n f s
  task c h := ⟨f c, modCmd_find h fun d => (hf d).cid, hf c⟩

theorem foldl {β : Type} {f : State → β → State} (h : ∀ s b, Works u r n s (f s b)) (l : List β) (s : State) :
    Works u r n s (l.foldl f s) := by
  induction l generalizing s with
  | nil => exact .refl s
  | cons b l ih => exact (h s b).trans (ih _)

theorem deaf (h : Works u r n s t) (k : ∀ l : Lane, s.ma.lanes[l].snoops = []) (l : Lane) : t.ma.lanes[l].snoops = [] :=
  ((congrArg (fun s => s.ma.lanes[l].snoops) h.frame :) : t.ma.lanes[l].snoops = s.ma.lanes[l].snoops).trans (k l)

end Works

section
variable {u : Tenant} {r : Ring} {n : Nat}

theorem writeElems_works (k : Key) (size : Nat) (count : Bool) (es : List Elem) (b : Bad) (s : State) :
    Works k.tenant r n s (writeElems k true size count es b s).2.2 := .of_moved (writeElems_moved ..)

theorem rowanTap_none {s : State} (deaf : ∀ l : Lane, s.ma.lanes[l].snoops = []) (e : Eng) (own : Ring × Nat)
    (streams : Unit → List (List Byte × List Nat)) : rowanTap e own streams s = s := by
  unfold rowanTap
  rw [snoopsOn_none deaf]
  rfl

theorem stagingReads_works (k : Key) (plan : List Nat) (s : State) : Works u r n s (stagingReads k plan s).2.2 := by
  induction plan generalizing s with
  | nil => exact .refl s
  | cons a plan ih =>
    have drawn : ∀ s : State, Works u r n s (drawBeat s).2 := fun s => .of_mem rfl rfl rfl
    have logged : Works u r n s (keyFlt k a .window false s) := .of_mem rfl rfl rfl
    rw [stagingReads]
    split
    · dsimp only
      cases (s.beat (a / 64)).psn with
      | true => exact (drawn s).trans (ih _)
      | false => exact ih _
    · exact (logged.trans (drawn _)).trans (ih _)

/-! ### The engine and the reads -/

/-- Command `c`, as `d`, has its engine and its tables: nothing else of `s` has changed. -/
structure Prepared (r : Ring) (c : Cmd) (s t : State) (d : Cmd) : Prop where
  only : ∃ rings rowan bad, t = { s with rings := rings, ma := { s.ma with rowan := rowan }, link := { s.link with atsBad := bad } }
  others : OtherRings s t r
  waiting : t.rings[r].waiting = s.rings[r].waiting
  found : t.rings[r].find c.cid = some d
  task : SameTask c d

theorem Prepared.works {c d : Cmd} {s t : State} (h : Prepared r c s t d) (found : s.rings[r].find c.cid = some c) :
    Works u r c.cid s t := by
  obtain ⟨⟨rings, rowan, bad, rfl⟩, others, waiting, there, task⟩ := h
  exact ⟨rfl, id, fun _ _ _ => rfl, others, waiting, fun b hb => ⟨d, there, by
    obtain rfl := Option.some.inj (found.symm.trans hb)
    exact task⟩⟩

/-- With the engines idle a command gets one at once. -/
theorem claimEngine_idle {s : State} (idle : EnginesIdle s) (cid : Nat) (rd wd : Desc) :
    ∃ e rowan, claimEngine r cid rd wd s = (some e, { s with ma := { s.ma with rowan := rowan } }) := by
  obtain ⟨empty, -, free⟩ := idle
  obtain ⟨e, he⟩ := Option.isSome_iff_exists.mp free
  have unowned : s.engineOf r cid = none := by
    unfold State.engineOf
    rw [List.find?_eq_none]
    intro e _
    rw [empty e]
    exact Bool.false_ne_true
  unfold claimEngine
  dsimp only
  rw [unowned, he]
  dsimp only
  rw [State.onRowan_same, empty e]
  dsimp only [List.nil_append]
  rw [if_pos rfl]
  exact ⟨e, _, rfl⟩

theorem onEngine_idle {s : State} {c : Cmd} (idle : EnginesIdle s) (found : s.rings[r].find c.cid = some c) (rd wd : Desc)
    (act : Eng → Cmd → State → State) :
    ∃ e t, onEngine r c rd wd act s = act e (stopWaiting s.now c) t ∧ Prepared r c s t (stopWaiting s.now c) := by
  have still := modCmd_find (f := stopWaiting s.now) found fun d => (stopWaiting_sameTask _ d).cid
  obtain ⟨e, rowan, claim⟩ := claimEngine_idle (s := modCmd r c.cid (stopWaiting s.now) s) idle (r := r) c.cid rd wd
  refine ⟨e, _, ?_, ⟨⟨_, rowan, s.link.atsBad, rfl⟩, modCmd_others r c.cid (stopWaiting s.now) s, modCmd_waiting .., still, stopWaiting_sameTask _ c⟩⟩
  unfold onEngine
  rw [claim]
  dsimp only
  rw [show (modCmd r c.cid (stopWaiting s.now) s).rings[r].find c.cid = _ from still]
  rfl

/-- A command with nothing to read has its data. -/
theorem gather_nothing {s : State} {c d : Cmd} (found : s.rings[r].find c.cid = some d) (same : SameTask c d) :
    ∃ b t e, gather r c.cid [] s = (true, b, t) ∧ Prepared r c s t e := by
  have planned := modCmd_find (f := fun d => { d with plan := [] }) found fun _ => rfl
  have still := modCmd_find (f := stopWaiting (modCmd r c.cid (fun d => { d with plan := [] }) s).now) planned
    fun d => (stopWaiting_sameTask _ d).cid
  have task : SameTask c (stopWaiting (modCmd r c.cid (fun d => { d with plan := [] }) s).now { d with plan := [] }) :=
    (SameTask.trans (d := d) (e := { d with plan := [] }) same ⟨rfl, rfl, rfl, rfl⟩).trans (stopWaiting_sameTask _ _)
  unfold gather
  dsimp only [List.zipIdx_nil, judgeReads, List.length_nil]
  rw [issueReads_asked planned fun p hp => absurd hp List.not_mem_nil, still]
  exact ⟨_, _, _, rfl, ⟨_, _, _, rfl⟩, fun q hq => (modCmd_others r _ _ _ q hq).trans (modCmd_others r _ _ s q hq),
    (modCmd_waiting ..).trans (modCmd_waiting ..), still, task⟩

theorem Prepared.trans {s t v : State} {c d e : Cmd} (h : Prepared r c s t d) (k : Prepared r c t v e) : Prepared r c s v e := by
  obtain ⟨⟨rings, rowan, bad, rfl⟩, others, waiting, -, -⟩ := h
  obtain ⟨⟨rings', rowan', bad', rfl⟩, others', waiting', found, task⟩ := k
  exact ⟨⟨rings', rowan', bad', rfl⟩, fun q hq => (others' q hq).trans (others q hq), waiting'.trans waiting, found, task⟩

/-! ### The entry, and the engine given up -/

/-- A final outcome of the three R224 allows, with `n` in DETAIL1 where it is OK. -/
structure Ends (o : Outc) (n : Nat) : Prop where
  last : o.more = false
  status : o.status = stOK ∨ o.status = stPOISONED ∨ o.status = stTIMEOUT
  d1 : o.status = stOK → o.d1 = n

theorem outc_ends (x : Bad) (d0 n : Nat) : Ends (x.outc d0 n) n := by
  unfold Bad.outc
  split
  · exact ⟨rfl, .inl rfl, fun _ => rfl⟩
  · cases x.timeout
    · exact ⟨rfl, .inr (.inl rfl), fun h => absurd h (by exact (by decide : stPOISONED ≠ stOK))⟩
    · exact ⟨rfl, .inr (.inr rfl), fun h => absurd h (by exact (by decide : stTIMEOUT ≠ stOK))⟩

/-- Command `c` of `s` has ended in `t`, its writes made inside the windows of its ring's tenant. -/
structure MoveEnded (s t : State) (r : Ring) (c : Cmd) (n : Nat) : Prop where
  entry : ∃ e : Entry, t.rings[r].waiting = s.rings[r].waiting ++ [e] ∧ e.tag = c.tag ∧ e.last = true
    ∧ (e.status = stOK ∨ e.status = stPOISONED ∨ e.status = stTIMEOUT) ∧ (e.status = stOK → e.d1 = BitVec.ofNat 32 n)
  outside : MemoryOk s → ∀ a, inWindows s (s.ringTenant r) a 1 = false → readByte t.st.mem a = readByte s.st.mem a
  vault : t.st.vault = s.st.vault
  images : t.st.images = s.st.images
  others : OtherRings s t r
  cairns : t.cairns = s.cairns
  wait : t.ma.xferWait = s.ma.xferWait
  pair : t.pair = s.pair

/-- What changes neither memory, rings nor the queue of the engines leaves a command ended. -/
theorem MoveEnded.keep {s t v : State} {c : Cmd} {n : Nat} (h : MoveEnded s t r c n) (st : v.st = t.st) (rings : v.rings = t.rings)
    (cairns : v.cairns = t.cairns) (wait : v.ma.xferWait = t.ma.xferWait) (pair : v.pair = t.pair) : MoveEnded s v r c n where
  entry := by rw [rings]; exact h.entry
  outside := by rw [st]; exact h.outside
  vault := by rw [st, h.vault]
  images := by rw [st, h.images]
  others q hq := by rw [rings, h.others q hq]
  cairns := cairns.trans h.cairns
  wait := wait.trans h.wait
  pair := pair.trans h.pair

theorem pushEntry_carried {s v : State} {c d : Cmd} {o : Outc} {m : Nat} (found : s.rings[r].find c.cid = some c) (trunc : c.trunc = none)
    (sound : c.badBeats = 0) (works : Works (s.ringTenant r) r c.cid s v) (there : v.rings[r].find c.cid = some d)
    (ends : Ends o m) : MoveEnded s (pushEntry r d o v) r c m := by
  obtain ⟨d', hd', task⟩ := works.task c found
  obtain rfl := Option.some.inj (there.symm.trans hd')
  have here : v.rings[r].find d.cid = some d := by rw [task.cid, there]
  have plain : o.status ≠ stDISCARDED := by
    rcases ends.status with h | h | h <;> (rw [h]; decide)
  obtain ⟨e, waiting, tag, status, -, d1, last⟩ := pushEntry_answers here (task.trunc.trans trunc) (task.badBeats.trans sound) plain ends.last
  have frame := works.frame
  refine ⟨⟨e, waiting.trans (by rw [works.waiting]), tag.trans task.tag, last, by rw [status]; exact ends.status, fun k => ?_⟩,
    fun ok a ha => ?_, ?_, ?_, fun q hq => (pushEntry_others r d o v q hq).trans (works.others q hq), ?_, ?_, ?_⟩
  · rw [d1, ends.d1 (status.symm.trans k)]
  · rw [pushEntry_st]
    exact works.outside ok a ha
  · rw [pushEntry_st]
    exact (congrArg (fun s => s.st.vault) frame :)
  · rw [pushEntry_st]
    exact (congrArg (fun s => s.st.images) frame :)
  · rw [pushEntry_cairns]
    exact (congrArg (fun s => s.cairns) frame :)
  · rw [pushEntry_ma]
    exact (congrArg (fun s => s.ma.xferWait) frame :)
  · rw [pushEntry_pair]
    exact (congrArg (fun s => s.pair) frame :)

/-- What sweeping the engines keeps where no transfer waits for one. -/
def sansEngines (s : State) : State := { s with ma := { s.ma with rowan := Vector.replicate 4 {} } }

theorem sweepEngines_kept {s : State} (wait : s.ma.xferWait = []) : sansEngines (sweepEngines s) = sansEngines s := by
  unfold sweepEngines
  extract_lets gone t
  have swept : sansEngines t = sansEngines s := by
    refine foldl_keeps sansEngines _ (fun v x => ?_) _ s
    refine foldl_keeps sansEngines _ (fun w j => ?_) _ v
    rcases j.own with _ | ⟨q, m⟩
    · rfl
    · dsimp only
      split <;> rfl
  have none : t.ma.xferWait = [] := ((congrArg (fun s => s.ma.xferWait) swept :) : t.ma.xferWait = s.ma.xferWait).trans wait
  rw [none]
  exact swept

/-- The engines swept, a command that has ended stays so. -/
theorem MoveEnded.sweep {s t : State} {c : Cmd} {n : Nat} (h : MoveEnded s t r c n) (wait : s.ma.xferWait = []) :
    MoveEnded s (sweepEngines t) r c n := by
  have kept := sweepEngines_kept (h.wait.trans wait)
  exact h.keep (congrArg (fun s => s.st) kept :) (congrArg (fun s => s.rings) kept :) (congrArg (fun s => s.cairns) kept :)
    (congrArg (fun s => s.ma.xferWait) kept :) (congrArg (fun s => s.pair) kept :)

/-- Writes to staging memory need no translation. -/
theorem withWrites_staging {m : MapSec} (staging : m.stagingBases.isSome = true) (k : Key) (bases : List Nat) (act : State → State)
    (s : State) : withWrites k (destHost m bases) act s = takeDenials k true (act s) := by
  unfold withWrites destHost
  rw [if_pos staging]
  rfl

end

end Sys2Proof.Proofs

/-! RESTORE and RESHARD of RESIDENT maps (R267 to R271, R12). -/

namespace Sys2Proof.Proofs

open Sys2Proof Sys2Proof.Machine Sys2Proof.Safety Sys2Proof.Laws

section
variable {u : Tenant} {r : Ring} {n : Nat} {s : State} {c d : Cmd}

/-- No lane listens, and ring `r` is tenant `u`'s. -/
def Unheard (u : Tenant) (r : Ring) (s : State) : Prop := (∀ l : Lane, s.ma.lanes[l].snoops = []) ∧ s.ringTenant r = u

theorem Works.unheard {t : State} (h : Works u r n s t) (k : Unheard u r s) : Unheard u r t :=
  ⟨h.deaf k.1, ((congrArg (fun s => s.ringTenant r) h.frame :) : t.ringTenant r = s.ringTenant r).trans k.2⟩

/-- A fold over what carries a state, seen by `g`. -/
theorem Works.foldlOf {α β : Type} (g : α → State) {f : α → β → α} (h : ∀ x b, Unheard u r (g x) → Works u r n (g x) (g (f x b)))
    (l : List β) (x : α) (unheard : Unheard u r (g x)) : Works u r n (g x) (g (l.foldl f x)) := by
  induction l generalizing x with
  | nil => exact .refl _
  | cons b l ih => exact (h x b unheard).trans (ih _ ((h x b unheard).unheard unheard))

/-- What a command of a unit kind that ends leaves of the state its engine found. -/
def Finishes (r : Ring) (s : State) (c : Cmd) (m : Nat) (t : State) : Prop :=
  ∃ v d o k, t = takeDenials k true (pushEntry r d o v) ∧ Works (s.ringTenant r) r c.cid s v ∧ v.rings[r].find c.cid = some d ∧ Ends o m

/-! ### RESTORE -/

/-- A chunk compared and scattered writes inside the windows alone. -/
theorem restoreChunk_works {m : MapSec} (staging : m.stagingBases.isSome = true) (e : Eng) (c : Cmd) (bases : List Nat)
    (secs : List Sec) (o : Opened) (ci : Nat) (acc : RestoreAcc × State) (unheard : Unheard u r acc.2) :
    Works u r n acc.2 (restoreChunk r e c m bases secs o ci acc).2 := by
  unfold restoreChunk
  dsimp only
  split
  · exact .refl _
  next cr _ =>
    dsimp only
    generalize readChunk o ci secs = x
    generalize scatterChunk _ _ _ _ _ _ _ _ = w
    have counted : Works u r n acc.2 (countRead x.out acc.2) := .of_mem rfl rfl rfl
    rw [rowanTap_none (counted.unheard unheard).1, staging]
    have wrote := writeElems_works (r := r) (n := n) ((countRead x.out acc.2).cmdKey r c) (dsize ((o.tensors[cr.tensor]?).getD {}).dtype)
      false w.2 acc.1.bad (countRead x.out acc.2)
    rw [show ((countRead x.out acc.2).cmdKey r c).tenant = u from unheard.2] at wrote
    exact counted.trans wrote

/-- The scatter of a RESTORE at hand ends its command. -/
theorem restoreRun_finishes {m : MapSec} {i : Image} {o : Opened} (e : Eng) (bases : List Nat) (unheard : ∀ l : Lane, s.ma.lanes[l].snoops = [])
    (staging : m.stagingBases.isSome = true) (thawed : s.st.frozen = []) (opens : openImage (restoreSecs s c i) = some o)
    (compat : imageCompatible o.tensors m = true) (closed : s.openOf m.id = none) (found : s.rings[r].find c.cid = some d) :
    Finishes r s c o.chunks.length (restoreRun r e c m i bases s) := by
  unfold restoreRun
  dsimp only
  rw [opens]
  dsimp only
  rw [compat, if_neg (by decide), tapFull_none unheard, if_neg Bool.false_ne_true, withWrites_staging staging, closed]
  dsimp only
  rw [copyPages_thawed thawed]
  dsimp only
  rw [snoopRun_none unheard, ite_self]
  have begun : Works (s.ringTenant r) r c.cid s (effectOf r c.cid (modCmd r c.cid (stopWaiting s.now) s)) :=
    (Works.modCmd (stopWaiting_sameTask s.now) s).trans (.modCmd (f := fun c => { c with effect := true }) (fun _ => ⟨rfl, rfl, rfl, rfl⟩) _)
  generalize effectOf r c.cid (modCmd r c.cid (stopWaiting s.now) s) = v at begun
  have moved := begun.trans (Works.foldlOf (·.2) (f := fun acc ci => restoreChunk r e c m bases (restoreSecs s c i) o ci acc)
    (fun acc ci => restoreChunk_works staging e c bases (restoreSecs s c i) o ci acc) (List.range o.chunks.length) ({}, v)
    (begun.unheard ⟨unheard, rfl⟩))
  generalize List.foldl _ _ _ = a at moved
  have counted : Works (s.ringTenant r) r c.cid s (countElems e a.1.n a.1.lost a.2) := moved.trans (.of_mem rfl rfl rfl)
  generalize countElems e a.1.n a.1.lost a.2 = t at counted
  obtain ⟨d', there, task⟩ := counted.task d found
  rw [there]
  cases a.1.first with
  | none => exact ⟨t, d', _, _, rfl, counted, there, outc_ends ..⟩
  | some off =>
    refine ⟨t, d', _, _, rfl, counted, there, rfl, ?_, fun h => ?_⟩
    · cases a.1.bad.timeout
      · exact .inr (.inl rfl)
      · exact .inr (.inr rfl)
    · revert h
      cases a.1.bad.timeout
      · exact fun h => absurd h (by exact (by decide : stPOISONED ≠ stOK))
      · exact fun h => absurd h (by exact (by decide : stTIMEOUT ≠ stOK))

/-- A command that finishes with its engine, tables and data at hand has ended. -/
theorem Finishes.ended {v t : State} {m : Nat} (h : Finishes r v d m t) (prepared : Prepared r c s v d) (found : s.rings[r].find c.cid = some c)
    (trunc : c.trunc = none) (sound : c.badBeats = 0) : MoveEnded s t r c m := by
  obtain ⟨w, b, o, k, rfl, works, there, ends⟩ := h
  have tenant : v.ringTenant r = s.ringTenant r := by
    obtain ⟨⟨rings, rowan, bad, rfl⟩, -⟩ := prepared
    rfl
  rw [tenant, prepared.task.cid] at works
  rw [prepared.task.cid] at there
  exact (pushEntry_carried found trunc sound ((prepared.works found).trans works) there ends).keep rfl rfl rfl rfl rfl

/-- With its program's crag serving and the engines idle a command of a unit kind goes on. -/
theorem holdForProg_none {k : Option ProgKind} (idle : EnginesIdle s) (serves : ∀ p ∈ k, s.progHeld r c.cid p = false) :
    holdForProg r c k s = none := by
  have free : s.rowanFree.isNone = false := by
    obtain ⟨e, he⟩ := Option.isSome_iff_exists.mp idle.2.2
    rw [he]
    rfl
  unfold holdForProg
  cases k with
  | none => rw [free, Bool.and_false, Bool.false_or, if_neg Bool.false_ne_true]
  | some p =>
    have still : (s.progHeld r c.cid p || ((s.engineOf r c.cid).isNone && s.rowanFree.isNone)) = false := by
      rw [serves p rfl, free, Bool.and_false, Bool.false_or]
    exact if_neg (ne_true_of_eq_false still)

theorem tableBad_nothing : tableBad [] = none := rfl

theorem slotBases_resident {m : MapSec} (staging : m.stagingBases.isSome = true) (l : List Nat) : slotBases m l = slotBases m [] := by
  obtain ⟨b, hb⟩ := Option.isSome_iff_exists.mp staging
  unfold slotBases
  rw [hb]
  rfl

/-- A RESTORE of a RESIDENT map from an image at hand ends. -/
theorem restoreAct_ended {m : MapSec} {i : Image} {o : Opened} (h : Pre.restore s r c m i o) :
    MoveEnded s (restoreAct r c s) r c o.chunks.length := by
  obtain ⟨⟨-, -, -, -, trunc, sound⟩, found, map, gate, staging, silent, thawed, idle, ⟨deaf, -⟩, check, source, serves, held, bases,
    opens, compat, closed⟩ := h
  have alone : (s.pair.peers.toList.any (fun p => p.xfers.any (fun x => x.owner == some (r, c.cid)))) = false := by
    rw [List.any_eq_false]
    intro p hp
    obtain ⟨e, he, rfl⟩ := Vector.mem_iff_getElem.mp (Vector.mem_toList_iff.mp hp)
    rw [show s.pair.peers[e].xfers = [] from silent ⟨e, he⟩]
    exact Bool.false_ne_true
  have resident : m.stagingBases.isNone = false := by
    obtain ⟨b, hb⟩ := Option.isSome_iff_exists.mp staging
    rw [hb]
    rfl
  unfold restoreAct
  rw [map, gate]
  dsimp only
  rw [alone, if_neg Bool.false_ne_true, check]
  dsimp only
  rw [serves, holdForProg_none idle fun p hp => by obtain rfl := Option.some.inj hp; exact held]
  dsimp only
  rw [resident]
  obtain ⟨e, t, run, begun⟩ := onEngine_idle idle found (wheelDesc (firstDesc m (slotBases m []))) (firstDesc m (slotBases m [])) _
  rw [run]
  generalize stopWaiting s.now c = d at begun
  obtain ⟨b, v, d', empty, read⟩ := gather_nothing begun.found begun.task
  have prepared := begun.trans read
  rw [if_neg Bool.false_ne_true, begun.task.cid, empty]
  dsimp only
  rw [if_neg (by decide), read.found]
  dsimp only
  rw [show planBeats d' [] = [] from rfl, slotBases_resident staging, tableBad_nothing, bases]
  dsimp only
  rw [begun.task.f, if_neg fun k => absurd k.1 (by omega)]
  have source : restoreSecs v d' i = restoreSecs s c i := by
    obtain ⟨⟨rings, rowan, bad, rfl⟩, -⟩ := prepared
    unfold restoreSecs
    rw [read.task.f]
    rfl
  have same : sansTask v = sansTask s := (prepared.works (u := 0) found).frame
  have here : v.rings[r].find d'.cid = some d' := by rw [read.task.cid, read.found]
  refine Finishes.ended (restoreRun_finishes e _ ((prepared.works (u := 0) found).deaf deaf) staging ?_ ?_ compat ?_ here) prepared found trunc sound
  · exact ((congrArg (fun s => s.st.frozen) same :) : v.st.frozen = s.st.frozen).trans thawed
  · rw [source, opens]
  · exact ((congrArg (fun s => s.openOf m.id) same :) : v.openOf m.id = s.openOf m.id).trans (Option.isNone_iff_eq_none.mp closed)

end

end Sys2Proof.Proofs

/-! RESHARD of RESIDENT maps, and both commands whole (R270, R271, R12). -/

namespace Sys2Proof.Proofs

open Sys2Proof Sys2Proof.Machine Sys2Proof.Safety Sys2Proof.Laws

section
variable {u : Tenant} {r : Ring} {n : Nat} {s : State} {c d : Cmd}

/-! ### RESHARD -/

/-- The staging reads of the source pieces change no byte. -/
theorem reshardData_works {a : MapSec} (staging : a.stagingBases.isSome = true) (k : Key) (reads : List (PieceSec × Nat × Nat))
    (gs : List (Nat × Got)) (s : State) (unheard : Unheard u r s) : Works u r n s (reshardData k a reads gs s).2.2 := by
  unfold reshardData
  rw [if_pos staging]
  exact Works.foldlOf (fun acc : List SourcePiece × Bad × State => acc.2.2) (fun acc x _ => stagingReads_works k _ acc.2.2) reads
    ([], {}, s) unheard

/-- A source piece cast and scattered writes inside the windows alone. -/
theorem reshardOne_works {b : MapSec} (staging : b.stagingBases.isSome = true) (e : Eng) (c : Cmd) (a : MapSec) (sb : List Nat)
    (p : SourcePiece) (acc : ReshardAcc × State) (unheard : Unheard u r acc.2) :
    Works u r n acc.2 (reshardOne r e c a b sb p acc).2 := by
  unfold reshardOne
  dsimp only
  generalize reshardElems a p.piece (beatBytes p.beats) _ _ p.off = elems
  generalize reshardPiece a b sb p.piece elems = w
  rw [rowanTap_none unheard.1, staging]
  have wrote := writeElems_works (r := r) (n := n) (acc.2.cmdKey r c) w.1 false w.2.2 acc.1.bad acc.2
  rwa [show (acc.2.cmdKey r c).tenant = u from unheard.2] at wrote

/-- RESHARD's writes, once its data are at hand, end its command. -/
theorem reshardWrite_finishes {a b : MapSec} (e : Eng) (sb : List Nat) (data : List SourcePiece) (bad : Bad)
    (unheard : ∀ l : Lane, s.ma.lanes[l].snoops = []) (staging : b.stagingBases.isSome = true)
    (thawed : s.st.frozen = []) (found : s.rings[r].find c.cid = some d) :
    Finishes r s c 0 (reshardWrite r e c a b sb data bad s) := by
  unfold reshardWrite
  rw [withWrites_staging staging, copyPages_thawed thawed]
  dsimp only
  have begun : Works (s.ringTenant r) r c.cid s (effectOf r c.cid (modCmd r c.cid (stopWaiting s.now) s)) :=
    (Works.modCmd (stopWaiting_sameTask s.now) s).trans (.modCmd (f := fun c => { c with effect := true }) (fun _ => ⟨rfl, rfl, rfl, rfl⟩) _)
  generalize effectOf r c.cid (modCmd r c.cid (stopWaiting s.now) s) = v at begun
  rw [snoopRun_none (begun.deaf unheard), ite_self]
  have moved := begun.trans (Works.foldlOf (·.2) (f := fun acc p => reshardOne r e c a b sb p acc)
    (fun acc p => reshardOne_works staging e c a sb p acc) data ({ bad := bad }, v) (begun.unheard ⟨unheard, rfl⟩))
  generalize List.foldl _ _ _ = x at moved
  have counted : Works (s.ringTenant r) r c.cid s (countElems e x.1.n x.1.lost x.2) := moved.trans (.of_mem rfl rfl rfl)
  generalize countElems e x.1.n x.1.lost x.2 = t at counted
  obtain ⟨d', there, task⟩ := counted.task d found
  rw [there]
  exact ⟨t, d', _, _, rfl, counted, there, outc_ends ..⟩

theorem isNone_resident {m : MapSec} (h : m.stagingBases.isSome = true) : m.stagingBases.isNone = false := by
  obtain ⟨b, hb⟩ := Option.isSome_iff_exists.mp h
  rw [hb]
  rfl

/-- RESHARD between RESIDENT maps gets its engine, reads no table, and moves. -/
theorem reshardAct_moves {a b : MapSec} (h : Pre.reshard s r c a b) : ∃ e t, Prepared r c s t c ∧
    reshardAct r c s = reshardMove r e c a b [] (slotBases a []) (slotBases b []) t := by
  obtain ⟨-, found, fresh, mapA, mapB, compat, source, staging, idle, -, plain, serves, -, -, -⟩ := h
  have same : stopWaiting s.now c = c := by
    unfold stopWaiting
    rw [fresh]
  obtain ⟨e, t, run, prepared⟩ := onEngine_idle idle found (firstDesc a (slotBases a [])) (firstDesc b (slotBases b [])) _
  rw [same] at run prepared
  refine ⟨e, t, prepared, ?_⟩
  unfold reshardAct
  rw [mapA, mapB]
  dsimp only
  rw [compat, isNone_resident source, isNone_resident staging, plain, if_neg Bool.false_ne_true, serves,
    holdForProg_none idle fun p hp => by cases hp]
  dsimp only
  rw [if_neg (by decide), if_neg (fun k => absurd k.1 (by decide)), if_neg (fun k => absurd k.1 (by decide)), run]
  have all : allGot c [] = true := rfl
  rw [if_neg Bool.false_ne_true, if_neg Bool.false_ne_true, List.append_nil, all, if_neg fun k => absurd k.1 (by decide), if_pos rfl,
    prepared.found]
  dsimp only
  rw [show planBeats c [] = [] from rfl, tableBad_nothing, slotBases_resident source, slotBases_resident staging]

/-- A prepared state reads as its start does where neither engines, refused translations nor commands count. -/
theorem Prepared.held {t : State} (h : Prepared r c s t d) (u : Tenant) (a b : MapSec) : reshardHeld t u a b = reshardHeld s u a b := by
  have waiting : ∀ q : Ring, t.rings[q].waiting = s.rings[q].waiting := fun q => by
    by_cases e : q = r
    · rw [e, h.waiting]
    · rw [h.others q e]
  have lists : t.rings.toList.map (·.waiting) = s.rings.toList.map (·.waiting) :=
    List.ext_getElem (by simp) fun i hi _ => by simpa using waiting ⟨i, by simpa using hi⟩
  have owes : ∀ (v : State) i, stagedOwed v i = (v.rings.toList.map (·.waiting)).any
      (fun l => l.any (fun e => e.cid == i.sealCid && e.opcode == 0x12 && e.stage == 1)) := fun _ _ => by
    rw [List.any_map]
    rfl
  have owed : ∀ i, stagedOwed t i = stagedOwed s i := fun i => by rw [owes, owes, lists]
  have st : t.st = s.st := by
    obtain ⟨⟨_, _, _, rfl⟩, -⟩ := h
    rfl
  have map : ∀ k, t.map? k = s.map? k := by
    obtain ⟨⟨_, _, _, rfl⟩, -⟩ := h
    exact fun _ => rfl
  unfold reshardHeld
  simp only [owed, st, map]

theorem reshardMove_checked {a b : MapSec} (h : Pre.reshard s r c a b) (e : Eng) (t : State) :
    reshardMove r e c a b [] (slotBases a []) (slotBases b []) t
      = if reshardHeld t (t.ringTenant r) a b then t
        else if tapFull t (tapsOf t r c) then delayCmd r c.cid 7 0 (countTapStall (tapsOf t r c) t)
        else
          let (ready, _, s1) := gather r c.cid [] t
          if ready = false then s1
          else match s1.rings[r].find c.cid with
            | none => s1
            | some c1 =>
              let (data, bad, s2) := reshardData (t.cmdKey r c) a (reshardReads a (slotBases a [])) (planBeats c1 []) s1
              reshardWrite r e c1 a b (slotBases b []) data bad s2 := by
  obtain ⟨-, -, -, -, -, -, source, -, -, -, -, -, apart, basesA, basesB⟩ := h
  unfold reshardMove
  rw [apart, if_neg Bool.false_ne_true, basesA, basesB, isNone_resident source]
  rfl

/-- A command that finishes from a state its reads led to finishes from the one before them. -/
theorem Finishes.after {v w t : State} {m : Nat} (works : Works (v.ringTenant r) r c.cid v w) (h : Finishes r w c m t) :
    Finishes r v c m t := by
  obtain ⟨x, b, o, k, rfl, moved, there, ends⟩ := h
  have tenant : w.ringTenant r = v.ringTenant r := (congrArg (fun s => s.ringTenant r) works.frame :)
  rw [tenant] at moved
  exact ⟨x, b, o, k, rfl, works.trans moved, there, ends⟩

/-- A RESHARD that no snapshot holds back ends. -/
theorem reshardMove_ended {a b : MapSec} (h : Pre.reshard s r c a b) {e : Eng} {t : State} (prepared : Prepared r c s t c)
    (free : reshardHeld s (s.ringTenant r) a b = false) (thawed : s.st.frozen = []) :
    MoveEnded s (reshardMove r e c a b [] (slotBases a []) (slotBases b []) t) r c 0 := by
  rw [reshardMove_checked h]
  obtain ⟨⟨-, -, -, -, trunc, sound⟩, found, -, -, -, -, source, staging, -, ⟨deaf, -⟩, -⟩ := h
  obtain ⟨b', v, d, empty, read⟩ := gather_nothing prepared.found (.refl c)
  have whole := prepared.trans read
  have kept := whole.works (u := s.ringTenant r) found
  have tenant : t.ringTenant r = s.ringTenant r := (congrArg (fun s => s.ringTenant r) (prepared.works (u := 0) found).frame :)
  rw [prepared.held, tenant, free, if_neg Bool.false_ne_true, tapFull_none ((prepared.works (u := 0) found).deaf deaf),
    if_neg Bool.false_ne_true, empty]
  dsimp only
  rw [if_neg (by decide), read.found]
  dsimp only
  have moved := reshardData_works (n := d.cid) source (t.cmdKey r c) (reshardReads a (slotBases a [])) (planBeats d []) v
    (kept.unheard ⟨deaf, rfl⟩)
  generalize reshardData (t.cmdKey r c) a (reshardReads a (slotBases a [])) (planBeats d []) v = w at moved
  obtain ⟨d', there, -⟩ := moved.task d (by rw [read.task.cid, read.found])
  have same : sansTask w.2.2 = sansTask s := moved.frame.trans kept.frame
  have thawed' : w.2.2.st.frozen = [] := Eq.trans (b := s.st.frozen) (congrArg (fun s => s.st.frozen) same :) thawed
  have unheard := (moved.unheard (kept.unheard ⟨deaf, rfl⟩)).1
  rw [(kept.unheard ⟨deaf, rfl⟩).2.symm] at moved
  exact ((reshardWrite_finishes e (slotBases b []) w.1 w.2.1 unheard staging thawed' there).after moved).ended whole found trunc sound

/-! ### Both commands -/

/-- No fetch waits where no transfer runs. -/
theorem settleFetches_none (silent : ∀ e : Peer, s.pair.peers[e].xfers = []) : settleFetches s = s := by
  refine foldl_still fun e _ => ?_
  rw [silent e]
  rfl

/-- Settles O41: RESTORE and RESHARD write inside the windows of their tenant, and a snapshot of the same state holds
RESHARD back. -/
theorem restoreAndReshardStayInWindows : Obligations.RestoreAndReshardStayInWindows := by
  refine ⟨fun s r c m i o h ok => ?_, fun s r c a b h thawed free ok => ?_, fun s r c a b h held => ?_⟩
  · have acted := restoreAct_ended h
    obtain ⟨started, -, -, -, -, silent, -, ⟨-, wait, -⟩, -⟩ := h
    have ended := acted.sweep wait
    have quietPeers : settleFetches (sweepEngines (restoreAct r c s)) = sweepEngines (restoreAct r c s) :=
      settleFetches_none fun e => by rw [ended.pair]; exact silent e
    have ex : exec (.restore r) s = .next (sweepEngines (restoreAct r c s)) :=
      congrArg Host.Outcome.next ((congrArg (fun s => settleFetches (sweepEngines s)) (headStep_started started)).trans quietPeers)
    obtain ⟨e, waiting, tag, last, status, d1⟩ := ended.entry
    exact ⟨_, e, ex, waiting, tag, last, status, d1, ended.outside ok, ended.vault, ended.images, ended.others, ended.cairns⟩
  · obtain ⟨e, t, prepared, run⟩ := reshardAct_moves h
    have ended := reshardMove_ended h prepared (e := e) free thawed
    rw [← run] at ended
    obtain ⟨started, -, -, -, -, -, -, -, ⟨-, wait, -⟩, -⟩ := h
    have swept := ended.sweep wait
    obtain ⟨e, waiting, tag, last, status, -⟩ := swept.entry
    exact ⟨_, e, congrArg (fun s => Host.Outcome.next (sweepEngines s)) (headStep_started started), waiting, tag, last, status,
      swept.outside ok, swept.vault, swept.images, swept.others, swept.cairns⟩
  · obtain ⟨e, t, prepared, run⟩ := reshardAct_moves h
    have tenant : t.ringTenant r = s.ringTenant r := by
      obtain ⟨⟨_, _, _, rfl⟩, -⟩ := prepared
      rfl
    rw [reshardMove_checked h, prepared.held, tenant, held, if_pos rfl] at run
    obtain ⟨started, -, -, -, -, -, -, -, ⟨-, wait, -⟩, -⟩ := h
    have kept : sansEngines (sweepEngines t) = sansEngines t := sweepEngines_kept (by
      obtain ⟨⟨_, _, _, rfl⟩, -⟩ := prepared
      exact wait)
    have rings : (sweepEngines t).rings = t.rings := (congrArg (fun s => s.rings) kept :)
    have ex : exec (.reshard r) s = .next (sweepEngines t) :=
      congrArg (fun s => Host.Outcome.next (sweepEngines s)) ((headStep_started started).trans run)
    refine ⟨_, ex, by rw [rings, prepared.found], by rw [rings, prepared.waiting], fun q hq => by rw [rings, prepared.others q hq], ?_, ?_⟩
    · refine Eq.trans (b := t.st) (congrArg (fun s => s.st) kept :) ?_
      obtain ⟨⟨_, _, _, rfl⟩, -⟩ := prepared
      rfl
    · refine Eq.trans (b := t.cairns) (congrArg (fun s => s.cairns) kept :) ?_
      obtain ⟨⟨_, _, _, rfl⟩, -⟩ := prepared
      rfl

end

end Sys2Proof.Proofs
